-- ==== Sys2Proof/Word.lean ====
section
/-! DEFINITION. The word types, the field and register descriptors, and the records that commands carry as operands. -/

namespace Sys2Proof

/-- A register word (R6). -/
abbrev Word := BitVec 32

/-- A byte. -/
abbrev Byte := BitVec 8

/-- A register field: the register's key, its lowest bit and its width in bits. -/
structure RF where
  a : Nat
  lo : Nat
  w : Nat
deriving DecidableEq, Repr

/-- A register's descriptor: base key, dimensions (count, stride), reset word, the masks of its RW, W1C, W1S and WO
fields, whether it is an RWC register (R7, R9), and the mask of all its fields: the other bits are reserved (R8). -/
structure RegDesc where
  base : Nat
  dims : List (Nat × Nat)
  reset : Nat
  rw : Nat
  w1c : Nat
  w1s : Nat
  wo : Nat
  rwc : Bool
  bits : Nat
deriving DecidableEq, Repr

/-- A complex sample with its overrange bit or taint (R4, R107, R108). -/
structure Sample where
  i : Int
  q : Int
  ovr : Bool
deriving DecidableEq, Repr

/-- A silent sample. -/
def Sample.zero : Sample := ⟨0, 0, false⟩

/-- Stream number 0-2047 (R33). -/
abbrev StreamId := Fin 2048
/-- Lane number 0-143 (R59). -/
abbrev LaneId := Fin 144
/-- Strainer slice 0-1023 (R12). -/
abbrev SliceId := Fin 1024
/-- Sieve bank 0-511 (R110). -/
abbrev BankId := Fin 512
/-- Combine group 0-255 (R40). -/
abbrev GroupId := Fin 256
/-- Loop slot 0-2047 (R176). -/
abbrev LoopId := Fin 2048
/-- Canceller slot 0-255 (R159). -/
abbrev CancId := Fin 256
/-- Tracker slot 0-255 (R125). -/
abbrev TrkId := Fin 256
/-- Comb 0-63 (R15). -/
abbrev CombId := Fin 64
/-- Worker 0-511, comb times 8 plus index (R15). -/
abbrev WorkerId := Fin 512
/-- Die code: B0 0, B1 1, S0 2, S1 3 (R15). -/
abbrev DieId := Fin 4
/-- Bridge 0-7 (R13). -/
abbrev BridgeId := Fin 8
/-- Set-point pin 0-3 (R187). -/
abbrev PinId := Fin 4
/-- Fan 0-3 (R351). -/
abbrev FanId := Fin 4
/-- Tenant 0-15 (R294). -/
abbrev TenantId := Fin 16
/-- Rygayth link 0-17 (R82). -/
abbrev LinkId := Fin 18
/-- Pending patch slot 0-3 (R281). -/
abbrev PatchId := Fin 4
/-- SMBus hive-class context (R398). -/
abbrev CtxId := Fin 8
/-- Maintenance handle (R390). -/
abbrev HandleId := Fin 16
/-- Barrier 0-63 (R245). -/
abbrev BarrierId := Fin 64

/-- Who makes an access (R10). -/
inductive Req where
  | pcie
  | smbus (j : CtxId)
  | jtag
deriving DecidableEq, Repr

/-- Where a command entry came from: the submission ring or a mailbox (R383, R402). -/
inductive Via where
  | queue
  | mailbox (j : CtxId)
deriving DecidableEq, Repr

/-- A submission entry without its opcode, which the command row implies (R382). `entry` is its index in the ring;
`resv` is the OR of the entry's reserved bits and words. -/
structure CmdEntry where
  via : Via
  entry : Fin 64
  irq : Bool
  queue : Bool
  timed : Bool
  tag : BitVec 16
  a0 : Word
  a1 : Word
  a2 : Word
  t : BitVec 64
  resv : Bool
deriving DecidableEq, Repr

/-- A write to one register word: the bytes that fall in it (R6). `bar2` names the BAR, `off` the byte offset of the word,
`size` how many of its four bytes are written. -/
structure RegWrite where
  req : Req
  bar2 : Bool
  off : Nat
  size : Fin 5
  value : Word
deriving DecidableEq, Repr

/-- A write of a requester to a BAR (R6): the bytes from byte offset `off` on; none stands for a byte that the request's byte
enables leave out. -/
structure HostWrite where
  req : Req
  bar2 : Bool
  off : Nat
  bytes : List (Option Byte)
deriving DecidableEq, Repr

/-- A read of a requester from a BAR (R6): which of the bytes from byte offset `off` on it addresses. -/
structure HostRead where
  req : Req
  bar2 : Bool
  off : Nat
  en : List Bool
deriving DecidableEq, Repr

/-- The memories of R30 and where an ECC error lies. -/
inductive EccOwner where
  | workerData (w : WorkerId)
  | kernelStore (w : WorkerId)
  | combMem (c : CombId)
  | store (d : Fin 2) (n : StreamId)
  | activeBank (s : SliceId) (h : Fin 2)
  | inactiveBank (s : SliceId) (h : Fin 2)
  | streamTable (n : StreamId)
  | sieveBank (b : BankId)
  | keeperSram (record : Nat)
deriving DecidableEq, Repr

/-- What a file's check by the queen found (R264 steps, R393): the verdicts of its cryptography and the header's fields,
as read from the boot flash. `secs` lists the types of its sections; `key` names the signing slot. -/
structure FileHdr where
  magicOk : Bool
  kind : Nat
  part : Nat
  revMin : Nat
  key : Fin 4
  version : Nat
  hiveId : Fin 16
  encrypted : Bool
  base : Nat
  hash : Nat
  sigOk : Bool
  unwrapOk : Bool
  digestsOk : Bool
  /-- Every section digest equals the running digest of the same section (R279). -/
  digestsRunning : Bool
  storeReads : Bool
  secs : List Nat
deriving DecidableEq, Repr

/-- One coefficient set (R99, R100, R149): N, form, disclosed group delay of a minimum-phase set in 1/16 tick, coefficients Q1.17;
and where the stream has a canceller, the ratio of this set's response to the old set's in each bin (real and imaginary part
in units of 2^-23). -/
structure CoefSet where
  n : Nat
  minph : Bool
  sym : Bool
  gd : Nat
  coefs : List Int
  corr : List (Int × Int)
deriving DecidableEq, Repr

/-- The empty coefficient set. -/
def CoefSet.none : CoefSet := ⟨0, false, false, 0, [], []⟩

/-- A patch kernel of section 0x0D (R223): version, the ROM kernel it supersedes (0 none), declared load, worker data, comb
memory and result region, latency and deadline in ticks, the bytes of its code and their SHA-384 digest. -/
structure KernDecl where
  ver : Nat
  sup : Nat
  load : Nat
  wd : Nat
  cm : Nat
  res : Nat
  lat : Nat
  deadline : Nat
  code : List Nat
  digest : Nat
deriving DecidableEq, Repr

/-- A JESD204C link of CONV lanes (R63): its lanes, converters M, resolution N, control bits CS, multiblocks per extended
multiblock E, and release buffer delay in frames. -/
structure ConvLink where
  lanes : List Nat
  m : Nat
  n : Nat
  cs : Nat
  e : Nat
  rbd : Nat
deriving DecidableEq, Repr

/-- A link of one converter on no lane. -/
def ConvLink.none : ConvLink := ⟨[], 1, 16, 0, 1, 0⟩

/-- A file's sections as the queen writes them (R261): register words, coefficient sets per slice half, channel maps
per lane (lane, map number, slots: 4096 idle), tenants' envelope words, the spare pairs, fallback maps, declared
propagation, eCPRI playout (lane x 4096 + channel, depth, samples per message), JESD204C links by number (R63), the ETH lanes
whose recovered clock GP12 and GP13 put out (R71), the halves whose new set
becomes active with the file (R101), the store addresses of gating delay lines by sieve bank (R167), the group sub-bands that
each sub-band of the tracker's stream overlaps, by gated group (R169), the taps of cancellers' shaping filters in units of 2^-17
(R145), loop slots that start closed and held, trackers
(slot, detection threshold, windows to acquire, to release, wakes combs), the workers of tracker slots, the permitted
range of each stream, words of kernels' parameter blocks (comb x 524,288 + byte offset in comb memory), patch kernels by
kernel ID, and the apiary map: its hives, those of the subtree below and including this one, and the tree links towards the
leaves. `frames`, `streams`, `hum` and `t` are the scope section of R266. -/
structure FileBody where
  words : List (Nat × Nat)
  banks : List (Nat × CoefSet)
  maps : List (Nat × List Nat)
  inband : List (Nat × List Nat)
  guards : List (Nat × List (List Nat))
  spares : List (Nat × Nat)
  links : List (Nat × List Nat)
  fallbacks : List (Nat × Nat)
  props : List (Nat × Nat)
  eth : List (Nat × Nat × Nat)
  convs : List (Nat × ConvLink)
  rclk : List (Nat × Nat)
  swaps : List Nat
  lines : List (Nat × Nat)
  gmaps : List (Nat × List (List Nat))
  shapes : List (Nat × List Int)
  initClosed : List Nat
  initHeld : List Nat
  trkParams : List (Nat × Nat × Nat × Nat × Bool)
  trkWorkers : List (Nat × Nat)
  ranges : List (Nat × Nat)
  kpar : List (Nat × Nat)
  kerns : List (Nat × KernDecl)
  apiaryMask : Nat
  subMask : Nat
  treeDown : List Nat
  frames : Nat
  streams : List Nat
  hum : Bool
  t : Nat
deriving DecidableEq, Repr

/-- The empty body. -/
def FileBody.empty : FileBody where
  words := []
  banks := []
  maps := []
  inband := []
  guards := []
  spares := []
  links := []
  fallbacks := []
  props := []
  eth := []
  convs := []
  rclk := []
  swaps := []
  lines := []
  gmaps := []
  shapes := []
  initClosed := []
  initHeld := []
  trkParams := []
  trkWorkers := []
  ranges := []
  kpar := []
  kerns := []
  apiaryMask := 0
  subMask := 0
  treeDown := []
  frames := 0
  streams := []
  hum := false
  t := 0

/-- A file in the boot flash: header and body (R259, R260). -/
structure TolFile where
  hdr : FileHdr
  body : FileBody
deriving DecidableEq, Repr

end Sys2Proof
end

