-- ==== Sys2Proof/Syntax.lean ====
section
/-! DEFINITION. The commands of the block: one constructor per row of the opcode table, in its order. -/

namespace Sys2Proof

/-- A command given to the block: a register access, a queue or SMBus command, an event at a pin or a lane, or an event
of one of the block's own units falling due. -/
inductive Instr where
  /-- REGISTER_WRITE (R7). -/
  | registerWrite (w : HostWrite)
  /-- LOW_WORD_READ (R10). -/
  | lowWordRead (r : HostRead)
  /-- HIGH_WORD_READ (R10). -/
  | highWordRead (r : HostRead)
  /-- WR_REFUSE_CLEAR (R11). -/
  | wrRefuseClear (w : RegWrite)
  /-- ECC_RECORD_CLEAR (R31). -/
  | eccRecordClear (w : RegWrite)
  /-- WIRE_GROUP_FAIL (R14). -/
  | wireGroupFail (b : BridgeId)
  /-- SPARE_WIRE_GROUP_SUBSTITUTE (R14). -/
  | spareWireGroupSubstitute (b : BridgeId)
  /-- BRIDGE_FAIL (R14). -/
  | bridgeFail (b : BridgeId)
  /-- BRIDGE_TRAFFIC_MOVED (R14). -/
  | bridgeTrafficMoved (b : BridgeId)
  /-- BROOD_DIE_FAULT (R18). -/
  | broodDieFault (d : Fin 2) (smokerLost : Bool)
  /-- SUPER_DIE_FAULT (R17). -/
  | superDieFault (d : Fin 2)
  /-- CORRECTABLE_ECC_ERROR (R28). -/
  | correctableEccError (o : EccOwner)
  /-- UNCORRECTABLE_ECC_ERROR (R30). -/
  | uncorrectableEccError (o : EccOwner) (word : Fin 2097152) (scrub : Bool) (bad : List WorkerId)
  /-- SCRUB_PASS_END (R29). -/
  | scrubPassEnd (unit : Fin 67)
  /-- SLEEP_SCRUB_WAKE (R29). -/
  | sleepScrubWake (c : CombId)
  /-- COMB_SLEEP_START (R227). -/
  | combSleepStart (c : CombId)
  /-- COMB_SLEEP_ENTERED (R227). -/
  | combSleepEntered (c : CombId)
  /-- COMB_WAKE_COMPLETE (R21). -/
  | combWakeComplete (c : CombId) (bad : List WorkerId)
  /-- EQ_DELAY_STEP (R46). -/
  | eqDelayStep (n : StreamId)
  /-- INGRESS_DELAY_STEP (R54). -/
  | ingressDelayStep (n : StreamId) (alt : Bool)
  /-- SWITCH (R56). -/
  | switch (c : CmdEntry)
  /-- SWITCH_AT_T (R56). -/
  | switchAtT (n : StreamId)
  /-- SW_LAST_CLEAR (R58). -/
  | swLastClear (w : RegWrite)
  /-- STORE_WIN_WRITE (R50). -/
  | storeWinWrite (w : RegWrite)
  /-- STORE_WINDOW_WRITE (R50). -/
  | storeWindowWrite (w : RegWrite)
  /-- LANE_SIGNAL_DETECT (R80). -/
  | laneSignalDetect (l : LaneId)
  /-- LANE_TRAINING_COMPLETE (R80). -/
  | laneTrainingComplete (l : LaneId)
  /-- LANE_TRAIN_TIMEOUT (R80). -/
  | laneTrainTimeout (l : LaneId)
  /-- LANE_LOSS_OF_SIGNAL (R80). -/
  | laneLossOfSignal (l : LaneId)
  /-- RLF_CODEWORD_RECEIVED (R81). -/
  | rlfCodewordReceived (l : LaneId) (payload : Nat) (uncorr : Bool) (symErr : Nat)
  /-- CONV_SYNC_HEADER_LOCK (R435). -/
  | convSyncHeaderLock (l : LaneId)
  /-- CONV_MULTIBLOCK_ALIGNED (R435). -/
  | convMultiblockAligned (l : LaneId)
  /-- CONV_SYNC_LOSS (R65). -/
  | convSyncLoss (l : LaneId)
  /-- CONV_CRC12_ERROR (R65). -/
  | convCrc12Error (l : LaneId)
  /-- SYSREF_EDGE (R63). -/
  | sysrefEdge
  /-- ETH_LOCK_ACQUIRED (R435). -/
  | ethLockAcquired (l : LaneId)
  /-- ETH_LOCK_LOSS (R435). -/
  | ethLockLoss (l : LaneId)
  /-- ECPRI_IQ_MESSAGE_RECEIVED (R68). -/
  | ecpriIqMessageReceived (l : LaneId) (pcid : Fin 65536) (seq : Fin 256) (samples : List (Int × Int))
  /-- ECPRI_RTC_MESSAGE_RECEIVED (R69). -/
  | ecpriRtcMessageReceived (l : LaneId) (frame : List Byte) (frac : Fin 65536)
  /-- PTP_FRAME_RECEIVED (R70). -/
  | ptpFrameReceived (l : LaneId) (frame : List Byte) (frac : Fin 65536)
  /-- ESMC_FRAME_RECEIVED (R66). -/
  | esmcFrameReceived (l : LaneId) (frame : List Byte) (frac : Fin 65536)
  /-- ETH_FRAME_DROPPED (R66). -/
  | ethFrameDropped (l : LaneId)
  /-- ECPRI_PLAYOUT_MISSING (R68). -/
  | ecpriPlayoutMissing (l : LaneId) (ch : Fin 4096)
  /-- ECPRI_CHANNEL_TIMEOUT (R68). -/
  | ecpriChannelTimeout (l : LaneId) (ch : Fin 4096)
  /-- ECPRI_MESSAGE_TRANSMIT (R68). -/
  | ecpriMessageTransmit (l : LaneId) (ch : Fin 4096)
  /-- DELAY_REQUEST_SEND (R79). -/
  | delayRequestSend (l : LaneId)
  /-- DLY_REQ_RECEIVED (R79). -/
  | dlyReqReceived (l : LaneId) (seq : Word)
  /-- DELAY_RESPONSE_RECEIVED (R79). -/
  | delayResponseReceived (l : LaneId) (seq : Word) (tTa : Word) (asym : Int)
  /-- DELAY_RESPONSE_TIMEOUT (R79). -/
  | delayResponseTimeout (l : LaneId)
  /-- MANAGEMENT_MESSAGE_RECEIVED (R78). -/
  | managementMessageReceived (l : LaneId) (msg : List Byte)
  /-- BER_WINDOW_END (R81). -/
  | berWindowEnd (l : LaneId)
  /-- CHANNEL_MAP_CHANGE (R76). -/
  | channelMapChange (l : LaneId)
  /-- SPARE_TAKEOVER (R86). -/
  | spareTakeover (l : LaneId)
  /-- LINK_FALLBACK_MAP (R87). -/
  | linkFallbackMap (k : LinkId)
  /-- LANE_RETRAIN (R85). -/
  | laneRetrain (c : CmdEntry)
  /-- RETRAIN_DEADLINE (R85). -/
  | retrainDeadline (l : LaneId)
  /-- LANE_EYE_SCAN (R88). -/
  | laneEyeScan (c : CmdEntry)
  /-- EYE_SCAN_COMPLETE (R88). -/
  | eyeScanComplete (l : LaneId) (width : Fin 65) (height : Fin 129)
  /-- STRAINER_SAMPLE (R91). -/
  | strainerSample (s : SliceId) (h : Fin 2) (x : Sample)
  /-- DC_SETTLE_END (R94). -/
  | dcSettleEnd (s : SliceId) (h : Fin 2)
  /-- TAINT_END (R108). -/
  | taintEnd (n : StreamId)
  /-- RS_PHASE_WRITE (R98). -/
  | rsPhaseWrite (w : RegWrite)
  /-- MA_LEN_WRITE (R105). -/
  | maLenWrite (w : RegWrite)
  /-- BANK_SWAP (R101). -/
  | bankSwap (c : CmdEntry)
  /-- BANK_SWAP_AT_T (R101). -/
  | bankSwapAtT (s : SliceId) (h : Fin 2)
  /-- GD_MEASUREMENT_COMPLETE (R104). -/
  | gdMeasurementComplete (s : SliceId) (h : Fin 2) (gd : Fin 16777216)
  /-- SIEVE_FILL_END (R114). -/
  | sieveFillEnd (b : BankId)
  /-- METER_TICK (R117). -/
  | meterTick (n : StreamId)
  /-- SPECTRAL_WINDOW_END (R124). -/
  | spectralWindowEnd (n : StreamId)
  /-- MTR_CTL_WRITE (R123). -/
  | mtrCtlWrite (w : RegWrite)
  /-- CTRK_WINDOW_UPDATE (R126). -/
  | ctrkWindowUpdate (t : TrkId)
  /-- CARRIER_RELEASE (R125). -/
  | carrierRelease (t : TrkId) (e : Fin 16)
  /-- NPM_HOLD_EXPIRY (R130). -/
  | npmHoldExpiry (n : StreamId) (k : Fin 10)
  /-- NPM_CLEAR_EXPIRY (R134). -/
  | npmClearExpiry (n : StreamId) (k : Fin 4)
  /-- NPM_CEILING_REMOVED (R134). -/
  | npmCeilingRemoved (n : StreamId)
  /-- NPM_LEARN_COMPLETE (R131). -/
  | npmLearnComplete (n : StreamId)
  /-- PROTECTION_RELEARN (R131). -/
  | protectionRelearn (c : CmdEntry)
  /-- FBC_BLOCK (R147). -/
  | fbcBlock (c : CancId)
  /-- FBC_PUBLICATION (R152). -/
  | fbcPublication (c : CancId)
  /-- FBC_CONVERGED (R151). -/
  | fbcConverged (c : CancId)
  /-- FBC_DETECTION (R154). -/
  | fbcDetection (c : CancId)
  /-- FBC_REACQUIRE_END (R155). -/
  | fbcReacquireEnd (c : CancId)
  /-- CANCELLER_REPROBE_SWEEP (R151). -/
  | cancellerReprobeSweep (c : CmdEntry)
  /-- TILE_END (R164). -/
  | tileEnd (g : GroupId)
  /-- UGT_DECISION (R166). -/
  | ugtDecision (g : GroupId)
  /-- UGT_DECISION_LATE (R170). -/
  | ugtDecisionLate (g : GroupId)
  /-- UGT_RELEARN (R168). -/
  | ugtRelearn (w : RegWrite)
  /-- UGT_LEARN_COMPLETE (R168). -/
  | ugtLearnComplete (g : GroupId) (i : Fin 64)
  /-- UGT_STUCK (R168). -/
  | ugtStuck (g : GroupId) (i : Fin 64) (k : Fin 512)
  /-- UGT_REPORT (R172). -/
  | ugtReport (g : GroupId)
  /-- LOOP_BOUNDARY (R186). -/
  | loopBoundary (n : StreamId)
  /-- LOOP_OPEN (R180). -/
  | loopOpen (w : RegWrite)
  /-- LOOP_CLOSE (R180). -/
  | loopClose (w : RegWrite)
  /-- LOOP_HOLD (R180). -/
  | loopHold (w : RegWrite)
  /-- LOOP_RELEASE (R180). -/
  | loopRelease (w : RegWrite)
  /-- KP_KI_WRITE (R192). -/
  | kpKiWrite (w : RegWrite)
  /-- SETP_WRITE (R190). -/
  | setpWrite (w : RegWrite)
  /-- GCE_LIMIT_WRITE (R190). -/
  | gceLimitWrite (w : RegWrite)
  /-- SLEW_WRITE (R190). -/
  | slewWrite (w : RegWrite)
  /-- SETP_RANGE_WRITE (R187). -/
  | setpRangeWrite (w : RegWrite)
  /-- LOOP_STALE (R181). -/
  | loopStale (s : LoopId)
  /-- PWM_PERIOD_COMPLETE (R187). -/
  | pwmPeriodComplete (p : PinId) (high : Nat) (period : Nat)
  /-- ANALOGUE_CONVERSION (R187). -/
  | analogueConversion (p : PinId) (code : Fin 4096)
  /-- SETP_PIN_LOSS (R188). -/
  | setpPinLoss (p : PinId)
  /-- SETP_PIN_RECOVERY (R188). -/
  | setpPinRecovery (p : PinId)
  /-- RAMP_DOWN_END (R200). -/
  | rampDownEnd (n : StreamId)
  /-- RAMP_UP_END (R200). -/
  | rampUpEnd (n : StreamId)
  /-- MUTE_N_ASSERT (R202). -/
  | muteNAssert
  /-- MUTE_N_RELEASE (R202). -/
  | muteNRelease
  /-- STREAM_START (R200). -/
  | streamStart (c : CmdEntry)
  /-- STREAM_STOP (R200). -/
  | streamStop (c : CmdEntry)
  /-- MUTE (R202). -/
  | mute (c : CmdEntry)
  /-- UNMUTE (R204). -/
  | unmute (c : CmdEntry)
  /-- TENANT_BAND_UNMUTE (R204). -/
  | tenantBandUnmute (c : CmdEntry)
  /-- SOURCE_UP_RAMP_UP (R200). -/
  | sourceUpRampUp (n : StreamId)
  /-- DEADLINE_WRITE (R199). -/
  | deadlineWrite (w : RegWrite)
  /-- KERNEL_DEADLINE_MISS (R222). -/
  | kernelDeadlineMiss (w : WorkerId) (bad : Bool)
  /-- KERNEL_FIRST_STEP_ON_TIME (R222). -/
  | kernelFirstStepOnTime (w : WorkerId)
  /-- START_MEASUREMENT (R221). -/
  | startMeasurement (w : RegWrite)
  /-- STOP_MEASUREMENT (R221). -/
  | stopMeasurement (w : RegWrite)
  /-- MOVE_TO_SPARE (R230). -/
  | moveToSpare (w : RegWrite)
  /-- PROBE_COMPLETE (R217). -/
  | probeComplete (w : WorkerId) (iso : Int) (lag : Fin 65536) (taps : Fin 32768) (snr : Int)
  /-- DLYCAL_COMPLETE (R218). -/
  | dlycalComplete (w : WorkerId) (delay : Fin 268435456) (peak : Int) (used : Fin 256) (clear : Bool)
  /-- SPECT_AVERAGE_COMPLETE (R219). -/
  | spectAverageComplete (w : WorkerId) (bins : List Int) (used : Word)
  /-- MSTAT_SAMPLE (R220). -/
  | mstatSample (w : WorkerId)
  /-- DMA_ACCESS_BLOCKED (R225). -/
  | dmaAccessBlocked (w : WorkerId) (bad : Bool)
  /-- SPARING_AT_T (R230). -/
  | sparingAtT (w : WorkerId)
  /-- SPARE_STATE_COPY_COMPLETE (R230). -/
  | spareStateCopyComplete (w : WorkerId) (copyOk : Bool) (spareOk : Bool)
  /-- WORKER_SPARE_BIST (R231). -/
  | workerSpareBist (c : CmdEntry)
  /-- SPARE_BIST_COMPLETE (R231). -/
  | spareBistComplete (c : CombId) (passed : Bool)
  /-- RESULT_WINDOW_WRITE (R226). -/
  | resultWindowWrite (w : RegWrite)
  /-- SLEEP_CTL_WRITE (R227). -/
  | sleepCtlWrite (w : RegWrite)
  /-- WATCH_WRITE (R227). -/
  | watchWrite (w : RegWrite)
  /-- GTC_LOAD_PPS (R236). -/
  | gtcLoadPps (w : RegWrite)
  /-- GTC_LOAD_NOW (R236). -/
  | gtcLoadNow (w : RegWrite)
  /-- GTC_LOAD_UPSTREAM (R236). -/
  | gtcLoadUpstream (w : RegWrite)
  /-- PPS_EDGE (R238). -/
  | ppsEdge (frac : Fin 16)
  /-- PPS_LOSS (R238). -/
  | ppsLoss
  /-- TOD_OFS_HI_WRITE (R237). -/
  | todOfsHiWrite (w : RegWrite)
  /-- PPS_OUT_RISE (R239). -/
  | ppsOutRise
  /-- PPS_OUT_FALL (R239). -/
  | ppsOutFall
  /-- TIME_MESSAGE_SEND (R241). -/
  | timeMessageSend (k : LinkId)
  /-- TIME_MESSAGE_RECEIVED (R242). -/
  | timeMessageReceived (k : LinkId) (ts : Nat) (frac : Fin 16) (hops : Fin 5) (flags : Fin 8) (valid : Bool)
  /-- TIME_HOLDOVER (R242). -/
  | timeHoldover
  /-- WAGGLE (R245). -/
  | waggle (c : CmdEntry)
  /-- WAGGLE_HOST_ARRIVE (R245). -/
  | waggleHostArrive (w : RegWrite)
  /-- WAGGLE_TOKEN_RECEIVED (R245). -/
  | waggleTokenReceived (b : BarrierId) (release : Bool) (hive : Fin 16)
  /-- WAGGLE_TIMEOUT (R246). -/
  | waggleTimeout (b : BarrierId)
  /-- BCAST_RECEIVED (R247). -/
  | bcastReceived (op : Byte) (arg : Byte) (tLow : Word)
  /-- SNAPSHOT (R251). -/
  | snapshot (c : CmdEntry)
  /-- SNAPSHOT_CAPTURE (R250). -/
  | snapshotCapture
  /-- FAULT_MESSAGE_RECEIVED (R248). -/
  | faultMessageReceived (k : LinkId) (origin : Fin 16) (cls : Fin 256) (cause : Fin 256) (level : Fin 6) (stamp : Nat)
  /-- RESET_WORKER (R253). -/
  | resetWorker (c : CmdEntry)
  /-- RESET_COMB (R253). -/
  | resetComb (c : CmdEntry)
  /-- RESET_FRAME (R253). -/
  | resetFrame (c : CmdEntry)
  /-- RESET_DIE (R253). -/
  | resetDie (c : CmdEntry)
  /-- RESET_BEGIN (R252). -/
  | resetBegin (level : Fin 4) (unit : Fin 512)
  /-- RESET_UNIT_RUNNING (R253). -/
  | resetUnitRunning (level : Fin 4) (unit : Fin 512) (bad : List WorkerId)
  /-- SYS_RST_N (R20). -/
  | sysRstN
  /-- POR_N (R20). -/
  | porN (slotsGood : Fin 16)
  /-- MAIN_RESET_RELEASE (R311). -/
  | mainResetRelease (pufOk : Bool) (keysOk : Fin 16)
  /-- IMAGE_VERIFY (R264). -/
  | imageVerify (slot : Fin 2) (f : TolFile)
  /-- IMAGE_LOAD_COMPLETE (R265). -/
  | imageLoadComplete (f : TolFile) (replay : List TolFile)
  /-- PATCH_LOAD (R270). -/
  | patchLoad (c : CmdEntry) (f : TolFile)
  /-- PATCH_READY (R270). -/
  | patchReady (p : PatchId)
  /-- PATCH_ACTIVATION (R271). -/
  | patchActivation (p : PatchId)
  /-- ACTIVATED_BIT_PROGRAMMED (R271). -/
  | activatedBitProgrammed (p : PatchId)
  /-- PATCH_CANCEL (R276). -/
  | patchCancel (c : CmdEntry)
  /-- REBASE (R279). -/
  | rebase (c : CmdEntry) (f : TolFile)
  /-- SPI_READ (R385). -/
  | spiRead (c : CmdEntry)
  /-- SPI_PROGRAM (R258). -/
  | spiProgram (c : CmdEntry)
  /-- SPI_ERASE (R258). -/
  | spiErase (c : CmdEntry)
  /-- PATCH_SLOT_FREE (R281). -/
  | patchSlotFree (w : RegWrite)
  /-- CHALLENGE (R291). -/
  | challenge (w : RegWrite)
  /-- CHALLENGE_EXPIRY (R291). -/
  | challengeExpiry
  /-- TOKEN_DEBUG_UNLOCK (R293). -/
  | tokenDebugUnlock (w : RegWrite) (sigOk : Bool)
  /-- TOKEN_ENTER_RMA (R289). -/
  | tokenEnterRma (w : RegWrite) (sigOk : Bool)
  /-- TOKEN_REVOKE_SLOT (R292). -/
  | tokenRevokeSlot (w : RegWrite) (sigOk : Bool)
  /-- TOKEN_ADD_SLOT (R288). -/
  | tokenAddSlot (w : RegWrite) (sigOk : Bool)
  /-- QUOTE (R305). -/
  | quote (w : RegWrite)
  /-- QUOTE_READY (R305). -/
  | quoteReady
  /-- PROVISION (R288). -/
  | provision (w : RegWrite)
  /-- DEPLOY (R288). -/
  | deploy (w : RegWrite)
  /-- ROLLBACK_COMMIT (R286). -/
  | rollbackCommit (w : RegWrite)
  /-- RMA_FROM_BLANK (R288). -/
  | rmaFromBlank (w : RegWrite)
  /-- FUSE_PROGRAM_COMPLETE (R282). -/
  | fuseProgramComplete
  /-- INTEGRITY_SCAN (R298). -/
  | integrityScan
  /-- ENVELOPE_COPY_RESTORE (R299). -/
  | envelopeCopyRestore (t : TenantId)
  /-- JOURNAL_APPEND (R300). -/
  | journalAppend
  /-- JOURNAL_RING_WRITE (R308). -/
  | journalRingWrite (w : RegWrite)
  /-- JTAG_EXTEST_SELECT (R407). -/
  | jtagExtestSelect
  /-- POWER_FAIL (R315). -/
  | powerFail
  /-- RAIL_POWER_FAIL_TRIGGER (R316). -/
  | railPowerFailTrigger (rail : Fin 8)
  /-- VDD_KEEP_LOSS (R313). -/
  | vddKeepLoss
  /-- VDD_KEEP_RETURN (R313). -/
  | vddKeepReturn
  /-- BACKUP_READY (R314). -/
  | backupReady
  /-- BACKUP_NOT_READY (R314). -/
  | backupNotReady
  /-- CAPACITY_CHECK (R320). -/
  | capacityCheck
  /-- BACKUP_CAPACITY_LEARN (R321). -/
  | backupCapacityLearn (c : CmdEntry)
  /-- BACKUP_LEARN_COMPLETE (R321). -/
  | backupLearnComplete
  /-- BACKUP_LEARN_TIMEOUT (R321). -/
  | backupLearnTimeout
  /-- REFERENCE_QUALIFIED (R324). -/
  | referenceQualified (b : Fin 2) (rate : Bool) (ofs : BitVec 16)
  /-- REFERENCE_DISQUALIFIED (R324). -/
  | referenceDisqualified (b : Fin 2) (ofs : BitVec 16)
  /-- REFERENCE_LOSS (R325). -/
  | referenceLoss
  /-- REFERENCE_REVERT (R326). -/
  | referenceRevert
  /-- REFERENCE_FORCE (R326). -/
  | referenceForce (w : RegWrite)
  /-- CRYSTAL_STOP (R323). -/
  | crystalStop
  /-- KEEPER_RUNG_DOWN (R328). -/
  | keeperRungDown
  /-- HOUSEKEEPING_ROUND_END (R333). -/
  | housekeepingRoundEnd (raw : List Int) (rail : List Bool) (tach : List Nat)
  /-- THROTTLE_GRACE_END (R343). -/
  | throttleGraceEnd
  /-- LADDER_STEP (R343). -/
  | ladderStep
  /-- SENSOR_SELF_TEST (R339). -/
  | sensorSelfTest (c : CmdEntry)
  /-- SELF_TEST_COMPLETE (R339). -/
  | selfTestComplete (fail : List Bool)
  /-- THRESHOLD_WRITE (R340). -/
  | thresholdWrite (w : RegWrite)
  /-- FAN_SPINUP_END (R345). -/
  | fanSpinupEnd (f : FanId) (pulse : Bool)
  /-- FAN_SPINUP_FAIL (R346). -/
  | fanSpinupFail (f : FanId)
  /-- FAN_RETRY (R346). -/
  | fanRetry (f : FanId)
  /-- FAN_PULSE_LOSS (R347). -/
  | fanPulseLoss (f : FanId)
  /-- FAN_TREND_COMPLETE (R347). -/
  | fanTrendComplete (f : FanId)
  /-- FAN_STALL_CLEAR (R348). -/
  | fanStallClear (f : FanId)
  /-- FAN_RESTART (R346). -/
  | fanRestart (w : RegWrite)
  /-- FAN_LEARN (R349). -/
  | fanLearn (c : CmdEntry)
  /-- FAN_LEARN_PHASE_END (R349). -/
  | fanLearnPhaseEnd (f : FanId)
  /-- FAN_SLOW (R349). -/
  | fanSlow (f : FanId)
  /-- FAULT_ACK (R356). -/
  | faultAck (w : RegWrite)
  /-- LOST_AGGREGATE_CLEAR (R357). -/
  | lostAggregateClear (w : RegWrite)
  /-- EVR_FLUSH_COMMAND (R366). -/
  | evrFlushCommand (w : RegWrite)
  /-- FLUSH_COMPLETE (R366). -/
  | flushComplete
  /-- RECORDER_MSTAT_COPY (R363). -/
  | recorderMstatCopy
  /-- USAGE_MILLISECOND (R369). -/
  | usageMillisecond
  /-- USAGE_INTERVAL_END (R370). -/
  | usageIntervalEnd (t : TenantId)
  /-- RATE_EPOCH (R371). -/
  | rateEpoch (c : CmdEntry)
  /-- RATE_EPOCH_AT_T (R371). -/
  | rateEpochAtT (t : TenantId)
  /-- USAGE_CONTROL_WRITE (R370). -/
  | usageControlWrite (w : RegWrite)
  /-- PCIE_LINK_DOWN (R379). -/
  | pcieLinkDown
  /-- PCIE_LINK_UP (R379). -/
  | pcieLinkUp (width : Fin 4) (rate : Fin 5)
  /-- PCIE_HOT_RESET (R379). -/
  | pcieHotReset
  /-- PCIE_MALFORMED_REQUEST (R379). -/
  | pcieMalformedRequest
  /-- SQ_TAIL_WRITE (R383). -/
  | sqTailWrite (w : RegWrite)
  /-- IRQ_MASK_WRITE (R380). -/
  | irqMaskWrite (w : RegWrite)
  /-- MAINTENANCE_ABORT (R392). -/
  | maintenanceAbort (c : CmdEntry)
  /-- MAINTENANCE_QUEUED_START (R391). -/
  | maintenanceQueuedStart (h : HandleId)
  /-- MGMT_SEND_RLF (R394). -/
  | mgmtSendRlf (c : CmdEntry)
  /-- MGMT_SEND_RYG (R394). -/
  | mgmtSendRyg (c : CmdEntry)
  /-- MGMT_SEND_ETH (R394). -/
  | mgmtSendEth (c : CmdEntry)
  /-- FIRMWARE_AB_SWITCH (R393). -/
  | firmwareAbSwitch (c : CmdEntry) (f : TolFile)
  /-- FIRMWARE_RESTART_END (R393). -/
  | firmwareRestartEnd (queen : Bool) (running : Bool)
  /-- HEALTH (R399). -/
  | health
  /-- FAULT_SUMMARY (R399). -/
  | faultSummary
  /-- POWER (R399). -/
  | power
  /-- QUOTE_NONCE (R399). -/
  | quoteNonce (bytes : List Byte) (pecOk : Bool)
  /-- QUOTE_PTR (R399). -/
  | quotePtr (off : Fin 65536) (pecOk : Bool)
  /-- QUOTE_DATA (R399). -/
  | quoteData
  /-- WAKE (R399). -/
  | wake (v : Byte) (pecOk : Bool)
  /-- KEEPER_STATUS (R399). -/
  | keeperStatus
  /-- ADDR (R401). -/
  | addr (j : CtxId) (bytes : List Byte) (pecOk : Bool)
  /-- DATA_READ (R401). -/
  | dataRead (j : CtxId) (k : Nat)
  /-- DATA_WRITE (R401). -/
  | dataWrite (j : CtxId) (bytes : List Byte) (pecOk : Bool)
  /-- WINDOW_STATUS (R401). -/
  | windowStatus (j : CtxId)
  /-- SUBMIT (R402). -/
  | submit (j : CtxId) (bytes : List Byte) (pecOk : Bool)
  /-- RESULT (R402). -/
  | result (j : CtxId)
  /-- ALERT_RESPONSE (R403). -/
  | alertResponse (won : Bool)
  /-- HIVE_CLASS_NACK (R400). -/
  | hiveClassNack
  /-- SCL_TIMEOUT (R404). -/
  | sclTimeout
  /-- SDA_STUCK (R404). -/
  | sdaStuck
  /-- HUM_EDGE (R360). -/
  | humEdge
  /-- KEEPER_HEARTBEAT_LOSS (R360). -/
  | keeperHeartbeatLoss
  /-- RECORDER_WINDOW_WRITE (R375). -/
  | recorderWindowWrite (w : RegWrite)
  /-- MSIX_UNMASK (R380). -/
  | msixUnmask (w : RegWrite)
  /-- RAIL_GOOD_CHANGE (R311). -/
  | railGoodChange (rail : Fin 8) (good : Bool)
  /-- KEEPER_SUPPLY_LOST (R309). -/
  | keeperSupplyLost
  /-- CRYSTAL_START (R323). -/
  | crystalStart
  /-- SDA_RELEASED (R404). -/
  | sdaReleased
deriving DecidableEq, Repr

end Sys2Proof
end

