-- ==== Sys2Proof/Machine/Flags.lean ====
section
/-! DEFINITION. The arithmetic of the hive: convergent rounding (R5), saturation (R4, R35), Q8.8 and dB conversions,
signed fields (R3), format B (R47), CRC checks, the ramp curves of R197 and sines. -/

namespace Sys2Proof.Machine

/-- `n / d` rounded to the nearest integer, halves to even (R5); `d` is not 0. -/
def roundEven (n : Int) (d : Nat) : Int :=
  let q := n / (d : Int)
  let r := n % (d : Int)
  if 2 * r < d then q else if 2 * r > d then q + 1 else if q % 2 = 0 then q else q + 1

/-- Convergent rounding of a quotient of naturals (R5). -/
def roundEvenN (n d : Nat) : Nat := (roundEven (n : Int) d).toNat

/-- Clamp to [-32,767, +32,767] (R4, R41). -/
def sat16 (v : Int) : Int := if v < -32767 then -32767 else if v > 32767 then 32767 else v

/-- True when `sat16` changes the value. -/
def satHit (v : Int) : Bool := decide (sat16 v ≠ v)

/-- A saturating counter of `w` bits incremented by `k`. -/
def satInc (w v k : Nat) : Nat := min (v + k) (2 ^ w - 1)

/-- The signed value of the `w` low bits of `v` (R3). -/
def sext (w v : Nat) : Int :=
  let x := v % 2 ^ w
  if x < 2 ^ (w - 1) then (x : Int) else (x : Int) - (2 ^ w : Nat)

/-- The two's-complement pattern of `v` in `w` bits (R3). -/
def twos (w : Nat) (v : Int) : Nat := (v % ((2 ^ w : Nat) : Int)).toNat

/-- A value clamped to the range of a signed field of `w` bits. -/
def clampS (w : Nat) (v : Int) : Int := max (-(2 ^ (w - 1) : Nat) : Int) (min v ((2 ^ (w - 1) : Nat) - 1 : Int))

/-- An RWC word: the value in [15:0] and its bitwise complement in [31:16] (R9). -/
def rwcWord (v : Nat) : Word := BitVec.ofNat 32 (v % 65536 + (65535 - v % 65536) * 65536)

/-- True when the upper half is the exact complement of the lower half (R9). -/
def rwcOk (w : Word) : Bool := decide (w.toNat % 65536 + w.toNat / 65536 = 65535)

/-- 10^(p / q) compared with n / d for the dB conversions: is (n / d)^q < 10^p, with p of either sign. -/
def powLt (n d q : Nat) (p : Int) : Bool :=
  if 0 ≤ p then decide (n ^ q < d ^ q * 10 ^ p.toNat) else decide (n ^ q * 10 ^ (-p).toNat < d ^ q)

/-- Binary search for the least value in [lo, lo + len) at which the monotone test holds, else lo + len. -/
def leastFrom (test : Int → Bool) (lo : Int) : Nat → Nat → Int
  | 0, _ => lo
  | _ + 1, 0 => lo
  | fuel + 1, len =>
    let half := len / 2
    if test (lo + half) then leastFrom test lo fuel half
    else leastFrom test (lo + half + 1) fuel (len - half - 1)

/-- round_even(256 x 10 log10(n / d)), a power ratio in dB as a Q8.8 number; an exact half cannot occur, because
10^((2v+1)/5120) is irrational. `none` when there is no power. Clamped to Q8.8. -/
def dbPower (n d : Nat) : Option Int :=
  if n = 0 ∨ d = 0 then none
  else some (leastFrom (fun v => powLt n d 5120 (2 * v + 1)) (-32768) 17 65535)

/-- round_even(c x 10^(v / (256 k))) for a Q8.8 level `v`: c scaled by a ratio in dB, k = 10 for powers and 20 for
amplitudes, bounded above by `top`. -/
def dbScale (c k top : Nat) (v : Int) : Nat :=
  (leastFrom (fun y =>
    if y < 0 then false
    else
      let n := 2 * y.toNat + 1
      let m := 2 * c
      if 0 ≤ v then decide (m ^ (256 * k) * 10 ^ v.toNat < n ^ (256 * k))
      else decide (m ^ (256 * k) < n ^ (256 * k) * 10 ^ (-v).toNat)) 0 64 top).toNat

/-- The scale of the fixed-point sines: 96 fraction bits. -/
def trigOne : Nat := 2 ^ 96

/-- pi at the scale of `trigOne`. -/
def trigPi : Nat := 248902613312231085230521944622

/-- The Taylor terms of the cosine: `t` is the running term at the scale of `trigOne`, `x2` the square of the angle. -/
def cosTerms (x2 : Int) : Nat → Nat → Int → Int → Int
  | 0, _, _, acc => acc
  | f + 1, k, t, acc =>
    let t' := -(t * x2 / (trigOne : Int)) / ((2 * k + 1) * (2 * k + 2) : Nat)
    cosTerms x2 f (k + 1) t' (acc + t')

/-- cos(pi n / l) at the scale of `trigOne`, for 0 ≤ n ≤ 2l, from the first quarter turn. -/
def cosPi (n l : Nat) : Int :=
  let n := if n > l then 2 * l - n else n
  if 2 * n = l then 0
  else if 2 * n < l then
    let x : Int := (trigPi * n / l : Nat)
    cosTerms (x * x / (trigOne : Int)) 30 0 (trigOne : Int) (trigOne : Int)
  else
    let x : Int := (trigPi * (l - n) / l : Nat)
    Neg.neg (cosTerms (x * x / (trigOne : Int)) 30 0 (trigOne : Int) (trigOne : Int))

/-- Full scale of the smoker multiplier (R197). -/
def msFull : Nat := 131072

/-- The natural logarithm of 10 at the scale of `trigOne`. -/
def trigLn10 : Nat := 182429585950654714090129938606

/-- The Taylor terms of exp(-x): `t` is the running term at the scale of `trigOne`. -/
def expTerms (x : Int) : Nat → Nat → Int → Int → Int
  | 0, _, _, acc => acc
  | f + 1, k, t, acc =>
    let t' := -(t * x / (trigOne : Int)) / ((k + 1 : Nat) : Int)
    expTerms x f (k + 1) t' (acc + t')

/-- A number at the scale of `trigOne` squared `k` times. -/
def sqTimes : Nat → Nat → Nat
  | 0, v => v
  | k + 1, v => sqTimes k (v * v / trigOne)

/-- 10^(-4 n / l) at the scale of `trigOne`: a Taylor sum at a sixteenth of the exponent, raised to the 16th power. -/
def tenTo (n l : Nat) : Nat :=
  sqTimes 4 (expTerms (trigLn10 * n / (4 * l) : Nat) 30 0 (trigOne : Int) (trigOne : Int)).toNat

/-- round_even(131,072 x 10^(-4 n / l)) (R197, linear in dB). -/
def rampDb (n l : Nat) : Nat := roundEvenN (msFull * tenTo n l) trigOne

/-- The ramp-down multiplier m_s[n] of a ramp over `l` samples (R197). -/
def rampDown (shape : Nat) (l n : Nat) : Nat :=
  if n ≥ l then 0
  else if shape = 1 then rampDb n l
  else roundEvenN (msFull * ((trigOne : Int) + cosPi n l).toNat) (2 * trigOne)

/-- The ramp-up multiplier m_s[n] of a ramp over `l` samples (R197). -/
def rampUp (shape : Nat) (l n : Nat) : Nat :=
  if n ≥ l then msFull
  else if n = 0 then 0
  else if shape = 1 then rampDb (l - n) l
  else roundEvenN (msFull * ((trigOne : Int) - cosPi n l).toNat) (2 * trigOne)

/-- The smallest position n' of a ramp down whose multiplier is at most `ms` (R201). -/
def rampFind (shape l ms : Nat) : Nat :=
  (leastFrom (fun n => decide (rampDown shape l n.toNat ≤ ms)) 0 26 l).toNat

/-- Format B: the exponent of a block, the smallest e from 0 to 4 that fits every component (R47). -/
def fmtBExp (cs : List Int) : Nat :=
  let fits := fun (e : Nat) => cs.all (fun c => decide ((roundEven c (2 ^ e)).natAbs ≤ 2047))
  if fits 0 then 0 else if fits 1 then 1 else if fits 2 then 2 else if fits 3 then 3 else 4

/-- Format B: a component's mantissa at exponent `e`, clamped to ±2,047 (R47). -/
def fmtBMant (e : Nat) (c : Int) : Int := max (-2047) (min 2047 (roundEven c (2 ^ e)))

/-- Format B: the 388-bit pattern of a block of 16 samples: exponent in [3:0], then I and Q mantissas of 12 bits (R47). -/
def fmtBPack (blk : List Sample) : Nat :=
  let e := fmtBExp (blk.flatMap (fun s => [s.i, s.q]))
  let put := fun (acc : Nat × Nat) (c : Int) => (acc.1 + twos 12 (fmtBMant e c) * 2 ^ acc.2, acc.2 + 12)
  ((blk.flatMap (fun s => [s.i, s.q])).foldl put (e, 4)).1

/-- Format B: a component decoded as m x 2^e (R47). -/
def fmtBVal (e : Nat) (m : Int) : Int := m * (2 ^ e : Nat)

/-- Format B: the samples of a 388-bit block (R47). -/
def fmtBUnpack (v : Nat) : List (Int × Int) :=
  let e := v % 16
  (List.range 16).map (fun j =>
    (fmtBVal e (sext 12 (v / 2 ^ (4 + 24 * j))), fmtBVal e (sext 12 (v / 2 ^ (16 + 24 * j)))))

/-- Bits `lo` to `lo + w - 1` of a number. -/
def bitsOf (v lo w : Nat) : Nat := v / 2 ^ lo % 2 ^ w

/-- Bit `i` of a number. -/
def bitOf (v i : Nat) : Bool := decide (v / 2 ^ i % 2 = 1)

/-- `v` with bit `i` set or cleared. -/
def setBit (v i : Nat) (b : Bool) : Nat := if bitOf v i = b then v else if b then v + 2 ^ i else v - 2 ^ i

/-- Number of bits set among the lowest `w`. -/
def popCount (v : Nat) : Nat → Nat
  | 0 => 0
  | w + 1 => (if bitOf v w then 1 else 0) + popCount v w

/-- The bits of a mask, as a rising list of indices below `w`. -/
def bitList (v w : Nat) : List Nat := (List.range w).filter (fun i => bitOf v i)

/-- Little-endian bytes of a number. -/
def leBytes (v : Nat) : Nat → List Nat
  | 0 => []
  | n + 1 => v % 256 :: leBytes (v / 256) n

/-- The number that little-endian bytes spell. -/
def leNat : List Nat → Nat
  | [] => 0
  | b :: bs => b % 256 + 256 * leNat bs

/-- A bitwise CRC, most significant bit first: width `w`, polynomial `p`, over bits. -/
def crcBits (w p : Nat) (init : Nat) (bits : List Bool) : Nat :=
  bits.foldl (fun c b =>
    let top := bitOf c (w - 1)
    let c2 := c * 2 % 2 ^ w
    if top != b then Nat.xor c2 p else c2) init

/-- A byte's bits, least significant first. -/
def byteBitsLsb (b : Nat) : List Bool := (List.range 8).map (fun i => bitOf b i)

/-- A reflected CRC-32 (IEEE 802.3) over bytes. -/
def crc32 (bytes : List Nat) : Nat :=
  let step := fun (c : Nat) (b : Nat) =>
    (List.range 8).foldl (fun c i =>
      let bit := bitOf c 0 != bitOf b i
      let c2 := c / 2
      if bit then Nat.xor c2 0xEDB88320 else c2) c
  Nat.xor (bytes.foldl step 0xFFFFFFFF) 0xFFFFFFFF

end Sys2Proof.Machine
end

