-- ==== Sys2Proof/Config.lean ====
section
/-! DEFINITION. What an implementation fixes and the values the spec leaves open: opaque constants without a body (free
values), and the constants of time. -/

namespace Sys2Proof.Config

/-- Free words, one for each count of the model's free-value counter (`State.free`): values the spec leaves open. -/
opaque freeWord : Nat → BitVec 32
/-- Free samples: what a kernel, a sieve bank or a resampler whose coefficients the spec does not give returns. -/
opaque freeSample : Nat → Int × Int
/-- The noise bias of |G_k|^2 in units of 2^-80 (R150), from the mean of |E_j(k)|^2 (sum in units of 2^-64, and its number of updates)
and the number of updates behind G_k: the spec names what it comes from and gives no formula. -/
opaque noiseBias : Nat → Nat → Nat → Nat
/-- SHA-384 over a byte string written as a list of numbers; the spec names the function and its standard. -/
opaque sha384 : List Nat → Nat
/-- An ECDSA P-384 signature of a digest by the identity key (R304): 96 bytes, as 24 words. -/
opaque sign : Nat → Nat → Word
/-- The 256-bit secret of the SRAM PUF, reconstructed with puf_helper (R283). -/
opaque pufSecret : Nat → Nat
/-- The helper data that an enrolment of the PUF gives, 1,024 bytes as a number (R282, R288). -/
opaque pufEnrol : Nat → Nat
/-- A public key word of the part (R283): identity key (0), from the secret alone, or wrap key (1), from the secret and wrap_seed. -/
opaque pubKey : Nat → Nat → Nat → Nat → Word
/-- The queen's random source (R291, R288). -/
opaque random : Nat → Word

/-- The capacity of the boot flash in bytes, which the board fits (R406). -/
opaque flashSize : Nat

/-- SCLK ticks in a second (R235). -/
def secTicks : Nat := 983040000
/-- SCLK ticks in a millisecond (R369). -/
def msTicks : Nat := 983040
/-- Lead of R25 in ticks at depth `h`: 2 us + 1.5 us times h, rounded up to whole ticks. -/
def leadTicks (h : Nat) : Nat := ((2000 + 1500 * h) * 98304 + 99999) / 100000

end Sys2Proof.Config
end

