-- ==== Sys2Proof/Machine/Regs.lean ====
section
/-! DEFINITION. The registers of BAR0 and BAR2: addresses, fields, reset values and access masks, from the
field tables of spec/ (R2 to R405) and the register index (R408 to R410). A BAR2 register has the key 0x1000_0000 + offset. -/

namespace Sys2Proof.Machine

/-- HIVE.IDENT (R2). -/
def R.hiveIdent : Nat := 0x0
def F.hiveIdent_rev : RF := ⟨R.hiveIdent, 0, 8⟩
def F.hiveIdent_grade : RF := ⟨R.hiveIdent, 12, 4⟩
def F.hiveIdent_part : RF := ⟨R.hiveIdent, 16, 16⟩
/-- HIVE.WR_REFUSE (R11). -/
def R.wrRefuse : Nat := 0x4
def F.wrRefuse_bar2 : RF := ⟨R.wrRefuse, 0, 1⟩
def F.wrRefuse_addr : RF := ⟨R.wrRefuse, 2, 24⟩
def F.wrRefuse_status : RF := ⟨R.wrRefuse, 26, 4⟩
def F.wrRefuse_overrun : RF := ⟨R.wrRefuse, 30, 1⟩
def F.wrRefuse_valid : RF := ⟨R.wrRefuse, 31, 1⟩
/-- HIVE.TOPO (R26). -/
def R.topo : Nat := 0x8
def F.topo_hive_id : RF := ⟨R.topo, 0, 4⟩
def F.topo_apiary_hives : RF := ⟨R.topo, 8, 5⟩
def F.topo_hop_depth : RF := ⟨R.topo, 16, 3⟩
def F.topo_root : RF := ⟨R.topo, 19, 1⟩
def F.topo_max_depth : RF := ⟨R.topo, 20, 3⟩
/-- HIVE.DIE_STATE (R26). -/
def R.dieState : Nat := 0xC
def F.dieState_b0 : RF := ⟨R.dieState, 0, 4⟩
def F.dieState_b1 : RF := ⟨R.dieState, 4, 4⟩
def F.dieState_s0 : RF := ⟨R.dieState, 8, 4⟩
def F.dieState_s1 : RF := ⟨R.dieState, 12, 4⟩
def F.dieState_bridge_up : RF := ⟨R.dieState, 16, 8⟩
/-- HIVE.FRAME_STATE (R26). -/
def R.frameState : Nat := 0x10
def F.frameState_frame : RF := ⟨R.frameState, 0, 16⟩
/-- HIVE.COMB_AWAKE_LO (R26). -/
def R.combAwakeLo : Nat := 0x14
def F.combAwakeLo_awake : RF := ⟨R.combAwakeLo, 0, 32⟩
/-- HIVE.COMB_AWAKE_HI (R26). -/
def R.combAwakeHi : Nat := 0x18
def F.combAwakeHi_awake : RF := ⟨R.combAwakeHi, 0, 32⟩
/-- HIVE.SCRUB_CTL (R31). -/
def R.scrubCtl : Nat := 0x1C
def F.scrubCtl_sleep_scrub_min : RF := ⟨R.scrubCtl, 0, 8⟩
/-- HIVE.SCRUB_STAT (R31). -/
def R.scrubStat : Nat := 0x20
def F.scrubStat_passes : RF := ⟨R.scrubStat, 0, 16⟩
/-- HIVE.ECC_CE (R31). -/
def R.eccCe : Nat := 0x24
def F.eccCe_count : RF := ⟨R.eccCe, 0, 32⟩
/-- HIVE.ECC_UE (R31). -/
def R.eccUe : Nat := 0x28
def F.eccUe_count : RF := ⟨R.eccUe, 0, 16⟩
/-- HIVE.ECC_LAST_WHERE (R31). -/
def R.eccLastWhere : Nat := 0x2C
def F.eccLastWhere_kind : RF := ⟨R.eccLastWhere, 0, 3⟩
def F.eccLastWhere_unit : RF := ⟨R.eccLastWhere, 3, 9⟩
def F.eccLastWhere_scrub : RF := ⟨R.eccLastWhere, 12, 1⟩
def F.eccLastWhere_valid : RF := ⟨R.eccLastWhere, 31, 1⟩
/-- HIVE.ECC_LAST_WORD (R31). -/
def R.eccLastWord : Nat := 0x30
def F.eccLastWord_word : RF := ⟨R.eccLastWord, 0, 21⟩
/-- stream table +0x00 (R36). -/
def R.steSrc (n : Nat) : Nat := 0x200000 + n * 0x40
def F.steSrc_kind (n : Nat) : RF := ⟨R.steSrc n, 0, 4⟩
def F.steSrc_a (n : Nat) : RF := ⟨R.steSrc n, 4, 8⟩
def F.steSrc_b (n : Nat) : RF := ⟨R.steSrc n, 12, 12⟩
/-- stream table +0x04 (R36). -/
def R.steAlt (n : Nat) : Nat := 0x200004 + n * 0x40
def F.steAlt_alt (n : Nat) : RF := ⟨R.steAlt n, 0, 24⟩
def F.steAlt_alt_verify (n : Nat) : RF := ⟨R.steAlt n, 24, 1⟩
/-- stream table +0x08 (R36). -/
def R.steSlice (n : Nat) : Nat := 0x200008 + n * 0x40
def F.steSlice_slice0 (n : Nat) : RF := ⟨R.steSlice n, 0, 10⟩
def F.steSlice_phase0 (n : Nat) : RF := ⟨R.steSlice n, 10, 1⟩
def F.steSlice_slice1 (n : Nat) : RF := ⟨R.steSlice n, 11, 10⟩
def F.steSlice_phase1 (n : Nat) : RF := ⟨R.steSlice n, 21, 1⟩
def F.steSlice_slice1_en (n : Nat) : RF := ⟨R.steSlice n, 22, 1⟩
def F.steSlice_src_rate (n : Nat) : RF := ⟨R.steSlice n, 23, 4⟩
def F.steSlice_dir (n : Nat) : RF := ⟨R.steSlice n, 27, 1⟩
/-- stream table dest (R36). -/
def R.steDest (n : Nat) (d : Nat) : Nat := 0x20000C + n * 0x40 + d * 0x4
def F.steDest_kind (n : Nat) (d : Nat) : RF := ⟨R.steDest n d, 0, 4⟩
def F.steDest_a (n : Nat) (d : Nat) : RF := ⟨R.steDest n d, 4, 8⟩
def F.steDest_b (n : Nat) (d : Nat) : RF := ⟨R.steDest n d, 12, 12⟩
/-- stream table +0x1C (R36). -/
def R.steDelay (n : Nat) : Nat := 0x20001C + n * 0x40
def F.steDelay_delay (n : Nat) : RF := ⟨R.steDelay n, 0, 23⟩
def F.steDelay_fmt (n : Nat) : RF := ⟨R.steDelay n, 23, 1⟩
def F.steDelay_eq_auto (n : Nat) : RF := ⟨R.steDelay n, 24, 1⟩
def F.steDelay_aset (n : Nat) : RF := ⟨R.steDelay n, 25, 7⟩
/-- stream table +0x20 (R36). -/
def R.steBufBase (n : Nat) : Nat := 0x200020 + n * 0x40
def F.steBufBase_buf_base (n : Nat) : RF := ⟨R.steBufBase n, 0, 22⟩
/-- stream table +0x24 (R36). -/
def R.steBufUnits (n : Nat) : Nat := 0x200024 + n * 0x40
def F.steBufUnits_buf_units (n : Nat) : RF := ⟨R.steBufUnits n, 0, 17⟩
/-- stream table +0x28 (R36). -/
def R.steInDly (n : Nat) : Nat := 0x200028 + n * 0x40
def F.steInDly_in_pri (n : Nat) : RF := ⟨R.steInDly n, 0, 12⟩
def F.steInDly_in_alt (n : Nat) : RF := ⟨R.steInDly n, 12, 12⟩
/-- stream table +0x2C (R36). -/
def R.steInBase (n : Nat) : Nat := 0x20002C + n * 0x40
def F.steInBase_in_base (n : Nat) : RF := ⟨R.steInBase n, 0, 22⟩
/-- stream table +0x30 (R36). -/
def R.steInMax (n : Nat) : Nat := 0x200030 + n * 0x40
def F.steInMax_in_max (n : Nat) : RF := ⟨R.steInMax n, 0, 12⟩
/-- stream table +0x34 (R36). -/
def R.steCfg (n : Nat) : Nat := 0x200034 + n * 0x40
def F.steCfg_tenant (n : Nat) : RF := ⟨R.steCfg n, 0, 4⟩
def F.steCfg_loop0 (n : Nat) : RF := ⟨R.steCfg n, 4, 11⟩
def F.steCfg_nloops (n : Nat) : RF := ⟨R.steCfg n, 15, 4⟩
def F.steCfg_fmap_row (n : Nat) : RF := ⟨R.steCfg n, 19, 8⟩
/-- stream table +0x38 (R36). -/
def R.steKern (n : Nat) : Nat := 0x200038 + n * 0x40
def F.steKern_kern_en (n : Nat) : RF := ⟨R.steKern n, 0, 1⟩
def F.steKern_kern_worker (n : Nat) : RF := ⟨R.steKern n, 1, 9⟩
/-- stream table +0x3C (R36). -/
def R.steValid (n : Nat) : Nat := 0x20003C + n * 0x40
def F.steValid_valid (n : Nat) : RF := ⟨R.steValid n, 0, 1⟩
/-- RTE.STATUS (R37). -/
def R.rteStatus (n : Nat) : Nat := 0x220000 + n * 0x4
def F.rteStatus_state (n : Nat) : RF := ⟨R.rteStatus n, 0, 3⟩
def F.rteStatus_ovr (n : Nat) : RF := ⟨R.rteStatus n, 3, 1⟩
def F.rteStatus_tainted (n : Nat) : RF := ⟨R.rteStatus n, 4, 1⟩
def F.rteStatus_active (n : Nat) : RF := ⟨R.rteStatus n, 5, 1⟩
def F.rteStatus_standby_ready (n : Nat) : RF := ⟨R.rteStatus n, 6, 1⟩
def F.rteStatus_eq_clamped (n : Nat) : RF := ⟨R.rteStatus n, 7, 1⟩
def F.rteStatus_resid (n : Nat) : RF := ⟨R.rteStatus n, 16, 8⟩
/-- RTE.FMAP. -/
def R.rteFmap (r : Nat) : Nat := 0x222000 + r * 0x4
def F.rteFmap_acts (r : Nat) : RF := ⟨R.rteFmap r, 0, 24⟩
/-- RTE.CG_CTL (R43). -/
def R.cgCtl (g : Nat) : Nat := 0x224000 + g * 0x10
def F.cgCtl_shift (g : Nat) : RF := ⟨R.cgCtl g, 0, 3⟩
def F.cgCtl_domain (g : Nat) : RF := ⟨R.cgCtl g, 3, 1⟩
def F.cgCtl_inputs (g : Nat) : RF := ⟨R.cgCtl g, 4, 7⟩
/-- RTE.CG_ACT_LO (R43). -/
def R.cgActLo (g : Nat) : Nat := 0x224004 + g * 0x10
def F.cgActLo_act (g : Nat) : RF := ⟨R.cgActLo g, 0, 32⟩
/-- RTE.CG_ACT_HI (R43). -/
def R.cgActHi (g : Nat) : Nat := 0x224008 + g * 0x10
def F.cgActHi_act (g : Nat) : RF := ⟨R.cgActHi g, 0, 32⟩
/-- RTE.CG_STAT (R43). -/
def R.cgStat (g : Nat) : Nat := 0x22400C + g * 0x10
def F.cgStat_sat (g : Nat) : RF := ⟨R.cgStat g, 0, 16⟩
/-- RTE.STORE_USE_B0/B1 (R51). -/
def R.storeUse (d : Nat) : Nat := 0x225000 + d * 0x4
def F.storeUse_bytes (d : Nat) : RF := ⟨R.storeUse d, 0, 25⟩
/-- RTE.STORE_WIN (R51). -/
def R.storeWin : Nat := 0x225008
def F.storeWin_rd_en : RF := ⟨R.storeWin, 0, 1⟩
/-- RTE.SW_LAST (R58). -/
def R.swLast : Nat := 0x22500C
def F.swLast_stream : RF := ⟨R.swLast, 0, 11⟩
def F.swLast_result : RF := ⟨R.swLast, 11, 3⟩
def F.swLast_auto : RF := ⟨R.swLast, 14, 1⟩
def F.swLast_valid : RF := ⟨R.swLast, 31, 1⟩
/-- RTE.EQ_CTL (R51). -/
def R.eqCtl : Nat := 0x225010
def F.eqCtl_interval : RF := ⟨R.eqCtl, 0, 8⟩
/-- LANE laneCtl (R89). -/
def R.laneCtl (n : Nat) : Nat := 0x100000 + n * 0x1000
def F.laneCtl_mode (n : Nat) : RF := ⟨R.laneCtl n, 0, 3⟩
def F.laneCtl_pam4 (n : Nat) : RF := ⟨R.laneCtl n, 3, 1⟩
def F.laneCtl_tx_pol (n : Nat) : RF := ⟨R.laneCtl n, 4, 1⟩
def F.laneCtl_rx_pol (n : Nat) : RF := ⟨R.laneCtl n, 5, 1⟩
def F.laneCtl_spare (n : Nat) : RF := ⟨R.laneCtl n, 6, 1⟩
def F.laneCtl_rate (n : Nat) : RF := ⟨R.laneCtl n, 8, 21⟩
/-- LANE laneStat (R89). -/
def R.laneStat (n : Nat) : Nat := 0x100004 + n * 0x1000
def F.laneStat_state (n : Nat) : RF := ⟨R.laneStat n, 0, 4⟩
def F.laneStat_rdi_rx (n : Nat) : RF := ⟨R.laneStat n, 4, 1⟩
def F.laneStat_map_id (n : Nat) : RF := ⟨R.laneStat n, 5, 2⟩
def F.laneStat_link_pos (n : Nat) : RF := ⟨R.laneStat n, 7, 3⟩
def F.laneStat_spare_active (n : Nat) : RF := ⟨R.laneStat n, 10, 1⟩
def F.laneStat_degraded (n : Nat) : RF := ⟨R.laneStat n, 11, 1⟩
def F.laneStat_retrains (n : Nat) : RF := ⟨R.laneStat n, 16, 8⟩
/-- LANE laneCwCorr (R89). -/
def R.laneCwCorr (n : Nat) : Nat := 0x100008 + n * 0x1000
def F.laneCwCorr_count (n : Nat) : RF := ⟨R.laneCwCorr n, 0, 32⟩
/-- LANE laneCwUncorr (R89). -/
def R.laneCwUncorr (n : Nat) : Nat := 0x10000C + n * 0x1000
def F.laneCwUncorr_count (n : Nat) : RF := ⟨R.laneCwUncorr n, 0, 32⟩
/-- LANE laneSymErr (R89). -/
def R.laneSymErr (n : Nat) : Nat := 0x100010 + n * 0x1000
def F.laneSymErr_count (n : Nat) : RF := ⟨R.laneSymErr n, 0, 32⟩
/-- LANE laneDlyUp (R89). -/
def R.laneDlyUp (n : Nat) : Nat := 0x100014 + n * 0x1000
def F.laneDlyUp_ticks (n : Nat) : RF := ⟨R.laneDlyUp n, 0, 24⟩
def F.laneDlyUp_valid (n : Nat) : RF := ⟨R.laneDlyUp n, 31, 1⟩
/-- LANE laneDlyDn (R89). -/
def R.laneDlyDn (n : Nat) : Nat := 0x100018 + n * 0x1000
def F.laneDlyDn_ticks (n : Nat) : RF := ⟨R.laneDlyDn n, 0, 24⟩
def F.laneDlyDn_valid (n : Nat) : RF := ⟨R.laneDlyDn n, 31, 1⟩
/-- LANE laneDlyCtl (R89). -/
def R.laneDlyCtl (n : Nat) : Nat := 0x10001C + n * 0x1000
def F.laneDlyCtl_interval (n : Nat) : RF := ⟨R.laneDlyCtl n, 0, 8⟩
/-- LANE laneBerCtl (R89). -/
def R.laneBerCtl (n : Nat) : Nat := 0x100020 + n * 0x1000
def F.laneBerCtl_threshold (n : Nat) : RF := ⟨R.laneBerCtl n, 0, 24⟩
/-- LANE laneDrop (R89). -/
def R.laneDrop (n : Nat) : Nat := 0x100024 + n * 0x1000
def F.laneDrop_missing (n : Nat) : RF := ⟨R.laneDrop n, 0, 16⟩
def F.laneDrop_late (n : Nat) : RF := ⟨R.laneDrop n, 16, 16⟩
/-- LANE laneEyeCtl (R89). -/
def R.laneEyeCtl (n : Nat) : Nat := 0x100028 + n * 0x1000
def F.laneEyeCtl_eye (n : Nat) : RF := ⟨R.laneEyeCtl n, 0, 2⟩
def F.laneEyeCtl_dwell (n : Nat) : RF := ⟨R.laneEyeCtl n, 2, 5⟩
def F.laneEyeCtl_busy (n : Nat) : RF := ⟨R.laneEyeCtl n, 8, 1⟩
def F.laneEyeCtl_done (n : Nat) : RF := ⟨R.laneEyeCtl n, 9, 1⟩
/-- LANE laneEyeRes (R89). -/
def R.laneEyeRes (n : Nat) : Nat := 0x10002C + n * 0x1000
def F.laneEyeRes_width (n : Nat) : RF := ⟨R.laneEyeRes n, 0, 7⟩
def F.laneEyeRes_height (n : Nat) : RF := ⟨R.laneEyeRes n, 8, 8⟩
/-- STR.CFG (R115). -/
def R.strCfg (s : Nat) : Nat := 0x300000 + s * 0x400
def F.strCfg_use (s : Nat) : RF := ⟨R.strCfg s, 0, 2⟩
def F.strCfg_stream0 (s : Nat) : RF := ⟨R.strCfg s, 2, 11⟩
def F.strCfg_stream1 (s : Nat) : RF := ⟨R.strCfg s, 13, 11⟩
def F.strCfg_casc0 (s : Nat) : RF := ⟨R.strCfg s, 24, 1⟩
def F.strCfg_casc1 (s : Nat) : RF := ⟨R.strCfg s, 25, 1⟩
/-- STR strDcCtl (R115). -/
def R.strDcCtl (s : Nat) (h : Nat) : Nat := 0x300100 + s * 0x400 + h * 0x100
def F.strDcCtl_m (s : Nat) (h : Nat) : RF := ⟨R.strDcCtl s h, 0, 5⟩
def F.strDcCtl_freeze (s : Nat) (h : Nat) : RF := ⟨R.strDcCtl s h, 5, 1⟩
def F.strDcCtl_frozen (s : Nat) (h : Nat) : RF := ⟨R.strDcCtl s h, 6, 1⟩
def F.strDcCtl_settle (s : Nat) (h : Nat) : RF := ⟨R.strDcCtl s h, 8, 16⟩
/-- STR strNcoFtw (R115). -/
def R.strNcoFtw (s : Nat) (h : Nat) : Nat := 0x300104 + s * 0x400 + h * 0x100
def F.strNcoFtw_ftw (s : Nat) (h : Nat) : RF := ⟨R.strNcoFtw s h, 0, 32⟩
/-- STR strRsCtl (R115). -/
def R.strRsCtl (s : Nat) (h : Nat) : Nat := 0x300108 + s * 0x400 + h * 0x100
def F.strRsCtl_j (s : Nat) (h : Nat) : RF := ⟨R.strRsCtl s h, 0, 3⟩
def F.strRsCtl_active (s : Nat) (h : Nat) : RF := ⟨R.strRsCtl s h, 3, 1⟩
def F.strRsCtl_trim (s : Nat) (h : Nat) : RF := ⟨R.strRsCtl s h, 4, 1⟩
/-- STR strRsStepLo (R115). -/
def R.strRsStepLo (s : Nat) (h : Nat) : Nat := 0x30010C + s * 0x400 + h * 0x100
def F.strRsStepLo_step (s : Nat) (h : Nat) : RF := ⟨R.strRsStepLo s h, 0, 32⟩
/-- STR strRsStepHi (R115). -/
def R.strRsStepHi (s : Nat) (h : Nat) : Nat := 0x300110 + s * 0x400 + h * 0x100
def F.strRsStepHi_step (s : Nat) (h : Nat) : RF := ⟨R.strRsStepHi s h, 0, 8⟩
/-- STR strRsPhase (R115). -/
def R.strRsPhase (s : Nat) (h : Nat) : Nat := 0x300114 + s * 0x400 + h * 0x100
def F.strRsPhase_phase (s : Nat) (h : Nat) : RF := ⟨R.strRsPhase s h, 0, 16⟩
/-- STR strFirCtl (R115). -/
def R.strFirCtl (s : Nat) (h : Nat) : Nat := 0x300118 + s * 0x400 + h * 0x100
def F.strFirCtl_taps (s : Nat) (h : Nat) : RF := ⟨R.strFirCtl s h, 0, 9⟩
def F.strFirCtl_minph (s : Nat) (h : Nat) : RF := ⟨R.strFirCtl s h, 9, 1⟩
def F.strFirCtl_sym (s : Nat) (h : Nat) : RF := ⟨R.strFirCtl s h, 10, 1⟩
def F.strFirCtl_bank (s : Nat) (h : Nat) : RF := ⟨R.strFirCtl s h, 11, 1⟩
def F.strFirCtl_a_valid (s : Nat) (h : Nat) : RF := ⟨R.strFirCtl s h, 12, 1⟩
def F.strFirCtl_b_valid (s : Nat) (h : Nat) : RF := ⟨R.strFirCtl s h, 13, 1⟩
def F.strFirCtl_swap_pend (s : Nat) (h : Nat) : RF := ⟨R.strFirCtl s h, 14, 1⟩
def F.strFirCtl_swap_last (s : Nat) (h : Nat) : RF := ⟨R.strFirCtl s h, 15, 3⟩
/-- STR strSwapTLo (R115). -/
def R.strSwapTLo (s : Nat) (h : Nat) : Nat := 0x30011C + s * 0x400 + h * 0x100
def F.strSwapTLo_t (s : Nat) (h : Nat) : RF := ⟨R.strSwapTLo s h, 0, 32⟩
/-- STR strSwapTHi (R115). -/
def R.strSwapTHi (s : Nat) (h : Nat) : Nat := 0x300120 + s * 0x400 + h * 0x100
def F.strSwapTHi_t (s : Nat) (h : Nat) : RF := ⟨R.strSwapTHi s h, 0, 32⟩
/-- STR strGd (R115). -/
def R.strGd (s : Nat) (h : Nat) : Nat := 0x300124 + s * 0x400 + h * 0x100
def F.strGd_gd (s : Nat) (h : Nat) : RF := ⟨R.strGd s h, 0, 24⟩
def F.strGd_valid (s : Nat) (h : Nat) : RF := ⟨R.strGd s h, 31, 1⟩
/-- STR strGdMeas (R115). -/
def R.strGdMeas (s : Nat) (h : Nat) : Nat := 0x300128 + s * 0x400 + h * 0x100
def F.strGdMeas_gd (s : Nat) (h : Nat) : RF := ⟨R.strGdMeas s h, 0, 24⟩
def F.strGdMeas_valid (s : Nat) (h : Nat) : RF := ⟨R.strGdMeas s h, 31, 1⟩
/-- STR strMaCtl (R115). -/
def R.strMaCtl (s : Nat) (h : Nat) : Nat := 0x30012C + s * 0x400 + h * 0x100
def F.strMaCtl_len (s : Nat) (h : Nat) : RF := ⟨R.strMaCtl s h, 0, 12⟩
/-- STR strGain (R115). -/
def R.strGain (s : Nat) (h : Nat) : Nat := 0x300130 + s * 0x400 + h * 0x100
def F.strGain_mult (s : Nat) (h : Nat) : RF := ⟨R.strGain s h, 0, 18⟩
/-- STR strSmoke (R115). -/
def R.strSmoke (s : Nat) (h : Nat) : Nat := 0x300134 + s * 0x400 + h * 0x100
def F.strSmoke_mult (s : Nat) (h : Nat) : RF := ⟨R.strSmoke s h, 0, 18⟩
/-- STR strTaint (R115). -/
def R.strTaint (s : Nat) (h : Nat) : Nat := 0x300138 + s * 0x400 + h * 0x100
def F.strTaint_len (s : Nat) (h : Nat) : RF := ⟨R.strTaint s h, 0, 16⟩
def F.strTaint_left (s : Nat) (h : Nat) : RF := ⟨R.strTaint s h, 16, 16⟩
/-- STR strOvrCnt (R115). -/
def R.strOvrCnt (s : Nat) (h : Nat) : Nat := 0x30013C + s * 0x400 + h * 0x100
def F.strOvrCnt_in_ovr (s : Nat) (h : Nat) : RF := ⟨R.strOvrCnt s h, 0, 16⟩
def F.strOvrCnt_sat (s : Nat) (h : Nat) : RF := ⟨R.strOvrCnt s h, 16, 16⟩
/-- SIV.CTL (R116). -/
def R.sivCtl (b : Nat) : Nat := 0x400000 + b * 0x20
def F.sivCtl_en (b : Nat) : RF := ⟨R.sivCtl b, 0, 1⟩
def F.sivCtl_mode (b : Nat) : RF := ⟨R.sivCtl b, 1, 1⟩
def F.sivCtl_rate (b : Nat) : RF := ⟨R.sivCtl b, 2, 3⟩
def F.sivCtl_group (b : Nat) : RF := ⟨R.sivCtl b, 5, 8⟩
def F.sivCtl_stream (b : Nat) : RF := ⟨R.sivCtl b, 13, 11⟩
def F.sivCtl_grouped (b : Nat) : RF := ⟨R.sivCtl b, 24, 1⟩
/-- SIV.STAT (R116). -/
def R.sivStat (b : Nat) : Nat := 0x400004 + b * 0x20
def F.sivStat_state (b : Nat) : RF := ⟨R.sivStat b, 0, 2⟩
def F.sivStat_restarts (b : Nat) : RF := ⟨R.sivStat b, 16, 16⟩
/-- MTR mtrCtl (R137). -/
def R.mtrCtl (n : Nat) : Nat := 0x480000 + n * 0x20
def F.mtrCtl_peak_k (n : Nat) : RF := ⟨R.mtrCtl n, 0, 5⟩
def F.mtrCtl_env_ka (n : Nat) : RF := ⟨R.mtrCtl n, 5, 5⟩
def F.mtrCtl_env_kd (n : Nat) : RF := ⟨R.mtrCtl n, 10, 5⟩
def F.mtrCtl_spec_w (n : Nat) : RF := ⟨R.mtrCtl n, 15, 4⟩
def F.mtrCtl_spec_bank (n : Nat) : RF := ⟨R.mtrCtl n, 19, 9⟩
def F.mtrCtl_spec_en (n : Nat) : RF := ⟨R.mtrCtl n, 28, 1⟩
/-- MTR mtrPeak (R137). -/
def R.mtrPeak (n : Nat) : Nat := 0x480004 + n * 0x20
def F.mtrPeak_level (n : Nat) : RF := ⟨R.mtrPeak n, 0, 16⟩
def F.mtrPeak_valid (n : Nat) : RF := ⟨R.mtrPeak n, 31, 1⟩
/-- MTR mtrRms (R137). -/
def R.mtrRms (n : Nat) : Nat := 0x480008 + n * 0x20
def F.mtrRms_level (n : Nat) : RF := ⟨R.mtrRms n, 0, 16⟩
def F.mtrRms_valid (n : Nat) : RF := ⟨R.mtrRms n, 31, 1⟩
/-- MTR mtrEnv (R137). -/
def R.mtrEnv (n : Nat) : Nat := 0x48000C + n * 0x20
def F.mtrEnv_level (n : Nat) : RF := ⟨R.mtrEnv n, 0, 16⟩
def F.mtrEnv_valid (n : Nat) : RF := ⟨R.mtrEnv n, 31, 1⟩
/-- MTR mtrOut (R137). -/
def R.mtrOut (n : Nat) : Nat := 0x480010 + n * 0x20
def F.mtrOut_level (n : Nat) : RF := ⟨R.mtrOut n, 0, 16⟩
def F.mtrOut_valid (n : Nat) : RF := ⟨R.mtrOut n, 31, 1⟩
/-- MTR mtrLine (R137). -/
def R.mtrLine (n : Nat) : Nat := 0x480014 + n * 0x20
def F.mtrLine_level (n : Nat) : RF := ⟨R.mtrLine n, 0, 16⟩
def F.mtrLine_valid (n : Nat) : RF := ⟨R.mtrLine n, 31, 1⟩
/-- MTR mtrGuard (R137). -/
def R.mtrGuard (n : Nat) : Nat := 0x480018 + n * 0x20
def F.mtrGuard_level (n : Nat) : RF := ⟨R.mtrGuard n, 0, 16⟩
def F.mtrGuard_band (n : Nat) : RF := ⟨R.mtrGuard n, 16, 3⟩
def F.mtrGuard_valid (n : Nat) : RF := ⟨R.mtrGuard n, 31, 1⟩
/-- MTR mtrExcess (R137). -/
def R.mtrExcess (n : Nat) : Nat := 0x48001C + n * 0x20
def F.mtrExcess_excess (n : Nat) : RF := ⟨R.mtrExcess n, 0, 16⟩
def F.mtrExcess_subband (n : Nat) : RF := ⟨R.mtrExcess n, 16, 9⟩
def F.mtrExcess_c (n : Nat) : RF := ⟨R.mtrExcess n, 25, 3⟩
def F.mtrExcess_valid (n : Nat) : RF := ⟨R.mtrExcess n, 31, 1⟩
/-- NPM npmCtl (R139). -/
def R.npmCtl (n : Nat) : Nat := 0x490000 + n * 0x20
def F.npmCtl_crit_en (n : Nat) : RF := ⟨R.npmCtl n, 0, 4⟩
def F.npmCtl_donor_grp (n : Nat) : RF := ⟨R.npmCtl n, 4, 8⟩
def F.npmCtl_donor (n : Nat) : RF := ⟨R.npmCtl n, 12, 1⟩
/-- NPM npmOscLim (R139). -/
def R.npmOscLim (n : Nat) : Nat := 0x490004 + n * 0x20
def F.npmOscLim_lim (n : Nat) : RF := ⟨R.npmOscLim n, 0, 32⟩
/-- NPM npmMarginLim (R139). -/
def R.npmMarginLim (n : Nat) : Nat := 0x490008 + n * 0x20
def F.npmMarginLim_lim (n : Nat) : RF := ⟨R.npmMarginLim n, 0, 32⟩
/-- NPM npmRiseLim (R139). -/
def R.npmRiseLim (n : Nat) : Nat := 0x49000C + n * 0x20
def F.npmRiseLim_lim (n : Nat) : RF := ⟨R.npmRiseLim n, 0, 32⟩
/-- NPM npmRefOfs (R139). -/
def R.npmRefOfs (n : Nat) : Nat := 0x490010 + n * 0x20
def F.npmRefOfs_ofs (n : Nat) : RF := ⟨R.npmRefOfs n, 0, 16⟩
/-- NPM npmFloor (R139). -/
def R.npmFloor (n : Nat) : Nat := 0x490014 + n * 0x20
def F.npmFloor_floor (n : Nat) : RF := ⟨R.npmFloor n, 0, 16⟩
def F.npmFloor_ref (n : Nat) : RF := ⟨R.npmFloor n, 16, 16⟩
/-- NPM npmStat (R139). -/
def R.npmStat (n : Nat) : Nat := 0x490018 + n * 0x20
def F.npmStat_crit (n : Nat) : RF := ⟨R.npmStat n, 0, 8⟩
def F.npmStat_learned (n : Nat) : RF := ⟨R.npmStat n, 8, 1⟩
def F.npmStat_learning (n : Nat) : RF := ⟨R.npmStat n, 9, 1⟩
def F.npmStat_ceiling (n : Nat) : RF := ⟨R.npmStat n, 16, 16⟩
/-- NPM npmCnt (R139). -/
def R.npmCnt (n : Nat) : Nat := 0x49001C + n * 0x20
def F.npmCnt_limits (n : Nat) : RF := ⟨R.npmCnt n, 0, 8⟩
def F.npmCnt_mutes (n : Nat) : RF := ⟨R.npmCnt n, 8, 8⟩
/-- NPM.TIMES (R139). -/
def R.npmTimes : Nat := 0x4A0000
def F.npmTimes_esc : RF := ⟨R.npmTimes, 0, 8⟩
def F.npmTimes_clear : RF := ⟨R.npmTimes, 8, 8⟩
def F.npmTimes_sil_win : RF := ⟨R.npmTimes, 16, 8⟩
def F.npmTimes_sil_n : RF := ⟨R.npmTimes, 24, 3⟩
/-- NPM.TIMES2 (R139). -/
def R.npmTimes2 : Nat := 0x4A0004
def F.npmTimes2_donor_ms : RF := ⟨R.npmTimes2, 0, 16⟩
def F.npmTimes2_rise_esc : RF := ⟨R.npmTimes2, 16, 8⟩
def F.npmTimes2_learn_s : RF := ⟨R.npmTimes2, 24, 8⟩
/-- NPM.BACKOFF (R139). -/
def R.npmBackoff : Nat := 0x4A0008
def F.npmBackoff_val : RF := ⟨R.npmBackoff, 0, 32⟩
/-- NPM.DONOR (R139). -/
def R.npmDonor : Nat := 0x4A000C
def F.npmDonor_val : RF := ⟨R.npmDonor, 0, 32⟩
/-- MTR.TRK_STAT (R138). -/
def R.trkStat (t : Nat) : Nat := 0x4B0000 + t * 0x100
def F.trkStat_stream (t : Nat) : RF := ⟨R.trkStat t, 0, 11⟩
def F.trkStat_tracked (t : Nat) : RF := ⟨R.trkStat t, 11, 5⟩
def F.trkStat_fold (t : Nat) : RF := ⟨R.trkStat t, 16, 1⟩
def F.trkStat_valid (t : Nat) : RF := ⟨R.trkStat t, 31, 1⟩
/-- MTR.TRK_RES (R138). -/
def R.trkRes (t : Nat) : Nat := 0x4B0004 + t * 0x100
def F.trkRes_power (t : Nat) : RF := ⟨R.trkRes t, 0, 16⟩
def F.trkRes_subbands (t : Nat) : RF := ⟨R.trkRes t, 16, 10⟩
/-- MTR.TRK_CAR (R138). -/
def R.trkCar (t : Nat) (i : Nat) : Nat := 0x4B0040 + t * 0x100 + i * 0x8
def F.trkCar_first (t : Nat) (i : Nat) : RF := ⟨R.trkCar t i, 0, 9⟩
def F.trkCar_width (t : Nat) (i : Nat) : RF := ⟨R.trkCar t i, 9, 9⟩
def F.trkCar_state (t : Nat) (i : Nat) : RF := ⟨R.trkCar t i, 18, 2⟩
/-- MTR.TRK_PWR (R138). -/
def R.trkPwr (t : Nat) (i : Nat) : Nat := 0x4B0044 + t * 0x100 + i * 0x8
def F.trkPwr_power (t : Nat) (i : Nat) : RF := ⟨R.trkPwr t i, 0, 16⟩
/-- FBC fbcCtl (R160). -/
def R.fbcCtl (c : Nat) : Nat := 0x4C0000 + c * 0x40
def F.fbcCtl_stream (c : Nat) : RF := ⟨R.fbcCtl c, 0, 11⟩
def F.fbcCtl_en (c : Nat) : RF := ⟨R.fbcCtl c, 11, 1⟩
def F.fbcCtl_blk (c : Nat) : RF := ⟨R.fbcCtl c, 12, 2⟩
def F.fbcCtl_parts (c : Nat) : RF := ⟨R.fbcCtl c, 14, 7⟩
def F.fbcCtl_nwk (c : Nat) : RF := ⟨R.fbcCtl c, 21, 3⟩
/-- FBC fbcBulk (R160). -/
def R.fbcBulk (c : Nat) : Nat := 0x4C0004 + c * 0x40
def F.fbcBulk_bulk (c : Nat) : RF := ⟨R.fbcBulk c, 0, 16⟩
def F.fbcBulk_worker0 (c : Nat) : RF := ⟨R.fbcBulk c, 16, 9⟩
/-- FBC fbcAdapt (R160). -/
def R.fbcAdapt (c : Nat) : Nat := 0x4C0008 + c * 0x40
def F.fbcAdapt_mu_exp (c : Nat) : RF := ⟨R.fbcAdapt c, 0, 5⟩
def F.fbcAdapt_boost (c : Nat) : RF := ⟨R.fbcAdapt c, 5, 3⟩
def F.fbcAdapt_freeze (c : Nat) : RF := ⟨R.fbcAdapt c, 8, 1⟩
def F.fbcAdapt_q (c : Nat) : RF := ⟨R.fbcAdapt c, 9, 3⟩
/-- FBC fbcProbe (R160). -/
def R.fbcProbe (c : Nat) : Nat := 0x4C000C + c * 0x40
def F.fbcProbe_seed (c : Nat) : RF := ⟨R.fbcProbe c, 0, 23⟩
def F.fbcProbe_d (c : Nat) : RF := ⟨R.fbcProbe c, 23, 5⟩
/-- FBC fbcDet (R160). -/
def R.fbcDet (c : Nat) : Nat := 0x4C0010 + c * 0x40
def F.fbcDet_w_det (c : Nat) : RF := ⟨R.fbcDet c, 0, 8⟩
def F.fbcDet_k_taps (c : Nat) : RF := ⟨R.fbcDet c, 8, 8⟩
/-- FBC fbcCollapse (R160). -/
def R.fbcCollapse (c : Nat) : Nat := 0x4C0014 + c * 0x40
def F.fbcCollapse_val (c : Nat) : RF := ⟨R.fbcCollapse c, 0, 32⟩
/-- FBC fbcIsoDesign (R160). -/
def R.fbcIsoDesign (c : Nat) : Nat := 0x4C0018 + c * 0x40
def F.fbcIsoDesign_val (c : Nat) : RF := ⟨R.fbcIsoDesign c, 0, 32⟩
/-- FBC fbcIso (R160). -/
def R.fbcIso (c : Nat) : Nat := 0x4C001C + c * 0x40
def F.fbcIso_value (c : Nat) : RF := ⟨R.fbcIso c, 0, 16⟩
def F.fbcIso_bin (c : Nat) : RF := ⟨R.fbcIso c, 16, 11⟩
def F.fbcIso_design (c : Nat) : RF := ⟨R.fbcIso c, 30, 1⟩
def F.fbcIso_valid (c : Nat) : RF := ⟨R.fbcIso c, 31, 1⟩
/-- FBC fbcDepth (R160). -/
def R.fbcDepth (c : Nat) : Nat := 0x4C0020 + c * 0x40
def F.fbcDepth_value (c : Nat) : RF := ⟨R.fbcDepth c, 0, 16⟩
def F.fbcDepth_bin (c : Nat) : RF := ⟨R.fbcDepth c, 16, 11⟩
def F.fbcDepth_design (c : Nat) : RF := ⟨R.fbcDepth c, 30, 1⟩
def F.fbcDepth_valid (c : Nat) : RF := ⟨R.fbcDepth c, 31, 1⟩
/-- FBC fbcMargin (R160). -/
def R.fbcMargin (c : Nat) : Nat := 0x4C0024 + c * 0x40
def F.fbcMargin_value (c : Nat) : RF := ⟨R.fbcMargin c, 0, 16⟩
def F.fbcMargin_bin (c : Nat) : RF := ⟨R.fbcMargin c, 16, 11⟩
def F.fbcMargin_design (c : Nat) : RF := ⟨R.fbcMargin c, 30, 1⟩
def F.fbcMargin_valid (c : Nat) : RF := ⟨R.fbcMargin c, 31, 1⟩
/-- FBC fbcDfast (R160). -/
def R.fbcDfast (c : Nat) : Nat := 0x4C0028 + c * 0x40
def F.fbcDfast_dfast (c : Nat) : RF := ⟨R.fbcDfast c, 0, 16⟩
def F.fbcDfast_dres (c : Nat) : RF := ⟨R.fbcDfast c, 16, 16⟩
/-- FBC fbcPir (R160). -/
def R.fbcPir (c : Nat) : Nat := 0x4C002C + c * 0x40
def F.fbcPir_pir (c : Nat) : RF := ⟨R.fbcPir c, 0, 16⟩
def F.fbcPir_nin (c : Nat) : RF := ⟨R.fbcPir c, 16, 16⟩
/-- FBC fbcStat (R160). -/
def R.fbcStat (c : Nat) : Nat := 0x4C0030 + c * 0x40
def F.fbcStat_state (c : Nat) : RF := ⟨R.fbcStat c, 0, 2⟩
def F.fbcStat_blind (c : Nat) : RF := ⟨R.fbcStat c, 2, 1⟩
def F.fbcStat_adapting (c : Nat) : RF := ⟨R.fbcStat c, 3, 1⟩
def F.fbcStat_collapses (c : Nat) : RF := ⟨R.fbcStat c, 16, 16⟩
/-- FBC fbcCeil (R160). -/
def R.fbcCeil (c : Nat) : Nat := 0x4C0034 + c * 0x40
def F.fbcCeil_ceiling (c : Nat) : RF := ⟨R.fbcCeil c, 0, 16⟩
/-- FBC fbcUpdLo (R160). -/
def R.fbcUpdLo (c : Nat) : Nat := 0x4C0038 + c * 0x40
def F.fbcUpdLo_updates (c : Nat) : RF := ⟨R.fbcUpdLo c, 0, 32⟩
/-- FBC fbcUpdHi (R160). -/
def R.fbcUpdHi (c : Nat) : Nat := 0x4C003C + c * 0x40
def F.fbcUpdHi_updates (c : Nat) : RF := ⟨R.fbcUpdHi c, 0, 32⟩
/-- UGT ugtCtl (R175). -/
def R.ugtCtl (g : Nat) : Nat := 0x4D0000 + g * 0x200
def F.ugtCtl_en (g : Nat) : RF := ⟨R.ugtCtl g, 0, 1⟩
def F.ugtCtl_worker (g : Nat) : RF := ⟨R.ugtCtl g, 1, 9⟩
def F.ugtCtl_trk_slot (g : Nat) : RF := ⟨R.ugtCtl g, 10, 8⟩
def F.ugtCtl_force_open (g : Nat) : RF := ⟨R.ugtCtl g, 18, 1⟩
/-- UGT ugtThr (R175). -/
def R.ugtThr (g : Nat) : Nat := 0x4D0004 + g * 0x200
def F.ugtThr_thr (g : Nat) : RF := ⟨R.ugtThr g, 0, 32⟩
/-- UGT ugtHang (R175). -/
def R.ugtHang (g : Nat) : Nat := 0x4D0008 + g * 0x200
def F.ugtHang_hang (g : Nat) : RF := ⟨R.ugtHang g, 0, 16⟩
/-- UGT ugtLearn (R175). -/
def R.ugtLearn (g : Nat) : Nat := 0x4D000C + g * 0x200
def F.ugtLearn_learn_t (g : Nat) : RF := ⟨R.ugtLearn g, 0, 16⟩
def F.ugtLearn_a_learn (g : Nat) : RF := ⟨R.ugtLearn g, 16, 4⟩
def F.ugtLearn_a_track (g : Nat) : RF := ⟨R.ugtLearn g, 20, 4⟩
def F.ugtLearn_stuck_s (g : Nat) : RF := ⟨R.ugtLearn g, 24, 8⟩
/-- UGT ugtReport (R175). -/
def R.ugtReport (g : Nat) : Nat := 0x4D0010 + g * 0x200
def F.ugtReport_saving (g : Nat) : RF := ⟨R.ugtReport g, 0, 16⟩
def F.ugtReport_allclosed (g : Nat) : RF := ⟨R.ugtReport g, 30, 1⟩
def F.ugtReport_valid (g : Nat) : RF := ⟨R.ugtReport g, 31, 1⟩
/-- UGT ugtActive (R175). -/
def R.ugtActive (g : Nat) : Nat := 0x4D0014 + g * 0x200
def F.ugtActive_active (g : Nat) : RF := ⟨R.ugtActive g, 0, 16⟩
def F.ugtActive_inband (g : Nat) : RF := ⟨R.ugtActive g, 16, 10⟩
/-- UGT ugtStat (R175). -/
def R.ugtStat (g : Nat) : Nat := 0x4D0018 + g * 0x200
def F.ugtStat_late (g : Nat) : RF := ⟨R.ugtStat g, 0, 16⟩
def F.ugtStat_fail_open (g : Nat) : RF := ⟨R.ugtStat g, 16, 1⟩
def F.ugtStat_trk_lost (g : Nat) : RF := ⟨R.ugtStat g, 17, 1⟩
/-- UGT ugtFloorSel (R175). -/
def R.ugtFloorSel (g : Nat) : Nat := 0x4D001C + g * 0x200
def F.ugtFloorSel_slot (g : Nat) : RF := ⟨R.ugtFloorSel g, 0, 6⟩
def F.ugtFloorSel_subband (g : Nat) : RF := ⟨R.ugtFloorSel g, 6, 9⟩
/-- UGT ugtFloorRd (R175). -/
def R.ugtFloorRd (g : Nat) : Nat := 0x4D0020 + g * 0x200
def F.ugtFloorRd_floor (g : Nat) : RF := ⟨R.ugtFloorRd g, 0, 16⟩
def F.ugtFloorRd_en (g : Nat) : RF := ⟨R.ugtFloorRd g, 16, 1⟩
def F.ugtFloorRd_why (g : Nat) : RF := ⟨R.ugtFloorRd g, 17, 3⟩
def F.ugtFloorRd_valid (g : Nat) : RF := ⟨R.ugtFloorRd g, 31, 1⟩
/-- UGT.IN (R175). -/
def R.ugtIn (g : Nat) (i : Nat) : Nat := 0x4D0100 + g * 0x200 + i * 0x4
def F.ugtIn_state (g : Nat) (i : Nat) : RF := ⟨R.ugtIn g i, 0, 2⟩
def F.ugtIn_relearn (g : Nat) (i : Nat) : RF := ⟨R.ugtIn g i, 2, 1⟩
def F.ugtIn_open_ (g : Nat) (i : Nat) : RF := ⟨R.ugtIn g i, 3, 10⟩
def F.ugtIn_stuck (g : Nat) (i : Nat) : RF := ⟨R.ugtIn g i, 13, 10⟩
/-- GCE gceLoopCfg (R194). -/
def R.gceLoopCfg (s : Nat) : Nat := 0x500000 + s * 0x20
def F.gceLoopCfg_type (s : Nat) : RF := ⟨R.gceLoopCfg s, 0, 3⟩
def F.gceLoopCfg_stream (s : Nat) : RF := ⟨R.gceLoopCfg s, 3, 11⟩
def F.gceLoopCfg_pin (s : Nat) : RF := ⟨R.gceLoopCfg s, 14, 2⟩
/-- GCE gceLoopState (R194). -/
def R.gceLoopState (s : Nat) : Nat := 0x500004 + s * 0x20
def F.gceLoopState_state (s : Nat) : RF := ⟨R.gceLoopState s, 0, 2⟩
def F.gceLoopState_winner (s : Nat) : RF := ⟨R.gceLoopState s, 2, 1⟩
def F.gceLoopState_committed (s : Nat) : RF := ⟨R.gceLoopState s, 3, 1⟩
def F.gceLoopState_stale (s : Nat) : RF := ⟨R.gceLoopState s, 4, 1⟩
def F.gceLoopState_capped (s : Nat) : RF := ⟨R.gceLoopState s, 5, 1⟩
def F.gceLoopState_dormant (s : Nat) : RF := ⟨R.gceLoopState s, 6, 1⟩
def F.gceLoopState_pend (s : Nat) : RF := ⟨R.gceLoopState s, 7, 1⟩
/-- GCE gceLoopCtl (R194). -/
def R.gceLoopCtl (s : Nat) : Nat := 0x500008 + s * 0x20
def F.gceLoopCtl_cmd (s : Nat) : RF := ⟨R.gceLoopCtl s, 0, 3⟩
/-- GCE gceKp (R194). -/
def R.gceKp (s : Nat) : Nat := 0x50000C + s * 0x20
def F.gceKp_k (s : Nat) : RF := ⟨R.gceKp s, 0, 16⟩
/-- GCE gceKi (R194). -/
def R.gceKi (s : Nat) : Nat := 0x500010 + s * 0x20
def F.gceKi_k (s : Nat) : RF := ⟨R.gceKi s, 0, 16⟩
/-- GCE gceSetp (R194). -/
def R.gceSetp (s : Nat) : Nat := 0x500014 + s * 0x20
def F.gceSetp_s (s : Nat) : RF := ⟨R.gceSetp s, 0, 32⟩
/-- GCE gceMeas (R194). -/
def R.gceMeas (s : Nat) : Nat := 0x500018 + s * 0x20
def F.gceMeas_m (s : Nat) : RF := ⟨R.gceMeas s, 0, 16⟩
def F.gceMeas_valid (s : Nat) : RF := ⟨R.gceMeas s, 31, 1⟩
/-- GCE gceOut (R194). -/
def R.gceOut (s : Nat) : Nat := 0x50001C + s * 0x20
def F.gceOut_u (s : Nat) : RF := ⟨R.gceOut s, 0, 16⟩
def F.gceOut_integ (s : Nat) : RF := ⟨R.gceOut s, 16, 16⟩
/-- GCE gceConCfg (R195). -/
def R.gceConCfg (n : Nat) : Nat := 0x510000 + n * 0x20
def F.gceConCfg_n (n : Nat) : RF := ⟨R.gceConCfg n, 0, 16⟩
/-- GCE gceSlewUp (R195). -/
def R.gceSlewUp (n : Nat) : Nat := 0x510004 + n * 0x20
def F.gceSlewUp_rate (n : Nat) : RF := ⟨R.gceSlewUp n, 0, 32⟩
/-- GCE gceSlewDn (R195). -/
def R.gceSlewDn (n : Nat) : Nat := 0x510008 + n * 0x20
def F.gceSlewDn_rate (n : Nat) : RF := ⟨R.gceSlewDn n, 0, 32⟩
/-- GCE gceLimHi (R195). -/
def R.gceLimHi (n : Nat) : Nat := 0x51000C + n * 0x20
def F.gceLimHi_lim (n : Nat) : RF := ⟨R.gceLimHi n, 0, 32⟩
/-- GCE gceLimLo (R195). -/
def R.gceLimLo (n : Nat) : Nat := 0x510010 + n * 0x20
def F.gceLimLo_lim (n : Nat) : RF := ⟨R.gceLimLo n, 0, 32⟩
/-- GCE gceG (R195). -/
def R.gceG (n : Nat) : Nat := 0x510014 + n * 0x20
def F.gceG_in_force (n : Nat) : RF := ⟨R.gceG n, 0, 16⟩
def F.gceG_pending (n : Nat) : RF := ⟨R.gceG n, 16, 16⟩
/-- GCE gceConStat (R195). -/
def R.gceConStat (n : Nat) : Nat := 0x510018 + n * 0x20
def F.gceConStat_winner (n : Nat) : RF := ⟨R.gceConStat n, 0, 3⟩
def F.gceConStat_clamp_hi (n : Nat) : RF := ⟨R.gceConStat n, 3, 1⟩
def F.gceConStat_clamp_lo (n : Nat) : RF := ⟨R.gceConStat n, 4, 1⟩
def F.gceConStat_slew_up (n : Nat) : RF := ⟨R.gceConStat n, 5, 1⟩
def F.gceConStat_slew_dn (n : Nat) : RF := ⟨R.gceConStat n, 6, 1⟩
def F.gceConStat_none (n : Nat) : RF := ⟨R.gceConStat n, 7, 1⟩
def F.gceConStat_stream_hold (n : Nat) : RF := ⟨R.gceConStat n, 8, 1⟩
def F.gceConStat_ceil_step (n : Nat) : RF := ⟨R.gceConStat n, 9, 1⟩
def F.gceConStat_hi (n : Nat) : RF := ⟨R.gceConStat n, 16, 16⟩
/-- GCE gceGExact (R195). -/
def R.gceGExact (n : Nat) : Nat := 0x51001C + n * 0x20
def F.gceGExact_g (n : Nat) : RF := ⟨R.gceGExact n, 0, 32⟩
/-- GCE gceSetpCtl (R196). -/
def R.gceSetpCtl (p : Nat) : Nat := 0x520000 + p * 0x10
def F.gceSetpCtl_en (p : Nat) : RF := ⟨R.gceSetpCtl p, 0, 1⟩
def F.gceSetpCtl_mode (p : Nat) : RF := ⟨R.gceSetpCtl p, 1, 1⟩
def F.gceSetpCtl_avg (p : Nat) : RF := ⟨R.gceSetpCtl p, 2, 4⟩
/-- GCE gceSetpLo (R196). -/
def R.gceSetpLo (p : Nat) : Nat := 0x520004 + p * 0x10
def F.gceSetpLo_val (p : Nat) : RF := ⟨R.gceSetpLo p, 0, 32⟩
/-- GCE gceSetpHi (R196). -/
def R.gceSetpHi (p : Nat) : Nat := 0x520008 + p * 0x10
def F.gceSetpHi_val (p : Nat) : RF := ⟨R.gceSetpHi p, 0, 32⟩
/-- GCE gceSetpVal (R196). -/
def R.gceSetpVal (p : Nat) : Nat := 0x52000C + p * 0x10
def F.gceSetpVal_value (p : Nat) : RF := ⟨R.gceSetpVal p, 0, 16⟩
def F.gceSetpVal_raw (p : Nat) : RF := ⟨R.gceSetpVal p, 16, 13⟩
def F.gceSetpVal_badper (p : Nat) : RF := ⟨R.gceSetpVal p, 29, 1⟩
def F.gceSetpVal_held (p : Nat) : RF := ⟨R.gceSetpVal p, 30, 1⟩
def F.gceSetpVal_valid (p : Nat) : RF := ⟨R.gceSetpVal p, 31, 1⟩
/-- SMK smkCfg (R207). -/
def R.smkCfg (n : Nat) : Nat := 0x580000 + n * 0x10
def F.smkCfg_shape (n : Nat) : RF := ⟨R.smkCfg n, 0, 2⟩
def F.smkCfg_len_down (n : Nat) : RF := ⟨R.smkCfg n, 2, 14⟩
def F.smkCfg_len_up (n : Nat) : RF := ⟨R.smkCfg n, 16, 14⟩
def F.smkCfg_pin_en (n : Nat) : RF := ⟨R.smkCfg n, 30, 1⟩
/-- SMK smkDeadline (R207). -/
def R.smkDeadline (n : Nat) : Nat := 0x580004 + n * 0x10
def F.smkDeadline_deadline (n : Nat) : RF := ⟨R.smkDeadline n, 0, 32⟩
/-- SMK smkCause (R207). -/
def R.smkCause (n : Nat) : Nat := 0x580008 + n * 0x10
def F.smkCause_active (n : Nat) : RF := ⟨R.smkCause n, 0, 10⟩
def F.smkCause_first (n : Nat) : RF := ⟨R.smkCause n, 16, 4⟩
/-- SMK smkStat (R207). -/
def R.smkStat (n : Nat) : Nat := 0x58000C + n * 0x10
def F.smkStat_pos (n : Nat) : RF := ⟨R.smkStat n, 0, 24⟩
def F.smkStat_ramp (n : Nat) : RF := ⟨R.smkStat n, 24, 2⟩
def F.smkStat_clipped (n : Nat) : RF := ⟨R.smkStat n, 26, 1⟩
/-- SMK.PF_RAMP (R208). -/
def R.smkPfRamp : Nat := 0x588000
def F.smkPfRamp_shape : RF := ⟨R.smkPfRamp, 0, 1⟩
def F.smkPfRamp_len : RF := ⟨R.smkPfRamp, 1, 10⟩
/-- SMK.PIN (R208). -/
def R.smkPin : Nat := 0x588004
def F.smkPin_mute_n : RF := ⟨R.smkPin, 0, 1⟩
def F.smkPin_pwr_fail_n : RF := ⟨R.smkPin, 1, 1⟩
def F.smkPin_muting : RF := ⟨R.smkPin, 16, 16⟩
/-- WRK.DESC0 (R212). -/
def R.wrkDesc0 (c : Nat) (k : Nat) : Nat := 0x602000 + c * 0x4000 + k * 0x400
def F.wrkDesc0_kid (c : Nat) (k : Nat) : RF := ⟨R.wrkDesc0 c k, 0, 8⟩
def F.wrkDesc0_src (c : Nat) (k : Nat) : RF := ⟨R.wrkDesc0 c k, 8, 1⟩
def F.wrkDesc0_gang (c : Nat) (k : Nat) : RF := ⟨R.wrkDesc0 c k, 9, 3⟩
def F.wrkDesc0_pos (c : Nat) (k : Nat) : RF := ⟨R.wrkDesc0 c k, 12, 3⟩
def F.wrkDesc0_spare_ok (c : Nat) (k : Nat) : RF := ⟨R.wrkDesc0 c k, 15, 1⟩
def F.wrkDesc0_ver (c : Nat) (k : Nat) : RF := ⟨R.wrkDesc0 c k, 16, 8⟩
def F.wrkDesc0_sleep_ok (c : Nat) (k : Nat) : RF := ⟨R.wrkDesc0 c k, 24, 1⟩
/-- WRK.DESC1 (R212). -/
def R.wrkDesc1 (c : Nat) (k : Nat) : Nat := 0x602004 + c * 0x4000 + k * 0x400
def F.wrkDesc1_inst (c : Nat) (k : Nat) : RF := ⟨R.wrkDesc1 c k, 0, 16⟩
def F.wrkDesc1_stream (c : Nat) (k : Nat) : RF := ⟨R.wrkDesc1 c k, 16, 11⟩
/-- WRK.DESC2 (R212). -/
def R.wrkDesc2 (c : Nat) (k : Nat) : Nat := 0x602008 + c * 0x4000 + k * 0x400
def F.wrkDesc2_par_base (c : Nat) (k : Nat) : RF := ⟨R.wrkDesc2 c k, 0, 19⟩
def F.wrkDesc2_par_len (c : Nat) (k : Nat) : RF := ⟨R.wrkDesc2 c k, 19, 12⟩
/-- WRK.DESC3 (R212). -/
def R.wrkDesc3 (c : Nat) (k : Nat) : Nat := 0x60200C + c * 0x4000 + k * 0x400
def F.wrkDesc3_cm_base (c : Nat) (k : Nat) : RF := ⟨R.wrkDesc3 c k, 0, 19⟩
/-- WRK.DESC4 (R212). -/
def R.wrkDesc4 (c : Nat) (k : Nat) : Nat := 0x602010 + c * 0x4000 + k * 0x400
def F.wrkDesc4_cm_len (c : Nat) (k : Nat) : RF := ⟨R.wrkDesc4 c k, 0, 20⟩
/-- WRK.DESC5 (R212). -/
def R.wrkDesc5 (c : Nat) (k : Nat) : Nat := 0x602014 + c * 0x4000 + k * 0x400
def F.wrkDesc5_wd_len (c : Nat) (k : Nat) : RF := ⟨R.wrkDesc5 c k, 0, 17⟩
/-- WRK.DESC6 (R212). -/
def R.wrkDesc6 (c : Nat) (k : Nat) : Nat := 0x602018 + c * 0x4000 + k * 0x400
def F.wrkDesc6_res_base (c : Nat) (k : Nat) : RF := ⟨R.wrkDesc6 c k, 0, 19⟩
def F.wrkDesc6_res_len (c : Nat) (k : Nat) : RF := ⟨R.wrkDesc6 c k, 19, 13⟩
/-- WRK.DESC7 (R212). -/
def R.wrkDesc7 (c : Nat) (k : Nat) : Nat := 0x60201C + c * 0x4000 + k * 0x400
def F.wrkDesc7_valid (c : Nat) (k : Nat) : RF := ⟨R.wrkDesc7 c k, 0, 1⟩
/-- WRK.STAT (R232). -/
def R.wrkStat (c : Nat) (k : Nat) : Nat := 0x602020 + c * 0x4000 + k * 0x400
def F.wrkStat_state (c : Nat) (k : Nat) : RF := ⟨R.wrkStat c k, 0, 3⟩
def F.wrkStat_cold (c : Nat) (k : Nat) : RF := ⟨R.wrkStat c k, 3, 1⟩
def F.wrkStat_misses (c : Nat) (k : Nat) : RF := ⟨R.wrkStat c k, 8, 8⟩
def F.wrkStat_restarts (c : Nat) (k : Nat) : RF := ⟨R.wrkStat c k, 16, 16⟩
/-- WRK.CTL (R232). -/
def R.wrkCtl (c : Nat) (k : Nat) : Nat := 0x602024 + c * 0x4000 + k * 0x400
def F.wrkCtl_cmd (c : Nat) (k : Nat) : RF := ⟨R.wrkCtl c k, 0, 3⟩
/-- WRK.RES (R232). -/
def R.wrkRes (c : Nat) (k : Nat) (i : Nat) : Nat := 0x602040 + c * 0x4000 + k * 0x400 + i * 0x4
def F.wrkRes_res (c : Nat) (k : Nat) (i : Nat) : RF := ⟨R.wrkRes c k i, 0, 32⟩
/-- WRK wrkCombStat (R233). -/
def R.wrkCombStat (c : Nat) : Nat := 0x600000 + c * 0x4000
def F.wrkCombStat_power (c : Nat) : RF := ⟨R.wrkCombStat c, 0, 2⟩
def F.wrkCombStat_spare (c : Nat) : RF := ⟨R.wrkCombStat c, 2, 1⟩
def F.wrkCombStat_spare_idx (c : Nat) : RF := ⟨R.wrkCombStat c, 3, 3⟩
def F.wrkCombStat_spare_used (c : Nat) : RF := ⟨R.wrkCombStat c, 6, 1⟩
def F.wrkCombStat_spare_bad (c : Nat) : RF := ⟨R.wrkCombStat c, 7, 1⟩
def F.wrkCombStat_failed (c : Nat) : RF := ⟨R.wrkCombStat c, 8, 8⟩
def F.wrkCombStat_sleeps (c : Nat) : RF := ⟨R.wrkCombStat c, 16, 16⟩
/-- WRK wrkSleepCtl (R233). -/
def R.wrkSleepCtl (c : Nat) : Nat := 0x600004 + c * 0x4000
def F.wrkSleepCtl_mode (c : Nat) : RF := ⟨R.wrkSleepCtl c, 0, 2⟩
def F.wrkSleepCtl_idle_ms (c : Nat) : RF := ⟨R.wrkSleepCtl c, 2, 16⟩
def F.wrkSleepCtl_watch_en (c : Nat) : RF := ⟨R.wrkSleepCtl c, 18, 4⟩
/-- WRK wrkWatch. -/
def R.wrkWatch (c : Nat) : Nat := 0x600008 + c * 0x4000
def F.wrkWatch_slots (c : Nat) : RF := ⟨R.wrkWatch c, 0, 32⟩
/-- WRK wrkCmWin (R233). -/
def R.wrkCmWin (c : Nat) : Nat := 0x60000C + c * 0x4000
def F.wrkCmWin_page (c : Nat) : RF := ⟨R.wrkCmWin c, 0, 7⟩
/-- WRK wrkDmaStat (R233). -/
def R.wrkDmaStat (c : Nat) : Nat := 0x600010 + c * 0x4000
def F.wrkDmaStat_blocked (c : Nat) : RF := ⟨R.wrkDmaStat c, 0, 16⟩
def F.wrkDmaStat_max_wait (c : Nat) : RF := ⟨R.wrkDmaStat c, 16, 16⟩
/-- TIM.GTC_LO (R255). -/
def R.timGtcLo : Nat := 0x700000
def F.timGtcLo_gtc : RF := ⟨R.timGtcLo, 0, 32⟩
/-- TIM.GTC_HI (R255). -/
def R.timGtcHi : Nat := 0x700004
def F.timGtcHi_gtc : RF := ⟨R.timGtcHi, 0, 32⟩
/-- TIM.CTL (R255). -/
def R.timCtl : Nat := 0x700008
def F.timCtl_src : RF := ⟨R.timCtl, 0, 2⟩
def F.timCtl_up_link : RF := ⟨R.timCtl, 2, 5⟩
def F.timCtl_rclk : RF := ⟨R.timCtl, 7, 1⟩
def F.timCtl_tol : RF := ⟨R.timCtl, 8, 5⟩
def F.timCtl_pps_out : RF := ⟨R.timCtl, 13, 1⟩
/-- TIM.STAT (R255). -/
def R.timStat : Nat := 0x70000C
def F.timStat_state : RF := ⟨R.timStat, 0, 3⟩
def F.timStat_pps_ok : RF := ⟨R.timStat, 3, 1⟩
def F.timStat_load_pend : RF := ⟨R.timStat, 4, 1⟩
def F.timStat_holdover_s : RF := ⟨R.timStat, 16, 16⟩
/-- TIM.EPS (R255). -/
def R.timEps : Nat := 0x700010
def F.timEps_val : RF := ⟨R.timEps, 0, 24⟩
def F.timEps_valid : RF := ⟨R.timEps, 31, 1⟩
/-- TIM.PHASE (R255). -/
def R.timPhase : Nat := 0x70001C
def F.timPhase_val : RF := ⟨R.timPhase, 0, 24⟩
def F.timPhase_valid : RF := ⟨R.timPhase, 31, 1⟩
/-- timPpsLo. -/
def R.timPpsLo : Nat := 0x700014
def F.timPpsLo_val : RF := ⟨R.timPpsLo, 0, 32⟩
/-- timPpsHi. -/
def R.timPpsHi : Nat := 0x700018
def F.timPpsHi_val : RF := ⟨R.timPpsHi, 0, 32⟩
/-- timTodOfsLo. -/
def R.timTodOfsLo : Nat := 0x700020
def F.timTodOfsLo_val : RF := ⟨R.timTodOfsLo, 0, 32⟩
/-- timTodOfsHi. -/
def R.timTodOfsHi : Nat := 0x700024
def F.timTodOfsHi_val : RF := ⟨R.timTodOfsHi, 0, 32⟩
/-- timSetLo. -/
def R.timSetLo : Nat := 0x700028
def F.timSetLo_val : RF := ⟨R.timSetLo, 0, 32⟩
/-- timSetHi. -/
def R.timSetHi : Nat := 0x70002C
def F.timSetHi_val : RF := ⟨R.timSetHi, 0, 32⟩
/-- TIM.CMD (R255). -/
def R.timCmd : Nat := 0x700030
def F.timCmd_cmd : RF := ⟨R.timCmd, 0, 3⟩
/-- TIM.EPOCH (R255). -/
def R.timEpoch : Nat := 0x700034
def F.timEpoch_epoch : RF := ⟨R.timEpoch, 0, 16⟩
/-- TIM.SCHED (R255). -/
def R.timSched : Nat := 0x700038
def F.timSched_pending : RF := ⟨R.timSched, 0, 9⟩
def F.timSched_refused : RF := ⟨R.timSched, 16, 16⟩
/-- TIM.LEAD (R255). -/
def R.timLead : Nat := 0x70003C
def F.timLead_xs : RF := ⟨R.timLead, 0, 16⟩
/-- TIM.SNAP_CTL (R256). -/
def R.timSnapCtl : Nat := 0x700040
def F.timSnapCtl_state : RF := ⟨R.timSnapCtl, 0, 2⟩
def F.timSnapCtl_scope : RF := ⟨R.timSnapCtl, 2, 1⟩
def F.timSnapCtl_time_suspect : RF := ⟨R.timSnapCtl, 3, 1⟩
def F.timSnapCtl_tag : RF := ⟨R.timSnapCtl, 8, 8⟩
/-- TIM.SNAP_T_LO. -/
def R.timSnapTLo : Nat := 0x700044
def F.timSnapTLo_t : RF := ⟨R.timSnapTLo, 0, 32⟩
/-- TIM.SNAP_T_HI. -/
def R.timSnapTHi : Nat := 0x700048
def F.timSnapTHi_t : RF := ⟨R.timSnapTHi, 0, 32⟩
/-- TIM.SNAP_SEL (R256). -/
def R.timSnapSel : Nat := 0x70004C
def F.timSnapSel_kind : RF := ⟨R.timSnapSel, 0, 2⟩
def F.timSnapSel_unit : RF := ⟨R.timSnapSel, 2, 11⟩
def F.timSnapSel_item : RF := ⟨R.timSnapSel, 13, 4⟩
/-- TIM.SNAP_RD (R256). -/
def R.timSnapRd : Nat := 0x700050
def F.timSnapRd_val : RF := ⟨R.timSnapRd, 0, 32⟩
/-- TIM.WAG_CTL (R256). -/
def R.timWagCtl : Nat := 0x700060
def F.timWagCtl_timeout : RF := ⟨R.timWagCtl, 0, 16⟩
/-- TIM.WAG_ARRIVE (R256). -/
def R.timWagArrive : Nat := 0x700064
def F.timWagArrive_arrive : RF := ⟨R.timWagArrive, 0, 32⟩
/-- TIM.WAG_STAT (R256). -/
def R.timWagStat (b : Nat) : Nat := 0x700100 + b * 0x8
def F.timWagStat_state (b : Nat) : RF := ⟨R.timWagStat b, 0, 2⟩
def F.timWagStat_scope (b : Nat) : RF := ⟨R.timWagStat b, 2, 1⟩
def F.timWagStat_cond (b : Nat) : RF := ⟨R.timWagStat b, 3, 2⟩
def F.timWagStat_missing (b : Nat) : RF := ⟨R.timWagStat b, 16, 16⟩
/-- TIM.WAG_STAT+4 (R256). -/
def R.timWagRelT (b : Nat) : Nat := 0x700104 + b * 0x8
def F.timWagRelT_rel_t (b : Nat) : RF := ⟨R.timWagRelT b, 0, 32⟩
/-- HSK.CH (R350). -/
def R.hskCh (n : Nat) : Nat := 0x780000 + n * 0x4
def F.hskCh_value (n : Nat) : RF := ⟨R.hskCh n, 0, 16⟩
def F.hskCh_broken (n : Nat) : RF := ⟨R.hskCh n, 16, 1⟩
def F.hskCh_out_win (n : Nat) : RF := ⟨R.hskCh n, 17, 1⟩
def F.hskCh_valid (n : Nat) : RF := ⟨R.hskCh n, 31, 1⟩
/-- HSK.DIE_T (R350). -/
def R.hskDieT (d : Nat) : Nat := 0x780200 + d * 0x4
def F.hskDieT_t (d : Nat) : RF := ⟨R.hskDieT d, 0, 16⟩
def F.hskDieT_broken (d : Nat) : RF := ⟨R.hskDieT d, 16, 5⟩
def F.hskDieT_adjacent (d : Nat) : RF := ⟨R.hskDieT d, 21, 1⟩
def F.hskDieT_blind (d : Nat) : RF := ⟨R.hskDieT d, 22, 1⟩
def F.hskDieT_level (d : Nat) : RF := ⟨R.hskDieT d, 23, 2⟩
def F.hskDieT_valid (d : Nat) : RF := ⟨R.hskDieT d, 31, 1⟩
/-- HSK.THR_WARN/THROT/SHUT. -/
def R.hskThr (l : Nat) : Nat := 0x780210 + l * 0x4
def F.hskThr_t (l : Nat) : RF := ⟨R.hskThr l, 0, 32⟩
/-- HSK.HYST (R350). -/
def R.hskHyst : Nat := 0x78021C
def F.hskHyst_warn : RF := ⟨R.hskHyst, 0, 5⟩
def F.hskHyst_throt : RF := ⟨R.hskHyst, 5, 5⟩
def F.hskHyst_shut : RF := ⟨R.hskHyst, 10, 5⟩
/-- HSK.THR_CTL (R350). -/
def R.hskThrCtl : Nat := 0x780220
def F.hskThrCtl_grace : RF := ⟨R.hskThrCtl, 0, 7⟩
def F.hskThrCtl_step_s : RF := ⟨R.hskThrCtl, 7, 6⟩
/-- HSK.PRIO_LO/HI. -/
def R.hskPrio (w : Nat) : Nat := 0x780224 + w * 0x4
def F.hskPrio_prio (w : Nat) : RF := ⟨R.hskPrio w, 0, 32⟩
/-- HSK.THR_STAT (R350). -/
def R.hskThrStat : Nat := 0x78022C
def F.hskThrStat_level : RF := ⟨R.hskThrStat, 0, 6⟩
def F.hskThrStat_grace_run : RF := ⟨R.hskThrStat, 6, 1⟩
def F.hskThrStat_trip : RF := ⟨R.hskThrStat, 7, 1⟩
def F.hskThrStat_selftest : RF := ⟨R.hskThrStat, 8, 2⟩
/-- HSK.EXT_LIM (R350). -/
def R.hskExtLim (i : Nat) : Nat := 0x780230 + i * 0x4
def F.hskExtLim_lo (i : Nat) : RF := ⟨R.hskExtLim i, 0, 16⟩
def F.hskExtLim_hi (i : Nat) : RF := ⟨R.hskExtLim i, 16, 16⟩
/-- FAN fanCtl (R351). -/
def R.fanCtl (f : Nat) : Nat := 0x788000 + f * 0x20
def F.fanCtl_en (f : Nat) : RF := ⟨R.fanCtl f, 0, 1⟩
def F.fanCtl_mode (f : Nat) : RF := ⟨R.fanCtl f, 1, 1⟩
def F.fanCtl_ppr (f : Nat) : RF := ⟨R.fanCtl f, 2, 2⟩
def F.fanCtl_duty_min (f : Nat) : RF := ⟨R.fanCtl f, 4, 8⟩
def F.fanCtl_duty_man (f : Nat) : RF := ⟨R.fanCtl f, 12, 9⟩
def F.fanCtl_restart (f : Nat) : RF := ⟨R.fanCtl f, 21, 1⟩
/-- FAN fanStat (R351). -/
def R.fanStat (f : Nat) : Nat := 0x788004 + f * 0x20
def F.fanStat_state (f : Nat) : RF := ⟨R.fanStat f, 0, 3⟩
def F.fanStat_attempts (f : Nat) : RF := ⟨R.fanStat f, 3, 2⟩
def F.fanStat_rpm (f : Nat) : RF := ⟨R.fanStat f, 5, 16⟩
def F.fanStat_duty (f : Nat) : RF := ⟨R.fanStat f, 21, 9⟩
/-- FAN fanTrend (R351). -/
def R.fanTrend (f : Nat) : Nat := 0x788008 + f * 0x20
def F.fanTrend_t_det (f : Nat) : RF := ⟨R.fanTrend f, 0, 16⟩
def F.fanTrend_d_before (f : Nat) : RF := ⟨R.fanTrend f, 16, 16⟩
/-- FAN fanTrend2 (R351). -/
def R.fanTrend2 (f : Nat) : Nat := 0x78800C + f * 0x20
def F.fanTrend2_d_after (f : Nat) : RF := ⟨R.fanTrend2 f, 0, 16⟩
def F.fanTrend2_valid (f : Nat) : RF := ⟨R.fanTrend2 f, 31, 1⟩
/-- FAN fanLearn (R351). -/
def R.fanLearn (f : Nat) : Nat := 0x788010 + f * 0x20
def F.fanLearn_rpm_min (f : Nat) : RF := ⟨R.fanLearn f, 0, 16⟩
def F.fanLearn_rpm_max (f : Nat) : RF := ⟨R.fanLearn f, 16, 16⟩
/-- FAN.CURVE (R351). -/
def R.fanCurve : Nat := 0x788100
def F.fanCurve_t_lo : RF := ⟨R.fanCurve, 0, 8⟩
def F.fanCurve_t_hi : RF := ⟨R.fanCurve, 8, 8⟩
/-- PWR pwrStat (R331). -/
def R.pwrStat : Nat := 0x790000
def F.pwrStat_main_good : RF := ⟨R.pwrStat, 0, 1⟩
def F.pwrStat_keep_src : RF := ⟨R.pwrStat, 1, 1⟩
def F.pwrStat_seq_err : RF := ⟨R.pwrStat, 2, 1⟩
def F.pwrStat_pf : RF := ⟨R.pwrStat, 3, 1⟩
def F.pwrStat_pf_unwarned : RF := ⟨R.pwrStat, 4, 1⟩
def F.pwrStat_rail_bad : RF := ⟨R.pwrStat, 8, 8⟩
/-- PWR pwrBakCfg (R331). -/
def R.pwrBakCfg : Nat := 0x790004
def F.pwrBakCfg_ready_mv : RF := ⟨R.pwrBakCfg, 0, 13⟩
def F.pwrBakCfg_shunt : RF := ⟨R.pwrBakCfg, 13, 16⟩
/-- PWR pwrBakStat (R331). -/
def R.pwrBakStat : Nat := 0x790008
def F.pwrBakStat_vbak_mv : RF := ⟨R.pwrBakStat, 0, 13⟩
def F.pwrBakStat_ready : RF := ⟨R.pwrBakStat, 13, 1⟩
def F.pwrBakStat_cap : RF := ⟨R.pwrBakStat, 14, 2⟩
def F.pwrBakStat_disagree : RF := ⟨R.pwrBakStat, 16, 8⟩
def F.pwrBakStat_learn_offer : RF := ⟨R.pwrBakStat, 24, 1⟩
/-- PWR pwrBakQ (R331). -/
def R.pwrBakQ : Nat := 0x79000C
def F.pwrBakQ_q : RF := ⟨R.pwrBakQ, 0, 32⟩
/-- PWR pwrBakQv (R331). -/
def R.pwrBakQv : Nat := 0x790010
def F.pwrBakQv_q : RF := ⟨R.pwrBakQv, 0, 32⟩
/-- PWR pwrBakCap (R331). -/
def R.pwrBakCap : Nat := 0x790014
def F.pwrBakCap_c_uf : RF := ⟨R.pwrBakCap, 0, 24⟩
/-- PWR pwrBakLearn (R331). -/
def R.pwrBakLearn : Nat := 0x790018
def F.pwrBakLearn_result : RF := ⟨R.pwrBakLearn, 0, 2⟩
def F.pwrBakLearn_secs : RF := ⟨R.pwrBakLearn, 16, 16⟩
/-- PWR pwrIBak (R331). -/
def R.pwrIBak : Nat := 0x79001C
def F.pwrIBak_i : RF := ⟨R.pwrIBak, 0, 16⟩
/-- PWR pwrRefCtl (R332). -/
def R.pwrRefCtl : Nat := 0x790020
def F.pwrRefCtl_pref : RF := ⟨R.pwrRefCtl, 0, 1⟩
def F.pwrRefCtl_revert : RF := ⟨R.pwrRefCtl, 1, 1⟩
def F.pwrRefCtl_wtr : RF := ⟨R.pwrRefCtl, 2, 8⟩
def F.pwrRefCtl_force : RF := ⟨R.pwrRefCtl, 10, 2⟩
/-- PWR pwrRefStat (R332). -/
def R.pwrRefStat : Nat := 0x790024
def F.pwrRefStat_active : RF := ⟨R.pwrRefStat, 0, 2⟩
def F.pwrRefStat_a_qual : RF := ⟨R.pwrRefStat, 2, 1⟩
def F.pwrRefStat_b_qual : RF := ⟨R.pwrRefStat, 3, 1⟩
def F.pwrRefStat_a_rate : RF := ⟨R.pwrRefStat, 4, 1⟩
def F.pwrRefStat_b_rate : RF := ⟨R.pwrRefStat, 5, 1⟩
def F.pwrRefStat_holdover : RF := ⟨R.pwrRefStat, 6, 1⟩
def F.pwrRefStat_wtr_run : RF := ⟨R.pwrRefStat, 7, 1⟩
def F.pwrRefStat_switches : RF := ⟨R.pwrRefStat, 8, 8⟩
def F.pwrRefStat_offset : RF := ⟨R.pwrRefStat, 16, 16⟩
/-- PWR pwrClkStat (R332). -/
def R.pwrClkStat : Nat := 0x790028
def F.pwrClkStat_sclk_lock : RF := ⟨R.pwrClkStat, 0, 1⟩
def F.pwrClkStat_wclk_s0 : RF := ⟨R.pwrClkStat, 1, 2⟩
def F.pwrClkStat_wclk_s1 : RF := ⟨R.pwrClkStat, 3, 2⟩
def F.pwrClkStat_wclk_step : RF := ⟨R.pwrClkStat, 5, 2⟩
def F.pwrClkStat_rc_on : RF := ⟨R.pwrClkStat, 7, 1⟩
def F.pwrClkStat_xtal_ok : RF := ⟨R.pwrClkStat, 8, 1⟩
/-- FLT.SUM (R373). -/
def R.fltSum : Nat := 0x7C0000
def F.fltSum_level : RF := ⟨R.fltSum, 0, 3⟩
def F.fltSum_any : RF := ⟨R.fltSum, 3, 1⟩
def F.fltSum_shown : RF := ⟨R.fltSum, 4, 3⟩
def F.fltSum_rfsafe : RF := ⟨R.fltSum, 7, 1⟩
def F.fltSum_halt : RF := ⟨R.fltSum, 8, 1⟩
def F.fltSum_used : RF := ⟨R.fltSum, 9, 9⟩
/-- FLT.LOST (R373). -/
def R.fltLost : Nat := 0x7C0004
def F.fltLost_count : RF := ⟨R.fltLost, 0, 16⟩
def F.fltLost_level : RF := ⟨R.fltLost, 16, 3⟩
def F.fltLost_shown : RF := ⟨R.fltLost, 19, 3⟩
def F.fltLost_rf : RF := ⟨R.fltLost, 22, 1⟩
def F.fltLost_hum : RF := ⟨R.fltLost, 23, 8⟩
def F.fltLost_valid : RF := ⟨R.fltLost, 31, 1⟩
/-- FLT.HUM_MAP (R373). -/
def R.fltHumMap : Nat := 0x7C0008
def F.fltHumMap_thr : RF := ⟨R.fltHumMap, 0, 24⟩
/-- FLT.HUM_STAT (R373). -/
def R.fltHumStat : Nat := 0x7C000C
def F.fltHumStat_toggling : RF := ⟨R.fltHumStat, 0, 8⟩
def F.fltHumStat_by_fault : RF := ⟨R.fltHumStat, 8, 8⟩
/-- FLT.VALID (R373). -/
def R.fltValid (i : Nat) : Nat := 0x7C0010 + i * 0x4
def F.fltValid_slots (i : Nat) : RF := ⟨R.fltValid i, 0, 32⟩
/-- FLT.UNACK (R373). -/
def R.fltUnack (i : Nat) : Nat := 0x7C0030 + i * 0x4
def F.fltUnack_slots (i : Nat) : RF := ⟨R.fltUnack i, 0, 32⟩
/-- fault record words. -/
def R.fltRec (i : Nat) (w : Nat) : Nat := 0x7C1000 + i * 0x40 + w * 0x4
def F.fltRec_word (i : Nat) (w : Nat) : RF := ⟨R.fltRec i w, 0, 32⟩
/-- EVR.STAT (R375). -/
def R.evrStat : Nat := 0x7E0000
def F.evrStat_state : RF := ⟨R.evrStat, 0, 2⟩
def F.evrStat_last : RF := ⟨R.evrStat, 2, 2⟩
def F.evrStat_pending : RF := ⟨R.evrStat, 4, 1⟩
def F.evrStat_restored : RF := ⟨R.evrStat, 5, 3⟩
def F.evrStat_older : RF := ⟨R.evrStat, 8, 1⟩
def F.evrStat_flushes : RF := ⟨R.evrStat, 16, 16⟩
/-- EVR.CMD (R375). -/
def R.evrCmd : Nat := 0x7E0004
def F.evrCmd_flush : RF := ⟨R.evrCmd, 0, 1⟩
/-- EVR.WIN_SEL (R375). -/
def R.evrWinSel : Nat := 0x7E0008
def F.evrWinSel_src : RF := ⟨R.evrWinSel, 0, 3⟩
def F.evrWinSel_page : RF := ⟨R.evrWinSel, 3, 2⟩
/-- USE.T_CTL (R376). -/
def R.useTCtl (t : Nat) : Nat := 0x7E8000 + t * 0x4
def F.useTCtl_len (t : Nat) : RF := ⟨R.useTCtl t, 0, 6⟩
def F.useTCtl_en (t : Nat) : RF := ⟨R.useTCtl t, 6, 1⟩
def F.useTCtl_epoch (t : Nat) : RF := ⟨R.useTCtl t, 16, 16⟩
/-- USE.WEIGHT (R376). -/
def R.useWeight (t : Nat) : Nat := 0x7E8040 + t * 0x4
def F.useWeight_w_bw (t : Nat) : RF := ⟨R.useWeight t, 0, 16⟩
def F.useWeight_w_e (t : Nat) : RF := ⟨R.useWeight t, 16, 16⟩
/-- USE.RING_SEQ (R376). -/
def R.useRingSeq : Nat := 0x7E8080
def F.useRingSeq_next : RF := ⟨R.useRingSeq, 0, 32⟩
/-- USE.BW (R376). -/
def R.useBw (n : Nat) : Nat := 0x7E9000 + n * 0x4
def F.useBw_bw (n : Nat) : RF := ⟨R.useBw n, 0, 24⟩
/-- QUE.LIFE (R307). -/
def R.queLife : Nat := 0x800000
def F.queLife_life : RF := ⟨R.queLife, 0, 2⟩
def F.queLife_debug : RF := ⟨R.queLife, 2, 2⟩
def F.queLife_provisioned : RF := ⟨R.queLife, 4, 4⟩
def F.queLife_revoked : RF := ⟨R.queLife, 8, 4⟩
def F.queLife_rollback : RF := ⟨R.queLife, 12, 7⟩
def F.queLife_puf_ok : RF := ⟨R.queLife, 19, 1⟩
/-- QUE.CHAL. -/
def R.queChal (i : Nat) : Nat := 0x800010 + i * 0x4
def F.queChal_bytes (i : Nat) : RF := ⟨R.queChal i, 0, 32⟩
/-- QUE.NONCE. -/
def R.queNonce (i : Nat) : Nat := 0x800030 + i * 0x4
def F.queNonce_bytes (i : Nat) : RF := ⟨R.queNonce i, 0, 32⟩
/-- QUE.CMD (R307). -/
def R.queCmd : Nat := 0x800050
def F.queCmd_cmd : RF := ⟨R.queCmd, 0, 4⟩
def F.queCmd_arg : RF := ⟨R.queCmd, 8, 8⟩
/-- QUE.CMD_STAT (R307). -/
def R.queCmdStat : Nat := 0x800054
def F.queCmdStat_busy : RF := ⟨R.queCmdStat, 0, 1⟩
def F.queCmdStat_done : RF := ⟨R.queCmdStat, 1, 1⟩
def F.queCmdStat_last : RF := ⟨R.queCmdStat, 4, 4⟩
def F.queCmdStat_status : RF := ⟨R.queCmdStat, 8, 4⟩
/-- queToken. -/
def R.queToken (i : Nat) : Nat := 0x800100 + i * 0x4
def F.queToken_bytes (i : Nat) : RF := ⟨R.queToken i, 0, 32⟩
/-- queQuote. -/
def R.queQuote (i : Nat) : Nat := 0x800300 + i * 0x4
def F.queQuote_bytes (i : Nat) : RF := ⟨R.queQuote i, 0, 32⟩
/-- queIdPub. -/
def R.queIdPub (i : Nat) : Nat := 0x800500 + i * 0x4
def F.queIdPub_bytes (i : Nat) : RF := ⟨R.queIdPub i, 0, 32⟩
/-- queWrapPub. -/
def R.queWrapPub (i : Nat) : Nat := 0x800580 + i * 0x4
def F.queWrapPub_bytes (i : Nat) : RF := ⟨R.queWrapPub i, 0, 32⟩
/-- QUE.KEYHASH. -/
def R.queKeyHash (s : Nat) (i : Nat) : Nat := 0x800600 + s * 0x40 + i * 0x4
def F.queKeyHash_bytes (s : Nat) (i : Nat) : RF := ⟨R.queKeyHash s i, 0, 32⟩
/-- queJrnSeqLo. -/
def R.queJrnSeqLo : Nat := 0x800700
def F.queJrnSeqLo_seq : RF := ⟨R.queJrnSeqLo, 0, 32⟩
/-- queJrnSeqHi. -/
def R.queJrnSeqHi : Nat := 0x800704
def F.queJrnSeqHi_seq : RF := ⟨R.queJrnSeqHi, 0, 32⟩
/-- queJrnOldLo. -/
def R.queJrnOldLo : Nat := 0x800708
def F.queJrnOldLo_seq : RF := ⟨R.queJrnOldLo, 0, 32⟩
/-- queJrnOldHi. -/
def R.queJrnOldHi : Nat := 0x80070C
def F.queJrnOldHi_seq : RF := ⟨R.queJrnOldHi, 0, 32⟩
/-- QUE.JRN_HEAD. -/
def R.queJrnHead (i : Nat) : Nat := 0x800710 + i * 0x4
def F.queJrnHead_bytes (i : Nat) : RF := ⟨R.queJrnHead i, 0, 32⟩
/-- QUE.JRN_STAT (R308). -/
def R.queJrnStat : Nat := 0x800740
def F.queJrnStat_queued : RF := ⟨R.queJrnStat, 0, 9⟩
def F.queJrnStat_stalls : RF := ⟨R.queJrnStat, 16, 16⟩
/-- QUE.INTEG (R308). -/
def R.queInteg : Nat := 0x800744
def F.queInteg_count : RF := ⟨R.queInteg, 0, 16⟩
def F.queInteg_source : RF := ⟨R.queInteg, 16, 16⟩
/-- QUE.ENV_REC. -/
def R.queEnvRec (t : Nat) (i : Nat) : Nat := 0x810000 + t * 0x100 + i * 0x4
def F.queEnvRec_bytes (t : Nat) (i : Nat) : RF := ⟨R.queEnvRec t i, 0, 32⟩
/-- IMG.STAT (R280). -/
def R.imgStat : Nat := 0x840000
def F.imgStat_slot : RF := ⟨R.imgStat, 0, 1⟩
def F.imgStat_loaded : RF := ⟨R.imgStat, 1, 1⟩
def F.imgStat_fallback : RF := ⟨R.imgStat, 2, 1⟩
def F.imgStat_chain_len : RF := ⟨R.imgStat, 8, 6⟩
def F.imgStat_boot_reason : RF := ⟨R.imgStat, 16, 8⟩
/-- IMG.VERSION (R280). -/
def R.imgVersion : Nat := 0x840004
def F.imgVersion_version : RF := ⟨R.imgVersion, 0, 7⟩
/-- IMG.HASH. -/
def R.imgHash (i : Nat) : Nat := 0x840010 + i * 0x4
def F.imgHash_bytes (i : Nat) : RF := ⟨R.imgHash i, 0, 32⟩
/-- IMG.CHAIN. -/
def R.imgChain (i : Nat) : Nat := 0x840040 + i * 0x4
def F.imgChain_bytes (i : Nat) : RF := ⟨R.imgChain i, 0, 32⟩
/-- IMG.PATCH_STAT (R281). -/
def R.imgPatchStat (p : Nat) : Nat := 0x840100 + p * 0x10
def F.imgPatchStat_state (p : Nat) : RF := ⟨R.imgPatchStat p, 0, 3⟩
def F.imgPatchStat_reason (p : Nat) : RF := ⟨R.imgPatchStat p, 4, 8⟩
def F.imgPatchStat_entry (p : Nat) : RF := ⟨R.imgPatchStat p, 12, 6⟩
def F.imgPatchStat_done (p : Nat) : RF := ⟨R.imgPatchStat p, 31, 1⟩
/-- IMG.PATCH_T_LO. -/
def R.imgPatchTLo (p : Nat) : Nat := 0x840104 + p * 0x10
def F.imgPatchTLo_t (p : Nat) : RF := ⟨R.imgPatchTLo p, 0, 32⟩
/-- IMG.PATCH_T_HI. -/
def R.imgPatchTHi (p : Nat) : Nat := 0x840108 + p * 0x10
def F.imgPatchTHi_t (p : Nat) : RF := ⟨R.imgPatchTHi p, 0, 32⟩
/-- IMG.PATCH_SCOPE (R281). -/
def R.imgPatchScope (p : Nat) : Nat := 0x84010C + p * 0x10
def F.imgPatchScope_frames (p : Nat) : RF := ⟨R.imgPatchScope p, 0, 8⟩
def F.imgPatchScope_n_streams (p : Nat) : RF := ⟨R.imgPatchScope p, 8, 12⟩
def F.imgPatchScope_hum (p : Nat) : RF := ⟨R.imgPatchScope p, 20, 1⟩
/-- SMB.ADDR_CFG (R405). -/
def R.smbAddrCfg : Nat := 0x900000
def F.smbAddrCfg_mask : RF := ⟨R.smbAddrCfg, 0, 3⟩
def F.smbAddrCfg_hive_hi : RF := ⟨R.smbAddrCfg, 3, 4⟩
/-- SMB.STAT (R405). -/
def R.smbStat : Nat := 0x900004
def F.smbStat_sda_stuck : RF := ⟨R.smbStat, 0, 1⟩
def F.smbStat_scl_reset : RF := ⟨R.smbStat, 1, 1⟩
def F.smbStat_nacks : RF := ⟨R.smbStat, 8, 8⟩
/-- SMB.ALERT_CFG (R405). -/
def R.smbAlertCfg : Nat := 0x900008
def F.smbAlertCfg_lvl : RF := ⟨R.smbAlertCfg, 0, 3⟩
def F.smbAlertCfg_bak : RF := ⟨R.smbAlertCfg, 3, 1⟩
def F.smbAlertCfg_quote : RF := ⟨R.smbAlertCfg, 4, 1⟩
/-- SMB.MB_STAT (R405). -/
def R.smbMbStat : Nat := 0x90000C
def F.smbMbStat_busy : RF := ⟨R.smbMbStat, 0, 8⟩
def F.smbMbStat_done : RF := ⟨R.smbMbStat, 8, 8⟩
/-- CMD.SQ_TAIL (R396). -/
def R.cmdSqTail : Nat := 0x10000000
def F.cmdSqTail_tail : RF := ⟨R.cmdSqTail, 0, 6⟩
/-- CMD.SQ_HEAD (R396). -/
def R.cmdSqHead : Nat := 0x10000004
def F.cmdSqHead_head : RF := ⟨R.cmdSqHead, 0, 6⟩
def F.cmdSqHead_outstanding : RF := ⟨R.cmdSqHead, 8, 7⟩
/-- CMD.CQ_HEAD (R396). -/
def R.cmdCqHead : Nat := 0x10000008
def F.cmdCqHead_head : RF := ⟨R.cmdCqHead, 0, 6⟩
/-- CMD.IRQ_STAT. -/
def R.cmdIrqStat : Nat := 0x1000000C
def F.cmdIrqStat_cause : RF := ⟨R.cmdIrqStat, 0, 8⟩
/-- CMD.IRQ_MASK. -/
def R.cmdIrqMask : Nat := 0x10000010
def F.cmdIrqMask_cause : RF := ⟨R.cmdIrqMask, 0, 8⟩
/-- CMD.MAINT_Q (R396). -/
def R.cmdMaintQ : Nat := 0x10000014
def F.cmdMaintQ_waiting : RF := ⟨R.cmdMaintQ, 0, 3⟩
def F.cmdMaintQ_running : RF := ⟨R.cmdMaintQ, 8, 5⟩
/-- CMD.RX_HEAD (R396). -/
def R.cmdRxHead : Nat := 0x10000020
def F.cmdRxHead_head : RF := ⟨R.cmdRxHead, 0, 5⟩
/-- CMD.RX_STAT (R396). -/
def R.cmdRxStat : Nat := 0x10000024
def F.cmdRxStat_tail : RF := ⟨R.cmdRxStat, 0, 5⟩
def F.cmdRxStat_dropped : RF := ⟨R.cmdRxStat, 16, 16⟩
/-- CMD.MAINT (R396). -/
def R.cmdMaint (h : Nat) : Nat := 0x10000100 + h * 0x4
def F.cmdMaint_state (h : Nat) : RF := ⟨R.cmdMaint h, 0, 2⟩
def F.cmdMaint_activity (h : Nat) : RF := ⟨R.cmdMaint h, 2, 4⟩
def F.cmdMaint_unit (h : Nat) : RF := ⟨R.cmdMaint h, 6, 12⟩
def F.cmdMaint_result (h : Nat) : RF := ⟨R.cmdMaint h, 18, 2⟩
def F.cmdMaint_reason (h : Nat) : RF := ⟨R.cmdMaint h, 20, 8⟩

/-- Register descriptors of the block hive. -/
def Regs.hive : List RegDesc := [
  ⟨0x0, [], 0x51441002, 0x0, 0x0, 0x0, 0x0, false, 0xFFFFF0FF⟩,
  ⟨0x4, [], 0x0, 0x0, 0x80000000, 0x0, 0x0, false, 0xFFFFFFFD⟩,
  ⟨0x8, [], 0x80100, 0x0, 0x0, 0x0, 0x0, false, 0x7F1F0F⟩,
  ⟨0xC, [], 0x1111, 0x0, 0x0, 0x0, 0x0, false, 0xFFFFFF⟩,
  ⟨0x10, [], 0x0, 0x0, 0x0, 0x0, 0x0, false, 0xFFFF⟩,
  ⟨0x14, [], 0x0, 0x0, 0x0, 0x0, 0x0, false, 0xFFFFFFFF⟩,
  ⟨0x18, [], 0x0, 0x0, 0x0, 0x0, 0x0, false, 0xFFFFFFFF⟩,
  ⟨0x1C, [], 0x3C, 0xFF, 0x0, 0x0, 0x0, false, 0xFF⟩,
  ⟨0x20, [], 0x0, 0x0, 0x0, 0x0, 0x0, false, 0xFFFF⟩,
  ⟨0x24, [], 0x0, 0x0, 0x0, 0x0, 0x0, false, 0xFFFFFFFF⟩,
  ⟨0x28, [], 0x0, 0x0, 0x0, 0x0, 0x0, false, 0xFFFF⟩,
  ⟨0x2C, [], 0x0, 0x0, 0x80000000, 0x0, 0x0, false, 0x80001FFF⟩,
  ⟨0x30, [], 0x0, 0x0, 0x0, 0x0, 0x0, false, 0x1FFFFF⟩]
/-- Register descriptors of the block lane. -/
def Regs.lane : List RegDesc := [
  ⟨0x100000, [(144, 0x1000)], 0x0, 0x0, 0x0, 0x0, 0x0, false, 0x1FFFFF7F⟩,
  ⟨0x100004, [(144, 0x1000)], 0x0, 0x0, 0x0, 0x0, 0x0, false, 0xFF0FFF⟩,
  ⟨0x100008, [(144, 0x1000)], 0x0, 0x0, 0x0, 0x0, 0x0, false, 0xFFFFFFFF⟩,
  ⟨0x10000C, [(144, 0x1000)], 0x0, 0x0, 0x0, 0x0, 0x0, false, 0xFFFFFFFF⟩,
  ⟨0x100010, [(144, 0x1000)], 0x0, 0x0, 0x0, 0x0, 0x0, false, 0xFFFFFFFF⟩,
  ⟨0x100014, [(144, 0x1000)], 0x0, 0x0, 0x0, 0x0, 0x0, false, 0x80FFFFFF⟩,
  ⟨0x100018, [(144, 0x1000)], 0x0, 0x0, 0x0, 0x0, 0x0, false, 0x80FFFFFF⟩,
  ⟨0x10001C, [(144, 0x1000)], 0x1, 0xFF, 0x0, 0x0, 0x0, false, 0xFF⟩,
  ⟨0x100020, [(144, 0x1000)], 0x1B333, 0xFFFFFF, 0x0, 0x0, 0x0, false, 0xFFFFFF⟩,
  ⟨0x100024, [(144, 0x1000)], 0x0, 0x0, 0x0, 0x0, 0x0, false, 0xFFFFFFFF⟩,
  ⟨0x100028, [(144, 0x1000)], 0x60, 0x7F, 0x200, 0x0, 0x0, false, 0x37F⟩,
  ⟨0x10002C, [(144, 0x1000)], 0x0, 0x0, 0x0, 0x0, 0x0, false, 0xFF7F⟩]
/-- Register descriptors of the block rte. -/
def Regs.rte : List RegDesc := [
  ⟨0x200000, [(2048, 0x40)], 0x0, 0x0, 0x0, 0x0, 0x0, false, 0xFFFFFF⟩,
  ⟨0x200004, [(2048, 0x40)], 0x0, 0x0, 0x0, 0x0, 0x0, false, 0x1FFFFFF⟩,
  ⟨0x200008, [(2048, 0x40)], 0x0, 0x0, 0x0, 0x0, 0x0, false, 0xFFFFFFF⟩,
  ⟨0x20000C, [(2048, 0x40), (4, 0x4)], 0x0, 0x0, 0x0, 0x0, 0x0, false, 0xFFFFFF⟩,
  ⟨0x20001C, [(2048, 0x40)], 0x0, 0x0, 0x0, 0x0, 0x0, false, 0xFFFFFFFF⟩,
  ⟨0x200020, [(2048, 0x40)], 0x0, 0x0, 0x0, 0x0, 0x0, false, 0x3FFFFF⟩,
  ⟨0x200024, [(2048, 0x40)], 0x0, 0x0, 0x0, 0x0, 0x0, false, 0x1FFFF⟩,
  ⟨0x200028, [(2048, 0x40)], 0x0, 0x0, 0x0, 0x0, 0x0, false, 0xFFFFFF⟩,
  ⟨0x20002C, [(2048, 0x40)], 0x0, 0x0, 0x0, 0x0, 0x0, false, 0x3FFFFF⟩,
  ⟨0x200030, [(2048, 0x40)], 0x0, 0x0, 0x0, 0x0, 0x0, false, 0xFFF⟩,
  ⟨0x200034, [(2048, 0x40)], 0x0, 0x0, 0x0, 0x0, 0x0, false, 0x7FFFFFF⟩,
  ⟨0x200038, [(2048, 0x40)], 0x0, 0x0, 0x0, 0x0, 0x0, false, 0x3FF⟩,
  ⟨0x20003C, [(2048, 0x40)], 0x0, 0x0, 0x0, 0x0, 0x0, false, 0x1⟩,
  ⟨0x220000, [(2048, 0x4)], 0x0, 0x0, 0x8, 0x0, 0x0, false, 0xFF00FF⟩,
  ⟨0x222000, [(256, 0x4)], 0x0, 0x0, 0x0, 0x0, 0x0, false, 0xFFFFFF⟩,
  ⟨0x224000, [(256, 0x10)], 0x0, 0x0, 0x0, 0x0, 0x0, false, 0x7FF⟩,
  ⟨0x224004, [(256, 0x10)], 0x0, 0x0, 0x0, 0x0, 0x0, false, 0xFFFFFFFF⟩,
  ⟨0x224008, [(256, 0x10)], 0x0, 0x0, 0x0, 0x0, 0x0, false, 0xFFFFFFFF⟩,
  ⟨0x22400C, [(256, 0x10)], 0x0, 0x0, 0x0, 0x0, 0x0, false, 0xFFFF⟩,
  ⟨0x225000, [(2, 0x4)], 0x0, 0x0, 0x0, 0x0, 0x0, false, 0x1FFFFFF⟩,
  ⟨0x225008, [], 0x0, 0x1, 0x0, 0x0, 0x0, false, 0x1⟩,
  ⟨0x22500C, [], 0x0, 0x0, 0x80000000, 0x0, 0x0, false, 0x80007FFF⟩,
  ⟨0x225010, [], 0xA, 0xFF, 0x0, 0x0, 0x0, false, 0xFF⟩]
/-- Register descriptors of the block str. -/
def Regs.str : List RegDesc := [
  ⟨0x300000, [(1024, 0x400)], 0x0, 0x0, 0x0, 0x0, 0x0, false, 0x3FFFFFF⟩,
  ⟨0x300100, [(1024, 0x400), (2, 0x100)], 0x40000, 0xFFFF20, 0x0, 0x0, 0x0, false, 0xFFFF7F⟩,
  ⟨0x300104, [(1024, 0x400), (2, 0x100)], 0x0, 0x0, 0x0, 0x0, 0x0, false, 0xFFFFFFFF⟩,
  ⟨0x300108, [(1024, 0x400), (2, 0x100)], 0x0, 0x0, 0x0, 0x0, 0x0, false, 0x1F⟩,
  ⟨0x30010C, [(1024, 0x400), (2, 0x100)], 0x0, 0x0, 0x0, 0x0, 0x0, false, 0xFFFFFFFF⟩,
  ⟨0x300110, [(1024, 0x400), (2, 0x100)], 0x1, 0x0, 0x0, 0x0, 0x0, false, 0xFF⟩,
  ⟨0x300114, [(1024, 0x400), (2, 0x100)], 0x0, 0xFFFF, 0x0, 0x0, 0x0, false, 0xFFFF⟩,
  ⟨0x300118, [(1024, 0x400), (2, 0x100)], 0x0, 0x0, 0x0, 0x0, 0x0, false, 0x3FFFF⟩,
  ⟨0x30011C, [(1024, 0x400), (2, 0x100)], 0x0, 0x0, 0x0, 0x0, 0x0, false, 0xFFFFFFFF⟩,
  ⟨0x300120, [(1024, 0x400), (2, 0x100)], 0x0, 0x0, 0x0, 0x0, 0x0, false, 0xFFFFFFFF⟩,
  ⟨0x300124, [(1024, 0x400), (2, 0x100)], 0x0, 0x0, 0x0, 0x0, 0x0, false, 0x80FFFFFF⟩,
  ⟨0x300128, [(1024, 0x400), (2, 0x100)], 0x0, 0x0, 0x0, 0x0, 0x0, false, 0x80FFFFFF⟩,
  ⟨0x30012C, [(1024, 0x400), (2, 0x100)], 0x3FF, 0xFFF, 0x0, 0x0, 0x0, false, 0xFFF⟩,
  ⟨0x300130, [(1024, 0x400), (2, 0x100)], 0x4000, 0x0, 0x0, 0x0, 0x0, false, 0x3FFFF⟩,
  ⟨0x300134, [(1024, 0x400), (2, 0x100)], 0x0, 0x0, 0x0, 0x0, 0x0, false, 0x3FFFF⟩,
  ⟨0x300138, [(1024, 0x400), (2, 0x100)], 0x0, 0x0, 0x0, 0x0, 0x0, false, 0xFFFFFFFF⟩,
  ⟨0x30013C, [(1024, 0x400), (2, 0x100)], 0x0, 0x0, 0x0, 0x0, 0x0, false, 0xFFFFFFFF⟩]
/-- Register descriptors of the block siv. -/
def Regs.siv : List RegDesc := [
  ⟨0x400000, [(512, 0x20)], 0x0, 0x0, 0x0, 0x0, 0x0, false, 0x1FFFFFF⟩,
  ⟨0x400004, [(512, 0x20)], 0x0, 0x0, 0x0, 0x0, 0x0, false, 0xFFFF0003⟩]
/-- Register descriptors of the block mtr. -/
def Regs.mtr : List RegDesc := [
  ⟨0x480000, [(2048, 0x20)], 0x2D14A, 0x7FFFF, 0x0, 0x0, 0x0, false, 0x1FFFFFFF⟩,
  ⟨0x480004, [(2048, 0x20)], 0x8000, 0x0, 0x0, 0x0, 0x0, false, 0x8000FFFF⟩,
  ⟨0x480008, [(2048, 0x20)], 0x8000, 0x0, 0x0, 0x0, 0x0, false, 0x8000FFFF⟩,
  ⟨0x48000C, [(2048, 0x20)], 0x8000, 0x0, 0x0, 0x0, 0x0, false, 0x8000FFFF⟩,
  ⟨0x480010, [(2048, 0x20)], 0x8000, 0x0, 0x0, 0x0, 0x0, false, 0x8000FFFF⟩,
  ⟨0x480014, [(2048, 0x20)], 0x8000, 0x0, 0x0, 0x0, 0x0, false, 0x8000FFFF⟩,
  ⟨0x480018, [(2048, 0x20)], 0x8000, 0x0, 0x0, 0x0, 0x0, false, 0x8007FFFF⟩,
  ⟨0x48001C, [(2048, 0x20)], 0x8000, 0x0, 0x0, 0x0, 0x0, false, 0x8FFFFFFF⟩,
  ⟨0x490000, [(2048, 0x20)], 0x0, 0x0, 0x0, 0x0, 0x0, false, 0x1FFF⟩,
  ⟨0x490004, [(2048, 0x20)], 0xF0FF0F00, 0x0, 0x0, 0x0, 0x0, true, 0xFFFFFFFF⟩,
  ⟨0x490008, [(2048, 0x20)], 0xFCFF0300, 0x0, 0x0, 0x0, 0x0, true, 0xFFFFFFFF⟩,
  ⟨0x49000C, [(2048, 0x20)], 0xFCFF0300, 0x0, 0x0, 0x0, 0x0, true, 0xFFFFFFFF⟩,
  ⟨0x490010, [(2048, 0x20)], 0x0, 0x0, 0x0, 0x0, 0x0, false, 0xFFFF⟩,
  ⟨0x490014, [(2048, 0x20)], 0x80008000, 0x0, 0x0, 0x0, 0x0, false, 0xFFFFFFFF⟩,
  ⟨0x490018, [(2048, 0x20)], 0x7FFF0000, 0x0, 0x0, 0x0, 0x0, false, 0xFFFF03FF⟩,
  ⟨0x49001C, [(2048, 0x20)], 0x0, 0x0, 0x0, 0x0, 0x0, false, 0xFFFF⟩,
  ⟨0x4A0000, [], 0x33C0A0A, 0x7FFFFFF, 0x0, 0x0, 0x0, false, 0x7FFFFFF⟩,
  ⟨0x4A0004, [], 0x3C050064, 0xFFFFFFFF, 0x0, 0x0, 0x0, false, 0xFFFFFFFF⟩,
  ⟨0x4A0008, [], 0xFCFF0300, 0x0, 0x0, 0x0, 0x0, true, 0xFFFFFFFF⟩,
  ⟨0x4A000C, [], 0x45FFBA00, 0x0, 0x0, 0x0, 0x0, true, 0xFFFFFFFF⟩,
  ⟨0x4B0000, [(256, 0x100)], 0x0, 0x0, 0x0, 0x0, 0x0, false, 0x8001FFFF⟩,
  ⟨0x4B0004, [(256, 0x100)], 0x8000, 0x0, 0x0, 0x0, 0x0, false, 0x3FFFFFF⟩,
  ⟨0x4B0040, [(256, 0x100), (16, 0x8)], 0x0, 0x0, 0x0, 0x0, 0x0, false, 0xFFFFF⟩,
  ⟨0x4B0044, [(256, 0x100), (16, 0x8)], 0x8000, 0x0, 0x0, 0x0, 0x0, false, 0xFFFF⟩]
/-- Register descriptors of the block fbcUgt. -/
def Regs.fbcUgt : List RegDesc := [
  ⟨0x4C0000, [(256, 0x40)], 0x0, 0x0, 0x0, 0x0, 0x0, false, 0xFFFFFF⟩,
  ⟨0x4C0004, [(256, 0x40)], 0x0, 0x0, 0x0, 0x0, 0x0, false, 0x1FFFFFF⟩,
  ⟨0x4C0008, [(256, 0x40)], 0x4E, 0x1FF, 0x0, 0x0, 0x0, false, 0xFFF⟩,
  ⟨0x4C000C, [(256, 0x40)], 0xA000001, 0xF800000, 0x0, 0x0, 0x0, false, 0xFFFFFFF⟩,
  ⟨0x4C0010, [(256, 0x40)], 0x1040, 0xFFFF, 0x0, 0x0, 0x0, false, 0xFFFF⟩,
  ⟨0x4C0014, [(256, 0x40)], 0xFCFF0300, 0x0, 0x0, 0x0, 0x0, true, 0xFFFFFFFF⟩,
  ⟨0x4C0018, [(256, 0x40)], 0x3BFFC400, 0x0, 0x0, 0x0, 0x0, true, 0xFFFFFFFF⟩,
  ⟨0x4C001C, [(256, 0x40)], 0x8000, 0x0, 0x0, 0x0, 0x0, false, 0xC7FFFFFF⟩,
  ⟨0x4C0020, [(256, 0x40)], 0x8000, 0x0, 0x0, 0x0, 0x0, false, 0xC7FFFFFF⟩,
  ⟨0x4C0024, [(256, 0x40)], 0x8000, 0x0, 0x0, 0x0, 0x0, false, 0xC7FFFFFF⟩,
  ⟨0x4C0028, [(256, 0x40)], 0x80008000, 0x0, 0x0, 0x0, 0x0, false, 0xFFFFFFFF⟩,
  ⟨0x4C002C, [(256, 0x40)], 0x80008000, 0x0, 0x0, 0x0, 0x0, false, 0xFFFFFFFF⟩,
  ⟨0x4C0030, [(256, 0x40)], 0x0, 0x0, 0x0, 0x0, 0x0, false, 0xFFFF000F⟩,
  ⟨0x4C0034, [(256, 0x40)], 0x7FFF, 0x0, 0x0, 0x0, 0x0, false, 0xFFFF⟩,
  ⟨0x4C0038, [(256, 0x40)], 0x0, 0x0, 0x0, 0x0, 0x0, false, 0xFFFFFFFF⟩,
  ⟨0x4C003C, [(256, 0x40)], 0x0, 0x0, 0x0, 0x0, 0x0, false, 0xFFFFFFFF⟩,
  ⟨0x4D0000, [(256, 0x200)], 0x0, 0x40000, 0x0, 0x0, 0x0, false, 0x7FFFF⟩,
  ⟨0x4D0004, [(256, 0x200)], 0xFBFF0400, 0x0, 0x0, 0x0, 0x0, true, 0xFFFFFFFF⟩,
  ⟨0x4D0008, [(256, 0x200)], 0x1E, 0xFFFF, 0x0, 0x0, 0x0, false, 0xFFFF⟩,
  ⟨0x4D000C, [(256, 0x200)], 0xAA40BB8, 0xFFFFFFFF, 0x0, 0x0, 0x0, false, 0xFFFFFFFF⟩,
  ⟨0x4D0010, [(256, 0x200)], 0x8000, 0x0, 0x0, 0x0, 0x0, false, 0xC000FFFF⟩,
  ⟨0x4D0014, [(256, 0x200)], 0x0, 0x0, 0x0, 0x0, 0x0, false, 0x3FFFFFF⟩,
  ⟨0x4D0018, [(256, 0x200)], 0x0, 0x0, 0x0, 0x0, 0x0, false, 0x3FFFF⟩,
  ⟨0x4D001C, [(256, 0x200)], 0x0, 0x7FFF, 0x0, 0x0, 0x0, false, 0x7FFF⟩,
  ⟨0x4D0020, [(256, 0x200)], 0x8000, 0x0, 0x0, 0x0, 0x0, false, 0x800FFFFF⟩,
  ⟨0x4D0100, [(256, 0x200), (64, 0x4)], 0x0, 0x0, 0x0, 0x4, 0x0, false, 0x7FFFFF⟩]
/-- Register descriptors of the block gce. -/
def Regs.gce : List RegDesc := [
  ⟨0x500000, [(2048, 0x20)], 0x0, 0x0, 0x0, 0x0, 0x0, false, 0xFFFF⟩,
  ⟨0x500004, [(2048, 0x20)], 0x0, 0x0, 0x0, 0x0, 0x0, false, 0xFF⟩,
  ⟨0x500008, [(2048, 0x20)], 0x0, 0x0, 0x0, 0x0, 0x7, false, 0x7⟩,
  ⟨0x50000C, [(2048, 0x20)], 0x0, 0xFFFF, 0x0, 0x0, 0x0, false, 0xFFFF⟩,
  ⟨0x500010, [(2048, 0x20)], 0x0, 0xFFFF, 0x0, 0x0, 0x0, false, 0xFFFF⟩,
  ⟨0x500014, [(2048, 0x20)], 0xFFFF0000, 0x0, 0x0, 0x0, 0x0, true, 0xFFFFFFFF⟩,
  ⟨0x500018, [(2048, 0x20)], 0x8000, 0x0, 0x0, 0x0, 0x0, false, 0x8000FFFF⟩,
  ⟨0x50001C, [(2048, 0x20)], 0x7FFF, 0x0, 0x0, 0x0, 0x0, false, 0xFFFFFFFF⟩,
  ⟨0x510000, [(2048, 0x20)], 0x0, 0x0, 0x0, 0x0, 0x0, false, 0xFFFF⟩,
  ⟨0x510004, [(2048, 0x20)], 0xFEFF0100, 0x0, 0x0, 0x0, 0x0, true, 0xFFFFFFFF⟩,
  ⟨0x510008, [(2048, 0x20)], 0xF5FF0A00, 0x0, 0x0, 0x0, 0x0, true, 0xFFFFFFFF⟩,
  ⟨0x51000C, [(2048, 0x20)], 0x80007FFF, 0x0, 0x0, 0x0, 0x0, true, 0xFFFFFFFF⟩,
  ⟨0x510010, [(2048, 0x20)], 0x7FFF8000, 0x0, 0x0, 0x0, 0x0, true, 0xFFFFFFFF⟩,
  ⟨0x510014, [(2048, 0x20)], 0x0, 0x0, 0x0, 0x0, 0x0, false, 0xFFFFFFFF⟩,
  ⟨0x510018, [(2048, 0x20)], 0x7FFF0080, 0x0, 0x0, 0x0, 0x0, false, 0xFFFF03FF⟩,
  ⟨0x51001C, [(2048, 0x20)], 0x0, 0x0, 0x0, 0x0, 0x0, false, 0xFFFFFFFF⟩,
  ⟨0x520000, [(4, 0x10)], 0x0, 0x0, 0x0, 0x0, 0x0, false, 0x3F⟩,
  ⟨0x520004, [(4, 0x10)], 0xFFFF0000, 0x0, 0x0, 0x0, 0x0, true, 0xFFFFFFFF⟩,
  ⟨0x520008, [(4, 0x10)], 0xFFFF0000, 0x0, 0x0, 0x0, 0x0, true, 0xFFFFFFFF⟩,
  ⟨0x52000C, [(4, 0x10)], 0x0, 0x0, 0x20000000, 0x0, 0x0, false, 0xFFFFFFFF⟩]
/-- Register descriptors of the block smk. -/
def Regs.smk : List RegDesc := [
  ⟨0x580000, [(2048, 0x10)], 0x40C80320, 0x7FFFFFFF, 0x0, 0x0, 0x0, false, 0x7FFFFFFF⟩,
  ⟨0x580004, [(2048, 0x10)], 0xFC1703E8, 0x0, 0x0, 0x0, 0x0, true, 0xFFFFFFFF⟩,
  ⟨0x580008, [(2048, 0x10)], 0x0, 0x0, 0x0, 0x0, 0x0, false, 0xF03FF⟩,
  ⟨0x58000C, [(2048, 0x10)], 0x0, 0x0, 0x0, 0x0, 0x0, false, 0x7FFFFFF⟩,
  ⟨0x588000, [], 0x3E8, 0x7FF, 0x0, 0x0, 0x0, false, 0x7FF⟩,
  ⟨0x588004, [], 0x3, 0x0, 0x0, 0x0, 0x0, false, 0xFFFF0003⟩]
/-- Register descriptors of the block wrk. -/
def Regs.wrk : List RegDesc := [
  ⟨0x602000, [(64, 0x4000), (8, 0x400)], 0x0, 0x0, 0x0, 0x0, 0x0, false, 0x1FFFFFF⟩,
  ⟨0x602004, [(64, 0x4000), (8, 0x400)], 0x0, 0x0, 0x0, 0x0, 0x0, false, 0x7FFFFFF⟩,
  ⟨0x602008, [(64, 0x4000), (8, 0x400)], 0x0, 0x0, 0x0, 0x0, 0x0, false, 0x7FFFFFFF⟩,
  ⟨0x60200C, [(64, 0x4000), (8, 0x400)], 0x0, 0x0, 0x0, 0x0, 0x0, false, 0x7FFFF⟩,
  ⟨0x602010, [(64, 0x4000), (8, 0x400)], 0x0, 0x0, 0x0, 0x0, 0x0, false, 0xFFFFF⟩,
  ⟨0x602014, [(64, 0x4000), (8, 0x400)], 0x0, 0x0, 0x0, 0x0, 0x0, false, 0x1FFFF⟩,
  ⟨0x602018, [(64, 0x4000), (8, 0x400)], 0x0, 0x0, 0x0, 0x0, 0x0, false, 0xFFFFFFFF⟩,
  ⟨0x60201C, [(64, 0x4000), (8, 0x400)], 0x0, 0x0, 0x0, 0x0, 0x0, false, 0x1⟩,
  ⟨0x602020, [(64, 0x4000), (8, 0x400)], 0x0, 0x0, 0x0, 0x0, 0x0, false, 0xFFFFFF0F⟩,
  ⟨0x602024, [(64, 0x4000), (8, 0x400)], 0x0, 0x0, 0x0, 0x0, 0x7, false, 0x7⟩,
  ⟨0x602040, [(64, 0x4000), (8, 0x400), (16, 0x4)], 0x0, 0x0, 0x0, 0x0, 0x0, false, 0xFFFFFFFF⟩,
  ⟨0x600000, [(64, 0x4000)], 0x0, 0x0, 0x0, 0x0, 0x0, false, 0xFFFFFFFF⟩,
  ⟨0x600004, [(64, 0x4000)], 0xFA0, 0x3FFFFF, 0x0, 0x0, 0x0, false, 0x3FFFFF⟩,
  ⟨0x600008, [(64, 0x4000)], 0x0, 0xFFFFFFFF, 0x0, 0x0, 0x0, false, 0xFFFFFFFF⟩,
  ⟨0x60000C, [(64, 0x4000)], 0x0, 0x7F, 0x0, 0x0, 0x0, false, 0x7F⟩,
  ⟨0x600010, [(64, 0x4000)], 0x0, 0x0, 0x0, 0x0, 0x0, false, 0xFFFFFFFF⟩]
/-- Register descriptors of the block tim. -/
def Regs.tim : List RegDesc := [
  ⟨0x700000, [], 0x0, 0x0, 0x0, 0x0, 0x0, false, 0xFFFFFFFF⟩,
  ⟨0x700004, [], 0x0, 0x0, 0x0, 0x0, 0x0, false, 0xFFFFFFFF⟩,
  ⟨0x700008, [], 0x200, 0x3F00, 0x0, 0x0, 0x0, false, 0x3FFF⟩,
  ⟨0x70000C, [], 0x0, 0x0, 0x0, 0x0, 0x0, false, 0xFFFF001F⟩,
  ⟨0x700010, [], 0x0, 0x0, 0x0, 0x0, 0x0, false, 0x80FFFFFF⟩,
  ⟨0x70001C, [], 0x0, 0x0, 0x0, 0x0, 0x0, false, 0x80FFFFFF⟩,
  ⟨0x700014, [], 0x0, 0x0, 0x0, 0x0, 0x0, false, 0xFFFFFFFF⟩,
  ⟨0x700018, [], 0x0, 0x0, 0x0, 0x0, 0x0, false, 0xFFFFFFFF⟩,
  ⟨0x700020, [], 0x0, 0xFFFFFFFF, 0x0, 0x0, 0x0, false, 0xFFFFFFFF⟩,
  ⟨0x700024, [], 0x0, 0xFFFFFFFF, 0x0, 0x0, 0x0, false, 0xFFFFFFFF⟩,
  ⟨0x700028, [], 0x0, 0xFFFFFFFF, 0x0, 0x0, 0x0, false, 0xFFFFFFFF⟩,
  ⟨0x70002C, [], 0x0, 0xFFFFFFFF, 0x0, 0x0, 0x0, false, 0xFFFFFFFF⟩,
  ⟨0x700030, [], 0x0, 0x0, 0x0, 0x0, 0x7, false, 0x7⟩,
  ⟨0x700034, [], 0x0, 0x0, 0x0, 0x0, 0x0, false, 0xFFFF⟩,
  ⟨0x700038, [], 0x0, 0x0, 0x0, 0x0, 0x0, false, 0xFFFF01FF⟩,
  ⟨0x70003C, [], 0x0, 0x0, 0x0, 0x0, 0x0, false, 0xFFFF⟩,
  ⟨0x700040, [], 0x0, 0x0, 0x0, 0x0, 0x0, false, 0xFF0F⟩,
  ⟨0x700044, [], 0x0, 0x0, 0x0, 0x0, 0x0, false, 0xFFFFFFFF⟩,
  ⟨0x700048, [], 0x0, 0x0, 0x0, 0x0, 0x0, false, 0xFFFFFFFF⟩,
  ⟨0x70004C, [], 0x0, 0x1FFFF, 0x0, 0x0, 0x0, false, 0x1FFFF⟩,
  ⟨0x700050, [], 0x8000, 0x0, 0x0, 0x0, 0x0, false, 0xFFFFFFFF⟩,
  ⟨0x700060, [], 0xA, 0xFFFF, 0x0, 0x0, 0x0, false, 0xFFFF⟩,
  ⟨0x700064, [], 0x0, 0x0, 0x0, 0xFFFFFFFF, 0x0, false, 0xFFFFFFFF⟩,
  ⟨0x700100, [(64, 0x8)], 0x0, 0x0, 0x0, 0x0, 0x0, false, 0xFFFF001F⟩,
  ⟨0x700104, [(64, 0x8)], 0x0, 0x0, 0x0, 0x0, 0x0, false, 0xFFFFFFFF⟩]
/-- Register descriptors of the block hskPwr. -/
def Regs.hskPwr : List RegDesc := [
  ⟨0x780000, [(96, 0x4)], 0x0, 0x0, 0x0, 0x0, 0x0, false, 0x8003FFFF⟩,
  ⟨0x780200, [(4, 0x4)], 0x0, 0x0, 0x0, 0x0, 0x0, false, 0x81FFFFFF⟩,
  ⟨0x780210, [], 0x9BFF6400, 0, 0, 0, 0, true, 0xFFFFFFFF⟩,
  ⟨0x780214, [], 0x96FF6900, 0, 0, 0, 0, true, 0xFFFFFFFF⟩,
  ⟨0x780218, [], 0x8CFF7300, 0, 0, 0, 0, true, 0xFFFFFFFF⟩,
  ⟨0x78021C, [], 0x3C63, 0x7FFF, 0x0, 0x0, 0x0, false, 0x7FFF⟩,
  ⟨0x780220, [], 0x294, 0x1FFF, 0x0, 0x0, 0x0, false, 0x1FFF⟩,
  ⟨0x780224, [(2, 0x4)], 0x0, 0xFFFFFFFF, 0x0, 0x0, 0x0, false, 0xFFFFFFFF⟩,
  ⟨0x78022C, [], 0x0, 0x0, 0x0, 0x0, 0x0, false, 0x3FF⟩,
  ⟨0x780230, [(4, 0x4)], 0x4B00000, 0xFFFFFFFF, 0x0, 0x0, 0x0, false, 0xFFFFFFFF⟩,
  ⟨0x788000, [(4, 0x20)], 0x1004D4, 0x1FFFFF, 0x0, 0x200000, 0x0, false, 0x3FFFFF⟩,
  ⟨0x788004, [(4, 0x20)], 0x0, 0x0, 0x0, 0x0, 0x0, false, 0x3FFFFFFF⟩,
  ⟨0x788008, [(4, 0x20)], 0x0, 0x0, 0x0, 0x0, 0x0, false, 0xFFFFFFFF⟩,
  ⟨0x78800C, [(4, 0x20)], 0x0, 0x0, 0x0, 0x0, 0x0, false, 0x8000FFFF⟩,
  ⟨0x788010, [(4, 0x20)], 0x0, 0x0, 0x0, 0x0, 0x0, false, 0xFFFFFFFF⟩,
  ⟨0x788100, [], 0x5F3C, 0xFFFF, 0x0, 0x0, 0x0, false, 0xFFFF⟩,
  ⟨0x790000, [], 0x0, 0x0, 0x4, 0x0, 0x0, false, 0xFF1F⟩,
  ⟨0x790004, [], 0xC8BB8, 0x1FFFFFFF, 0x0, 0x0, 0x0, false, 0x1FFFFFFF⟩,
  ⟨0x790008, [], 0x8000, 0x0, 0x0, 0x0, 0x0, false, 0x1FFFFFF⟩,
  ⟨0x79000C, [], 0x0, 0x0, 0x0, 0x0, 0x0, false, 0xFFFFFFFF⟩,
  ⟨0x790010, [], 0x0, 0x0, 0x0, 0x0, 0x0, false, 0xFFFFFFFF⟩,
  ⟨0x790014, [], 0x0, 0x0, 0x0, 0x0, 0x0, false, 0xFFFFFF⟩,
  ⟨0x790018, [], 0x0, 0x0, 0x0, 0x0, 0x0, false, 0xFFFF0003⟩,
  ⟨0x79001C, [], 0x0, 0x0, 0x0, 0x0, 0x0, false, 0xFFFF⟩,
  ⟨0x790020, [], 0x2A, 0x3FF, 0x0, 0x0, 0xC00, false, 0xFFF⟩,
  ⟨0x790024, [], 0x0, 0x0, 0x0, 0x0, 0x0, false, 0xFFFFFFFF⟩,
  ⟨0x790028, [], 0x0, 0x0, 0x0, 0x0, 0x0, false, 0x1FF⟩]
/-- Register descriptors of the block flt. -/
def Regs.flt : List RegDesc := [
  ⟨0x7C102C, [(256, 0x40)], 0x0, 0x0, 0x0, 0x0, 0xFFFFFFFF, false, 0xFFFFFFFF⟩,
  ⟨0x7C0000, [], 0x80, 0x0, 0x0, 0x0, 0x0, false, 0x3FFFF⟩,
  ⟨0x7C0004, [], 0x0, 0x0, 0x80000000, 0x0, 0x0, false, 0xFFFFFFFF⟩,
  ⟨0x7C0008, [], 0x492492, 0x0, 0x0, 0x0, 0x0, false, 0xFFFFFF⟩,
  ⟨0x7C000C, [], 0x0, 0x0, 0x0, 0x0, 0x0, false, 0xFFFF⟩,
  ⟨0x7C0010, [(8, 0x4)], 0x0, 0x0, 0x0, 0x0, 0x0, false, 0xFFFFFFFF⟩,
  ⟨0x7C0030, [(8, 0x4)], 0x0, 0x0, 0x0, 0x0, 0x0, false, 0xFFFFFFFF⟩,
  ⟨0x7C1000, [(256, 0x40), (16, 0x4)], 0x0, 0x0, 0x0, 0x0, 0x0, false, 0xFFFFFFFF⟩,
  ⟨0x7E0000, [], 0x0, 0x0, 0x0, 0x0, 0x0, false, 0xFFFF01FF⟩,
  ⟨0x7E0004, [], 0x0, 0x0, 0x0, 0x0, 0x1, false, 0x1⟩,
  ⟨0x7E0008, [], 0x0, 0x1F, 0x0, 0x0, 0x0, false, 0x1F⟩,
  ⟨0x7E8000, [(16, 0x4)], 0x0, 0x7F, 0x0, 0x0, 0x0, false, 0xFFFF007F⟩,
  ⟨0x7E8040, [(16, 0x4)], 0x1000100, 0x0, 0x0, 0x0, 0x0, false, 0xFFFFFFFF⟩,
  ⟨0x7E8080, [], 0x0, 0x0, 0x0, 0x0, 0x0, false, 0xFFFFFFFF⟩,
  ⟨0x7E9000, [(2048, 0x4)], 0x0, 0x0, 0x0, 0x0, 0x0, false, 0xFFFFFF⟩]
/-- Register descriptors of the block que. -/
def Regs.que : List RegDesc := [
  ⟨0x800000, [], 0x0, 0x0, 0x0, 0x0, 0x0, false, 0xFFFFF⟩,
  ⟨0x800010, [(8, 0x4)], 0x0, 0x0, 0x0, 0x0, 0x0, false, 0xFFFFFFFF⟩,
  ⟨0x800030, [(8, 0x4)], 0x0, 0xFFFFFFFF, 0x0, 0x0, 0x0, false, 0xFFFFFFFF⟩,
  ⟨0x800050, [], 0x0, 0x0, 0x0, 0x0, 0xFF0F, false, 0xFF0F⟩,
  ⟨0x800054, [], 0x0, 0x0, 0x2, 0x0, 0x0, false, 0xFF3⟩,
  ⟨0x800100, [(70, 0x4)], 0x0, 0xFFFFFFFF, 0x0, 0x0, 0x0, false, 0xFFFFFFFF⟩,
  ⟨0x800300, [(92, 0x4)], 0x0, 0x0, 0x0, 0x0, 0x0, false, 0xFFFFFFFF⟩,
  ⟨0x800500, [(24, 0x4)], 0x0, 0x0, 0x0, 0x0, 0x0, false, 0xFFFFFFFF⟩,
  ⟨0x800580, [(24, 0x4)], 0x0, 0x0, 0x0, 0x0, 0x0, false, 0xFFFFFFFF⟩,
  ⟨0x800600, [(4, 0x40), (12, 0x4)], 0x0, 0x0, 0x0, 0x0, 0x0, false, 0xFFFFFFFF⟩,
  ⟨0x800700, [], 0x0, 0x0, 0x0, 0x0, 0x0, false, 0xFFFFFFFF⟩,
  ⟨0x800704, [], 0x0, 0x0, 0x0, 0x0, 0x0, false, 0xFFFFFFFF⟩,
  ⟨0x800708, [], 0x0, 0x0, 0x0, 0x0, 0x0, false, 0xFFFFFFFF⟩,
  ⟨0x80070C, [], 0x0, 0x0, 0x0, 0x0, 0x0, false, 0xFFFFFFFF⟩,
  ⟨0x800710, [(12, 0x4)], 0x0, 0x0, 0x0, 0x0, 0x0, false, 0xFFFFFFFF⟩,
  ⟨0x800740, [], 0x0, 0x0, 0x0, 0x0, 0x0, false, 0xFFFF01FF⟩,
  ⟨0x800744, [], 0x0, 0x0, 0x0, 0x0, 0x0, false, 0xFFFFFFFF⟩,
  ⟨0x810000, [(16, 0x100), (64, 0x4)], 0x0, 0x0, 0x0, 0x0, 0x0, false, 0xFFFFFFFF⟩,
  ⟨0x840000, [], 0x0, 0x0, 0x0, 0x0, 0x0, false, 0xFF3F07⟩,
  ⟨0x840004, [], 0x0, 0x0, 0x0, 0x0, 0x0, false, 0x7F⟩,
  ⟨0x840010, [(12, 0x4)], 0x0, 0x0, 0x0, 0x0, 0x0, false, 0xFFFFFFFF⟩,
  ⟨0x840040, [(12, 0x4)], 0x0, 0x0, 0x0, 0x0, 0x0, false, 0xFFFFFFFF⟩,
  ⟨0x840100, [(4, 0x10)], 0x0, 0x0, 0x80000000, 0x0, 0x0, false, 0x8003FFF7⟩,
  ⟨0x840104, [(4, 0x10)], 0x0, 0x0, 0x0, 0x0, 0x0, false, 0xFFFFFFFF⟩,
  ⟨0x840108, [(4, 0x10)], 0x0, 0x0, 0x0, 0x0, 0x0, false, 0xFFFFFFFF⟩,
  ⟨0x84010C, [(4, 0x10)], 0x0, 0x0, 0x0, 0x0, 0x0, false, 0x1FFFFF⟩]
/-- Register descriptors of the block smb. -/
def Regs.smb : List RegDesc := [
  ⟨0x900000, [], 0x28, 0x7F, 0x0, 0x0, 0x0, false, 0x7F⟩,
  ⟨0x900004, [], 0x0, 0x0, 0x2, 0x0, 0x0, false, 0xFF03⟩,
  ⟨0x900008, [], 0x1A, 0x1F, 0x0, 0x0, 0x0, false, 0x1F⟩,
  ⟨0x90000C, [], 0x0, 0x0, 0x0, 0x0, 0x0, false, 0xFFFF⟩]
/-- Register descriptors of the block bar2. -/
def Regs.bar2 : List RegDesc := [
  ⟨0x10000000, [], 0x0, 0x3F, 0x0, 0x0, 0x0, false, 0x3F⟩,
  ⟨0x10000004, [], 0x0, 0x0, 0x0, 0x0, 0x0, false, 0x7F3F⟩,
  ⟨0x10000008, [], 0x0, 0x3F, 0x0, 0x0, 0x0, false, 0x3F⟩,
  ⟨0x1000000C, [], 0x0, 0x0, 0xFF, 0x0, 0x0, false, 0xFF⟩,
  ⟨0x10000010, [], 0x0, 0xFF, 0x0, 0x0, 0x0, false, 0xFF⟩,
  ⟨0x10000014, [], 0x0, 0x0, 0x0, 0x0, 0x0, false, 0x1F07⟩,
  ⟨0x10000020, [], 0x0, 0x1F, 0x0, 0x0, 0x0, false, 0x1F⟩,
  ⟨0x10000024, [], 0x0, 0x0, 0x0, 0x0, 0x0, false, 0xFFFF001F⟩,
  ⟨0x10000100, [(16, 0x4)], 0x0, 0x0, 0x0, 0x0, 0x0, false, 0xFFFFFFF⟩]

/-- The block of descriptors an address belongs to (R409). -/
def Regs.block (a : Nat) : List RegDesc :=
  if a < 0x100000 then Regs.hive
  else if a < 0x200000 then Regs.lane
  else if a < 0x300000 then Regs.rte
  else if a < 0x400000 then Regs.str
  else if a < 0x480000 then Regs.siv
  else if a < 0x4C0000 then Regs.mtr
  else if a < 0x500000 then Regs.fbcUgt
  else if a < 0x580000 then Regs.gce
  else if a < 0x600000 then Regs.smk
  else if a < 0x700000 then Regs.wrk
  else if a < 0x780000 then Regs.tim
  else if a < 0x7C0000 then Regs.hskPwr
  else if a < 0x800000 then Regs.flt
  else if a < 0x900000 then Regs.que
  else if a < 0x1000000 then Regs.smb
  else if a < 0x10000000 then []
  else Regs.bar2

/-- True when the offset `o` is that of a unit of the dimensions `dims` (count, stride), largest stride first. -/
def Regs.inDims : List (Nat × Nat) → Nat → Bool
  | [], o => o == 0
  | (n, st) :: ds, o => decide (o / st < n) && Regs.inDims ds (o % st)

/-- True when address `a` is an address of the described register. -/
def Regs.hit (d : RegDesc) (a : Nat) : Bool := decide (d.base ≤ a) && Regs.inDims d.dims (a - d.base)

/-- The descriptor of the register at `a`, when one exists (R408, R409). -/
def Regs.find (a : Nat) : Option RegDesc := (Regs.block a).find? (fun d => Regs.hit d a)

/-- The MSI-X table (R381): each vector control word's Mask bit resets to 1, as PCI Express defines. -/
def Regs.isMsixCtl (a : Nat) : Bool := decide (0x10004000 ≤ a) && decide (a < 0x10004400) && (a % 16 == 12)

/-- The word an unlisted register address holds: the reset value of its field table; 0 elsewhere (R8). -/
def Regs.resetOf (a : Nat) : Word :=
  match Regs.find a with
  | some d => BitVec.ofNat 32 d.reset
  | none => if Regs.isMsixCtl a then 1 else 0

end Sys2Proof.Machine
end

