-- ==== Sys2Proof/Machine/Tbl.lean ====
section
/-! DEFINITION. Sparse tables in one canonical form: pairs of a key and a value, keys strictly rising, and no pair that
holds what an unlisted key reads as. Register words, unit records and byte memories are kept in them. -/

namespace Sys2Proof.Machine

/-- A sparse table: strictly rising keys. -/
abbrev Tbl (α : Type) := List (Nat × α)

/-- What the table holds at `k`; `d k` where `k` is not listed. -/
def Tbl.get {α : Type} (d : Nat → α) : Tbl α → Nat → α
  | [], k => d k
  | (k', v) :: t, k => if k = k' then v else Tbl.get d t k

/-- The table without what it lists at `k`. -/
def Tbl.del {α : Type} : Tbl α → Nat → Tbl α
  | [], _ => []
  | (k', v) :: t, k => if k = k' then Tbl.del t k else (k', v) :: Tbl.del t k

/-- The table with a pair put before the first higher key. -/
def Tbl.ins {α : Type} (k : Nat) (v : α) : Tbl α → Tbl α
  | [] => [(k, v)]
  | (k', v') :: t => if k < k' then (k, v) :: (k', v') :: t else (k', v') :: Tbl.ins k v t

/-- The table with `v` at `k`; writing what an unlisted key reads as removes the entry. -/
def Tbl.put {α : Type} [DecidableEq α] (d : Nat → α) (t : Tbl α) (k : Nat) (v : α) : Tbl α :=
  if v = d k then Tbl.del t k else Tbl.ins k v (Tbl.del t k)

/-- Every key of the table is above `b`, keys rise strictly, and no entry equals its default. -/
def Tbl.wfFrom {α : Type} [DecidableEq α] (d : Nat → α) : Nat → Tbl α → Bool
  | _, [] => true
  | b, (k, v) :: t => decide (b ≤ k) && !decide (v = d k) && Tbl.wfFrom d (k + 1) t

/-- The canonical form. -/
def Tbl.wf {α : Type} [DecidableEq α] (d : Nat → α) (t : Tbl α) : Bool := Tbl.wfFrom d 0 t

/-- Writes a list of values at rising keys from `k`. -/
def Tbl.putList {α : Type} [DecidableEq α] (d : Nat → α) (t : Tbl α) (k : Nat) : List α → Tbl α
  | [] => t
  | v :: vs => Tbl.putList d (Tbl.put d t k v) (k + 1) vs

/-- The `n` values from key `k` on. -/
def Tbl.getList {α : Type} (d : Nat → α) (t : Tbl α) (k : Nat) : Nat → List α
  | 0 => []
  | n + 1 => Tbl.get d t k :: Tbl.getList d t (k + 1) n

end Sys2Proof.Machine
end

