-- ==== Sys2Proof/Machine/State.lean ====
section
/-! DEFINITION. The state of the block as plain data: registers, unit records, fault records, journal, queues and byte
memories; the stop reasons; and the state right after reset. -/

namespace Sys2Proof.Machine

/-- Faults: none. No rule of the spec stops the block: it turns every command away with a status or acts on it. -/
inductive Fault where
deriving DecidableEq, Repr

/-- Refusals. -/
inductive Refusal where
  /-- Raised by Dispatch for a command that has no meaning yet; safe: the machine stops. -/
  | notModelled (mnemonic : String)
deriving DecidableEq, Repr

/-! ## Records of the units -/

/-- Hive states (R359, R399). -/
inductive Mode where
  | cold | boot | verify | run | degraded | safe | halt
deriving DecidableEq, Repr

/-- A fault record (R374), without its generation word. -/
structure FaultRec where
  valid : Bool
  cls : Nat
  cause : Nat
  source : Nat
  level : Nat
  shown : Nat
  active : Bool
  sc : Bool
  /-- The raising rule says that the fault clears itself (R356). -/
  selfc : Bool
  acked : Bool
  remote : Bool
  ktimed : Bool
  origin : Nat
  argFirst : Nat
  argLast : Nat
  count : Nat
  first : Nat
  last : Nat
  epFirst : Nat
  epLast : Nat
  gen : Nat
  /-- The scrubber found the memory error, not a use (R30). -/
  byScrub : Bool
deriving DecidableEq, Repr

/-- A free record slot. -/
def FaultRec.free : FaultRec :=
  ⟨false, 0, 0, 0, 0, 0, false, false, false, false, false, false, 0, 0, 0, 0, 0, 0, 0, 0, 0, false⟩

/-- A journal entry without its sequence number and link (R301). -/
structure JEntry where
  gtc : Nat
  epoch : Nat
  source : Nat
  iface : Nat
  kind : Nat
  status : Nat
  flags : Nat
  target : Nat
  old : Nat
  new : Nat
  arg : Nat
deriving DecidableEq, Repr

/-- An appended journal entry: sequence number, contents, and the first 24 bytes of the chain value (R301, R302). -/
structure JRing where
  seq : Nat
  e : JEntry
  link : Nat
deriving DecidableEq, Repr

/-- Scheduled operations (R249). A sparing move carries its worker, a reset its level and unit, a rate epoch its tenant
and its weights word, a bank swap its half number (2s + h). -/
inductive SchedKind where
  | bankSwap (half : Nat)
  | streamSwitch (n : Nat)
  | patchAct (p : Nat)
  | mapChange (l : Nat)
  | sparing (w : Nat)
  | snapshot
  | reset (level : Nat) (unit : Nat)
  | rateEpoch (t : Nat) (weights : Nat)
deriving DecidableEq, Repr

/-- A pending operation: its instant and what it does. -/
structure SchedOp where
  t : Nat
  kind : SchedKind
deriving DecidableEq, Repr

/-- A taken command whose completion has not been written: what its completion entry needs (R382). -/
structure CmdTok where
  via : Via
  entry : Nat
  irq : Bool
  tag : Nat
  op : Nat
  taken : Nat
deriving DecidableEq, Repr

/-- Smoker, equalisation and switching state of a stream that no register shows (R197 to R201, R46, R54, R55). -/
structure StreamSt where
  /-- The multiplier in force. -/
  ms : Nat
  /-- The running ramp: shape, length L in samples, and whether a stop follows it. -/
  shape : Nat
  len : Nat
  toIdle : Bool
  /-- The tick and multiplier of the trigger that started the running ramp down. -/
  trigAt : Nat
  trigMs : Nat
  /-- The cause that names the running ramp down; 10 for a stop and for the entry into SAFE (R202). -/
  rampBy : Nat
  /-- Fault map situations that hold (bit c), those that took the mute action, and those that took silence. -/
  sit : Nat
  muteSit : Nat
  silSit : Nat
  /-- The kernel detour has been removed by a bypass. -/
  bypass : Bool
  /-- The store delay that a bypass has put in force where equalisation does not maintain it (R53). -/
  byp : Option Nat
  /-- Equalisation: the needed delay last computed, whether the measurement before it differed too, the last move. -/
  eqWant : Nat
  eqDiff : Nat
  eqAt : Nat
  /-- The store delay in force, once the hive maintains it. -/
  dNow : Option Nat
  /-- Ingress delays: the agreed targets, consecutive measurements that agree, the last move. -/
  inWant : Nat × Nat
  inDiff : Nat
  inAt : Nat
  /-- Aligned sample pairs compared equal since the last difference (R55), up to 4,096. -/
  same : Nat
  /-- A pair among the last 4,096 aligned ones differed (R56). -/
  differed : Bool
  /-- Samples written since READY to the buffer that a pending patch gives the stream (R273). -/
  primed : Nat
  /-- Samples written to the store since start, the open format-B block, and the sample of a repeat. -/
  wr : Nat
  blk : List Sample
  /-- The tick at which the stream last became LIVE (R134). -/
  liveAt : Nat
  /-- Samples of the source and of the alternate that wait at the ingress, oldest first (R54). -/
  inPri : List Sample
  inAlt : List Sample
  /-- Samples written to the two ingress buffers of a dual-homed stream, and their open format-B blocks (R48, R54). -/
  inWr : Nat × Nat
  inBlk : List Sample × List Sample
  /-- Taint of the store's 16-sample blocks, newest first, and whether the open block is tainted (R108). -/
  tb : List Bool
  /-- Power of the samples at stage 6's input, newest first, none for a tainted one (R122). -/
  k6 : List (Option Nat)
  /-- Untainted samples so far; those that a peak can be (number and power, newest first, each stronger than every later one);
  and the envelope with 17 fraction bits (R119, R121). -/
  pkN : Nat
  pk : List (Nat × Nat)
  env : Nat
  /-- A kernel's fade-in after a wake: samples still to come, of how many (R229). -/
  fade : Nat
  fadeLen : Nat
deriving DecidableEq, Repr

/-- A stream right after reset. -/
def StreamSt.init : StreamSt where
  ms := 0
  shape := 0
  len := 0
  toIdle := false
  trigAt := 0
  trigMs := 0
  rampBy := 0
  sit := 0
  muteSit := 0
  silSit := 0
  bypass := false
  byp := none
  eqWant := 0
  eqDiff := 0
  eqAt := 0
  dNow := none
  inWant := (0, 0)
  inDiff := 0
  inAt := 0
  same := 0
  differed := false
  primed := 0
  wr := 0
  blk := []
  liveAt := 0
  inPri := []
  inAlt := []
  inWr := (0, 0)
  inBlk := ([], [])
  tb := []
  k6 := []
  pkN := 0
  pk := []
  env := 0
  fade := 0
  fadeLen := 0

/-- State of a slice half that no register shows: DC estimate with 32 fraction bits, NCO phase, resampler position,
settling samples left, the overrange bit since the last output, the FIR delay line (newest first), the moving-average
window (newest first; none for a tainted sample), both banks, and whether an input since the last output came tainted. -/
structure HalfSt where
  dI : Int
  dQ : Int
  ph : Nat
  dec : Nat
  acc : Int
  settleLeft : Nat
  ovrBit : Bool
  line : List (Int × Int)
  win : List (Option Nat)
  bankA : CoefSet
  bankB : CoefSet
  satIn : Bool
  /-- Samples from slice0 of a cascade that wait for this half, each with its taint by a saturation there (R92, R107). -/
  inq : List (Sample × Bool)
deriving DecidableEq, Repr

/-- A slice half right after reset. -/
def HalfSt.init : HalfSt := ⟨0, 0, 0, 0, 0, 0, false, [], [], CoefSet.none, CoefSet.none, false, []⟩

/-- One sub-band sample of a sieve bank: the number of its block, the 512 values, and its taint (R108, R112). -/
structure SubBlk where
  blk : Nat
  v : List (Int × Int)
  taint : Bool
deriving DecidableEq, Repr

/-- A combine group: samples waiting at each slot, sub-band samples waiting at each slot, and the slots dropped by the fault map. -/
structure GroupSt where
  slots : List (Nat × List Sample)
  sub : List (Nat × List SubBlk)
  dropped : Nat
deriving DecidableEq, Repr

/-- A combine group right after reset. -/
def GroupSt.init : GroupSt := ⟨[], [], 0⟩

/-- One spectral window of a stream (R123): valid when no sub-band sample of it is tainted or filling, log2 of its length in
sub-band samples, and for each of the 512 sub-bands the exact sum of I^2 + Q^2 over them. -/
structure SpecWindow where
  valid : Bool
  lg : Nat
  p : List Nat
deriving DecidableEq, Repr

/-- A sieve bank (R108, R112, R114, R123, R164, R167): stream samples still to be delivered as zero; samples in the open block,
its number and whether one fell in the filling state; untainted samples in a row, up to 4,096; the tile accumulators with their
tile and marks; the open spectral window (sums, length so far, whether it is invalid, whether it waits for the next block) and the last
whole one with whether the meters and the tracker have yet to take it; for a synthesis bank the zero blocks and the untainted
blocks in a row, up to 8; and for a gating delay line the blocks written and those it holds (number and taint, oldest first). -/
structure BankSt where
  fill : Nat
  cnt : Nat
  blk : Nat
  bfill : Bool
  clean : Nat
  acc : List Nat
  accTile : Nat
  accTaint : Bool
  accFill : Bool
  wsum : List Nat
  wn : Nat
  wbad : Bool
  wskip : Bool
  wdone : Option SpecWindow
  wmeter : Bool
  wtrk : Bool
  zeros : Nat
  tclean : Nat
  wr : Nat
  held : List (Nat × Bool)
deriving DecidableEq, Repr

/-- A sieve bank right after reset: nothing but zeros has passed. -/
def BankSt.init : BankSt where
  fill := 0
  cnt := 0
  blk := 0
  bfill := false
  clean := 4096
  acc := []
  accTile := 0
  accTaint := false
  accFill := false
  wsum := []
  wn := 0
  wbad := false
  wskip := false
  wdone := none
  wmeter := false
  wtrk := false
  zeros := 8
  tclean := 8
  wr := 0
  held := []
/-- A tenant's usage interval (R376): whether one is open, its accumulators, its flags, the length in force, and the
weights of the millisecond in progress (w_bw in [15:0], w_e in [31:16]). -/
structure UsageSt where
  opened : Bool
  gen : Nat
  start : Nat
  last : Nat
  bwRaw : Nat
  bwWt : Nat
  eRaw : Nat
  eWt : Nat
  ms : Nat
  unmet : Nat
  short : Bool
  wchg : Bool
  lenNow : Nat
  wAcc : Nat
deriving DecidableEq, Repr

/-- No interval open; weights 1.000 (R367). -/
def UsageSt.init : UsageSt := ⟨false, 0, 0, 0, 0, 0, 0, 0, 0, 0, false, false, 0, 0x1000100⟩

/-- An entry of the usage ring (R376). -/
structure UsageEnt where
  seq : Nat
  tenant : Nat
  flags : Nat
  epoch : Nat
  start : Nat
  last : Nat
  bwRaw : Nat
  bwWt : Nat
  eRaw : Nat
  eWt : Nat
  ms : Nat
  unmet : Nat
deriving DecidableEq, Repr

/-- A flush slot of keeper MRAM (R366, R367): the header's fields and the copies of the areas. -/
structure SlotSt where
  magic : Bool
  complete : Bool
  crcGood : Bool
  seq : Nat
  reason : Nat
  ktimed : Bool
  epoch : Nat
  gtcTrig : Nat
  gtcDone : Nat
  words : Tbl Word
  faults : Tbl FaultRec
  usage : Tbl UsageSt
  ring : Tbl (Option UsageEnt)
  ctl : List Nat
deriving DecidableEq, Repr

/-- A slot that holds no flush. -/
def SlotSt.empty : SlotSt := ⟨false, false, false, 0, 0, false, 0, 0, 0, [], [], [], [], []⟩
/-- What became of a fault record in the cycle `tick`, for an occurrence of the same fault later in the cycle (R358): its slot, the
record as it was, or with its condition ended, and the write that acknowledged it. -/
structure FltMark where
  tick : Nat
  slot : Nat
  was : FaultRec
  ack : Option Nat
deriving DecidableEq, Repr

/-- A fault lost in the cycle `tick`: the record it would have taken, its HUM pin, and FLT.LOST before it (R357, R358). -/
structure LostMark where
  tick : Nat
  was : FaultRec
  hum : Nat
  before : Word
deriving DecidableEq, Repr

/-- A barrier (R245, R246): hive IDs whose arrive token has come, the waggle command that opened it, the tick of its opening, and that
this hive has passed its arrive on. -/
structure BarSt where
  arrived : Nat
  tok : Option CmdTok
  opened : Nat
  sent : Bool
deriving DecidableEq, Repr

/-- A barrier that has never been opened. -/
def BarSt.init : BarSt := ⟨0, none, 0, false⟩
/-- A bridge: a wire group has failed, the spare is in use, the bridge has failed as a whole, the streams whose traffic is
being moved off it, those it carries, and the bridge-6 streams whose detour runs over it (R13, R14). -/
structure BridgeSt where
  wgFail : Bool
  spare : Bool
  dead : Bool
  moving : List Nat
  carry : List Nat
  det : List Nat
deriving DecidableEq, Repr

/-- A bridge right after reset. -/
def BridgeSt.init : BridgeSt := ⟨false, false, false, [], [], []⟩
/-- A maintenance activity, running or waiting (R388 to R391): its code, unit, the command that started it, the file of a
patch load or firmware switch, its progress count, the
tick at which it or its present phase began, its place among the waiting requests, and abort commands that wait for
its end. -/
structure MaintSt where
  act : Nat
  unit : Nat
  tok : CmdTok
  file : Option TolFile
  a1 : Nat
  a2 : Nat
  cnt : Nat
  since : Nat
  seq : Nat
  stop : List CmdTok
deriving DecidableEq, Repr
/-- A lane's receiver (R80, R77, R79, R81): the expected cw_index, consecutive good codewords in CW_SEARCH, consecutive
failed ones in UP, codewords since codeword 0 in CONFIRM, the tick of codeword 0 in DESKEW, whether the multiframe's map
is held, the message being assembled and the last whole one, symbol errors and failed codewords of the present second,
the delay request outstanding (sequence, t1), the map sent and the one a pending change names, frames dropped, the map last held
on receive, and of the last good codeword in UP the far end's state, position and lanes and its urgent byte (R74). On transmit
(R72, R73, R77): the rest of the message in progress, the scrambler, the last payload and its 2,720 line symbols, two bits
each. -/
structure LaneSt where
  idx : Nat
  run : Nat
  fails : Nat
  clean : Nat
  mfTick : Nat
  mapOk : Bool
  msgOn : Bool
  msg : List Nat
  msgLast : List Nat
  sym : Nat
  unc : Nat
  dlySeq : Nat
  dlyT1 : Nat
  dlyWait : Bool
  txMap : Nat
  mapNext : Nat
  drops : Nat
  mapUse : Nat
  farState : Nat
  farPos : Nat
  farLanes : Nat
  farUrgent : Nat
  cur : List Nat
  scr : Nat
  txCw : Nat
  txLine : Nat
deriving DecidableEq, Repr

/-- A lane right after reset. -/
def LaneSt.init : LaneSt where
  idx := 0
  run := 0
  fails := 0
  clean := 0
  mfTick := 0
  mapOk := false
  msgOn := false
  msg := []
  msgLast := []
  sym := 0
  unc := 0
  dlySeq := 0
  dlyT1 := 0
  dlyWait := false
  txMap := 0
  mapNext := 0
  drops := 0
  mapUse := 0
  farState := 0
  farPos := 0
  farLanes := 0
  farUrgent := 0
  cur := []
  scr := 0
  txCw := 0
  txLine := 0

/-- An eCPRI channel's playout (R68): depth P in samples, samples per message, whether it runs, the sequence numbers next
to play and next expected, messages held, sequence numbers received and declared missing of late, whether 64 periods
passed without a message, and the next sequence number to send. -/
structure EthSt where
  depth : Nat
  spm : Nat
  on : Bool
  next : Nat
  want : Nat
  held : List (Nat × List Sample)
  seen : List Nat
  gone : List Nat
  down : Bool
  txSeq : Nat
deriving DecidableEq, Repr

/-- A channel the image does not describe. -/
def EthSt.init : EthSt := ⟨0, 0, false, 0, 0, [], [], [], false, 0⟩
/-- A histogram of MSTAT with its extremes (R220, R363): 64 counts, minimum and maximum with their GTC, none before the
first sample, and the GTC of the first and last sample. -/
structure HistSt where
  bins : List Nat
  lo : Option (Int × Nat)
  hi : Option (Int × Nat)
  span : Option (Nat × Nat)
deriving DecidableEq, Repr

/-- An empty histogram. -/
def HistSt.init : HistSt := ⟨[], none, none, none⟩

/-- A worker (R221, R222, R230): misses in a row, whether its kernel is lost and the tick of the last loss plus 1, whether
its present block still returns as zeros (samples left), whether a measurement runs, the spare's worker number while a move is prepared or done,
and whether the move waits for its comb to wake. -/
structure WorkSt where
  missRun : Nat
  lost : Bool
  lostAt : Nat
  zero : Nat
  meas : Bool
  moveTo : Option Nat
  waits : Bool
  resumeAt : Nat
  path : List Sample
deriving DecidableEq, Repr

/-- A worker right after reset. -/
def WorkSt.init : WorkSt := ⟨0, false, 0, 0, false, none, false, 0, []⟩

/-- A comb (R21, R22, R29, R227, R231): its last completed spare BIST passed, it was woken for a scrub pass only, it wakes,
the start of the wake from off; the tick and the GTC at which it went to sleep; the tick of its last wake trigger plus 1; and
the tick since which the conditions of sleep have held. -/
structure CombSt where
  bistOk : Bool
  scrub : Bool
  waking : Bool
  fromOff : Bool
  sleptAt : Nat
  sleptGtc : Nat
  trigAt : Nat
  idleAt : Option Nat
deriving DecidableEq, Repr

/-- A comb right after reset. -/
def CombSt.init : CombSt := ⟨true, false, false, false, 0, 0, 0, none⟩
/-- The network protection of a stream (R124, R129 to R134): the previous valid window's line excess; the averages a_k as
numerators over 1024 ^ aExp in units of Q8.8; consecutive low and negative margins; the conditions that held at their last
evaluation, each with the ticks of its start and of that evaluation; the ticks of the LIMITs of criteria 0 to 2; learning's
time in units of 2^-64 tick, its sum and count; the tick since which every criterion has been clear with the stream LIVE;
and the level L6 of the last meter tick. -/
structure NpmSt where
  prev : Option Int
  avg : List Int
  aExp : Nat
  lowM : Nat
  negM : Nat
  holds : List (Nat × Nat × Nat)
  limAt : List Nat
  learnT : Nat
  learnSum : Int
  learnN : Nat
  okAt : Option Nat
  l6 : Option Int
deriving DecidableEq, Repr

/-- A stream's monitor right after reset. -/
def NpmSt.init : NpmSt := ⟨none, [], 0, 0, 0, [], [0, 0, 0], 0, 0, 0, none, none⟩

/-- A tracker slot (R125 to R127, R216): its parameters, candidates not yet acquired (first, last, windows), the residue's
candidates (first, last), the tick at which each absent entry became so, and a window counted invalid by a miss. -/
structure TrkSt where
  detect : Int
  acquire : Nat
  release : Nat
  wake : Bool
  cand : List (Nat × Nat × Nat)
  res : List (Nat × Nat)
  away : List (Nat × Nat)
  skip : Bool
deriving DecidableEq, Repr

/-- A tracker slot with the default parameters (R125). -/
def TrkSt.init : TrkSt := ⟨1536, 8, 10, false, [], [], [], false⟩

/-- The signals of a canceller (R140, R144, R147): samples carry fractions of 2^-32. The shift register; the shaping filter's input,
newest first; the block that fills (its number and samples) and the one before it (number, samples, reference samples until its
end), the next block to process; samples to return, each with the probe in it; the probe of the sample being returned; the
probe as the stream's output carries it, newest first; and the reference with the probe in it, newest first, with its count. -/
structure EchoSt where
  lfsr : Nat
  raw : List (Int × Int)
  vblk : Nat
  vcur : List Sample
  vold : Option (Nat × List Sample × Nat)
  next : Nat
  outq : List (Sample × (Int × Int))
  pin : Int × Int
  qout : List (Int × Int)
  ref : List ((Int × Int) × (Int × Int))
  refN : Nat
deriving DecidableEq, Repr

/-- Nothing has passed. -/
def EchoSt.init : EchoSt := ⟨0, [], 0, [], none, 0, [], (0, 0), [], [], 0⟩

/-- The statistics of a canceller's publication window (R145, R148, R150): its number; updates with the sums of
E conj(Q) / S_q in units of 2^-40 and of |E|^2 by bin; blocks with the sum of their in-band noise powers; and samples with the sum
of |e|^2. -/
structure FbWin where
  win : Nat
  upd : Nat
  g : List (Int × Int)
  e2 : List Nat
  blocks : Nat
  noise : Nat
  n : Nat
  pe : Nat
deriving DecidableEq, Repr

/-- An empty window. -/
def FbWin.init : FbWin := ⟨0, 0, [], [], 0, 0, 0, 0⟩

/-- The detection window that is open (R153, R156): its length in blocks and number, COLLAPSE and the MARGIN set-point at its start,
and the sums of e conj(q) at the K lags, of |q|^2 and of |e|^2. -/
structure FbDet where
  len : Nat
  win : Nat
  col : Int
  tgt : Int
  c : List (Int × Int)
  q2 : Nat
  e2 : Nat
deriving DecidableEq, Repr

/-- No window is open. -/
def FbDet.init : FbDet := ⟨0, 0, 0, 0, [], 0, 0⟩

/-- A detection window that has ended: its tick, d_fast and d_res where they have a value, and what FbDet held of the registers. -/
structure FbRes where
  at_ : Nat
  dfast : Option Int
  dres : Option Int
  col : Int
  tgt : Int
deriving DecidableEq, Repr

/-- A canceller slot (R145, R147 to R155): updates since its state was entered, adapting blocks of the publication window, the
d_fast that the next publication is bounded by, the latest d_fast, publications in a row with the margin at its target, and the
probe level; its signals; the estimate by partition (exponent, and mantissas by bin); the statistics, the running mean G with the
updates behind it; the principal taps, the detection window, the one that has ended; and the tick of the last bank swap, plus 1. -/
structure CancSt where
  upd : Nat
  adapt : Nat
  bound : Option Int
  latest : Option Int
  okPubs : Nat
  probe : Option Int
  e : EchoSt
  est : List (Nat × List (Int × Int))
  win : FbWin
  g : List (Int × Int)
  gN : Nat
  taps : List Nat
  det : FbDet
  res : Option FbRes
  swapAt : Nat
deriving DecidableEq, Repr

/-- A canceller slot right after reset. -/
def CancSt.init : CancSt :=
  ⟨0, 0, none, none, 0, none, EchoSt.init, [], FbWin.init, [], 0, [], FbDet.init, none, 0⟩

/-- One sub-band of an input of a gated group (R165, R168, R174): the floor as a mantissa of 24 bits and an exponent of 8, none
before the first usable tile; tiles since the last one above threshold, 0 for none; tiles above threshold in a row; whether it
counts as stuck; and its last enable with the reason. -/
structure UgtSub where
  floor : Option (Nat × Nat)
  hang : Nat
  above : Nat
  stuck : Bool
  en : Bool
  why : Nat
deriving DecidableEq, Repr

/-- A sub-band nothing has been learned for. -/
def UgtSub.init : UgtSub := ⟨none, 0, 0, false, false, 0⟩

/-- An input slot of a gated group: its sub-bands, usable tiles in LEARNING, the state it left when PAUSED, the enables of the
last tiles decided (tile number, bit k for sub-band k), and the stream that feeds it, plus 1 (0 none). -/
structure UgtSlot where
  subs : List UgtSub
  cnt : Nat
  back : Nat
  ens : List (Nat × Nat)
  src : Nat
deriving DecidableEq, Repr

/-- A slot that nothing feeds. -/
def UgtSlot.init : UgtSlot := ⟨[], 0, 0, [], 0⟩

/-- A tile that has ended and waits for its decision (R164, R165, R169, R173): its number; sums, taint and filling by slot; the
slots whose LEARNING starts with the next tile; and as they stood at its end thr, hang, force_open and the group's sub-bands
that the residue forces open. -/
structure TileSt where
  idx : Nat
  sums : List (List Nat)
  tainted : List Bool
  filling : List Bool
  relearn : List Nat
  thr : Int
  hang : Nat
  force : Bool
  res : List Nat
deriving DecidableEq, Repr

/-- A gated group (R164, R172): its inputs, the tile that waits for its decision, and of the report interval: tiles, enables, sums of F and of the enabled F over a power of two, and the slots active. -/
structure UgtSt where
  slots : List UgtSlot
  tile : Option TileSt
  tiles : Nat
  ones : Nat
  sumF : Nat × Nat
  sumEF : Nat × Nat
  act : Nat
deriving DecidableEq, Repr

/-- A gated group right after reset. -/
def UgtSt.init : UgtSt := ⟨[], none, 0, 0, (0, 0), (0, 0), 0⟩

/-- A loop slot (R178 to R181, R191): the integrator in Q8.24, the last u' or the cap, whether it has been initialised, a new
reading since the last boundary; ticks without a reading, and while its stream is RAMP_UP or LIVE the tick since which more
count; the pending command with its stamp, and the one that was pending before it in that cycle. -/
structure LoopSt where
  integ : Int
  u : Int
  ready : Bool
  fresh : Bool
  quiet : Nat
  since : Option Nat
  cmd : Nat
  cmdAt : Nat
  cmdPrev : Nat
deriving DecidableEq, Repr

/-- A loop slot right after reset. -/
def LoopSt.init : LoopSt := ⟨0, 32767, false, false, 0, none, 0, 0, 0⟩

/-- A contest (R185): the contest value of the last boundary at which it ran. -/
structure ConSt where
  c : Option Int
deriving DecidableEq, Repr

/-- A contest right after reset. -/
def ConSt.init : ConSt := ⟨none⟩

/-- A set-point pin (R187 to R189, R298): the complement of its value, valid periods in a row, the conversions being
averaged (newest first), and the value in force before the readings came to rest at a rail. -/
structure PinSt where
  comp : Nat
  run : Nat
  conv : List Nat
  before : Option Nat
deriving DecidableEq, Repr

/-- A pin right after reset. -/
def PinSt.init : PinSt := ⟨65535, 0, [], none⟩
/-- A reset that was asked for (R252, R253): its level and unit, the command that waits for it, whether it has a T,
whether it has begun, and the tick of the request. -/
structure ResetSt where
  level : Nat
  unit : Nat
  tok : CmdTok
  timed : Bool
  begun : Bool
  reqAt : Nat
deriving DecidableEq, Repr

/-- A thermal sensor's tests (R337, R339): rounds in a row away from the median, rounds in a row back near it, broken, and
broken by a self-test. -/
structure SensSt where
  far : Nat
  near : Nat
  broken : Bool
  held : Bool
deriving DecidableEq, Repr

/-- A sensor right after reset. -/
def SensSt.init : SensSt := ⟨0, 0, false, false⟩

/-- The throttle ladder (R342, R343): rounds of grace, rounds since the last change or hold, rounds for which every die has
been out of throttle since the last change (none while one is in it), whether the request and a shutdown are in force, the
thresholds each die is above (bit 3d + k: 0 warning, 1 throttle, 2 shutdown), and what the levels from 5 on acted on: level,
whether it mutes, tenant. -/
structure LadderSt where
  grace : Nat
  step : Nat
  out : Option Nat
  request : Bool
  shut : Bool
  above : Nat
  acts : List (Nat × Bool × Nat)
deriving DecidableEq, Repr

/-- The ladder right after reset. -/
def LadderSt.init : LadderSt := ⟨0, 0, none, false, false, 0, []⟩

/-- A fan (R345 to R349): its duty during a fan learn, T_hot and the tick at a pulse loss whose trend is open, the tick at which
its spin-up, its run or its stall began, whether a stall at start (1) or a loss of pulses (2) is uncleared, the tick since which
it is slow, and the duty_min at which its low speed was learned. -/
structure FanSt where
  learn : Option Nat
  trend : Option (Int × Nat)
  since : Nat
  stall : Nat
  slowAt : Option Nat
  learnedAt : Nat
deriving DecidableEq, Repr

/-- A fan right after reset. -/
def FanSt.init : FanSt := ⟨none, none, 0, 0, none, 0⟩

/-- A command of QUE.CMD in progress (R282, R288, R304): its code and argument, the slot it names and the hash of a new owner
key, the puf_helper and wrap_seed it programs, the lifecycle it leads to, the tick of its last fuse or of its start, whether a
reset has left only the fuse under way to retry (R306), and the bytes of a quote with the chain value and the number of the
journal entry that they name. -/
structure QueJob where
  cmd : Nat
  arg : Nat
  slot : Option Nat
  hash : Nat
  helper : Nat
  seed : Nat
  life : Option Nat
  since : Nat
  retry : Bool
  quote : List Nat
  head : Nat
  headSeq : Nat
deriving DecidableEq, Repr

/-- A pending patch (R270, R281): its file, its flash offset and length, the maintenance handle of its load, and whether its
activated bit is still to be programmed. -/
structure PatchSt where
  file : TolFile
  off : Nat
  len : Nat
  handle : Option Nat
  programDue : Bool
deriving DecidableEq, Repr

/-- The image that VERIFY has passed, and the files the hive runs (R263 to R265, R279): slot and file hash of the verified
image, signing slots of the image and of the activated chain entries, the highest version among them, and a failed slot. -/
structure BootSt where
  verified : Option (Nat × Nat)
  failed : Option Nat
  signers : List Nat
  topVersion : Nat
  stopped : Bool
deriving DecidableEq, Repr

/-- Nothing verified. -/
def BootSt.init : BootSt := ⟨none, none, [], 0, false⟩

/-- The system island, the keeper and housekeeping, beside what registers show. -/
structure Sys where
  /-- Resets asked for and not yet done (R252). -/
  resets : List ResetSt
  /-- Main rails at or above their good level, one bit each in the order of PWR.STAT.rail_bad; a power-up order error whose
  fault is due; PWR_FAIL_N low at the release of the main domains; a power fail during BOOT or VERIFY; rung 0 (R311, R318, R328). -/
  railsGood : Nat
  seqDue : Bool
  pfPin : Bool
  bootStop : Bool
  rung0 : Bool
  /-- TEST_EN reads high: the hive stays in BOOT (R425). -/
  testEn : Bool
  /-- The tick since which every main rail is good (R311); the last transaction of the keeper class (R328); the tick since which the
  wait to restore runs (R326). -/
  mainAt : Nat
  smbAt : Nat
  wtrAt : Nat
  /-- The voltage across ISNS_P and ISNS_N in uV; Q_c in 1/1,024 uC; the tick since which the backup current is within 5 mA; Q_c at
  the start of a capacity learn (R319 to R321). -/
  isns : Int
  qAcc : Int
  calmAt : Nat
  learnQ : Int
  /-- The tick of the last end of a housekeeping round (R333). -/
  roundAt : Option Nat
  /-- The tick at which SCLK stopped, which keeper-timed stamps count from (R235). -/
  sclkStop : Nat
  /-- Sensors by channel; the ladder; T_hot of past rounds, newest first, up to 2,500; fans (R333 to R349). -/
  sens : Tbl SensSt
  ladder : LadderSt
  tHot : List Int
  fans : Tbl FanSt
  /-- OTP (R282): lifecycle 0 to 3, provisioned and revoked slots, rollback fuses, key hashes, puf_helper and wrap_seed, each as
  one number of its fuses; owner key copies in MRAM that fail their hash (R284). -/
  otpLife : Nat
  otpProv : Nat
  otpRev : Nat
  otpRoll : Nat
  otpHash : Tbl Nat
  pufHelper : Nat
  wrapSeed : Nat
  keysBad : Nat
  /-- A challenge is outstanding, and the tick of its issue; the queen's command in progress (R291, R306). -/
  chalOn : Bool
  chalAt : Nat
  qjob : Option QueJob
  /-- A quote is ready in QUE.QUOTE (R305, R399). -/
  quoteOk : Bool
  /-- Images and patches (R257 to R281): what was verified and runs, pending patches by slot, and patches already live
  whose activated bit is due. -/
  boot : BootSt
  patches : Tbl (Option PatchSt)
  /-- SMBus: keeper-class status, quote pointer, and by context window pointers, statuses of the last window access or
  submission, and the command bytes submitted to a mailbox (R397 to R404). -/
  kStatus : Nat
  quotePtr : Nat
  winPtr : Tbl Nat
  winStatus : Tbl Nat
  mbIn : Tbl (List Nat)
  /-- The level of the SMB_ADDR[2:0] pins (R398). -/
  smbAddr : Nat
deriving DecidableEq, Repr

/-- They right after reset. -/
def Sys.init : Sys where
  resets := []
  railsGood := 0
  seqDue := false
  pfPin := false
  bootStop := false
  rung0 := false
  testEn := false
  mainAt := 0
  smbAt := 0
  wtrAt := 0
  isns := 0
  qAcc := 0
  calmAt := 0
  learnQ := 0
  roundAt := none
  sclkStop := 0
  sens := []
  ladder := LadderSt.init
  tHot := []
  fans := []
  otpLife := 0
  otpProv := 0
  otpRev := 0
  otpRoll := 0
  otpHash := []
  pufHelper := 0
  wrapSeed := 0
  keysBad := 0
  chalOn := false
  chalAt := 0
  qjob := none
  quoteOk := false
  boot := BootSt.init
  patches := []
  kStatus := 0
  quotePtr := 0
  winPtr := []
  winStatus := []
  mbIn := []
  smbAddr := 0

/-- A stream-stop or unmute accepted in the cycle `tick`, and what it replaced, until the cycle ends (R205, R383). -/
structure CmdMark where
  tick : Nat
  n : Nat
  tok : CmdTok
  pos : Nat
  was : Nat
  bit9 : Bool
  st : StreamSt
  stat : Word
  npm : NpmSt
deriving DecidableEq, Repr


set_option maxRecDepth 4096 in
/-- The block: everything but the byte memories and the command queue. Registers are one sparse table keyed by address
(BAR2 at 0x1000_0000 + offset); what a register computes from other state is not stored. -/
structure Hive where
  /-- SCLK ticks since reset of the model (its own count, never loaded) and the global time-stamp counter (R234). -/
  ticks : Nat
  gtc : Nat
  /-- Count of free values drawn (the model's own). -/
  free : Nat
  /-- Hive state, the rules naming SAFE that are in force (bit 0 power fail, 1 thermal shutdown, 2 full debug, 3 EXTEST),
  and whether RUN or DEGRADED has been entered since the last reset (R359, R361). -/
  mode : Mode
  safeBy : Nat
  seenRun : Bool
  /-- Register words. -/
  regs : Tbl Word
  /-- W1C bits that hardware set and W1S bits that the host set, by register and bit, in the SCLK cycle `edgeAt` (R7). -/
  edges : List (Nat × Nat)
  edgeAt : Nat
  /-- Captures of high words, by requester and low-word address (R10). -/
  caps : Tbl (Option Word)
  /-- Bytes that the last read returned to its requester. -/
  resp : List Nat
  /-- Fault records by slot (R354); HUM pins toggling, the keeper's heartbeat and the queen's firmware (R360). -/
  faults : Tbl FaultRec
  hum : Nat
  keeperAlive : Bool
  queenUp : Bool
  /-- The journal: queue, ring in MRAM, next and oldest sequence numbers, chain value, entries since vector 6 (R300). -/
  jq : List JEntry
  jring : Tbl (Option JRing)
  jseq : Nat
  jold : Nat
  jhead : Nat
  jSince : Nat
  /-- Scheduled operations in the order they were accepted (R249). -/
  sched : List SchedOp
  /-- Streams of the running image, rising, and their hidden state. -/
  streams : List Nat
  strm : Tbl StreamSt
  /-- Samples that have come for dual-homed streams and are on their way into an ingress buffer: stream, whether of the
  alternate, sample (R54). -/
  inNew : List (Nat × Bool × Sample)
  /-- Slice halves (2s + h) and combine groups. -/
  half : Tbl HalfSt
  grp : Tbl GroupSt
  /-- The tick, plus 1, of the last sample that a slice accepted (R90). -/
  sliceAt : Tbl Nat
  /-- Sieve banks; sub-band samples on their way to a combine group (bank, block); and where the image puts the delay line of a
  gated group's bank, in words from the start of the store (R110, R167). -/
  sieve : Tbl BankSt
  subNew : List (Nat × SubBlk)
  lineBase : Tbl Nat
  /-- Commands running, submission indices of unread completions (oldest first), completions written (mod 128). -/
  running : List CmdTok
  cqUnread : List Nat
  cqCount : Nat
  /-- Mailbox completion entries by context: four words (R402). -/
  mbox : Tbl (List Nat)
  /-- Last message or frame handed to each transmitter: RYG link k at k, lane n at 256 + n. -/
  tx : Tbl (List Nat)
  /-- MSI-X messages sent by vector, the function mask, PCIe link state. -/
  msix : Tbl Nat
  fnMask : Bool
  pcieUp : Bool
  pcieWidth : Nat
  pcieRate : Nat
  /-- SMBus alert sources not yet reported: ranks of faults, backup, wake request, quote, mailboxes (R403). -/
  alFaults : List Nat
  alBak : Bool
  alWake : Bool
  alQuote : Bool
  alMb : Nat
  wakeReq : Bool
  /-- Rygayth links of the image: lanes by link position, and the links of the apiary tree towards the leaves. -/
  links : Tbl (List Nat)
  treeDown : List Nat
  /-- Event recorder: words of the die, lane and stream areas by byte offset (R362); the running flush: slot and reason,
  its trigger's stamp; the waiting flush's reason; the freeze by a power fail; flush sequence number (R366, R368). -/
  keeper : Tbl Word
  flush : Option (Nat × Nat)
  flushNext : Option Nat
  pfFrozen : Bool
  flushSeq : Nat
  flushAt : Nat
  /-- Combs and trackers: the worker that runs a tracker slot's kernel (R352). -/
  trkWorker : Tbl Nat
  /-- Records acknowledged or freed, and faults lost, in the present cycle (R358). -/
  fltMarks : List FltMark
  lostMarks : List LostMark
  /-- Usage meters: intervals by tenant, the ring by seq mod 64, streams live at the start of the millisecond (R369). -/
  usage : Tbl UsageSt
  uring : Tbl (Option UsageEnt)
  msLive : List Nat
  /-- The tick of the last millisecond boundary that was counted (R369). -/
  umsAt : Option Nat
  /-- The MRAM flush slots (R366). -/
  slots : Tbl SlotSt
  /-- Licence envelopes: the bytes of the queen's copy (tenant x 176 + offset), their complements, the envelope hash
  (R295); the working copies as RWC words: tenant x 32 + field (0 gmin, 1 gmax, 2 p_max, 3 n_max, 4 deadline,
  8 + i guard i's maximum power). -/
  envT : Tbl Nat
  envC : Tbl Nat
  envHash : Nat
  wcopy : Tbl Word
  /-- Mismatches at use outstanding: the value's address and a stream muted for it, 2048 for none (R299). -/
  mism : List (Nat × Nat)
  /-- The permitted range of its tenant's envelope that each stream's in-band set lies in (R133). -/
  range : Tbl Nat
  /-- MUTE actions that counted towards a tenant-band silence: tenant, range, stream, criterion (R133, R134). -/
  npmSil : List (Nat × Nat × Nat × Nat)
  /-- The pending load command of TIM.CMD (0x1 or 0x3; R236) and the time-of-day offset in force (R237). -/
  loadCmd : Nat
  tod : Nat
  /-- PPS_IN: the stamp of the previous edge in 1/16 tick, the tick of the last valid one, whether the phase is beyond tol, whether
  pps_ok was lost, and PPS_OUT's level with the tick of its rise (R238, R239). -/
  ppsPrev : Option Nat
  ppsAt : Nat
  ppsBad : Bool
  ppsLost : Bool
  ppsOut : Bool
  ppsOutAt : Nat
  /-- TIME messages: consecutive ones beyond tol, flags and tick of the last, the tick at which HOLDOVER began, the propagation
  declared for each link (R242). -/
  epsBad : Nat
  timeFlags : Nat
  timeAt : Nat
  holdAt : Nat
  linkProp : Tbl Nat
  /-- Hive IDs of the apiary and of the subtree below and including this hive (R245). -/
  apiaryMask : Nat
  subMask : Nat
  /-- Barriers, and the captured snapshot: kind x 65,536 + unit x 16 + item (R250). -/
  bars : Tbl BarSt
  snap : Tbl Word
  /-- The loaded image permits store reads (R50). -/
  storeReads : Bool
  /-- Bridges, and streams that carry zero samples because no bridge carries them (R14). -/
  bridges : Tbl BridgeSt
  zeroed : List Nat
  /-- Dies whose fault came before RUN, one bit each (R26); brood dies whose smoker is part of their failure (R18). -/
  dieBad : Nat
  smkLost : Nat
  /-- What the files loaded so far give registers, slice halves' coefficient sets with the halves that swap (file by
  file), and initial loop states (R253, R265). -/
  cfgWords : Tbl Nat
  cfgSets : List (List (Nat × CoefSet) × List Nat)
  cfgLoops : Tbl Nat
  /-- Uncorrectable errors found in the present scrub pass: memory kind, unit and word (R30); units that have finished
  the present hive-wide scrub pass (R29). -/
  eccSeen : List (Nat × Nat × Nat)
  scrubDone : List Nat
  /-- Maintenance activities by handle, and the count of requests that have waited (R390, R391). -/
  maint : Tbl (Option MaintSt)
  maintSeq : Nat
  /-- The processor being restarted by a firmware switch: 0 keeper, 1 queen (R393). -/
  fwTarget : Option Nat
  /-- Keeper and queen code slots in force (R393). -/
  fwSlot : Nat × Nat
  /-- Lanes' hidden state; channel maps (lane x 4 + map: slots, 4096 idle); the working lane of each RLF spare, or 256 +
  link for a Rygayth spare; fallback maps by link, plus 1 (R75, R76, R86, R87). -/
  lanes : Tbl LaneSt
  maps : Tbl (List Nat)
  spares : Tbl (Option Nat)
  fallbacks : Tbl Nat
  /-- The lane that carries a working RLF lane's traffic, plus 1 (0: itself); the links that run on their fallback map; and the
  spares and links as loaded, for a die that is reset (R86, R87, R253). -/
  carry : Tbl Nat
  fellBack : Tbl Bool
  cfgSpares : Tbl (Option Nat)
  cfgLinks : Tbl (List Nat)
  /-- Messages that wait for a control fragment: by link, by 256 + lane, and waggle tokens (kind, barrier) by 512 + link (R77,
  R83). -/
  outq : Tbl (List (List Nat))
  /-- JESD204C links by number, and the ETH lanes that drive GP12 and GP13 (R63, R71). -/
  convs : Tbl ConvLink
  rclk : Tbl (Option Nat)
  /-- eCPRI channels by lane x 4096 + channel (R68). -/
  eth : Tbl EthSt
  /-- Samples handed to a lane channel (lane x 4096 + channel) or a link channel (0x100000 + link x 4096 + channel): those that
  wait for a codeword's slot or an eCPRI message; for a converter the latest. -/
  txq : Tbl (List Sample)
  /-- The tick of the last SYSREF edge, which the local extended multiblock clocks start from (R63). -/
  sysref : Nat
  /-- Words of the kernels' parameter blocks by comb x 524,288 + byte offset in comb memory (R214 to R220). -/
  kpar : Tbl Nat
  /-- Workers, combs and the MSTAT histograms by stream x 4 + quantity (0 output, 1 gain, 2 margin). -/
  work : Tbl WorkSt
  combs : Tbl CombSt
  hist : Tbl HistSt
  /-- The patch kernels that the loaded files carry, by kernel ID (R223). -/
  kdecl : Tbl (Option KernDecl)
  /-- Supers whose WCLK PLL is stopped because their combs sleep, one bit each (R21). -/
  superSleep : Nat
  /-- Meters, protection and trackers (R117 to R139): streams' monitors, tracker slots; the in-band sub-bands of streams
  (and of gated group g at 4096 + g) and the guard bands of streams (R124, R162, R215); MUTE actions within the silence
  window: tenant, range, criterion, stream, tick. -/
  npm : Tbl NpmSt
  trk : Tbl TrkSt
  inband : Tbl (List Nat)
  gbands : Tbl (List (List Nat))
  npmMutes : List (Nat × Nat × Nat × Nat × Nat)
  /-- The sub-bands of a gated group that each sub-band of its tracker's stream overlaps; none listed: the same (R169). -/
  gmap : Tbl (List (List Nat))
  /-- Cancellers, gated groups, loops, contests and set-point pins. -/
  canc : Tbl CancSt
  /-- The taps of the cancellers' shaping filters, in units of 2^-17 (R145). -/
  shapes : Tbl (List Int)
  ugt : Tbl UgtSt
  loops : Tbl LoopSt
  cons : Tbl ConSt
  pins : Tbl PinSt
  /-- Words of GCE registers as they stood before writes made at this GTC value (R191). -/
  gceOld : List (Nat × Word)
  gceOldAt : Nat
  /-- The system island, the keeper and housekeeping (R257 to R351, R397 to R404). -/
  sys : Sys
  /-- Stops and unmutes accepted in the present cycle (R205, R383). -/
  marks : List CmdMark
deriving DecidableEq, Repr

/-- The byte memories: stores (keyed by BAR0 address), comb memories (comb x 524,288 + offset), worker data memories
(worker x 65,536 + offset), kernel stores (worker x 32,768 + offset) and the boot flash (R27, R258). -/
structure Mem where
  store : List Host.Cell
  comb : List Host.Cell
  wdata : List Host.Cell
  kstore : List Host.Cell
  flash : List Host.Cell
deriving DecidableEq, Repr

/-- The machine: the block, its byte memories, and the commands waiting, first in first out. -/
structure State where
  hive : Hive
  mem : Mem
  pending : List Instr
deriving DecidableEq, Repr

/-- What an unlisted byte of SRAM reads as: 0 (R253 clears memories at reset). -/
def Mem.ramByte (_ : Nat) : Byte := 0

/-- What an unlisted byte of the boot flash reads as: 0xFF, an erased flash byte. -/
def Mem.flashByte (_ : Nat) : Byte := 255

/-- The canonical form of every byte memory. -/
def Mem.wf (m : Mem) : Bool :=
  Tbl.wf Mem.ramByte m.store && Tbl.wf Mem.ramByte m.comb && Tbl.wf Mem.ramByte m.wdata &&
    Tbl.wf Mem.ramByte m.kstore && Tbl.wf Mem.flashByte m.flash

/-- The block right after reset: every register at its reset value, no fault, no image, the journal empty. -/
def Hive.reset : Hive where
  ticks := 0
  gtc := 0
  free := 0
  mode := Mode.cold
  safeBy := 0
  seenRun := false
  regs := []
  edges := []
  edgeAt := 0
  caps := []
  resp := []
  faults := []
  hum := 0
  keeperAlive := true
  queenUp := false
  jq := []
  jring := []
  jseq := 0
  jold := 0
  jhead := 0
  jSince := 0
  sched := []
  streams := []
  strm := []
  inNew := []
  half := []
  grp := []
  sliceAt := []
  sieve := []
  subNew := []
  lineBase := []
  running := []
  cqUnread := []
  cqCount := 0
  mbox := []
  tx := []
  msix := []
  fnMask := false
  pcieUp := false
  pcieWidth := 0
  pcieRate := 0
  alFaults := []
  alBak := false
  alWake := false
  alQuote := false
  alMb := 0
  wakeReq := false
  links := []
  treeDown := []
  keeper := []
  flush := none
  flushNext := none
  pfFrozen := false
  flushSeq := 0
  flushAt := 0
  trkWorker := []
  fltMarks := []
  lostMarks := []
  usage := []
  uring := []
  msLive := []
  umsAt := none
  slots := []
  envT := []
  envC := []
  envHash := 0
  wcopy := []
  mism := []
  range := []
  npmSil := []
  loadCmd := 0
  tod := 0
  ppsPrev := none
  ppsAt := 0
  ppsBad := false
  ppsLost := false
  ppsOut := false
  ppsOutAt := 0
  epsBad := 0
  timeFlags := 0
  timeAt := 0
  holdAt := 0
  linkProp := []
  apiaryMask := 0
  subMask := 0
  bars := []
  snap := []
  storeReads := false
  bridges := []
  zeroed := []
  dieBad := 0
  smkLost := 0
  cfgWords := []
  cfgSets := []
  cfgLoops := []
  eccSeen := []
  scrubDone := []
  maint := []
  maintSeq := 0
  fwTarget := none
  fwSlot := (0, 0)
  lanes := []
  maps := []
  spares := []
  fallbacks := []
  carry := []
  fellBack := []
  cfgSpares := []
  cfgLinks := []
  outq := []
  convs := []
  rclk := []
  eth := []
  txq := []
  sysref := 0
  kpar := []
  work := []
  combs := []
  hist := []
  kdecl := []
  superSleep := 0
  npm := []
  trk := []
  inband := []
  gbands := []
  npmMutes := []
  gmap := []
  canc := []
  shapes := []
  ugt := []
  loops := []
  cons := []
  pins := []
  gceOld := []
  gceOldAt := 0
  sys := Sys.init
  marks := []

/-- The memories right after reset: nothing listed. -/
def Mem.reset : Mem := ⟨[], [], [], [], []⟩

/-- The machine right after reset, with no command waiting. -/
def State.reset : State := ⟨Hive.reset, Mem.reset, []⟩

end Sys2Proof.Machine
end

