-- ==== Sys2Proof/Machine/Operands.lean ====
section
/-! DEFINITION. Reading and writing the registers' fields, and the operand forms: which die, slice half, source and rate a
stream has, which unit an address belongs to, and what a command entry names. -/

namespace Sys2Proof.Machine

/-! ## Registers and fields -/

/-- The stored word of a register. -/
def Hive.rd (h : Hive) (a : Nat) : Word := Tbl.get Regs.resetOf h.regs a

/-- The block with a register word stored. -/
def Hive.wr (h : Hive) (a : Nat) (v : Word) : Hive := { h with regs := Tbl.put Regs.resetOf h.regs a v }

/-- A field's value. -/
def Hive.get (h : Hive) (f : RF) : Nat := bitsOf (h.rd f.a).toNat f.lo f.w

/-- A word with a field replaced. -/
def insField (f : RF) (w v : Nat) : Nat := w - bitsOf w f.lo f.w * 2 ^ f.lo + v % 2 ^ f.w * 2 ^ f.lo

/-- The block with a field written (its low bits, R3). -/
def Hive.set (h : Hive) (f : RF) (v : Nat) : Hive := h.wr f.a (BitVec.ofNat 32 (insField f (h.rd f.a).toNat v))

/-- A one-bit field. -/
def Hive.flag (h : Hive) (f : RF) : Bool := decide (h.get f = 1)

/-- The block with a one-bit field written. -/
def Hive.setFlag (h : Hive) (f : RF) (b : Bool) : Hive := h.set f (if b then 1 else 0)

/-- Bit `b` of the register at `a` is marked: hardware set this W1C bit, or the host this W1S bit, in this SCLK cycle (R7). -/
def Hive.markEdge (h : Hive) (a b : Nat) : Hive :=
  { h with edges := (a, b) :: (if h.edgeAt = h.ticks then h.edges else []), edgeAt := h.ticks }

/-- The marked bits of a register. -/
def Hive.edgeMask (h : Hive) (a : Nat) : Nat :=
  if h.edgeAt = h.ticks then (List.range 32).foldl (fun m b => if h.edges.contains (a, b) then m + 2 ^ b else m) 0 else 0

/-- Hardware sets a W1C bit: a host's clear in the same cycle leaves it set (R7). -/
def Hive.hwSet (h : Hive) (f : RF) : Hive := (h.setFlag f true).markEdge f.a f.lo

/-- Hardware clears a W1S bit: one that the host wrote 1 in the same cycle stays set (R7). -/
def Hive.hwClear (h : Hive) (f : RF) : Hive := if bitOf (h.edgeMask f.a) f.lo then h else h.setFlag f false

/-- A host's 1 to the W1C bit `f` clears it: hardware has not set it in this cycle (R7). -/
def Hive.w1cTakes (h : Hive) (f : RF) (v : Nat) : Bool := bitOf v f.lo && !bitOf (h.edgeMask f.a) f.lo

/-- A field's signed value (R3). -/
def Hive.getS (h : Hive) (f : RF) : Int := sext f.w (h.get f)

/-- The block with a signed field written. -/
def Hive.setS (h : Hive) (f : RF) (v : Int) : Hive := h.set f (twos f.w v)

/-- A counting field raised by `k`, saturating. -/
def Hive.bump (h : Hive) (f : RF) (k : Nat) : Hive := h.set f (satInc f.w (h.get f) k)

/-- A counting field raised by one, wrapping. -/
def Hive.wrapInc (h : Hive) (f : RF) : Hive := h.set f (h.get f + 1)

/-- The value of an RWC register: its low half (R9). -/
def Hive.rwc (h : Hive) (a : Nat) : Nat := (h.rd a).toNat % 65536

/-- The signed value of an RWC register (Q8.8 or a signed count). -/
def Hive.rwcS (h : Hive) (a : Nat) : Int := sext 16 (h.rwc a)

/-- The low and high words of a 64-bit pair. -/
def Hive.setPair (h : Hive) (lo hi : Nat) (v : Nat) : Hive :=
  (h.wr lo (BitVec.ofNat 32 v)).wr hi (BitVec.ofNat 32 (v / 2 ^ 32))

/-- The 64-bit value of a pair of registers. -/
def Hive.getPair (h : Hive) (lo hi : Nat) : Nat := (h.rd lo).toNat + 2 ^ 32 * (h.rd hi).toNat

/-- A free value: 32 bits that nothing constrains, a fresh one each time. -/
def Hive.draw (h : Hive) : Nat × Hive := ((Config.freeWord h.free).toNat, { h with free := h.free + 1 })

/-! ## Streams, halves and dies -/

/-- The streams of the running image, by the numbers that exist (R33). -/
def Hive.image (h : Hive) : List Nat := h.streams.filter (fun n => decide (n < 2048))

/-- The hidden state of a stream. -/
def Hive.sget (h : Hive) (n : Nat) : StreamSt := Tbl.get (fun _ => StreamSt.init) h.strm n
/-- The block with a stream's hidden state replaced. -/
def Hive.sset (h : Hive) (n : Nat) (st : StreamSt) : Hive :=
  { h with strm := Tbl.put (fun _ => StreamSt.init) h.strm n st }
/-- The hidden state of slice half `i` = 2s + half. -/
def Hive.hget (h : Hive) (i : Nat) : HalfSt := Tbl.get (fun _ => HalfSt.init) h.half i
/-- The block with a slice half's hidden state replaced. -/
def Hive.hset (h : Hive) (i : Nat) (st : HalfSt) : Hive :=
  { h with half := Tbl.put (fun _ => HalfSt.init) h.half i st }
/-- A combine group's hidden state. -/
def Hive.gget (h : Hive) (g : Nat) : GroupSt := Tbl.get (fun _ => GroupSt.init) h.grp g
/-- The block with a combine group's hidden state replaced. -/
def Hive.gset (h : Hive) (g : Nat) (st : GroupSt) : Hive :=
  { h with grp := Tbl.put (fun _ => GroupSt.init) h.grp g st }

/-- Loop states (R180). -/
def lpOpen : Nat := 0
def lpClosed : Nat := 1
def lpHeld : Nat := 2

/-- Stream states (R37). -/
def stIdle : Nat := 0
def stArmed : Nat := 1
def stRampUp : Nat := 2
def stLive : Nat := 3
def stRampDown : Nat := 4
def stMuted : Nat := 5
def stFaulted : Nat := 6

/-- A stream's state. -/
def Hive.st (h : Hive) (n : Nat) : Nat := h.get (F.rteStatus_state n)
/-- A PROBE measurement on the stream stops when it leaves LIVE (R221). -/
def Hive.probeStop (h : Hive) (n : Nat) : Hive :=
  let c := h.get (F.steKern_kern_worker n) / 8
  (List.range 8).foldl (fun h k =>
    if h.get (F.wrkDesc0_kid c k) = 4 ∧ h.get (F.wrkDesc1_stream c k) = n then
      let w := Tbl.get (fun _ => WorkSt.init) h.work (8 * c + k)
      { h with work := Tbl.put (fun _ => WorkSt.init) h.work (8 * c + k) { w with meas := false } }
    else h) h
/-- A canceller slot. -/
def Hive.cancGet (h : Hive) (c : Nat) : CancSt := Tbl.get (fun _ => CancSt.init) h.canc c
/-- The block with a canceller slot replaced. -/
def Hive.cancSet (h : Hive) (c : Nat) (v : CancSt) : Hive := { h with canc := Tbl.put (fun _ => CancSt.init) h.canc c v }
/-- A stream's monitor. -/
def Hive.npmGet (h : Hive) (n : Nat) : NpmSt := Tbl.get (fun _ => NpmSt.init) h.npm n
/-- The block with a stream's monitor replaced. -/
def Hive.npmSet (h : Hive) (n : Nat) (st : NpmSt) : Hive := { h with npm := Tbl.put (fun _ => NpmSt.init) h.npm n st }

/-- The conditions of criteria 0 to 2 when a stream enters MUTED at tick `t`: those of an action are false, those of the return to
clear hold from here on (R134). -/
def NpmSt.atMuted (st : NpmSt) (t : Nat) : NpmSt :=
  { st with holds := [9, 10, 11, 12].map (fun j => (j, t, t)) ++ st.holds.filter (fun p => p.1 == 8 || p.1 == 13) }

/-- The stream leaves MUTED other than by a ramp up: nothing counts as clear any more (R134). -/
def NpmSt.unMuted (st : NpmSt) : NpmSt := { st with holds := st.holds.filter (fun p => p.1 == 8 || p.1 == 13) }

/-- Input slot states of a gated group (R168). -/
def inLearning : Nat := 1
def inGating : Nat := 2
def inPaused : Nat := 3

/-- A gated group. -/
def Hive.ugtGet (h : Hive) (g : Nat) : UgtSt := Tbl.get (fun _ => UgtSt.init) h.ugt g
/-- The block with a gated group replaced. -/
def Hive.ugtSet (h : Hive) (g : Nat) (v : UgtSt) : Hive := { h with ugt := Tbl.put (fun _ => UgtSt.init) h.ugt g v }
/-- A slot's hidden state. -/
def Hive.ugtSlot (h : Hive) (g i : Nat) : UgtSlot := (h.ugtGet g).slots.getD i UgtSlot.init
/-- The block with a slot's hidden state replaced. -/
def Hive.ugtSetSlot (h : Hive) (g i : Nat) (v : UgtSlot) : Hive :=
  let u := h.ugtGet g
  let xs := u.slots ++ List.replicate (i + 1 - u.slots.length) UgtSlot.init
  h.ugtSet g { u with slots := xs.set i v }

/-- A slot becomes PAUSED while its stream carries nothing, its hang counts cleared, and returns to the state it left (R168). -/
def Hive.ugtPause (h : Hive) (g i : Nat) (runs : Bool) : Hive :=
  let st := h.get (F.ugtIn_state g i)
  let sl := h.ugtSlot g i
  if !runs && st != inPaused && st != 0 then
    (h.ugtSetSlot g i { sl with back := st, subs := sl.subs.map (fun x => { x with hang := 0 }) }).set (F.ugtIn_state g i) inPaused
  else if runs && st == inPaused then h.set (F.ugtIn_state g i) sl.back
  else h

/-- The slots of gated groups that a stream feeds follow its state. -/
def Hive.ugtFollow (h : Hive) (n v : Nat) : Hive :=
  (List.range 4).foldl (fun h d =>
    let w := (h.rd (R.steDest n d)).toNat % 2 ^ 24
    if w % 16 = 3 ∧ bitsOf w 12 12 < 64 ∧ h.flag (F.ugtCtl_en (bitsOf w 4 8)) then
      h.ugtPause (bitsOf w 4 8) (bitsOf w 12 12) (v == stRampUp || v == stLive || v == stRampDown)
    else h) h

/-- A loop slot. -/
def Hive.loopGet (h : Hive) (s : Nat) : LoopSt := Tbl.get (fun _ => LoopSt.init) h.loops s
/-- The block with a loop slot replaced. -/
def Hive.loopSet (h : Hive) (s : Nat) (v : LoopSt) : Hive := { h with loops := Tbl.put (fun _ => LoopSt.init) h.loops s v }

/-- The loop slots of a stream's contest (R176). -/
def Hive.slotsOf (h : Hive) (n : Nat) : List Nat :=
  (List.range (h.get (F.steCfg_nloops n))).map (fun i => h.get (F.steCfg_loop0 n) + i)

/-- The time without a reading counts only while the stream is RAMP_UP or LIVE (R181). -/
def Hive.loopsRun (h : Hive) (n : Nat) (on : Bool) : Hive :=
  (h.slotsOf n).foldl (fun h s =>
    let l := h.loopGet s
    match l.since with
    | none => if on then h.loopSet s { l with since := some h.ticks } else h
    | some t => if on then h else h.loopSet s { l with quiet := l.quiet + (h.ticks - t), since := none }) h

/-- The block with a stream's state written. -/
def Hive.setSt (h : Hive) (n v : Nat) : Hive :=
  let h := if h.st n = stLive ∧ v ≠ stLive ∧ h.flag (F.steKern_kern_en n) then h.probeStop n else h
  let h := if v = stMuted ∧ h.st n ≠ stMuted then h.npmSet n ((h.npmGet n).atMuted h.ticks)
    else if h.st n = stMuted ∧ v ≠ stMuted ∧ v ≠ stRampUp then h.npmSet n (h.npmGet n).unMuted else h
  ((h.ugtFollow n v).loopsRun n (v == stRampUp || v == stLive)).set (F.rteStatus_state n) v

/-- True when the table entry describes a stream (R36). -/
def Hive.isStream (h : Hive) (n : Nat) : Bool := h.flag (F.steValid_valid n)

/-- The stream's last slice: slice1 of a cascade, else slice0 (R92). -/
def Hive.lastSlice (h : Hive) (n : Nat) : Nat :=
  if h.flag (F.steSlice_slice1_en n) then h.get (F.steSlice_slice1 n) else h.get (F.steSlice_slice0 n)

/-- The half of the stream's last slice. -/
def Hive.lastHalf (h : Hive) (n : Nat) : Nat :=
  if h.flag (F.steSlice_slice1_en n) then h.get (F.steSlice_phase1 n) else h.get (F.steSlice_phase0 n)

/-- The stream a slice half serves, when it is used (R115). -/
def Hive.halfStream (h : Hive) (s p : Nat) : Option Nat :=
  let u := h.get (F.strCfg_use s)
  if u = 0 ∨ (u = 1 ∧ p = 1) then none
  else some (if p = 0 then h.get (F.strCfg_stream0 s) else h.get (F.strCfg_stream1 s))

/-- True when the half is slice1 of its stream's cascade (R115). -/
def Hive.isCasc (h : Hive) (s p : Nat) : Bool :=
  if p = 0 then h.flag (F.strCfg_casc0 s) else h.flag (F.strCfg_casc1 s)

/-- A stream's home die: the brood die of its slices (R34). -/
def Hive.home (h : Hive) (n : Nat) : Nat := h.get (F.steSlice_slice0 n) / 512

/-- Ticks per sample of a rate code (R36). -/
def rateTicks (code : Nat) : Nat := if code = 7 then 1 else 2 * 2 ^ code

/-- The resampler's step in units of 2^-32 (R96). -/
def Hive.rsStep (h : Hive) (s p : Nat) : Nat :=
  h.get (F.strRsStepLo_step s p) + 2 ^ 32 * h.get (F.strRsStepHi_step s p)

/-- What a half multiplies the sample period by, as numerator over 2^32 (R96). -/
def Hive.halfRatio (h : Hive) (s p : Nat) : Nat :=
  if h.flag (F.strRsCtl_active s p) then 2 ^ (h.get (F.strRsCtl_j s p)) * h.rsStep s p else 2 ^ 32

/-- Ticks per sample at a half's input, as a fraction (numerator, denominator). -/
def Hive.tIn (h : Hive) (s p : Nat) (n : Nat) : Nat × Nat :=
  let t0 := rateTicks (h.get (F.steSlice_src_rate n))
  if h.isCasc s p then
    (t0 * h.halfRatio (h.get (F.steSlice_slice0 n)) (h.get (F.steSlice_phase0 n)), 2 ^ 32)
  else (t0, 1)

/-- Ticks per output sample of a stream, as a fraction. -/
def Hive.tOut (h : Hive) (n : Nat) : Nat × Nat :=
  let s := h.lastSlice n
  let p := h.lastHalf n
  let ti := h.tIn s p n
  (ti.1 * h.halfRatio s p, ti.2 * 2 ^ 32)

/-- Samples in `us` microseconds at the stream's output rate, rounded to even (R197). -/
def Hive.samplesOf (h : Hive) (n us : Nat) : Nat :=
  let t := h.tOut n
  max 1 (roundEvenN (us * 98304 * t.2) (100 * t.1))

/-- The multiplier m_s in force, mirrored in STR.SMOKE of the stream's last slice (R115). -/
def Hive.setMs (h : Hive) (n m : Nat) : Hive :=
  (h.sset n { h.sget n with ms := m }).set (F.strSmoke_mult (h.lastSlice n) (h.lastHalf n)) m

/-- A source's kind, unit and channel, packed as in the stream table (R36). -/
def Hive.srcWord (h : Hive) (n : Nat) (alt : Bool) : Nat :=
  if alt then h.get (F.steAlt_alt n) else (h.rd (R.steSrc n)).toNat % 2 ^ 24

/-- The source in force (R37). -/
def Hive.srcNow (h : Hive) (n : Nat) : Nat := h.srcWord n (h.flag (F.rteStatus_active n))

/-- The standby source: the one not in force. -/
def Hive.srcStandby (h : Hive) (n : Nat) : Nat := h.srcWord n (!h.flag (F.rteStatus_active n))

/-- Kind, unit and channel of a packed source. -/
def srcKind (w : Nat) : Nat := w % 16
def srcA (w : Nat) : Nat := bitsOf w 4 8
def srcB (w : Nat) : Nat := bitsOf w 12 12

/-- A bridge's state. -/
def Hive.brGet (h : Hive) (b : Nat) : BridgeSt := Tbl.get (fun _ => BridgeSt.init) h.bridges b
/-- The block with a bridge's state replaced. -/
def Hive.brSet (h : Hive) (b : Nat) (v : BridgeSt) : Hive := { h with bridges := Tbl.put (fun _ => BridgeSt.init) h.bridges b v }

/-- Bridge `b` carries traffic (R26). -/
def Hive.bridgeUp (h : Hive) (b : Nat) : Bool := bitOf (h.get F.dieState_bridge_up) b

/-- The bridge-6 traffic of stream `n` runs over the detour (R14). -/
def Hive.detoured (h : Hive) (n : Nat) : Bool := [0, 1, 2, 3, 4, 5].any (fun b => (h.brGet b).det.contains n)

/-- A die's state (R26). -/
def Hive.dieSt (h : Hive) (d : Nat) : Nat := bitsOf (h.rd R.dieState).toNat (4 * d) 4
/-- The block with a die's state written. -/
def Hive.setDieSt (h : Hive) (d v : Nat) : Hive := h.set ⟨R.dieState, 4 * d, 4⟩ v

/-- True while a brood die's slices run: in RUN, or faulted with a smoker that can still act (R18). -/
def Hive.broodActs (h : Hive) (d : Nat) : Bool := h.dieSt d == 2 || (h.dieSt d == 4 && !bitOf h.smkLost d)

/-- True before the hive runs: the dies are in RESET (R26). -/
def Hive.preRun (h : Hive) : Bool := h.mode == .cold || h.mode == .boot || h.mode == .verify

/-- The brood die of a lane (R12). -/
def laneDie (l : Nat) : Nat := l / 72

/-- The brood die of a Rygayth link: that of its lanes (R352). -/
def Hive.linkDie (h : Hive) (k : Nat) : Nat :=
  match Tbl.get (fun _ => ([] : List Nat)) h.links k with
  | l :: _ => laneDie l
  | [] => 0

/-- A signed value written if the field holds it, else a free value: the spec states none there. -/
def Hive.setFit (h : Hive) (f : RF) (v : Int) : Hive :=
  if clampS f.w v = v then h.setS f v else let (w, h) := h.draw; h.set f w

/-- The brood die that an endpoint (kind, unit, channel) lies on (R12). -/
def Hive.endDie (h : Hive) (w : Nat) : Option Nat :=
  match srcKind w with
  | 1 => some (laneDie (srcA w))
  | 2 => some (srcB w / 256)
  | 3 => some (srcA w / 128)
  | 4 => some (h.linkDie (srcA w))
  | _ => none

/-- Destination word `d` of a stream, 24 bits. -/
def Hive.dest (h : Hive) (n d : Nat) : Nat := (h.rd (R.steDest n d)).toNat % 2 ^ 24

/-- The streams a brood-die fault names: home, source or a destination on the die (R18). -/
def Hive.onDie (h : Hive) (n d : Nat) : Bool :=
  h.home n == d || h.endDie (h.srcNow n) == some d ||
    (List.range 4).any (fun k => h.endDie (h.dest n k) == some d)

/-- True when a lane is UP (R80: state code 0x7 of LANE.STAT). -/
def Hive.laneUp (h : Hive) (l : Nat) : Bool := decide (h.get (F.laneStat_state l) = 7)

/-- The lanes of a Rygayth link by position (R82). -/
def Hive.linkLanes (h : Hive) (k : Nat) : List Nat := Tbl.get (fun _ => ([] : List Nat)) h.links k

/-- True when a Rygayth link carries traffic: every lane in its position list is UP (R82, R87). -/
def Hive.linkUp (h : Hive) (k : Nat) : Bool := !(h.linkLanes k).isEmpty && (h.linkLanes k).all (fun l => h.laneUp l)

/-- A lane's hidden state. -/
def Hive.lget (h : Hive) (l : Nat) : LaneSt := Tbl.get (fun _ => LaneSt.init) h.lanes l
/-- The block with a lane's hidden state replaced. -/
def Hive.lset (h : Hive) (l : Nat) (st : LaneSt) : Hive := { h with lanes := Tbl.put (fun _ => LaneSt.init) h.lanes l st }

/-- The Rygayth link that lane `l` belongs to. -/
def Hive.linkOf (h : Hive) (l : Nat) : Option Nat :=
  (h.links.find? (fun p => p.2.any (fun x => x == l))).map (fun p => p.1)

/-- LANE.STAT.link_pos shows each lane's position in its Rygayth link (R82, R89). -/
def Hive.linkPos (h : Hive) : Hive :=
  (List.range 18).foldl (fun h k =>
    ((h.linkLanes k).zip (List.range 8)).foldl (fun h p => h.set (F.laneStat_link_pos p.1) p.2) h) h

/-- The spare lane of working lane `l`, or of link `k` named as 256 + k (R86). -/
def Hive.spareOf (h : Hive) (l : Nat) : Option Nat := (h.spares.find? (fun p => p.2 == some l)).map (fun p => p.1)

/-- The lane that carries the traffic of working lane `l`: its spare after a takeover (R86). -/
def Hive.carrier (h : Hive) (l : Nat) : Nat :=
  match Tbl.get (fun _ => 0) h.carry l with
  | 0 => l
  | p + 1 => p

/-- A working lane's traffic is carried: its carrier is UP, or the spare is UP and takes over (R86). -/
def Hive.laneCarried (h : Hive) (l : Nat) : Bool :=
  h.laneUp (h.carrier l) || (match h.spareOf l with | some s => h.laneUp s | none => false)

/-- The JESD204C link that lane `l` belongs to (R63). -/
def Hive.convOf (h : Hive) (l : Nat) : Option ConvLink :=
  (h.convs.find? (fun p => p.2.lanes.contains l)).map (fun p => p.2)

/-- A source or destination lane works: its traffic is carried; on a JESD204C link every lane of the link is (R63, R65). -/
def Hive.laneWorks (h : Hive) (l : Nat) : Bool :=
  match h.convOf l with
  | some k => k.lanes.all (fun x => h.laneUp x)
  | none => h.laneCarried l

/-- The lanes of a link that are not UP. -/
def Hive.linkLost (h : Hive) (k : Nat) : List Nat := (h.linkLanes k).filter (fun l => !h.laneUp l)

/-- The fallback map of link `k` is held and not yet in use (R87). -/
def Hive.canFallBack (h : Hive) (k : Nat) : Bool :=
  Tbl.get (fun _ => 0) h.fallbacks k != 0 && !Tbl.get (fun _ => false) h.fellBack k && (h.spareOf (256 + k)).isNone &&
    decide (2 ≤ (h.linkLanes k).length)

/-- A link's traffic is carried: every lane is UP, or the one lane that is not can be replaced by the link's spare or made up
for by the fallback map at the next multiframe boundary (R86, R87). -/
def Hive.linkCarried (h : Hive) (k : Nat) : Bool :=
  h.linkUp k || decide ((h.linkLost k).length = 1) &&
    (match h.spareOf (256 + k) with
      | some s => h.laneUp s
      | none => h.canFallBack k)

/-- A channel of a link is carried: on a fallback map only the channels that the map holds (R87). -/
def Hive.linkHas (h : Hive) (k ch : Nat) : Bool :=
  !Tbl.get (fun _ => false) h.fellBack k ||
    (Tbl.get (fun _ => ([] : List Nat)) h.maps ((h.linkLanes k).headD 0 * 4 + (Tbl.get (fun _ => 0) h.fallbacks k - 1))).contains ch

/-- An eCPRI channel's hidden state. -/
def Hive.ethGet (h : Hive) (l ch : Nat) : EthSt := Tbl.get (fun _ => EthSt.init) h.eth (l * 4096 + ch)

/-- True when an endpoint lies on a die that does not run: faulted, or in reset (R17, R18, R26). -/
def Hive.onFaulted (h : Hive) (w : Nat) : Bool :=
  match h.endDie w with
  | some d => bitsOf (h.rd R.dieState).toNat (4 * d) 4 != 2
  | none => false

/-- True when a source is up: its die runs, and its lane or link carries it, its eCPRI channel delivers, its
sieve bank runs, or it is a combine group (R200, R53, R68, R17). -/
def Hive.srcUp (h : Hive) (w : Nat) : Bool :=
  !h.onFaulted w && match srcKind w with
  | 1 => h.laneWorks (srcA w) && !(h.ethGet (srcA w) (srcB w)).down
  | 2 => decide (h.get (F.sivStat_state (srcB w)) = 2)
  | 3 => true
  | 4 => h.linkCarried (srcA w) && h.linkHas (srcA w) (srcB w)
  | _ => false

/-- A stream's tenant. -/
def Hive.tenant (h : Hive) (n : Nat) : Nat := h.get (F.steCfg_tenant n)

/-- The action of cause `c` in a stream's fault map row (R53). -/
def Hive.fmapAction (h : Hive) (n c : Nat) : Nat :=
  bitsOf (h.get (F.rteFmap_acts (h.get (F.steCfg_fmap_row n)))) (4 * c) 4

/-! ## Source numbers (R244) -/

def srcNoStream (n : Nat) : Nat := 0x1000 + n
def srcNoLane (l : Nat) : Nat := 0x100 + l
def srcNoDie (d : Nat) : Nat := 0x8 + d
def srcNoBridge (b : Nat) : Nat := 0x10 + b
def srcNoComb (c : Nat) : Nat := 0x200 + c
def srcNoWorker (w : Nat) : Nat := 0x400 + w
def srcNoSlice (s : Nat) : Nat := 0x800 + s
def srcNoBank (b : Nat) : Nat := 0xC00 + b
def srcNoGroup (g : Nat) : Nat := 0xE00 + g
def srcNoLoop (s : Nat) : Nat := 0x1800 + s
def srcNoCanc (c : Nat) : Nat := 0x2000 + c
def srcNoGated (g : Nat) : Nat := 0x2100 + g
def srcNoTrk (t : Nat) : Nat := 0x2200 + t
def srcNoLink (k : Nat) : Nat := 0x2300 + k

/-- The source number of the unit an address belongs to, for the journal (R301). -/
def srcOfAddr (a : Nat) : Nat :=
  if a ≥ 0x10000000 then 0x6
  else if a ≥ 0x1000000 then 0x7 + a / 0x1000000
  else if a < 0x100000 then 0x2
  else if a < 0x200000 then srcNoLane ((a - 0x100000) / 0x1000)
  else if a < 0x220000 then srcNoStream ((a - 0x200000) / 0x40)
  else if a < 0x222000 then srcNoStream ((a - 0x220000) / 4)
  else if a < 0x300000 then 0x2
  else if a < 0x400000 then srcNoSlice ((a - 0x300000) / 0x400)
  else if a < 0x480000 then srcNoBank ((a - 0x400000) / 0x20 % 512)
  else if a < 0x490000 then srcNoStream ((a - 0x480000) / 0x20 % 2048)
  else if a < 0x4A0000 then srcNoStream ((a - 0x490000) / 0x20 % 2048)
  else if a < 0x4B0000 then 0x34
  else if a < 0x4C0000 then srcNoTrk ((a - 0x4B0000) / 0x100 % 256)
  else if a < 0x4D0000 then srcNoCanc ((a - 0x4C0000) / 0x40 % 256)
  else if a < 0x500000 then srcNoGated ((a - 0x4D0000) / 0x200 % 256)
  else if a < 0x510000 then srcNoLoop ((a - 0x500000) / 0x20)
  else if a < 0x520000 then srcNoStream ((a - 0x510000) / 0x20)
  else if a < 0x580000 then 0x20 + (a - 0x520000) / 0x10 % 4
  else if a < 0x588000 then srcNoStream ((a - 0x580000) / 0x10)
  else if a < 0x600000 then 0x32
  else if a < 0x700000 then
    let o := (a - 0x600000) % 0x4000
    let c := (a - 0x600000) / 0x4000
    if o < 0x2000 then srcNoComb c else srcNoWorker (c * 8 + (o - 0x2000) / 0x400)
  else if a < 0x780000 then 0x5
  else if a < 0x788000 then 0x3
  else if a < 0x790000 then 0x4
  else if a < 0x800000 then 0x1
  else if a < 0x900000 then 0x2
  else 0x7

/-- The stream a register belongs to, for the journal's arg; 0 when none (R301). -/
def Hive.argOfAddr (h : Hive) (a : Nat) : Nat :=
  let s := srcOfAddr a
  if a ≥ 0x1000000 then 0
  else if 0x1000 ≤ s ∧ s < 0x1800 then s - 0x1000
  else if 0x1800 ≤ s ∧ s < 0x2000 then h.get (F.gceLoopCfg_stream (s - 0x1800))
  else if 0x2000 ≤ s ∧ s < 0x2100 then h.get (F.fbcCtl_stream (s - 0x2000))
  else 0

/-- TIM.EPOCH. -/
def Hive.epoch (h : Hive) : Nat := h.get F.timEpoch_epoch

/-- True in RUN or DEGRADED. -/
def Hive.running? (h : Hive) : Bool := h.mode == .run || h.mode == .degraded

/-! ## Accesses by bytes (R6) -/

/-- The offsets of the words that `n` bytes from byte offset `off` on fall in, rising. -/
def spanWords (off n : Nat) : List Nat := (List.range ((off % 4 + n + 3) / 4)).map (fun i => off - off % 4 + 4 * i)

/-- The byte that a write carries for byte offset `o` of its BAR. -/
def hwByte (w : HostWrite) (o : Nat) : Option Byte := if o < w.off then none else w.bytes.getD (o - w.off) none

/-- The bytes that fall in the word at offset `o`: those left out are none. -/
def hwWord (w : HostWrite) (o : Nat) : List (Option Byte) := (List.range 4).map (fun i => hwByte w (o + i))

/-- The access to the word at offset `o` that a write makes, if a byte of it falls there; its value holds the bytes from the
first one on, a byte left out as 0. -/
def hwPart (w : HostWrite) (o : Nat) : Option RegWrite :=
  let bs := hwWord w o
  let first := bs.findIdx (fun b => b.isSome)
  if first ≥ 4 then none
  else some
    { req := w.req, bar2 := w.bar2, off := o + first, size := Fin.ofNat 5 (bs.filter (fun b => b.isSome)).length
      value := BitVec.ofNat 32 (leNat ((bs.drop first).map (fun b => (b.getD 0).toNat))) }

/-- The single bytes that fall in the word at offset `o`, as writes of one byte. -/
def hwBytes (w : HostWrite) (o : Nat) : List RegWrite :=
  (List.range 4).filterMap (fun i => (hwByte w (o + i)).map (fun b =>
    { req := w.req, bar2 := w.bar2, off := o + i, size := 1, value := b.setWidth 32 }))

/-- True when a read addresses the byte at offset `o` of its BAR. -/
def hrAddressed (r : HostRead) (o : Nat) : Bool := decide (r.off ≤ o) && r.en.getD (o - r.off) false

/-- The offsets of the words that a read addresses bytes of, rising. -/
def hrWords (r : HostRead) : List Nat :=
  (spanWords r.off r.en.length).filter (fun o => (List.range 4).any (fun i => hrAddressed r (o + i)))

/-! ## Command entries -/

/-- What a completion entry needs of a command entry. -/
def tokOf (c : CmdEntry) (op taken : Nat) : CmdTok :=
  ⟨c.via, c.entry.val, c.irq, c.tag.toNat, op, taken⟩

/-- Bits `lo` to `lo + w - 1` of an argument word. -/
def argBits (a : Word) (lo w : Nat) : Nat := bitsOf a.toNat lo w

/-- The requester's code in journal entries (R301). -/
def reqIface : Req → Nat
  | .pcie => 0
  | .smbus _ => 3
  | .jtag => 4

/-- The interface a command entry came through (R384). -/
def viaIface : Via → Nat
  | .queue => 1
  | .mailbox _ => 3

/-- The key of a requester's captures (R10). -/
def reqKey : Req → Nat
  | .pcie => 0
  | .jtag => 1
  | .smbus j => 2 + j.val

end Sys2Proof.Machine
end

