-- ==== Sys2Proof/Machine/Latency.lean ====
section
/-! DEFINITION. The latency of a stream's path (R32, R44, R62, R104, R113, R142), the sets that equalisation aligns, and the
delays and residues it asks for (R45). Latencies are in units of 2^-64 tick, so that every sample period is exact. -/

namespace Sys2Proof.Machine

/-- One tick in the units of latencies. -/
def tick64 : Nat := 2 ^ 64

/-- `k` samples of period `p` ticks (a fraction whose denominator divides 2^64). -/
def span64 (p : Nat × Nat) (k : Nat) : Nat := k * p.1 * (tick64 / p.2)

/-- Receive hop of a lane by its mode, with eCPRI unpacking, in ticks (R32, R62). -/
def Hive.rxHop (h : Hive) (l : Nat) : Nat :=
  match h.get (F.laneCtl_mode l) with
  | 1 => 120
  | 2 => 256 + (if !h.flag (F.laneCtl_pam4 l) then 420 else if h.get (F.laneCtl_rate l) < 800000 then 260 else 200)
  | 3 => 190
  | _ => 958

/-- Transmit hop of a lane by its mode, with eCPRI packing, in ticks (R32, R62). -/
def Hive.txHop (h : Hive) (l : Nat) : Nat :=
  match h.get (F.laneCtl_mode l) with
  | 1 => 110
  | 2 => 128 + (if !h.flag (F.laneCtl_pam4 l) then 330 else if h.get (F.laneCtl_rate l) < 800000 then 210 else 170)
  | 3 => 160
  | _ => 160

/-- The lane whose delay measurement stands for an endpoint: the lane that carries it, or the link's first lane. -/
def Hive.endLane (h : Hive) (w : Nat) : Option Nat :=
  match srcKind w with
  | 1 => some (h.carrier (srcA w))
  | 4 => (h.linkLanes (srcA w)).head?
  | _ => none

/-- The gating delay of a gated group in ticks, by rate code (R163). -/
def gateTicks (code : Nat) : Nat :=
  match code with
  | 0 | 1 => 34816
  | 2 => 36864
  | 3 => 40960
  | 4 => 49152
  | _ => 65536

/-- Both sieve-bank terms of a synthesis output, with the gating delay of a gated group, in units of 2^-64 tick (R113, R166). -/
def Hive.sieve64 (h : Hive) (g n : Nat) : Nat :=
  let t := rateTicks (h.get (F.steSlice_src_rate n))
  let gate := if h.flag (F.ugtCtl_en g) then gateTicks (h.get (F.steSlice_src_rate n)) else 0
  (2 * (2048 * t + 32) + gate) * tick64

/-- From the balls, the adder or the bank to the first slice, without the ingress buffer (R44). -/
def Hive.srcHop64 (h : Hive) (n w : Nat) : Nat :=
  match srcKind w with
  | 1 => h.rxHop (srcA w) * tick64
  | 4 => 958 * tick64
  | 2 => h.sieve64 (h.get (F.sivCtl_group (srcB w))) n
  | 3 => 8 * tick64 + (if h.flag (F.cgCtl_domain (srcA w)) then h.sieve64 (srcA w) n else 0)
  | _ => 0

/-- Crossing to a stream's home die: the other router half and bridge 6, or its detour (R34, R39, R14). -/
def Hive.cross64 (h : Hive) (n w : Nat) : Nat :=
  match h.endDie w with
  | some d => if d = h.home n then 0 else (if h.detoured n then 176 else 64) * tick64
  | none => 0

/-- FBC block length B (R142). -/
def blkLen (code : Nat) : Nat := 256 * 2 ^ code

/-! ## Kernels (R211 to R223) -/

/-- Whether a worker's descriptor describes a kernel. -/
def Hive.kvalid (h : Hive) (w : Nat) : Bool := h.flag (F.wrkDesc7_valid (w / 8) (w % 8))

/-- The declarations of the patch kernel that a worker runs (R223). -/
def Hive.kdeclOf (h : Hive) (w : Nat) : Option KernDecl :=
  Tbl.get (fun _ => none) h.kdecl (h.get (F.wrkDesc0_kid (w / 8) (w % 8)))

/-- What a worker's kernel does: its kernel ID, or the ROM kernel that a patch kernel supersedes (R211, R223). -/
def Hive.kid (h : Hive) (w : Nat) : Nat :=
  match h.kdeclOf w with
  | some d => if d.sup = 0 then h.get (F.wrkDesc0_kid (w / 8) (w % 8)) else d.sup
  | none => h.get (F.wrkDesc0_kid (w / 8) (w % 8))

/-- Words of a worker's parameter block in comb memory (R212, R214 to R220). -/
def Hive.par (h : Hive) (w i : Nat) : Nat :=
  Tbl.get (fun _ => 0) h.kpar (w / 8 * 524288 + h.get (F.wrkDesc2_par_base (w / 8) (w % 8)) + 4 * i)

/-- The instance of a worker's kernel: the number of its canceller slot, gated group or tracker slot, 0-255 (R212). -/
def Hive.instOf (h : Hive) (w : Nat) : Nat := h.get (F.wrkDesc1_inst (w / 8) (w % 8)) % 256

/-- A worker's hidden state. -/
def Hive.wget (h : Hive) (w : Nat) : WorkSt := Tbl.get (fun _ => WorkSt.init) h.work w
/-- The block with a worker's hidden state replaced. -/
def Hive.wset (h : Hive) (w : Nat) (st : WorkSt) : Hive := { h with work := Tbl.put (fun _ => WorkSt.init) h.work w st }

/-- The worker that runs the kernel placed on worker `w`: the spare once a move has ended (R230). -/
def Hive.runsOn (h : Hive) (w : Nat) : Nat :=
  if h.get (F.wrkStat_state (w / 8) (w % 8)) = 6 then
    match (h.wget w).moveTo with
    | some s => s
    | none => w
  else w

/-- A kernel's latency in path: B samples plus 512 ticks for FBC and PROBE, what a patch kernel declares; none is stated for
another kernel, which no stream names (R213, R223). -/
def Hive.kern64 (h : Hive) (n : Nat) : Nat :=
  let w := h.runsOn (h.get (F.steKern_kern_worker n))
  match h.kdeclOf w with
  | some d => d.lat * tick64
  | none =>
    match h.kid w with
    | 1 => span64 (h.tOut n) (blkLen (h.get (F.fbcCtl_blk (h.instOf w)))) + 512 * tick64
    | 4 => span64 (h.tOut n) (blkLen (bitsOf (h.par w 0) 12 2)) + 512 * tick64
    | _ => 0

/-- Group delay of a half in 1/16 tick: the measured value once there is one, else the disclosed one (R104). -/
def Hive.gd16 (h : Hive) (s p : Nat) : Nat :=
  if h.flag (F.strGdMeas_valid s p) then h.get (F.strGdMeas_gd s p) else h.get (F.strGd_gd s p)

/-- Slices, group delays and the kernel detour (R44, R92, R53). -/
def Hive.strain64 (h : Hive) (n : Nat) : Nat :=
  let gd := h.gd16 (h.get (F.steSlice_slice0 n)) (h.get (F.steSlice_phase0 n)) +
    (if h.flag (F.steSlice_slice1_en n) then h.gd16 (h.get (F.steSlice_slice1 n)) (h.get (F.steSlice_phase1 n)) else 0)
  let slices := if h.flag (F.steSlice_slice1_en n) then 80 else 40
  slices * tick64 + gd * (tick64 / 16) +
    (if h.flag (F.steKern_kern_en n) && !(h.sget n).bypass then 144 * tick64 + h.kern64 n else 0)

/-- The ingress term of a dual-homed stream: its home half, 64 ticks and the ingress delay (R44). -/
def Hive.ingress64 (h : Hive) (n : Nat) : Nat :=
  if srcKind (h.get (F.steAlt_alt n)) = 0 then 0
  else
    let d := if h.flag (F.rteStatus_active n) then h.get (F.steInDly_in_alt n) else h.get (F.steInDly_in_pri n)
    80 * tick64 + span64 (rateTicks (h.get (F.steSlice_src_rate n)), 1) d

/-- The latency L_i of stream `n` up to its destination `d` (R44): an uplink counts its source's link delay, a downlink
its destination's. -/
def Hive.lat64 (h : Hive) (n d : Nat) : Nat :=
  let src := h.srcNow n
  let dst := h.dest n d
  let up := h.flag (F.steSlice_dir n)
  let mUp := match h.endLane src with
    | some l => if up then h.get (F.laneDlyUp_ticks l) else 0
    | none => 0
  let mDn := match h.endLane dst with
    | some l => if up then 0 else h.get (F.laneDlyDn_ticks l)
    | none => 0
  let tx := match srcKind dst with
    | 1 => h.txHop (srcA dst)
    | 4 => 160
    | _ => 0
  (mUp + mDn + tx + 80) * tick64 + h.srcHop64 n src + h.cross64 n src + h.ingress64 n + h.strain64 n + h.cross64 n dst

/-- The aligned destination: the lowest-numbered one on a lane or link (R44). -/
def Hive.alignedDest (h : Hive) (n : Nat) : Nat :=
  ((List.range 4).find? (fun d => srcKind (h.dest n d) = 1 || srcKind (h.dest n d) = 4)).getD 0

/-- The members of combine group `g`, each with the destination that feeds it (R45). -/
def Hive.groupMembers (h : Hive) (g : Nat) : List (Nat × Nat) :=
  h.image.flatMap (fun n => ((List.range 4).filter (fun d =>
    srcKind (h.dest n d) = 3 && srcA (h.dest n d) = g)).map (fun d => (n, d)))

/-- The members of alignment set `a` (R36, R45). -/
def Hive.asetMembers (h : Hive) (a : Nat) : List (Nat × Nat) :=
  (h.image.filter (fun n => h.get (F.steDelay_aset n) = a)).map (fun n => (n, h.alignedDest n))

/-- The sets that stream `n` is aligned in. -/
def Hive.setsOf (h : Hive) (n : Nat) : List (List (Nat × Nat)) :=
  ((List.range 4).filter (fun d => srcKind (h.dest n d) = 3)).map (fun d => h.groupMembers (srcA (h.dest n d))) ++
    (if h.get (F.steDelay_aset n) = 0 then [] else [h.asetMembers (h.get (F.steDelay_aset n))])

/-- The largest latency of a set. -/
def Hive.latMax (h : Hive) (set : List (Nat × Nat)) : Nat := (set.map (fun p => h.lat64 p.1 p.2)).foldl max 0

/-- The store delay D_i that a member needs (R45). -/
def Hive.eqNeed (h : Hive) (top : Nat) (p : Nat × Nat) : Nat :=
  let t := h.tOut p.1
  roundEvenN ((top - h.lat64 p.1 p.2) * t.2) (t.1 * tick64)

/-- The residue of a member, in ticks (R45). -/
def Hive.eqResidue (h : Hive) (top : Nat) (p : Nat × Nat) : Int :=
  roundEven (((top - h.lat64 p.1 p.2 : Nat) : Int) - (span64 (h.tOut p.1) (h.eqNeed top p) : Int)) tick64

/-- The residues of a set are reported (R45). -/
def Hive.residSet (h : Hive) (set : List (Nat × Nat)) : Hive :=
  let top := h.latMax set
  set.foldl (fun h' p => h'.setFit (F.rteStatus_resid p.1) (h.eqResidue top p)) h

/-- A stream's latency has changed: the residues of its sets follow; delays move only under R46 (R103). -/
def Hive.latChanged (h : Hive) (n : Nat) : Hive := (h.setsOf n).foldl (fun h set => h.residSet set) h

end Sys2Proof.Machine
end

