-- ==== Sys2Proof/Machine/Ops.lean ====
section
/-! DEFINITION. The operations that the meanings share: interrupts, the journal, fault records with the hive state and pins
that follow from them, the smoker's triggers and ramps, the fault map, scheduled operations, completions of commands, and
the frame of every host write and every command. -/

namespace Sys2Proof.Machine

/-- The answer of a meaning that changes only the block. -/
def State.upd (s : State) (f : Hive → Hive) : Host.Outcome State Fault Refusal := .next { s with hive := f s.hive }

/-- One SCLK tick: the GTC counts while SCLK is locked (R234, R235). -/
def Hive.tick (h : Hive) : Hive :=
  { h with ticks := h.ticks + 1, gtc := if h.flag F.pwrClkStat_sclk_lock then (h.gtc + 1) % 2 ^ 64 else h.gtc }

/-- The stamp of an event: the GTC, or while SCLK is stopped the last GTC and 30,000 for each crystal tick since (R235). -/
def Hive.stamp (h : Hive) : Nat :=
  if h.flag F.pwrClkStat_sclk_lock then h.gtc else (h.gtc + (h.ticks - h.sys.sclkStop) / 30000 * 30000) % 2 ^ 64

/-! ## Interrupts (R380) -/

/-- A message request for vector `v`: pending while the vector or the function is masked, else sent. -/
def Hive.msixSend (h : Hive) (v : Nat) : Hive :=
  if h.fnMask || bitOf (h.rd (0x1000400C + 16 * v)).toNat 0 then
    h.wr 0x10005000 (BitVec.ofNat 32 (setBit (h.rd 0x10005000).toNat v true))
  else { h with msix := Tbl.put (fun _ => 0) h.msix v (Tbl.get (fun _ => 0) h.msix v + 1) }

/-- Cause `v` of R380 occurs. -/
def Hive.setIrq (h : Hive) (v : Nat) : Hive :=
  let c := h.get F.cmdIrqStat_cause
  let h := h.markEdge R.cmdIrqStat v
  if bitOf c v then h
  else
    let h := h.set F.cmdIrqStat_cause (setBit c v true)
    if bitOf (h.get F.cmdIrqMask_cause) v then h else h.msixSend v

/-! ## The journal (R300 to R303) -/

/-- Bytes 0x00-0x27 of an entry (R301). -/
def jBytes (seq : Nat) (e : JEntry) : List Nat :=
  leBytes seq 8 ++ leBytes e.gtc 8 ++ leBytes e.epoch 2 ++ leBytes e.source 2 ++
    [e.iface % 256, e.kind % 256, e.status % 256, e.flags % 256] ++
    leBytes e.target 4 ++ leBytes e.old 4 ++ leBytes e.new 4 ++ leBytes e.arg 4

/-- True when entry `a` stands before `b`: of one cycle's entries the lowest source number goes first, then kind, then target
(R243). -/
def JEntry.before (a b : JEntry) : Bool :=
  a.gtc == b.gtc && a.epoch == b.epoch &&
    (decide (a.source < b.source) || (a.source == b.source &&
      (decide (a.kind < b.kind) || (a.kind == b.kind && decide (a.target < b.target)))))

/-- The waiting entry that is due: the first of those with the oldest stamp, in the order of R243; and the entries left. -/
def jNext (e : JEntry) : List JEntry → JEntry × List JEntry
  | [] => (e, [])
  | x :: q =>
    let r := jNext x q
    if r.1.before e then (r.1, e :: r.2) else (e, x :: q)

/-- The queen appends the oldest waiting entry to the ring and advances the chain value (R302). -/
def Hive.jAppend (h : Hive) : Hive :=
  match h.jq with
  | [] => h
  | x :: xs =>
    let (e, q) := jNext x xs
    let j := Config.sha384 (leBytes h.jhead 48 ++ jBytes h.jseq e) % 2 ^ 384
    let h := { h with
      jq := q
      jring := Tbl.put (fun _ => none) h.jring (h.jseq % 2048) (some ⟨h.jseq, e, j % 2 ^ 192⟩)
      jhead := j
      jseq := h.jseq + 1
      jold := max h.jold (h.jseq + 1 - 2048)
      jSince := if h.jSince + 1 = 1024 then 0 else h.jSince + 1 }
    if h.jSince = 0 then h.setIrq 6 else h

/-- An entry joins the queue; a full queue holds the change back until the queen has appended one (R300). -/
def Hive.jPush (h : Hive) (e : JEntry) : Hive :=
  let h := if h.jq.length ≥ 256 then (h.bump F.queJrnStat_stalls 1).jAppend else h
  { h with jq := h.jq ++ [e] }

/-- An entry of the given kind (R301): flags bit 0 accepted, bit 1 keeper-timed. -/
def Hive.journal (h : Hive) (source iface kind status : Nat) (ok : Bool) (target old new arg : Nat) : Hive :=
  let kt := if h.flag F.pwrClkStat_sclk_lock then 0 else 2
  h.jPush ⟨h.stamp, h.epoch, source, iface, kind, status, (if ok then 1 else 0) + kt, target, old, new, arg⟩

/-- A hive event of kind 0x07, with no interface. -/
def Hive.jEvent (h : Hive) (source target new arg : Nat) : Hive := h.journal source 5 7 0 true target 0 new arg

/-! ## Refused writes (R11) -/

/-- A write is refused: HIVE.WR_REFUSE keeps the first refusal. -/
def Hive.refuse (h : Hive) (a status : Nat) : Hive :=
  if h.flag F.wrRefuse_valid then h.setFlag F.wrRefuse_overrun true
  else
    let b2 := decide (a ≥ 0x10000000)
    let h := (h.setFlag F.wrRefuse_bar2 b2).set F.wrRefuse_addr (a % 0x4000000 / 4)
    (h.set F.wrRefuse_status status).hwSet F.wrRefuse_valid

/-! ## Fault records (R352 to R358) -/

/-- A fault record slot. -/
def Hive.flt (h : Hive) (i : Nat) : FaultRec := Tbl.get (fun _ => FaultRec.free) h.faults i
/-- The block with a record slot replaced; the generation word advances by a whole update (R365). -/
def Hive.setFlt (h : Hive) (i : Nat) (r : FaultRec) : Hive :=
  { h with faults := Tbl.put (fun _ => FaultRec.free) h.faults i { r with gen := (r.gen + 2) % 2 ^ 32 } }

/-- The valid records, by slot. -/
def Hive.fltValidRecs (h : Hive) : List FaultRec := ((List.range 256).map h.flt).filter (fun r => r.valid)

/-- The records whose fault is active. -/
def Hive.fltActive (h : Hive) : List FaultRec := h.fltValidRecs.filter (fun r => r.active)

/-- The HUM pin of a source's die (R352, R19). -/
def Hive.humOfSource (h : Hive) (s : Nat) : Nat :=
  if 0x8 ≤ s ∧ s ≤ 0xB then s - 8
  else if 0x10 ≤ s ∧ s ≤ 0x17 then
    let b := s - 0x10
    if b = 7 then 2 else if b = 2 ∨ b = 3 ∨ b = 5 then 1 else 0
  else if s < 0x30 then 6
  else if s < 0x40 then s % 2
  else if s < 0x100 then 6
  else if s < 0x200 then laneDie (s - 0x100)
  else if s < 0x240 then 2 + (s - 0x200) / 32
  else if s < 0x400 then 2 + (s - 0x240) / 4
  else if s < 0x800 then 2 + (s - 0x400) / 256
  else if s < 0xC00 then (s - 0x800) / 512
  else if s < 0xE00 then (s - 0xC00) / 256
  else if s < 0x1000 then (s - 0xE00) / 128
  else if s < 0x1800 then h.home (s - 0x1000)
  else if s < 0x2000 then (s - 0x1800) / 1024
  else if s < 0x2100 then 2 + h.get (F.fbcBulk_worker0 (s - 0x2000)) / 256
  else if s < 0x2200 then 2 + h.get (F.ugtCtl_worker (s - 0x2100)) / 256
  else if s < 0x2300 then 2 + Tbl.get (fun _ => 0) h.trkWorker (s - 0x2200) / 256
  else h.linkDie (s - 0x2300)

/-- The HUM pin whose domain a fault belongs to (R352). -/
def Hive.humOf (h : Hive) (cls cause source : Nat) : Nat :=
  if cls = 0x01 then 4
  else if cls ≤ 0x06 then h.humOfSource source
  else if cls ≤ 0x09 then 5
  else if cls = 0x0A then (if cause = 8 then 6 else h.humOfSource source)
  else if cls = 0x0F ∨ cls = 0x10 ∨ cls = 0x13 then 7
  else 6

/-- Classes whose faults at own L3 or above pull RFSAFE_N low: PROTECT, SMOKER, GAINCTL (R353). -/
def rfClass (cls : Nat) : Bool := cls == 0x08 || cls == 0x09 || cls == 0x07

/-- True of a valid record with a key. -/
def FaultRec.hasKey (r : FaultRec) (cls cause source : Nat) : Bool :=
  r.valid && r.cls == cls && r.cause == cause && r.source == source

/-- The slot of the valid record with a key (R354). -/
def Hive.fltFind (h : Hive) (cls cause source : Nat) : Option Nat :=
  (List.range 256).find? (fun i => (h.flt i).hasKey cls cause source)

/-- True when a valid record of the class, but those of `skip`, waits unacknowledged; notes do not count (R355). -/
def Hive.fltWaiting (h : Hive) (cls : Nat) (skip : List Nat) : Bool :=
  (List.range 256).any (fun i =>
    let r := h.flt i
    r.valid && r.cls == cls && !r.acked && decide (r.level > 0) && !skip.contains i)

/-- The slots of a class whose fault was new in this very cycle from a higher source number: in the order of R243 they come
later (R358). -/
def Hive.fltLater (h : Hive) (cls source : Nat) : List Nat :=
  (List.range 256).filter (fun i =>
    let r := h.flt i
    r.valid && r.cls == cls && decide (source < r.source) && r.count == 1 && r.first == h.stamp && r.epFirst == h.epoch &&
      decide (0 < r.level))

/-- A message as the hive frames it (R77): type, tag, length of the body, body, CRC-32. -/
def mgmtFrame (typ tag : Nat) (body : List Nat) : List Nat :=
  let m := [typ, tag] ++ leBytes body.length 2 ++ body
  m ++ leBytes (crc32 m) 4

/-- A port whose messages wait for a control fragment or an urgent byte: a link, a link's tokens, or an RLF or RYG lane (R77,
R83). -/
def Hive.framed (h : Hive) (k : Nat) : Bool :=
  decide (k < 18) || decide (512 ≤ k) || (decide (256 ≤ k) && decide (3 ≤ h.get (F.laneCtl_mode (k - 256))))

/-- A message handed to a transmitter: it waits for its control fragments, or leaves at once on an ETH lane (R77, R83). -/
def Hive.sendLink (h : Hive) (k : Nat) (msg : List Nat) : Hive :=
  { h with
    tx := Tbl.put (fun _ => []) h.tx k msg
    outq := if h.framed k then Tbl.put (fun _ => []) h.outq k (Tbl.get (fun _ => []) h.outq k ++ [msg]) else h.outq }

/-- The tree links: those towards the leaves and the upstream link (R241, R248). -/
def Hive.treeLinks (h : Hive) : List Nat :=
  h.treeDown ++ (if h.get F.timCtl_src = 3 then [h.get F.timCtl_up_link] else [])

/-- A message sent on every tree link. -/
def Hive.sendTree (h : Hive) (msg : List Nat) : Hive := h.treeLinks.foldl (fun h k => h.sendLink k msg) h

/-- The FAULT message of R248: origin, class, level and stamp. -/
def Hive.faultMsg (h : Hive) (cls level : Nat) : List Nat :=
  mgmtFrame 0x42 0 ([h.get F.topo_hive_id, cls, level] ++ leBytes h.stamp 8)

/-- The usage settings of the header: weights words, epoch numbers, and control bytes of the 16 tenants (R367). -/
def Hive.usageCtl (h : Hive) : List Nat :=
  (List.range 16).map (fun t => (h.rd (R.useWeight t)).toNat) ++ (List.range 16).map (fun t => h.get (F.useTCtl_epoch t)) ++
    (List.range 16).map (fun t => (h.rd (R.useTCtl t)).toNat % 128)

/-- A flush begins: its slot is marked incomplete and takes the frozen areas as they stand at the trigger (R366). -/
def Hive.flushInto (h : Hive) (slot why : Nat) : Hive :=
  let seq := (h.flushSeq + 1) % 2 ^ 32
  let st : SlotSt :=
    { magic := true, complete := false, crcGood := false, seq := seq, reason := why
      ktimed := !h.flag F.pwrClkStat_sclk_lock, epoch := h.epoch, gtcTrig := h.stamp, gtcDone := 0
      words := h.keeper, faults := [], usage := h.usage, ring := h.uring, ctl := h.usageCtl }
  let h : Hive := { h with
    flush := some (slot, why), flushSeq := seq, flushAt := h.ticks
    slots := Tbl.put (fun _ => SlotSt.empty) h.slots slot st }
  h.set F.evrStat_state (if h.pfFrozen then 2 else 1)

/-- A flush of the recorder is triggered for the reasons `why`: it starts in the slot after the last, or follows the one
that runs, with reason bit 3 (R366, R368). -/
def Hive.flushStart (h : Hive) (why : Nat) : Hive :=
  match h.flush with
  | some _ =>
    ({ h with flushNext := some (Nat.lor 8 (Nat.lor why (h.flushNext.getD 0))) } : Hive).setFlag F.evrStat_pending true
  | none => h.flushInto ((h.get F.evrStat_last + 1) % 4) why

/-- A power fail's flush: a running one is abandoned, its slot left incomplete (R368); the areas stay frozen (R366). -/
def Hive.flushPf (h : Hive) : Hive :=
  let slot :=
    match h.flush with
    | some (s, _) => (s + 1) % 4
    | none => (h.get F.evrStat_last + 1) % 4
  let h : Hive := { h with pfFrozen := true, flushNext := none }
  (h.setFlag F.evrStat_pending false).flushInto slot 1

/-- True while the die, lane, usage and stream areas of the recorder are frozen (R366). -/
def Hive.areasFrozen (h : Hive) : Bool := h.flush.isSome || h.pfFrozen

/-- An alert source of the keeper: a record shown at or above SMB.ALERT_CFG.lvl (R403). -/
def Hive.alertFault (h : Hive) (shown : Nat) : Hive :=
  if shown ≥ h.get F.smbAlertCfg_lvl then { h with alFaults := h.alFaults ++ [shown] } else h

/-- A fault that finds no slot is counted and merged into the aggregate of FLT.LOST (R357, R361). -/
def Hive.lostAdd (h : Hive) (r : FaultRec) (hum : Nat) : Hive :=
  let m : LostMark := ⟨h.ticks, r, hum, h.rd R.fltLost⟩
  let h : Hive := { h with lostMarks := h.lostMarks.filter (fun x => x.tick == h.ticks) ++ [m] }
  let h := h.bump F.fltLost_count 1
  let h := h.set F.fltLost_level (max (h.get F.fltLost_level) r.level)
  let h := h.set F.fltLost_shown (max (h.get F.fltLost_shown) r.shown)
  let h := if rfClass r.cls && decide (r.level ≥ 3) then h.setFlag F.fltLost_rf true else h
  let h := h.set F.fltLost_hum (setBit (h.get F.fltLost_hum) hum true)
  (h.hwSet F.fltLost_valid).setIrq 1

/-- A record's slot is freed. A fault lost in the same cycle takes it, and FLT.LOST stands as if it had not been lost (R358). -/
def Hive.fltFree (h : Hive) (i : Nat) : Hive :=
  let h := h.setFlt i { FaultRec.free with gen := (h.flt i).gen }
  match h.lostMarks.filter (fun m => m.tick == h.ticks) with
  | [] => h
  | m :: ms =>
    let h := (({ h with lostMarks := [] } : Hive).wr R.fltLost m.before).setFlt i { m.was with gen := (h.flt i).gen }
    ms.foldl (fun h m => h.lostAdd m.was m.hum) h

/-- What a record was is remembered until the cycle ends. -/
def Hive.fltMark (h : Hive) (i : Nat) (r : FaultRec) (ack : Option Nat) : Hive :=
  { h with fltMarks := ⟨h.ticks, i, r, ack⟩ :: h.fltMarks.filter (fun m => m.tick == h.ticks) }

/-- A record acknowledged or freed in this cycle is there again for an occurrence of its fault in the same cycle: the occurrence
counts as first, and the acknowledgement is refused; a condition that ended and recurs has its record updated (R358). -/
def Hive.fltReturn (h : Hive) (cls cause source : Nat) : Hive :=
  match h.fltMarks.find? (fun m => m.tick == h.ticks && m.was.hasKey cls cause source) with
  | none => h
  | some m =>
    let now := h.flt m.slot
    if now.valid && !now.hasKey cls cause source then h
    else
      let back := if now.valid then
          { m.was with level := max m.was.level now.level, active := m.was.active || now.active, gen := now.gen }
        else { m.was with gen := now.gen }
      let h : Hive := ({ h with fltMarks := h.fltMarks.filter (fun x => x != m) } : Hive).setFlt m.slot back
      match m.ack with
      | none => h
      | some a =>
        { h.refuse a 3 with
          jq := h.jq.map (fun (e : JEntry) => if e.kind == 1 && e.target == a && e.gtc == h.stamp && e.status == 0 then
            { e with status := 3, flags := e.flags - 1 } else e) }

/-- A record's shown level rises (R355, R361). -/
def Hive.showUp (h : Hive) (i shown : Nat) : Hive :=
  let r := h.flt i
  if r.shown < shown then ((h.setFlt i { r with shown := shown }).setIrq 1).alertFault shown else h

/-- A fault occurs: its record, its interrupt, its alert, its flush and its FAULT message; the hive state is not yet
evaluated (R354, R355, R357, R358, R361, R366, R248). -/
def Hive.record (h : Hive) (cls cause source level arg : Nat) (selfc : Bool) : Hive :=
  let h := h.fltReturn cls cause source
  let later := h.fltLater cls source
  let shown := if level > 0 && h.fltWaiting cls later then min 5 (level + 1) else level
  let fresh : FaultRec :=
    { valid := true, cls := cls, cause := cause, source := source, level := level, shown := shown, active := true
      sc := false, selfc := selfc, acked := false, remote := false, ktimed := !h.flag F.pwrClkStat_sclk_lock, origin := 0
      argFirst := arg, argLast := arg, count := 1, first := h.stamp, last := h.stamp, epFirst := h.epoch, epLast := h.epoch
      gen := 0, byScrub := false }
  let h :=
    match h.fltFind cls cause source with
    | some i =>
      let r := h.flt i
      (h.setFlt i { r with
        count := min (r.count + 1) (2 ^ 32 - 1), last := h.stamp, epLast := h.epoch, argLast := arg, active := true
        acked := false, selfc := selfc && (r.selfc || !r.active), level := max r.level level }).showUp i shown
    | none =>
      match (List.range 256).find? (fun i => !(h.flt i).valid) with
      | some i => ((h.setFlt i { fresh with gen := (h.flt i).gen }).setIrq 1).alertFault shown
      | none => h.lostAdd fresh (h.humOf cls cause source)
  let h := if level > 0 then later.foldl (fun h i => h.showUp i (min 5 ((h.flt i).level + 1))) h else h
  let h := if level ≥ 3 then h.flushStart 2 else h
  if level ≥ 4 then h.sendTree (h.faultMsg cls level) else h

/-- Highest own level among the active faults and the lost aggregate (R373). -/
def Hive.ownMax (h : Hive) : Nat :=
  (h.fltActive.map (fun r => r.level)).foldl max (if h.flag F.fltLost_valid then h.get F.fltLost_level else 0)

/-- Highest shown level among them (R373). -/
def Hive.shownMax (h : Hive) : Nat :=
  (h.fltActive.map (fun r => r.shown)).foldl max (if h.flag F.fltLost_valid then h.get F.fltLost_shown else 0)

/-- True while a fault or lost aggregate of HUM `i`'s domain is shown at or above the pin's threshold (R360). -/
def Hive.humFault (h : Hive) (i : Nat) : Bool :=
  let thr := bitsOf (h.get F.fltHumMap_thr) (3 * i) 3
  h.fltActive.any (fun r => decide (r.shown ≥ thr) && h.humOf r.cls r.cause r.source == i) ||
    (h.flag F.fltLost_valid && bitOf (h.get F.fltLost_hum) i && decide (h.get F.fltLost_shown ≥ thr))

/-- True while HUM `i`'s domain is alive (R360). -/
def Hive.humAlive (h : Hive) (i : Nat) : Bool :=
  if i < 4 then
    let st := bitsOf (h.rd R.dieState).toNat (4 * i) 4
    st == 2 || st == 3
  else if i < 6 then h.running? || h.mode == .safe
  else if i = 6 then h.keeperAlive
  else h.queenUp

/-- The conditions under which HUM `i` may toggle (R360). -/
def Hive.humOk (h : Hive) (i : Nat) : Bool :=
  h.flag F.pwrClkStat_sclk_lock && h.humAlive i && !h.humFault i

/-- Pins whose conditions fail stop; they resume only at a HUM edge (R360). -/
def Hive.humStop (h : Hive) : Hive :=
  { h with hum := (List.range 8).foldl (fun m i => if h.humOk i then m else setBit m i false) h.hum }

/-- RFSAFE_N is low (R361). -/
def Hive.rfsafeLow (h : Hive) : Bool :=
  h.fltActive.any (fun r => (rfClass r.cls && decide (r.level ≥ 3)) || decide (r.level ≥ 4)) ||
    (h.flag F.fltLost_valid && (h.flag F.fltLost_rf || decide (h.get F.fltLost_level ≥ 4))) ||
    !h.seenRun || h.mode == .safe || h.mode == .halt

/-- HALT_N is low (R361). -/
def Hive.haltLow (h : Hive) : Bool := h.fltActive.any (fun r => r.level == 5) || h.mode == .halt

/-! ## The smoker (R197 to R206) -/

/-- The own and power-fail ramps: shape and length in microseconds before the deadline (R198, R206). -/
def Hive.rampOf (h : Hive) (n : Nat) (pf : Bool) : Nat × Nat :=
  if pf then (h.get F.smkPfRamp_shape, h.get F.smkPfRamp_len)
  else (h.get (F.smkCfg_shape n), h.get (F.smkCfg_len_down n))

/-- The deadline in force; one that fails its complement check bounds nothing (R199). -/
def Hive.deadline (h : Hive) (n : Nat) : Nat :=
  if rwcOk (h.rd (R.smkDeadline n)) then h.rwc (R.smkDeadline n) else 65535

/-- A ramp down is started for the trigger `bit` from the multiplier `ms`, by the ramp named (R198, R201). During a ramp
down the one that reaches zero sooner from here is kept, unless `force`. -/
def Hive.rampStart (h : Hive) (n : Nat) (pf force : Bool) (ms : Nat) : Hive :=
  let (shape, us) := h.rampOf n pf
  let dl := h.deadline n
  let len := h.samplesOf n (min us dl)
  let pos := rampFind shape len ms
  let st := h.sget n
  let left := st.len - h.get (F.smkStat_pos n)
  let isDown := h.st n == stRampDown && !force
  if isDown && decide (left ≤ len - pos) then h
  else
    let h := h.sset n { st with shape := shape, len := len }
    let h := (h.set (F.smkStat_pos n) pos).set (F.smkStat_ramp n) (if pf then 2 else 1)
    let h := h.setFlag (F.smkStat_clipped n) (decide (dl < us))
    if dl < us then h.record 0x09 0x01 (0x32 + h.home n) 0 0 false else h

/-- A mismatch at use is counted, journaled, raised as INTEGRITY cause 0x02 at L3 with the finder's source number and the
value's address, and remembered with the streams that use the value; with none the number 2048 stands in the list (R299). The
hive state is not yet evaluated. -/
def Hive.mismNote (h : Hive) (source a : Nat) (ns : List Nat) : Hive :=
  let h := (h.bump F.queInteg_count 1).set F.queInteg_source source
  let h := h.journal source 5 8 0 false a (h.rd a).toNat 0 0
  let h := { h with mism := h.mism ++ (if ns.isEmpty then [2048] else ns).map (fun n => (a, n)) }
  h.record 0x13 0x02 source 3 a false

/-- A cause bit of a stream is set. -/
def Hive.causeOn (h : Hive) (bit n : Nat) : Hive :=
  h.set (F.smkCause_active n) (setBit (h.get (F.smkCause_active n)) bit true)

/-- The smoker uses a stream's deadline: one that fails its complement check is a mismatch at use, cause 3 (R199, R299). -/
def Hive.deadlineUse (h : Hive) (n : Nat) : Hive :=
  let a := R.smkDeadline n
  if rwcOk (h.rd a) then h
  else (if h.mism.any (fun p => p.1 == a) then h else h.mismNote (0x32 + h.home n) a [n]).causeOn 3 n

/-- The lowest-numbered, that is highest-precedence, active cause (R202). -/
def firstCause (m : Nat) : Nat := ((List.range 10).find? (fun b => bitOf m b)).getD 0

/-- SMK.CAUSE.first takes the highest precedence among the active causes (R202). -/
def Hive.firstNow (h : Hive) (n : Nat) : Hive := h.set (F.smkCause_first n) (firstCause (h.get (F.smkCause_active n)))

/-- The status of a completion already written becomes WRONG_STATE. -/
def Hive.restatus (h : Hive) (k : CmdTok) (pos : Nat) : Hive :=
  match k.via with
  | .queue =>
    let w := (h.rd (0x10002000 + 16 * (pos % 64))).toNat
    if w % 2 ^ 31 = k.tag + k.op * 2 ^ 16 then h.wr (0x10002000 + 16 * (pos % 64)) (BitVec.ofNat 32 (w + 3 * 2 ^ 24)) else h
  | .mailbox _ =>
    match Tbl.get (fun _ => []) h.mbox pos with
    | w :: ws =>
      if w = k.tag + k.op * 2 ^ 16 then { h with mbox := Tbl.put (fun _ => []) h.mbox pos ((w + 3 * 2 ^ 24) :: ws) } else h
    | [] => h

/-- A stop or an unmute taken in this cycle is undone and returns WRONG_STATE: what is registered in a cycle counts as before
the check of a command taken in it (R205, R383). -/
def Hive.cmdUndo (h : Hive) (n : Nat) : Hive :=
  match h.marks.find? (fun m => m.tick == h.ticks && m.n == n) with
  | none => h
  | some m =>
    let h := { h with
      marks := h.marks.filter (fun x => x != m)
      jq := h.jq.map (fun (e : JEntry) => if e.kind == 2 && e.status == 0 && e.gtc == h.stamp && e.target == m.tok.op && e.new % 2048 == n then
        { e with status := 3, flags := e.flags - 1 } else e) }
    let h := ((h.setSt n m.was).npmSet n m.npm).sset n m.st
    let h := ((h.setMs n m.st.ms).wr (R.smkStat n) m.stat).set (F.smkCause_active n)
      (setBit (h.get (F.smkCause_active n)) 9 m.bit9)
    h.restatus m.tok m.pos

/-- What a stop or an unmute accepted now replaces, kept until the cycle ends. -/
def Hive.cmdMark (h : Hive) (n : Nat) (k : CmdTok) : Hive :=
  let pos := match k.via with | .queue => h.cqCount % 64 | .mailbox j => j.val
  { h with marks := ⟨h.ticks, n, k, pos, h.st n, bitOf (h.get (F.smkCause_active n)) 9, h.sget n, h.rd (R.smkStat n),
      h.npmGet n⟩ :: h.marks.filter (fun m => m.tick == h.ticks && m.n != n) }

/-- A ramp down begins from RAMP_UP or LIVE, named by cause `bit`, 10 for none. -/
def Hive.rampBegin (h : Hive) (n bit : Nat) (pf toIdle : Bool) : Hive :=
  let h := h.deadlineUse n
  let u := h.sget n
  let h := h.rampStart n (pf || !rwcOk (h.rd (R.smkDeadline n))) true u.ms
  let h := h.sset n { h.sget n with trigAt := h.gtc, trigMs := u.ms, rampBy := bit, toIdle := toIdle }
  h.setSt n stRampDown

/-- Trigger `bit` of R202 for one stream: its cause bit is set, and a stream in RAMP_UP, LIVE or RAMP_DOWN ramps down, an
ARMED one goes to MUTED (R200, R201, R205). A deadline that fails its complement check gives the power-fail ramp (R199). Of
triggers in one cycle the highest precedence names the ramp (R202). -/
def Hive.trigger (h : Hive) (bit : Nat) (pf : Bool) (n : Nat) : Hive :=
  let h := (h.cmdUndo n).causeOn bit n
  let st := h.st n
  if st = stArmed then (h.setSt n stMuted).firstNow n
  else if st = stRampUp ∨ st = stLive then (h.rampBegin n bit pf false).firstNow n
  else if st = stRampDown then
    let h := h.deadlineUse n
    let pf := pf || !rwcOk (h.rd (R.smkDeadline n))
    let u := h.sget n
    if u.trigAt = h.gtc then
      if bit < u.rampBy then
        let h := h.rampStart n pf true u.trigMs
        (h.sset n { h.sget n with rampBy := bit }).firstNow n
      else h
    else h.rampStart n pf false u.ms
  else h

/-- A trigger for several streams. -/
def Hive.triggerAll (h : Hive) (bit : Nat) (pf : Bool) (ns : List Nat) : Hive :=
  ns.foldl (fun h n => h.trigger bit pf n) h

/-- Cause `bit` of a stream clears. -/
def Hive.uncause (h : Hive) (bit : Nat) (n : Nat) : Hive :=
  h.set (F.smkCause_active n) (setBit (h.get (F.smkCause_active n)) bit false)

/-- True while cause `bit` is set on the stream. -/
def Hive.hasCause (h : Hive) (bit n : Nat) : Bool := bitOf (h.get (F.smkCause_active n)) bit

/-- The streams of a tenant. -/
def Hive.tenantStreams (h : Hive) (t : Nat) : List Nat := h.image.filter (fun n => h.tenant n == t)

/-! ## The hive state (R359) -/

/-- Entry into SAFE or HALT is told to the tree (R248). -/
def Hive.modeMsg (h : Hive) (level : Nat) : Hive :=
  let (w, h) := h.draw
  h.sendTree (h.faultMsg (w % 256) level)

/-- Entry into HALT: every stream that is not already MUTED ramps with the power-fail ramp, under cause 2 unless the
raising rule has set cause 0 or 1 on it. -/
def Hive.enterHalt (h : Hive) : Hive :=
  let ns := h.image.filter (fun n => h.st n != stMuted && !h.hasCause 0 n && !h.hasCause 1 n)
  (({ h with mode := .halt }).triggerAll 2 true ns).modeMsg 5

/-- The hive's state follows the records, the lost aggregate and the rules that name SAFE (R359). -/
def Hive.settle (h : Hive) : Hive :=
  let h :=
    if h.running? || h.mode == .safe then
      let own := h.ownMax
      if 5 ≤ own then h.enterHalt
      else if h.safeBy ≠ 0 then
        if h.mode == .safe then h else ({ h with mode := .safe }).modeMsg 0
      else if own ≥ 2 then { h with mode := .degraded, seenRun := true }
      else { h with mode := .run, seenRun := true }
    else h
  h.humStop

/-- A fault is raised: recorded, and the hive state follows. -/
def Hive.raise (h : Hive) (cls cause source level arg : Nat) : Hive :=
  (h.record cls cause source level arg false).settle

/-- A fault that clears itself is raised. -/
def Hive.raiseSC (h : Hive) (cls cause source level arg : Nat) : Hive :=
  (h.record cls cause source level arg true).settle

/-- The condition of a self-clearing fault ends (R356). -/
def Hive.condEnd (h : Hive) (cls cause source : Nat) : Hive :=
  match h.fltFind cls cause source with
  | none => h
  | some i =>
    let r := h.flt i
    if r.active && r.selfc then
      let r := { r with active := false, sc := true }
      (if r.acked then (h.fltMark i r none).fltFree i else h.setFlt i r).settle
    else h

/-- A rule that names SAFE comes into force (R359): bit `b` of `safeBy`. -/
def Hive.safeOn (h : Hive) (b : Nat) : Hive := { h with safeBy := setBit h.safeBy b true }.settle

/-- A rule that names SAFE ends. -/
def Hive.safeOff (h : Hive) (b : Nat) : Hive := { h with safeBy := setBit h.safeBy b false }.settle

/-! ## Switches and the fault map (R53 to R58) -/

/-- The outcome of a switch is recorded and journaled (R58). -/
def Hive.switchDone (h : Hive) (n result : Nat) (auto : Bool) : Hive :=
  let h := ((h.set F.swLast_stream n).set F.swLast_result result).setFlag F.swLast_auto auto
  (h.hwSet F.swLast_valid).jEvent (srcNoStream n) R.swLast result n

/-- True when an ingress delay stands at what both measurements ask for (R54); a need beyond in_max is never met (R52). -/
def Hive.ingressAligned (h : Hive) (n : Nat) : Bool :=
  (h.sget n).inWant == (h.get (F.steInDly_in_pri n), h.get (F.steInDly_in_alt n))

/-- standby_ready follows: an alternate exists, the standby is up and aligned, and with alt.verify the last 4,096 aligned
pairs were identical (R55). -/
def Hive.standbyEval (h : Hive) (n : Nat) : Hive :=
  let ok := srcKind (h.get (F.steAlt_alt n)) != 0 && h.srcUp (h.srcStandby n) && h.ingressAligned n &&
    (!h.flag (F.steAlt_alt_verify n) || decide ((h.sget n).same ≥ 4096))
  h.setFlag (F.rteStatus_standby_ready n) ok

/-- The brood dies a stream passes through (R18, R202). -/
def Hive.passDies (h : Hive) (n : Nat) : List Nat :=
  h.home n :: (h.srcNow n :: (List.range 4).map (fun k => h.dest n k)).filterMap (fun w => h.endDie w)

/-- Cause 2 clears on streams whose dies all run, outside HALT (R202). -/
def Hive.dieCauseEnd (h : Hive) (ns : List Nat) : Hive :=
  if h.mode == .halt then h
  else (ns.filter (fun n => h.hasCause 2 n && (h.passDies n).all (fun d => h.dieSt d == 2))).foldl (fun h n => h.uncause 2 n) h

/-- The source in force changes over to the standby (R56); the latency follows the new source (R44), and
cause 2 ends when every die the stream now passes runs (R202). -/
def Hive.switchOver (h : Hive) (n : Nat) : Hive :=
  (((h.setFlag (F.rteStatus_active n) (!h.flag (F.rteStatus_active n))).standbyEval n).latChanged n).dieCauseEnd [n]

/-- The reason reported when standby_ready is 0 (R56). -/
def Hive.switchReason (h : Hive) (n : Nat) : Nat :=
  if h.flag (F.steAlt_alt_verify n) && h.srcUp (h.srcStandby n) && h.ingressAligned n && (h.sget n).differed then 2 else 1

/-- Pending switches of a stream are superseded (R57). -/
def Hive.switchSupersede (h : Hive) (n : Nat) : Hive :=
  if h.sched.any (fun o => o.kind == SchedKind.streamSwitch n) then
    ({ h with sched := h.sched.filter (fun o => o.kind != SchedKind.streamSwitch n) }).switchDone n 3 false
  else h

/-- Cause 7 for a fault map mute (R202). -/
def Hive.fmapMute (h : Hive) (n c : Nat) : Hive :=
  (h.sset n { h.sget n with muteSit := setBit (h.sget n).muteSit c true }).trigger 7 false n

/-- The store delay in force: the one equalisation maintains, or the one written, unless a bypass has replaced it (R46, R53). -/
def Hive.delayNow (h : Hive) (n : Nat) : Nat :=
  let st := h.sget n
  (if h.flag (F.steDelay_eq_auto n) then st.dNow else st.byp).getD (h.get (F.steDelay_delay n))

/-- The bypass of R53: the detour is removed and the store delay grows by (144 + kernel latency) / t_s samples, clamped to
what the buffer holds. -/
def Hive.bypassTake (h : Hive) (n : Nat) : Hive :=
  if (h.sget n).bypass || !h.flag (F.steKern_kern_en n) then h
  else
    let t := h.tOut n
    let more := roundEvenN ((144 * tick64 + h.kern64 n) * t.2) (t.1 * tick64)
    let top := (h.get (F.steBufUnits_buf_units n) - 1) * 128
    let st := h.sget n
    let want := h.delayNow n + more
    let h := h.sset n (if h.flag (F.steDelay_eq_auto n) then { st with bypass := true, dNow := some (min want top) }
      else { st with bypass := true, byp := some (min want top) })
    let h := if want > top then h.setFlag (F.rteStatus_eq_clamped n) true else h
    h.latChanged n

/-- A stream's action for cause `c` is taken (R53). -/
def Hive.fmapTake (h : Hive) (c n : Nat) : Hive :=
  let src := srcNoStream n
  let rt := fun (h : Hive) (lvl : Nat) => h.raise 0x02 (3 + c) src lvl n
  match h.fmapAction n c with
  | 1 => rt (h.bypassTake n) 2
  | 2 =>
    -- the scheduled switch is reported after the automatic one (R57)
    if h.flag (F.rteStatus_standby_ready n) then rt (((h.switchOver n).switchDone n 0 true).switchSupersede n) 2
    else rt (((h.switchDone n (h.switchReason n) true).switchSupersede n).fmapMute n c) 2
  | 3 =>
    let s := h.srcNow n
    if srcKind s = 3 then
      let g := srcA s
      let gs := h.gget g
      -- the slots whose streams are FAULTED stop being summed
      let bad := h.image.foldl (fun m k =>
        if h.st k = stFaulted then
          (List.range 4).foldl (fun m d =>
            let w := h.dest k d
            if srcKind w = 3 ∧ srcA w = g then setBit m (srcB w) true else m) m
        else m) gs.dropped
      rt (h.gset g { gs with dropped := bad }) 2
    else rt h 2
  | 4 => rt h 2
  | 5 =>
    let h := h.sset n { h.sget n with silSit := setBit (h.sget n).silSit c true }
    rt (h.triggerAll 6 false (h.tenantStreams (h.tenant n))) 4
  | _ => rt (h.fmapMute n c) 3

/-- The streams' states in which the fault map acts (R53). -/
def Hive.fmapActs (h : Hive) (n : Nat) : Bool :=
  let st := h.st n
  st == stRampUp || st == stLive || st == stRampDown || st == stMuted

/-- Cause `c`'s action, and cause 5's as well when a bypass needs more delay than the buffer holds (R53). -/
def Hive.fmapRun (h : Hive) (c n : Nat) : Hive :=
  let was := h.flag (F.rteStatus_eq_clamped n)
  let h := h.fmapTake c n
  if c = 1 && !was && h.flag (F.rteStatus_eq_clamped n) then
    (h.sset n { h.sget n with sit := setBit (h.sget n).sit 5 true }).fmapTake 5 n
  else h

/-- Situation `c` of R53 arises for a stream: its action is taken when the stream is RAMP_UP, LIVE, RAMP_DOWN or MUTED. A
situation that holds already is not taken again. -/
def Hive.sitOn (h : Hive) (c : Nat) (n : Nat) : Hive :=
  if bitOf (h.sget n).sit c then h
  else
    let h := h.sset n { h.sget n with sit := setBit (h.sget n).sit c true }
    if h.fmapActs n then h.fmapRun c n else h

/-- Situation `c` ends: cause 7 clears once no muting situation is left; a silence waits for tenant-band unmutes. -/
def Hive.sitOff (h : Hive) (c : Nat) (n : Nat) : Hive :=
  let st := h.sget n
  let st := { st with sit := setBit st.sit c false, muteSit := setBit st.muteSit c false, silSit := setBit st.silSit c false }
  let h := h.sset n st
  if st.muteSit = 0 && h.hasCause 7 n then h.uncause 7 n else h

/-- Cause 0's situation follows the source in force, and standby_ready the standby (R53, R55, R435). -/
def Hive.srcEval (h : Hive) (n : Nat) : Hive :=
  let h := h.standbyEval n
  if srcKind (h.srcNow n) = 0 then h
  else if h.srcUp (h.srcNow n) then (if bitOf (h.sget n).sit 0 then h.sitOff 0 n else h)
  else
    let h := h.sitOn 0 n
    -- an automatic switch has put a source in force that is up
    if h.srcUp (h.srcNow n) then h.sitOff 0 n else h

/-- A destination is lost: its die does not run, or its lane or link does not carry traffic (R18, R53). -/
def Hive.destLost (h : Hive) (w : Nat) : Bool :=
  match srcKind w with
  | 0 => false
  | 1 => h.onFaulted w || !h.laneWorks (srcA w)
  | 4 => h.onFaulted w || !(h.linkCarried (srcA w) && h.linkHas (srcA w) (srcB w))
  | _ => h.onFaulted w

/-- Cause 3's situation follows the destinations (R53). -/
def Hive.destEval (h : Hive) (n : Nat) : Hive :=
  if (List.range 4).any (fun d => h.destLost (h.dest n d)) then h.sitOn 3 n
  else if bitOf (h.sget n).sit 3 then h.sitOff 3 n else h

/-- Every stream with a source or a destination for which `p` holds is looked at again. -/
def Hive.srcEvalAll (h : Hive) (p : Nat → Bool) : Hive :=
  h.image.foldl (fun h n =>
    let h := if p (h.srcWord n false) || p (h.srcWord n true) then h.srcEval n else h
    if (List.range 4).any (fun d => p (h.dest n d)) then h.destEval n else h) h

/-- The combine group behind a source: one named directly, or that of a synthesis bank (R40). -/
def Hive.groupBehind (h : Hive) (w : Nat) : Option Nat :=
  match srcKind w with
  | 2 => some (h.get (F.sivCtl_group (srcB w)))
  | 3 => some (srcA w)
  | _ => none

/-- An input of a group is FAULTED and its slot still counted (R42, R53). -/
def Hive.inputFaulted (h : Hive) (g : Nat) : Bool :=
  h.image.any (fun k => h.st k == stFaulted && (List.range 4).any (fun d =>
    srcKind (h.dest k d) == 3 && srcA (h.dest k d) == g && !bitOf (h.gget g).dropped (srcB (h.dest k d))))

/-- Cause 4's situation follows the inputs of the group that feeds the stream (R53). -/
def Hive.inputEval (h : Hive) (n : Nat) : Hive :=
  match h.groupBehind (h.srcNow n) with
  | none => if bitOf (h.sget n).sit 4 then h.sitOff 4 n else h
  | some g =>
    if h.inputFaulted g then h.sitOn 4 n
    else if bitOf (h.sget n).sit 4 then h.sitOff 4 n else h

/-- The streams fed by the groups that stream `n` feeds are looked at again. -/
def Hive.feedEval (h : Hive) (n : Nat) : Hive :=
  let gs := ((List.range 4).filter (fun d => srcKind (h.dest n d) = 3)).map (fun d => srcA (h.dest n d))
  (h.image.filter (fun k => match h.groupBehind (h.srcNow k) with | some g => gs.contains g | none => false)).foldl
    (fun h k => h.inputEval k) h

/-- The stream goes to FAULTED at once, without a ramp; the groups it feeds lose an input (R18, R53, R200). -/
def Hive.toFaulted (h : Hive) (n : Nat) : Hive :=
  ((((h.setMs n 0).setSt n stFaulted).set (F.smkStat_ramp n) 0).set (F.smkStat_pos n) 0).feedEval n

/-- The slice of a stream in FAULTED runs again: MUTED (R200). -/
def Hive.fromFaulted (h : Hive) (n : Nat) : Hive :=
  (((h.setSt n stMuted).set (F.smkCause_first n) (firstCause (h.get (F.smkCause_active n))))).feedEval n

/-- The stream leaves ARMED for RAMP_UP, or MUTED by an unmute: m_s ramps up from 0 (R200, R204); situations that hold
act at the entry from ARMED (R53). -/
def Hive.rampUpStart (h : Hive) (n : Nat) (fromArmed : Bool) : Hive :=
  let len := h.samplesOf n (h.get (F.smkCfg_len_up n))
  let h := h.sset n { h.sget n with shape := h.get (F.smkCfg_shape n), len := len, toIdle := false }
  let h := (((h.setMs n 0).set (F.smkStat_pos n) 0).set (F.smkStat_ramp n) 3).setFlag (F.smkStat_clipped n) false
  let h := h.setSt n stRampUp
  if fromArmed then
    (List.range 6).foldl (fun h c => if bitOf (h.sget n).sit c then h.fmapRun c n else h) h
  else h

/-! ## Scheduled operations (R249) -/

/-- A new operation is held, unless 256 are pending. -/
def Hive.schedule (h : Hive) (t : Nat) (k : SchedKind) : Hive := { h with sched := h.sched ++ [⟨t, k⟩] }

/-- True when a 257th operation would be asked for. -/
def Hive.schedFull (h : Hive) : Bool := decide (h.sched.length ≥ 256)

/-- Operations of a kind leave the table. -/
def Hive.unsched (h : Hive) (k : SchedKind) : Hive := { h with sched := h.sched.filter (fun o => o.kind != k) }

/-- The operation of this kind that is due: its T has been reached. -/
def Hive.due (h : Hive) (k : SchedKind) : Bool := h.sched.any (fun o => o.kind == k && decide (o.t ≤ h.gtc))

/-- The lead of R25 for hive scope, or for apiary scope with TIM.LEAD (R249). -/
def Hive.leadOk (h : Hive) (t : Nat) (apiary : Bool) : Bool :=
  let lead := if apiary then Config.leadTicks (h.get F.topo_max_depth) + h.get F.timLead_xs else Config.leadTicks 0
  decide (h.gtc + lead ≤ t)

/-- A patch with stream `n` in its scope is due: it applies before a switch or a swap of the same instant (R57, R102). -/
def Hive.patchFirst (h : Hive) (n : Nat) : Bool :=
  h.sched.any (fun o =>
    match o.kind with
    | .patchAct p => decide (o.t ≤ h.gtc) &&
      (match Tbl.get (fun _ => none) h.sys.patches p with
        | some q => q.file.body.streams.contains n
        | none => false)
    | _ => false)

/-! ## Host writes (R6 to R11) -/

/-- Status codes (R384). -/
def stOk : Nat := 0
def stBadCmd : Nat := 1
def stBadArg : Nat := 2
def stWrong : Nat := 3
def stDenied : Nat := 4
def stBusy : Nat := 5
def stNoRes : Nat := 6
def stInteg : Nat := 7
def stNotAuth : Nat := 8

/-- The key of the word a write falls in. -/
def wKey (w : RegWrite) : Nat := (if w.bar2 then 0x10000000 else 0) + (w.off - w.off % 4)

/-- True when the write covers the whole register (R6). -/
def wFull (w : RegWrite) : Bool := w.size.val == 4 && w.off % 4 == 0

/-- True when a register has a field that a host write acts on. -/
def descWritable (d : RegDesc) : Bool := d.rwc || d.rw != 0 || d.w1c != 0 || d.w1s != 0 || d.wo != 0

/-- A word after a write by its access types (R7): RW bits take the value, W1C bits written 1 clear but for those of `keep`,
W1S bits set. -/
def applyMasks (d : RegDesc) (keep : Nat) (old v : Word) : Word :=
  let rw := BitVec.ofNat 32 d.rw
  let c := BitVec.ofNat 32 d.w1c &&& ~~~(BitVec.ofNat 32 keep)
  let s1 := BitVec.ofNat 32 d.w1s
  if d.rwc then v else ((old &&& ~~~rw) ||| (v &&& rw)) &&& ~~~(v &&& c) ||| (v &&& s1)

/-- The journal entry of a host write (R300, R301): a BAR2 register write counts as command queue. -/
def Hive.jWrite (h : Hive) (w : RegWrite) (status : Nat) (ok : Bool) (old : Word) : Hive :=
  let a := wKey w
  h.journal (srcOfAddr a) (if w.bar2 then 1 else reqIface w.req) 1 status ok a old.toNat w.value.toNat (h.argOfAddr a)

/-- A write turned away with a status: no effect, recorded and journaled (R11, R297, R300). -/
def Hive.wRefused (h : Hive) (w : RegWrite) (status : Nat) : Hive :=
  (h.refuse (wKey w) status).jWrite w status false (h.rd (wKey w))

/-- Every host write to a register passes here. Checks in the order of R297: a part of a register (R6), an unimplemented
address (R8), the complement (R9), then `chk`, which answers the first failing status of the register's own checks. A
write that passes takes effect by `app` and is journaled. -/
def Hive.hostWrite (h : Hive) (w : RegWrite) (chk : Hive → Nat → Nat) (app : Hive → Nat → Hive) : Hive :=
  let a := wKey w
  if !wFull w then h.wRefused w stBadArg
  else
    match Regs.find a with
    | none => if w.bar2 then h else h.wRefused w stBadArg
    | some d =>
      if !descWritable d then h.jWrite w stOk false (h.rd a)
      else if d.rwc && !rwcOk w.value then
        (h.wRefused w stInteg).raise 0x13 0x01 (srcOfAddr a) 1 a
      else
        let st := chk h w.value.toNat
        if st ≠ 0 then h.wRefused w st
        else
          let old := h.rd a
          (app h w.value.toNat).jWrite w stOk true old

/-- The plain effect of a write: the access types of R7, at the word's address. W1C bits that hardware set in this cycle stay
set, and W1S bits written 1 are marked. -/
def Hive.applyTypes (a : Nat) (h : Hive) (v : Nat) : Hive :=
  match Regs.find a with
  | none => h
  | some d =>
    let h := h.wr a (applyMasks d (h.edgeMask a) (h.rd a) (BitVec.ofNat 32 v))
    (bitList (Nat.land v d.w1s) 32).foldl (fun h b => h.markEdge a b) h

/-! ## Commands (R382 to R387) -/

/-- The completion entry of a command (R382): in the ring with its phase, or in the mailbox of its context. -/
def Hive.complete (h : Hive) (k : CmdTok) (status result : Nat) : Hive :=
  match k.via with
  | .queue =>
    let i := h.cqCount % 64
    let phase := if h.cqCount < 64 then 1 else 0
    let b := 0x10002000 + 16 * i
    let h := h.wr b (BitVec.ofNat 32 (k.tag + k.op * 2 ^ 16 + status * 2 ^ 24 + phase * 2 ^ 31))
    let h := (h.wr (b + 4) (BitVec.ofNat 32 k.entry)).wr (b + 8) (BitVec.ofNat 32 result)
    let h := h.wr (b + 12) (BitVec.ofNat 32 k.taken)
    let h := { h with cqCount := (h.cqCount + 1) % 128, cqUnread := h.cqUnread ++ [k.entry] }
    if k.irq then h.setIrq 0 else h
  | .mailbox j =>
    let h := h.set F.smbMbStat_busy (setBit (h.get F.smbMbStat_busy) j.val false)
    let h := h.set F.smbMbStat_done (setBit (h.get F.smbMbStat_done) j.val true)
    { h with
      mbox := Tbl.put (fun _ => []) h.mbox j.val
        [k.tag + k.op * 2 ^ 16 + status * 2 ^ 24, k.entry, result, k.taken]
      alMb := setBit h.alMb j.val true }

/-- A command that completes later: its token is held. -/
def Hive.hold (h : Hive) (k : CmdTok) : Hive := { h with running := h.running ++ [k] }

/-- A held command completes, unless its link was reset since (R379). -/
def Hive.finish (h : Hive) (k : CmdTok) (status result : Nat) : Hive :=
  if h.running.any (fun x => x == k) then
    ({ h with running := h.running.filter (fun x => x != k) }).complete k status result
  else h

/-- Groups of commands by what the hive states admit (R387). -/
inductive CmdGroup where
  | start | stop | timed | maintStart | maintAbort | patch | spi | send
deriving DecidableEq, Repr

/-- The table of R387; a maintenance start goes on to R388. -/
def admits (m : Mode) (g : CmdGroup) : Bool :=
  match m with
  | .run | .degraded => true
  | .safe => g != .start
  | .halt => g == .stop || g == .maintStart || g == .maintAbort || g == .spi
  | _ => false

/-- Whether an opcode takes T. -/
inductive TimeUse where
  | never | optional | required
deriving DecidableEq, Repr

/-- True when a reserved bit of the entry is set: argument bits outside the masks, T when timed is 0 (R382). -/
def cmdReserved (c : CmdEntry) (m0 m1 m2 : Nat) : Bool :=
  c.resv || decide (Nat.land c.a0.toNat (2 ^ 32 - 1 - m0) ≠ 0) || decide (Nat.land c.a1.toNat (2 ^ 32 - 1 - m1) ≠ 0) ||
    decide (Nat.land c.a2.toNat (2 ^ 32 - 1 - m2) ≠ 0) || (!c.timed && decide (c.t.toNat ≠ 0))

/-- A command's form: its opcode, the bits its arguments use, and its use of T. -/
structure CmdForm where
  op : Nat
  m0 : Nat
  m1 : Nat
  m2 : Nat
  time : TimeUse
  group : CmdGroup
deriving DecidableEq, Repr

/-- The checks of a command in the order of R297, R384: BAD_CMD, the entry's form and `range` (BAD_ARG), the hive state,
then `chk`. -/
def Hive.cmdStatus (h : Hive) (c : CmdEntry) (f : CmdForm) (range : Bool) (chk : Nat) : Nat :=
  let mb := match c.via with | .queue => false | .mailbox _ => true
  if mb && decide (f.op ≥ 0x11) then stBadCmd
  else if cmdReserved c f.m0 f.m1 f.m2 then stBadArg
  else if c.timed && f.time == .never then stBadArg
  else if !c.timed && f.time == .required then stBadArg
  else if !range then stBadArg
  else if !admits h.mode f.group then stWrong
  else chk

/-- The queue entry at the head is taken (R383). -/
def Hive.take (h : Hive) (c : CmdEntry) : Hive :=
  match c.via with
  | .queue =>
    if h.get F.cmdSqHead_head = h.get F.cmdSqTail_tail then h
    else h.set F.cmdSqHead_head (h.get F.cmdSqHead_head + 1)
  | .mailbox j => h.set F.smbMbStat_busy (setBit (h.get F.smbMbStat_busy) j.val true)

/-- An entry of the submission ring whose opcode R385 does not list: its slot holds an entry and bits 7:0 name no command. -/
def Hive.ringBad (h : Hive) (e : Nat) : Bool :=
  let op := (h.rd (0x10001000 + 64 * e)).toNat % 256
  (op == 0 || decide (0x14 < op)) && (List.range 16).any (fun i => h.rd (0x10001000 + 64 * e + 4 * i) != 0)

/-- Entries at the head whose opcode is not listed are taken and complete with BAD_CMD (R384, R385). -/
def Hive.skipBad : Nat → Hive → Hive
  | 0, h => h
  | n + 1, h =>
    let e := h.get F.cmdSqHead_head
    if e ≠ h.get F.cmdSqTail_tail ∧ h.ringBad e then
      let b := 0x10001000 + 64 * e
      let w0 := (h.rd b).toNat
      let op := w0 % 256
      let h := h.set F.cmdSqHead_head (e + 1)
      let h := h.journal 0x6 1 2 stBadCmd false op 0 (h.rd (b + 4)).toNat (h.rd (b + 8)).toNat
      Hive.skipBad n (h.complete ⟨.queue, e, bitOf w0 8, w0 / 2 ^ 16, op, h.gtc % 2 ^ 32⟩ stBadCmd 0)
    else h

/-- A command is taken, checked, journaled, and either refused with its status or carried out by `act`, which answers
the result of a command that completes at once and nothing for one that completes later. -/
def Hive.command (h : Hive) (c : CmdEntry) (f : CmdForm) (range : Bool) (chk : Nat)
    (act : Hive → CmdTok → Hive × Option Nat) : Hive :=
  let h := h.take c
  let k := tokOf c f.op (h.gtc % 2 ^ 32)
  let st := h.cmdStatus c f range chk
  let h := h.journal 0x6 (viaIface c.via) 2 st (decide (st = 0)) f.op 0 c.a0.toNat c.a1.toNat
  let h :=
    if st ≠ 0 then h.complete k st 0
    else
      match act (h.hold k) k with
      | (h, some r) => h.finish k stOk r
      | (h, none) => h
  match c.via with
  | .queue => h.skipBad 64
  | .mailbox _ => h

/-- The status of a command that schedules an operation: a pending load of the GTC (R236), then the table's limit. -/
def Hive.schedStatus (h : Hive) : Nat :=
  if h.flag F.timStat_load_pend then stWrong else if h.schedFull then stNoRes else stOk

/-- A request refused with NO_RESOURCE by the table of scheduled operations is counted (R249). -/
def Hive.countRefused (h : Hive) (st : Nat) : Hive := if st = stNoRes then h.bump F.timSched_refused 1 else h

end Sys2Proof.Machine
end

