-- ==== Sys2Proof/Machine/Bridges.lean ====
section
/-! DEFINITION. The bridges between the dies: the load that streams put on them, placing streams on the capacity left, and
the loss of a bridge (R13, R14, R26). -/

namespace Sys2Proof.Machine

/-! ## Load (R13) -/

/-- The dies that a bridge joins (R13). -/
def bridgeEnds (b : Nat) : Nat × Nat :=
  match b with
  | 0 | 1 => (0, 2)
  | 2 | 3 => (1, 3)
  | 4 => (0, 3)
  | 5 => (1, 2)
  | 6 => (0, 1)
  | _ => (2, 3)

/-- Samples per SCLK that a bridge moves each way (R13). -/
def bridgeCap (b : Nat) : Nat := if b = 6 then 64 else if b = 7 then 16 else 32

/-- The sum of two fractions in lowest terms. -/
def ratAdd (x y : Nat × Nat) : Nat × Nat :=
  let n := x.1 * y.2 + y.1 * x.2
  let d := x.2 * y.2
  (n / Nat.gcd n d, d / Nat.gcd n d)

/-- Samples that cross from one die to another: the dies, and samples per SCLK as a fraction. -/
abbrev Crossing := Nat × Nat × Nat × Nat

/-- What stream `n` sends between dies (R13, R34, R39): each source on the other brood die comes to the home die; samples
for destinations on the other brood die cross once; a kernel's super takes each output sample and returns one. -/
def Hive.crossings (h : Hive) (n : Nat) : List Crossing :=
  let d := h.home n
  let t := h.tOut n
  let src := ([false, true].filterMap (fun alt => h.endDie (h.srcWord n alt))).filter (fun e => e != d)
  let dst := (List.range 4).any (fun k => match h.endDie (h.dest n k) with | some e => e != d | none => false)
  let sup := 2 + h.get (F.steKern_kern_worker n) / 256
  src.map (fun e => (e, d, 1, rateTicks (h.get (F.steSlice_src_rate n)))) ++
    (if dst then [(d, 1 - d, t.2, t.1)] else []) ++
    (if h.flag (F.steKern_kern_en n) && !(h.sget n).bypass then [(d, sup, t.2, t.1), (sup, d, t.2, t.1)] else [])

/-- The crossings between the ends of a bridge. -/
def onBridge (b : Nat) (xs : List Crossing) : List Crossing :=
  xs.filter (fun x => (x.1, x.2.1) == bridgeEnds b || (x.2.1, x.1) == bridgeEnds b)

/-- Crossings between the brood dies led over super `s` (R14). -/
def viaSuper (s : Nat) (xs : List Crossing) : List Crossing :=
  (onBridge 6 xs).flatMap (fun x => [(x.1, s, x.2.2), (s, x.2.1, x.2.2)])

/-- The super of a bridge. -/
def bridgeSuper (b : Nat) : Nat := (bridgeEnds b).2

/-- Everything that a bridge carries: its own streams' crossings, and those detoured over it. -/
def Hive.bridgeLoad (h : Hive) (b : Nat) : List Crossing :=
  (h.brGet b).carry.flatMap (fun n => onBridge b (h.crossings n)) ++
    (h.brGet b).det.flatMap (fun n => onBridge b (viaSuper (bridgeSuper b) (h.crossings n)))

/-- The load in one direction, in samples per SCLK. -/
def loadTo (dst : Nat) (xs : List Crossing) : Nat × Nat :=
  ((xs.filter (fun x => x.2.1 == dst)).map (fun x => x.2.2)).foldl ratAdd (0, 1)

/-- Further crossings fit a bridge that carries traffic: neither direction exceeds its capacity (R13). -/
def Hive.bridgeFits (h : Hive) (b : Nat) (new : List Crossing) : Bool :=
  let xs := h.bridgeLoad b ++ onBridge b new
  h.bridgeUp b && [(bridgeEnds b).1, (bridgeEnds b).2].all (fun d =>
    let l := loadTo d xs
    decide (l.1 ≤ bridgeCap b * l.2))

/-! ## Placing (R14) -/

/-- A stream joins those a bridge carries. -/
def Hive.carryOn (h : Hive) (b n : Nat) : Hive := h.brSet b { h.brGet b with carry := (h.brGet b).carry ++ [n] }

/-- A stream's bridge-6 traffic joins what is detoured over a bridge. -/
def Hive.detourOn (h : Hive) (b n : Nat) : Hive := h.brSet b { h.brGet b with det := (h.brGet b).det ++ [n] }

/-- A super can carry a detour: it runs or sleeps. -/
def Hive.superUp (h : Hive) (d : Nat) : Bool := h.dieSt d == 2 || h.dieSt d == 3

/-- The bridges of bridge 6's detour that take stream `n`: bridge 4, S1 and bridge 2 or 3; with S1 down, bridge 5, S0 and
bridge 0 or 1 (R14). -/
def Hive.detourPath (h : Hive) (n : Nat) : Option (Nat × Nat) :=
  let (s, b, cs) := if h.superUp 3 then (3, 4, [2, 3]) else (2, 5, [0, 1])
  let new := viaSuper s (h.crossings n)
  if h.superUp s && h.bridgeFits b new then (cs.find? (fun c => h.bridgeFits c new)).map (fun c => (b, c)) else none

/-- The bridges that join the dies of bridge `b`'s traffic directly, in the order tried. -/
def bridgePeers (b : Nat) : List Nat :=
  match b with
  | 0 | 1 => [0, 1]
  | 2 | 3 => [2, 3]
  | b => [b]

/-- Stream `n`'s traffic between the dies of bridge `b` is carried: by a bridge between them, or by the detour. -/
def Hive.carried (h : Hive) (b n : Nat) : Bool :=
  (bridgePeers b).any (fun c => (h.brGet c).carry.contains n) || (b == 6 && h.detoured n)

/-- The stream is placed between the dies of bridge `b` on the first bridge with room, or on bridge 6's detour; none when it
fits nowhere (R14). -/
def Hive.placeOn (h : Hive) (b n : Nat) : Option Hive :=
  if h.carried b n then some h
  else
    match (bridgePeers b).find? (fun c => h.bridgeFits c (h.crossings n)) with
    | some c => some (h.carryOn c n)
    | none =>
      if b = 6 then (h.detourPath n).map (fun p => (h.detourOn p.1 n).detourOn p.2 n) else none

/-- The pairs of dies that stream `n` crosses, each named by the lowest bridge between them. -/
def Hive.pairsOf (h : Hive) (n : Nat) : List Nat :=
  [0, 2, 4, 5, 6, 7].filter (fun b => !(onBridge b (h.crossings n)).isEmpty)

/-- The stream is placed between every pair of dies that it crosses; one that fits nowhere carries zeros and takes cause 2
(R14, R53). The latency of one that is detoured follows (R44). -/
def Hive.placeStream (h : Hive) (n : Nat) : Hive :=
  let was := h.detoured n
  let r := (h.pairsOf n).foldl (fun (a : Hive × Bool) b =>
    match a.1.placeOn b n with
    | some h => (h, a.2)
    | none => (a.1, false)) (h, true)
  let h := r.1
  let h := if h.detoured n != was then h.latChanged n else h
  if r.2 then
    let h : Hive := { h with zeroed := h.zeroed.filter (fun z => z != n) }
    if bitOf (h.sget n).sit 2 then h.sitOff 2 n else h
  else
    let h : Hive := { h with zeroed := if h.zeroed.contains n then h.zeroed else h.zeroed ++ [n] }
    h.sitOn 2 n

/-- The stream is carried nowhere. -/
def Hive.unplace (h : Hive) (n : Nat) : Hive :=
  (List.range 8).foldl (fun h b =>
    let k := h.brGet b
    h.brSet b { k with
      moving := k.moving.filter (fun z => z != n), carry := k.carry.filter (fun z => z != n), det := k.det.filter (fun z => z != n) }) h

/-- Streams are placed anew in ascending number (R14). -/
def Hive.placeAll (h : Hive) (ns : List Nat) : Hive :=
  ns.foldl (fun h n => h.placeStream n) (ns.foldl (fun h n => h.unplace n) h)

/-! ## Bridges that come and go (R14, R26) -/

/-- What bridge `b` carries starts to move: its streams carry zeros until they are placed again (R14). -/
def Hive.startMove (h : Hive) (b : Nat) : Hive :=
  let k := h.brGet b
  let ns := h.image.filter (fun n => k.carry.contains n || k.det.contains n)
  let h := (List.range 8).foldl (fun h c =>
    let x := h.brGet c
    h.brSet c { x with det := x.det.filter (fun n => !k.det.contains n) }) h
  let h := h.brSet b { h.brGet b with moving := h.image.filter (fun n => k.moving.contains n || ns.contains n), carry := [] }
  { h with zeroed := h.zeroed ++ ns.filter (fun n => !h.zeroed.contains n) }

/-- A bridge fails as a whole: ROUTE cause 0x02 at L2, and its traffic starts to move (R14). -/
def Hive.bridgeLost (h : Hive) (b : Nat) : Hive :=
  if h.bridgeUp b then
    let h := h.brSet b { h.brGet b with dead := true }
    ((h.set F.dieState_bridge_up (setBit (h.get F.dieState_bridge_up) b false)).raise 0x02 0x02 (srcNoBridge b) 2 0).startMove b
  else h

/-- A die runs, or sleeps. -/
def Hive.dieOn (h : Hive) (d : Nat) : Bool := h.dieSt d == 2 || h.dieSt d == 3

/-- The bridges follow the dies: one carries traffic while it has not failed and both its dies run or sleep; detoured traffic
of one that stops has to move (R14, R26). -/
def Hive.bridgeEval (h : Hive) : Hive :=
  (List.range 8).foldl (fun h b =>
    let up := !(h.brGet b).dead && h.dieOn (bridgeEnds b).1 && h.dieOn (bridgeEnds b).2
    let was := h.bridgeUp b
    let h := h.set F.dieState_bridge_up (setBit (h.get F.dieState_bridge_up) b up)
    if was && !up && !(h.brGet b).det.isEmpty then
      let k := h.brGet b
      let carry := k.carry
      let h := h.brSet b { k with carry := [] }
      let h := h.startMove b
      let moving := (h.brGet b).moving
      -- the traffic is bridge 6's
      let h := h.brSet b { h.brGet b with moving := k.moving, carry := carry }
      h.brSet 6 { h.brGet 6 with moving := h.image.filter (fun n => (h.brGet 6).moving.contains n || moving.contains n) }
    else h) h

end Sys2Proof.Machine
end

