-- ==== Sys2Proof/Machine/Envelope.lean ====
section
/-! DEFINITION. The licence envelopes as the units use them (R294 to R296), and mismatches at use (R298, R299). -/

namespace Sys2Proof.Machine

/-- A byte of the queen's copy of tenant `t`'s record (R294). -/
def Hive.envByte (h : Hive) (t o : Nat) : Nat := Tbl.get (fun _ => 0) h.envT (t * 176 + o)

/-- A little-endian field of the queen's copy. -/
def Hive.envNat (h : Hive) (t o n : Nat) : Nat := leNat ((List.range n).map (fun i => h.envByte t (o + i)))

/-- The tenant is in use: flags bit 0 (R294). -/
def Hive.envUsed (h : Hive) (t : Nat) : Bool := bitOf (h.envByte t 1) 0

/-- A unit's working copy of an envelope field, as an RWC word (R295). -/
def Hive.wc (h : Hive) (t f : Nat) : Word := Tbl.get (fun _ => rwcWord 0) h.wcopy (t * 32 + f)

/-- The value of a working copy. -/
def Hive.wcVal (h : Hive) (t f : Nat) : Nat := (h.wc t f).toNat % 65536

/-- The signed value of a working copy, Q8.8. -/
def Hive.wcS (h : Hive) (t f : Nat) : Int := sext 16 (h.wcVal t f)

/-- The offset in the record of a working copy's field (R294). -/
def wcOff (f : Nat) : Nat := if f < 5 then 4 + 2 * f else 0x50 + 12 * (f - 8) + 8

/-- The working copies of tenant `t` taken from the queen's copy. -/
def Hive.wcLoad (h : Hive) (t : Nat) : Hive :=
  let fs := [0, 1, 2, 3, 4, 8, 9, 10, 11, 12, 13, 14, 15]
  { h with wcopy := fs.foldl (fun w f => Tbl.put (fun _ => rwcWord 0) w (t * 32 + f) (rwcWord (h.envNat t (wcOff f) 2))) h.wcopy }

/-- The address that names an envelope field in fault records (R299). -/
def envAddr (t f : Nat) : Nat := 0x810000 + t * 0x100 + wcOff f

/-- A mismatch at use, and cause 3 on the streams that use the value (R299). -/
def Hive.mismatch (h : Hive) (source a : Nat) (pf : Bool) (ns : List Nat) : Hive :=
  ((h.mismNote source a ns).triggerAll 3 pf ns).settle

/-- The value at `a` is good again: cause 3 clears on every stream that no other mismatch holds (R299). -/
def Hive.mismClear (h : Hive) (a : Nat) : Hive :=
  let ns := ((h.mism.filter (fun p => p.1 == a)).map (fun p => p.2)).filter (fun n => decide (n < 2048))
  let h := { h with mism := h.mism.filter (fun p => p.1 != a) }
  ns.foldl (fun h n => if h.mism.any (fun p => p.2 == n) then h else h.uncause 3 n) h

end Sys2Proof.Machine
end

