-- ==== Sys2Proof/Machine/Smoker.lean ====
section
/-! DEFINITION. The smoker's commands and events: ramp ends, MUTE_N, stream start and stop, mutes and unmutes, and the
mute deadline (R197 to R208). -/

namespace Sys2Proof.Machine

/-- m_s reaches 0: RAMP_DOWN ends in MUTED, or in IDLE after a stop (R200). -/
def Hive.rampDownDone (h : Hive) (n : Nat) : Hive :=
  if h.st n = stRampDown ∧ (h.sget n).ms = 0 then
    let idle := (h.sget n).toIdle
    let h := ((h.setMs n 0).set (F.smkStat_pos n) 0).set (F.smkStat_ramp n) 0
    let h := h.sset n { h.sget n with toIdle := false }
    h.setSt n (if idle then stIdle else stMuted)
  else h

/-- RAMP_DOWN_END. -/
def execRampDownEnd (n : StreamId) (s : State) : Host.Outcome State Fault Refusal := s.upd (fun h => h.rampDownDone n.val)

/-- m_s reaches 131,072: RAMP_UP ends in LIVE (R200). -/
def Hive.rampUpDone (h : Hive) (n : Nat) : Hive :=
  if h.st n = stRampUp ∧ (h.sget n).ms = msFull then
    let h := ((h.setMs n msFull).set (F.smkStat_pos n) 0).set (F.smkStat_ramp n) 0
    (h.sset n { h.sget n with liveAt := h.ticks }).setSt n stLive
  else h

/-- RAMP_UP_END. -/
def execRampUpEnd (n : StreamId) (s : State) : Host.Outcome State Fault Refusal := s.upd (fun h => h.rampUpDone n.val)

/-- MUTE_N_ASSERT: the filtered pin is low; cause 8 on every stream with pin_en, SMOKER at L1 (R202, R208). -/
def execMuteNAssert (s : State) : Host.Outcome State Fault Refusal :=
  s.upd (fun h =>
    let h := h.setFlag F.smkPin_mute_n false
    (h.triggerAll 8 false (h.image.filter (fun n => h.flag (F.smkCfg_pin_en n)))).raise 0x09 0x02 0x24 1 0)

/-- MUTE_N_RELEASE: the filtered pin is high; cause 8 clears (R202). -/
def execMuteNRelease (s : State) : Host.Outcome State Fault Refusal :=
  s.upd (fun h => h.image.foldl (fun h n => h.uncause 8 n) (h.setFlag F.smkPin_mute_n true))

/-- The stream named by a0[10:0]. -/
def cmdStream (c : CmdEntry) : Nat := argBits c.a0 0 11

/-- STREAM_START, opcode 0x01: IDLE to ARMED, or MUTED at once when a cause bit is set (R200); refused while a load of the
GTC is pending (R236). -/
def execStreamStart (c : CmdEntry) (s : State) : Host.Outcome State Fault Refusal :=
  s.upd (fun h =>
    let n := cmdStream c
    let chk := if h.isStream n && h.st n == stIdle && !h.flag F.timStat_load_pend then stOk else stWrong
    h.command c ⟨0x01, 0x7FF, 0, 0, .never, .start⟩ true chk (fun h _ =>
      let m := h.get (F.smkCause_active n)
      let h := h.setMs n 0
      (if m = 0 then h.setSt n stArmed else (h.setSt n stMuted).set (F.smkCause_first n) (firstCause m), some 0)))

/-- A stop of a RAMP_UP or LIVE stream: the own ramp down, then IDLE (R200); with a deadline that fails its check the
power-fail ramp under cause 3 (R199). -/
def Hive.stopRamp (h : Hive) (n : Nat) : Hive :=
  let h := h.rampBegin n 10 false true
  if h.get (F.smkCause_active n) = 0 then h else h.firstNow n

/-- STREAM_STOP, opcode 0x02 (R200). -/
def execStreamStop (c : CmdEntry) (s : State) : Host.Outcome State Fault Refusal :=
  s.upd (fun h =>
    let n := cmdStream c
    let st := h.st n
    let up := st == stRampUp || st == stLive
    let chk := if h.isStream n && (up || st == stArmed || st == stMuted) then stOk else stWrong
    h.command c ⟨0x02, 0x7FF, 0, 0, .never, .stop⟩ true chk (fun h k =>
      -- an unmute taken between the same two cycles gives way (R205)
      let h := h.cmdUndo n
      (if h.st n == stMuted || h.st n == stArmed then h.setSt n stIdle else ((h.cmdMark n k).stopRamp n).settle, some 0)))

/-- MUTE, opcode 0x03: cause 9 on the streams of the image in the range; the result counts those whose state changed
(R202, R385). -/
def execMute (c : CmdEntry) (s : State) : Host.Outcome State Fault Refusal :=
  s.upd (fun h =>
    let first := cmdStream c
    let cnt := argBits c.a1 0 12
    let range := decide (1 ≤ cnt) && decide (cnt ≤ 2048) && decide (first + cnt ≤ 2048)
    h.command c ⟨0x03, 0x7FF, 0xFFF, 0, .never, .stop⟩ range stOk (fun h _ =>
      let ns := h.image.filter (fun n => decide (first ≤ n) && decide (n < first + cnt))
      let h' := (h.triggerAll 9 false ns).settle
      (h', some (ns.filter (fun n => (h.cmdUndo n).st n != h'.st n)).length)))

/-- UNMUTE, opcode 0x04: accepted only from MUTED with every cause bit but 9 clear; clears bit 9 and ramps up (R204). -/
def execUnmute (c : CmdEntry) (s : State) : Host.Outcome State Fault Refusal :=
  s.upd (fun h =>
    let n := cmdStream c
    let others := setBit (h.get (F.smkCause_active n)) 9 false
    let chk := if h.isStream n && h.st n == stMuted && others == 0 then stOk else stWrong
    h.command c ⟨0x04, 0x7FF, 0, 0, .never, .start⟩ true chk (fun h k =>
      (((h.cmdMark n k).uncause 9 n).rampUpStart n false, some 0)))

/-- The range of its tenant's envelope a stream lies in. -/
def Hive.rangeOf (h : Hive) (n : Nat) : Nat := Tbl.get (fun _ => 0) h.range n

/-- The criterion state of a stream, two bits each (R139: 0 clear, 1 LIMIT, 2 MUTE, 3 SILENCE). -/
def Hive.critSt (h : Hive) (n i : Nat) : Nat := bitsOf (h.get (F.npmStat_crit n)) (2 * i) 2

/-- The conditions of R134 for lifting cause 6 in a tenant band: every criterion that counted towards the silence is
clear, and no situation behind a fault map silence of the tenant holds. -/
def Hive.bandClear (h : Hive) (t r : Nat) : Bool :=
  (h.npmSil.filter (fun p => p.1 == t && p.2.1 == r)).all (fun p => h.critSt p.2.2.1 p.2.2.2 == 0) &&
    (h.tenantStreams t).all (fun n => (h.sget n).silSit == 0)

/-- TENANT_BAND_UNMUTE, opcode 0x05: cause 6 clears on the band's streams that meet R134; each stays MUTED until its own
unmute (R204). The result counts the streams whose bit cleared. -/
def execTenantBandUnmute (c : CmdEntry) (s : State) : Host.Outcome State Fault Refusal :=
  s.upd (fun h =>
    let t := argBits c.a0 0 4
    let r := argBits c.a0 4 3
    h.command c ⟨0x05, 0x7F, 0, 0, .never, .start⟩ true stOk (fun h _ =>
      if h.bandClear t r then
        let ns := (h.tenantStreams t).filter (fun n => h.rangeOf n == r && h.hasCause 6 n)
        let h := ns.foldl (fun h n => h.uncause 6 n) h
        ({ h with npmSil := h.npmSil.filter (fun p => !(p.1 == t && p.2.1 == r)) }, some ns.length)
      else (h, some 0)))

/-- SOURCE_UP_RAMP_UP: an ARMED stream whose source is up and that has no cause starts RAMP_UP (R200). -/
def execSourceUpRampUp (n : StreamId) (s : State) : Host.Outcome State Fault Refusal :=
  s.upd (fun h =>
    if h.st n.val == stArmed && h.srcUp (h.srcNow n.val) && h.get (F.smkCause_active n.val) == 0 then h.rampUpStart n.val true
    else h)

/-- The stream of a register of SMK. -/
def smkStreamOf (a : Nat) : Nat := (a - 0x580000) / 0x10

/-- The checks of a write to SMK.DEADLINE: 16-16,000 us, and no more than the envelope's deadline (R199, R296). -/
def Hive.deadlineChk (a : Nat) (h : Hive) (v : Nat) : Nat :=
  let us := v % 65536
  let t := h.tenant (smkStreamOf a)
  if us < 16 ∨ us > 16000 then stBadArg
  else if h.envUsed t && decide (us > h.wcVal t 4) then stDenied
  else stOk

/-- A stream holds a runtime value outside its tenant's envelope: the deadline, a contest's limit, or a set-point of a FIXED
or OUTPUT_POWER loop (R275, R296). -/
def Hive.envOutside (h : Hive) (n : Nat) : Bool :=
  let t := h.tenant n
  let out := fun (x : Int) => decide (x < h.wcS t 0) || decide (x > h.wcS t 1)
  let hi := h.rwcS (R.gceLimHi n)
  let lo := h.rwcS (R.gceLimLo n)
  h.envUsed t &&
    (decide (h.rwc (R.smkDeadline n) > h.wcVal t 4) || (hi != 32767 && out hi) || (lo != -32768 && out lo) ||
      (List.range (h.get (F.steCfg_nloops n))).any (fun i =>
        let s := h.get (F.steCfg_loop0 n) + i
        let x := h.rwcS (R.gceSetp s)
        match h.get (F.gceLoopCfg_type s) with
        | 1 => decide (x > h.wcS t 2)
        | 6 => out x
        | _ => false))

/-- Cause 4 clears once every value is inside the envelope (R202). -/
def Hive.envEval (h : Hive) (n : Nat) : Hive := if h.hasCause 4 n && !h.envOutside n then h.uncause 4 n else h

/-- SMK.DEADLINE takes the value, which a good write also clears of a mismatch (R299). -/
def Hive.deadlineApp (a : Nat) (h : Hive) (v : Nat) : Hive := ((h.applyTypes a v).mismClear a).envEval (smkStreamOf a)

/-- A write to SMK.DEADLINE. -/
def Hive.wDeadline (h : Hive) (w : RegWrite) : Hive :=
  h.hostWrite w (Hive.deadlineChk (wKey w)) (Hive.deadlineApp (wKey w))

/-- DEADLINE_WRITE: applies from the next trigger (R199). -/
def execDeadlineWrite (w : RegWrite) (s : State) : Host.Outcome State Fault Refusal := s.upd (fun h => h.wDeadline w)

/-- The checks of a write to SMK.CFG: shape 0 or 1, lengths 16-16,000 us (R207). -/
def smkCfgChk (_ : Hive) (v : Nat) : Nat :=
  let dn := bitsOf v 2 14
  let up := bitsOf v 16 14
  if bitsOf v 0 2 ≤ 1 ∧ 16 ≤ dn ∧ dn ≤ 16000 ∧ 16 ≤ up ∧ up ≤ 16000 then stOk else stBadArg

/-- The checks of a write to SMK.PF_RAMP: 16-1,000 us (R208). -/
def pfRampChk (_ : Hive) (v : Nat) : Nat :=
  let len := bitsOf v 1 10
  if 16 ≤ len ∧ len ≤ 1000 then stOk else stBadArg

end Sys2Proof.Machine
end

