-- ==== Sys2Proof/Machine/Maint.lean ====
section
/-! DEFINITION. Maintenance activities: admission, conflicts, handles, waiting requests and ends (R388 to R392). -/

namespace Sys2Proof.Machine

/-- A handle's activity. -/
def Hive.mget (h : Hive) (i : Nat) : Option MaintSt := Tbl.get (fun _ => none) h.maint i
/-- The block with a handle's activity replaced. -/
def Hive.mset (h : Hive) (i : Nat) (m : Option MaintSt) : Hive := { h with maint := Tbl.put (fun _ => none) h.maint i m }

/-- A handle's state: 0 free, 1 waiting, 2 running, 3 ended (R396). -/
def Hive.mState (h : Hive) (i : Nat) : Nat := h.get (F.cmdMaint_state i)

/-- The states that admit an activity (R388). -/
def maintAdmits (m : Mode) (act : Nat) : Bool :=
  match m with
  | .run | .degraded => true
  | .safe => act != 3
  | .halt => act == 4 || act == 5 || act == 6 || act == 9
  | _ => false

/-- True when a patch file's scope owns a lane, or a comb's frame (R389, R267). -/
def ownsLane (f : Option TolFile) (l : Nat) : Bool :=
  match f with
  | some f => f.body.maps.any (fun p => p.1 / 4 == l)
  | none => false
def ownsComb (f : Option TolFile) (c : Nat) : Bool :=
  match f with
  | some f => bitOf f.body.frames (c / 8)
  | none => false

/-- The matrix of R389 for two activities given as code, unit and file. -/
def maintConflict (a au : Nat) (af : Option TolFile) (b bu : Nat) (bf : Option TolFile) : Bool :=
  if a = b then (if a = 1 ∨ a = 2 ∨ a = 7 then au == bu else true)
  else if (a = 1 ∧ b = 2) ∨ (a = 2 ∧ b = 1) then au == bu
  else if a = 8 ∧ (b = 1 ∨ b = 2) then ownsLane af bu
  else if b = 8 ∧ (a = 1 ∨ a = 2) then ownsLane bf au
  else if a = 8 ∧ b = 7 then ownsComb af bu
  else if a = 7 ∧ b = 8 then ownsComb bf au
  else if (a = 3 ∧ b = 8) ∨ (a = 8 ∧ b = 3) ∨ (a = 8 ∧ b = 9) ∨ (a = 9 ∧ b = 8) then true
  else if a = 6 ∧ b = 9 then bu == 0
  else if a = 9 ∧ b = 6 then au == 0
  else false

/-- True when the activity conflicts with one that runs, or with a request that waits ahead of `seq` (R391). -/
def Hive.maintBlocked (h : Hive) (act unit : Nat) (file : Option TolFile) (seq : Nat) : Bool :=
  (List.range 16).any (fun i =>
    match h.mget i with
    | some m =>
      (h.mState i == 2 || (h.mState i == 1 && decide (m.seq < seq))) && maintConflict act unit file m.act m.unit m.file
    | none => false)

/-- Requests waiting and activities running (R396). -/
def Hive.maintWaiting (h : Hive) : Nat := ((List.range 16).filter (fun i => h.mState i == 1)).length
def Hive.maintRunning (h : Hive) : Nat := ((List.range 16).filter (fun i => h.mState i == 2)).length

/-- The lowest free handle. -/
def Hive.maintFree (h : Hive) : Option Nat := (List.range 16).find? (fun i => (h.mget i).isNone)

/-- The running handle of an activity on a unit. -/
def Hive.maintOf (h : Hive) (act unit : Nat) : Option Nat :=
  (List.range 16).find? (fun i =>
    match h.mget i with
    | some m => h.mState i == 2 && m.act == act && m.unit == unit
    | none => false)

/-- The running handle of an activity, whatever its unit. -/
def Hive.maintOfAct (h : Hive) (act : Nat) : Option Nat :=
  (List.range 16).find? (fun i =>
    match h.mget i with
    | some m => h.mState i == 2 && m.act == act
    | none => false)

/-- An activity or request ends: CMD.MAINT shows it, vector 2 is signalled, its start command completes with the handle
as its result, aborts that wait for it complete, and the handle is free (R380, R390, R392, R396). `result`: 0 done, 1 failed, 2 aborted, 3 refused. -/
def Hive.maintEnd (h : Hive) (i result reason status : Nat) : Hive :=
  match h.mget i with
  | none => h
  | some m =>
    let h := ((h.set (F.cmdMaint_state i) 3).set (F.cmdMaint_result i) result).set (F.cmdMaint_reason i) reason
    m.stop.foldl (fun h k => h.finish k stOk 0) (((h.mset i none).setIrq 2).finish m.tok status i)

/-- A maintenance start (opcode 0x0D, R385, R388): `unitOk` bounds the unit, `chk` is the activity's own rule, `start`
begins it under its handle. A conflicting start waits if its queue bit is set and fewer than four wait (R391). -/
def Hive.maintStart (h : Hive) (c : CmdEntry) (act : Nat) (file : Option TolFile) (unitOk : Bool) (chk : Nat)
    (start : Hive → Nat → Hive) : Hive :=
  let unit := argBits c.a0 4 12
  let args := if act ≥ 8 then 2 ^ 32 - 1 else 0
  let blocked := h.maintBlocked act unit file h.maintSeq
  let st :=
    if !maintAdmits h.mode act then stWrong
    else if chk ≠ 0 then chk
    else if blocked && (!c.queue || decide (4 ≤ h.maintWaiting)) then stBusy
    else if h.maintFree.isNone then stNoRes else stOk
  h.command c ⟨0x0D, 0xFFFF, args, args, .never, .maintStart⟩ (unitOk && argBits c.a0 0 4 == act) st (fun h k =>
    match h.maintFree with
    | none => (h, none)
    | some i =>
      let m : MaintSt := ⟨act, unit, k, file, c.a1.toNat, c.a2.toNat, 0, h.ticks, h.maintSeq, []⟩
      let h := ((h.set (F.cmdMaint_activity i) act).set (F.cmdMaint_unit i) unit).set (F.cmdMaint_result i) 0
      let h := (h.set (F.cmdMaint_reason i) 0).mset i (some m)
      if blocked then (({ h with maintSeq := h.maintSeq + 1 } : Hive).set (F.cmdMaint_state i) 1, none)
      else (start (h.set (F.cmdMaint_state i) 2) i, none))

end Sys2Proof.Machine
end

