-- ==== Sys2Proof/Machine/HostLink.lean ====
section
/-! DEFINITION. The host link: PCIe events, the doorbell and queue heads, interrupt masks, the receive ring, and management
messages sent (R377 to R383, R394 to R396). -/

namespace Sys2Proof.Machine

/-! ## PCIe events (R379) -/

/-- Queue pointers and MSI-X state clear; entries not yet taken are discarded; taken commands run on without writing
completions (R379). A mailbox command keeps its completion. -/
def Hive.linkClear (h : Hive) : Hive :=
  let h := (((h.set F.cmdSqTail_tail 0).set F.cmdSqHead_head 0).set F.cmdCqHead_head 0)
  let h : Hive := { h with
    cqUnread := [], cqCount := 0, fnMask := false
    running := h.running.filter (fun k => match k.via with | .queue => false | .mailbox _ => true) }
  let h := (h.wr 0x10005000 0).wr 0x10005004 0
  (List.range 256).foldl (fun h i =>
    h.wr (0x10004000 + 4 * i) (Regs.resetOf (0x10004000 + 4 * i))) h

/-- PCIE_LINK_DOWN. -/
def execPcieLinkDown (s : State) : Host.Outcome State Fault Refusal :=
  s.upd (fun h => ({ h.linkClear with pcieUp := false } : Hive).raiseSC 0x11 0x01 0x6 1 0)

/-- The identity that the endpoint's one function presents (R377): vendor, device, revision, subsystem vendor, subsystem by the
grade, class code. -/
def Hive.pciIds (h : Hive) : List Nat := [0xAD31, 0x5144, 0x02, 0xAD31, (if h.get F.hiveIdent_grade = 2 then 2 else 1), 0x118000]

/-- The bytes of BAR0 and BAR2 (R377). -/
def barBytes (bar2 : Bool) : Nat := if bar2 then 0x40000 else 0x4000000

/-- PCIE_LINK_UP: the link trains to 2^`width` lanes at 2.5, 5, 8, 16 or 32 GT/s; the link-down fault clears itself (R377, R379). -/
def execPcieLinkUp (width : Fin 4) (rate : Fin 5) (s : State) : Host.Outcome State Fault Refusal :=
  s.upd (fun h => ({ h with pcieUp := true, pcieWidth := 2 ^ width.val, pcieRate := rate.val } : Hive).condEnd 0x11 0x01 0x6)

/-- PCIE_HOT_RESET: hot reset, function level reset or PCIE_PERST_N. -/
def execPcieHotReset (s : State) : Host.Outcome State Fault Refusal :=
  s.upd (fun h => h.linkClear.raise 0x11 0x02 0x6 0 0)

/-- PCIE_MALFORMED_REQUEST: the request is discarded. -/
def execPcieMalformedRequest (s : State) : Host.Outcome State Fault Refusal :=
  s.upd (fun h => h.raise 0x11 0x03 0x6 1 0)

/-! ## The queue's pointers (R383) -/

/-- Submission entries outstanding: waiting, running from the queue, or completed and unread (R383). -/
def Hive.outstandingEntries (h : Hive) : List Nat :=
  let head := h.get F.cmdSqHead_head
  let wait := (h.get F.cmdSqTail_tail + 64 - head) % 64
  (List.range wait).map (fun i => (head + i) % 64) ++
    (h.running.filter (fun k => match k.via with | .queue => true | .mailbox _ => false)).map (fun k => k.entry) ++ h.cqUnread

/-- True when a doorbell would advance the tail past an outstanding entry (R383). -/
def Hive.tailPast (h : Hive) (v : Nat) : Bool :=
  let tail := h.get F.cmdSqTail_tail
  let n := (v % 64 + 64 - tail) % 64
  (List.range n).any (fun i => h.outstandingEntries.any (fun e => e == (tail + i) % 64))

/-- A write to CMD.SQ_TAIL: refused with NO_RESOURCE and HOSTIF cause 0x04 past an outstanding entry
(R383). Entries of an unlisted opcode at the head are turned away at once. -/
def Hive.wSqTail (h : Hive) (w : RegWrite) : Hive :=
  let past := wFull w && h.tailPast w.value.toNat
  let h := h.hostWrite w (fun h v => if h.tailPast v then stNoRes else stOk) (Hive.applyTypes (wKey w))
  if past then h.raise 0x11 0x04 0x6 1 0 else h.skipBad 64

/-- SQ_TAIL_WRITE. -/
def execSqTailWrite (w : RegWrite) (s : State) : Host.Outcome State Fault Refusal := s.upd (fun h => h.wSqTail w)

/-- A write to CMD.CQ_HEAD: the completions it passes are read, and their entries are free (R383). -/
def Hive.wCqHead (h : Hive) (w : RegWrite) : Hive :=
  h.hostWrite w (fun _ _ => stOk) (fun h v =>
    let n := (v % 64 + 64 - h.get F.cmdCqHead_head) % 64
    { h.applyTypes (wKey w) v with cqUnread := h.cqUnread.drop n })

/-! ## Interrupt masks (R380) -/

/-- A write to CMD.IRQ_MASK: clearing a mask bit whose cause is set issues a message request (R380). -/
def Hive.wIrqMask (h : Hive) (w : RegWrite) : Hive :=
  h.hostWrite w (fun _ _ => stOk) (fun h v =>
    let old := h.get F.cmdIrqMask_cause
    let h := h.applyTypes (wKey w) v
    (List.range 8).foldl (fun h i =>
      if bitOf old i && !bitOf v i && bitOf (h.get F.cmdIrqStat_cause) i then h.msixSend i else h) h)

/-- IRQ_MASK_WRITE. -/
def execIrqMaskWrite (w : RegWrite) (s : State) : Host.Outcome State Fault Refusal := s.upd (fun h => h.wIrqMask w)

/-- The pending bits of unmasked vectors turn into messages (R380, as PCI Express defines). -/
def Hive.msixDrain (h : Hive) : Hive :=
  (List.range 8).foldl (fun h v =>
    let p := (h.rd 0x10005000).toNat
    if bitOf p v && !h.fnMask && !bitOf (h.rd (0x1000400C + 16 * v)).toNat 0 then
      (h.wr 0x10005000 (BitVec.ofNat 32 (setBit p v false))).msixSend v
    else h) h

/-- The bytes of a write to BAR2 memory that is no register: merged into the stored word (R6, R381). -/
def Hive.memWrite (h : Hive) (w : RegWrite) : Hive :=
  let a := wKey w
  let old := (h.rd a).toNat
  let lo := 8 * (w.off % 4)
  let n := 8 * w.size.val
  h.wr a (BitVec.ofNat 32 (old - bitsOf old lo n * 2 ^ lo + w.value.toNat % 2 ^ n * 2 ^ lo))

/-- BAR2 memory the host writes: the submission ring, the MSI-X table and the data buffer (R381, R382). -/
def bar2Mem (o : Nat) : Bool :=
  (decide (0x1000 ≤ o) && decide (o < 0x2000)) || (decide (0x4000 ≤ o) && decide (o < 0x4400)) ||
    (decide (0x10000 ≤ o) && decide (o < 0x20000))

/-- MSIX_UNMASK: a write to the MSI-X table; or, at any other offset, the function mask of the capability takes bit 0 of
the value. Pending vectors that are then unmasked are sent (R380). -/
def execMsixUnmask (w : RegWrite) (s : State) : Host.Outcome State Fault Refusal :=
  s.upd (fun h =>
    if w.bar2 && decide (0x4000 ≤ w.off) && decide (w.off < 0x4400) then (h.memWrite w).msixDrain
    else ({ h with fnMask := bitOf w.value.toNat 0 } : Hive).msixDrain)

/-! ## The receive ring (R395) -/

/-- An item is written to the receive ring at its tail, or dropped and counted when 31 slots are unread (R395). -/
def Hive.rxPut (h : Hive) (lane kind : Nat) (body : List Nat) (stamp frac tag : Nat) : Hive :=
  let t := h.get F.cmdRxStat_tail
  let unread := (t + 32 - h.get F.cmdRxHead_head) % 32
  if unread ≥ 31 then h.bump F.cmdRxStat_dropped 1
  else
    let b := 0x10020000 + t * 2048
    let h := h.wr (b + 4) (BitVec.ofNat 32 (lane % 256 + kind % 16 * 2 ^ 8 + body.length % 2048 * 2 ^ 16))
    let h := h.setPair (b + 8) (b + 12) stamp
    let h := (h.wr (b + 16) (BitVec.ofNat 32 (frac % 65536))).wr (b + 20) (BitVec.ofNat 32 (tag % 65536))
    let words := (List.range ((body.length + 3) / 4)).map (fun i => leNat ((body.drop (4 * i)).take 4))
    let h := (words.foldl (fun (p : Hive × Nat) v => (p.1.wr p.2 (BitVec.ofNat 32 v), p.2 + 4)) (h, b + 24)).1
    let h := h.wr b (BitVec.ofNat 32 ((h.rd b).toNat + 1))
    (h.set F.cmdRxStat_tail (t + 1)).setIrq 5

/-! ## Management messages sent (R394) -/

/-- Bytes of the data buffer. -/
def Hive.bufBytes (h : Hive) (o n : Nat) : List Nat :=
  (List.range n).map (fun i => bitsOf (h.rd (0x10010000 + (o + i - (o + i) % 4))).toNat (8 * ((o + i) % 4)) 8)

/-- The send form: opcode 0x14, [7:0] lane or link, [9:8] kind; a1 length; a2 buffer offset (R385). -/
def sendForm : CmdForm := ⟨0x14, 0x3FF, 2 ^ 32 - 1, 2 ^ 32 - 1, .never, .send⟩

/-- The bytes a send names lie within the data buffer. -/
def sendFits (c : CmdEntry) : Bool := decide (c.a2.toNat + c.a1.toNat ≤ 65536)

/-- The message that a send names: type, tag and body. -/
def Hive.sendBytes (h : Hive) (c : CmdEntry) : List Nat :=
  if sendFits c && decide (c.a1.toNat ≤ 2048) then h.bufBytes c.a2.toNat c.a1.toNat else []

/-- A management type, 0x10-0x3F (R78). -/
def mgmtType (b : Nat) : Bool := decide (0x10 ≤ b) && decide (b ≤ 0x3F)

/-- MGMT_SEND_RLF, opcode 0x14 kind 0b00: type 0x10-0x3F, tag, body of 0-1,016 bytes, on an RLF lane that is UP (R394). -/
def execMgmtSendRlf (c : CmdEntry) (s : State) : Host.Outcome State Fault Refusal :=
  s.upd (fun h =>
    let l := argBits c.a0 0 8
    let m := h.sendBytes c
    let len := c.a1.toNat
    let range := argBits c.a0 8 2 == 0 && sendFits c && decide (2 ≤ len) && decide (len ≤ 1018) && decide (l < 144) &&
      mgmtType (m.headD 0) && h.get (F.laneCtl_mode l) == 3
    h.command c sendForm range (if h.laneUp l then stOk else stWrong) (fun h _ =>
      (h.sendLink (256 + l) (mgmtFrame (m.headD 0) ((m.drop 1).headD 0) (m.drop 2)), some 0)))

/-- MGMT_SEND_RYG, opcode 0x14 kind 0b01: as RLF with a body of up to 60 bytes, on a link that is up (R394). -/
def execMgmtSendRyg (c : CmdEntry) (s : State) : Host.Outcome State Fault Refusal :=
  s.upd (fun h =>
    let k := argBits c.a0 0 8
    let m := h.sendBytes c
    let len := c.a1.toNat
    let range := argBits c.a0 8 2 == 1 && sendFits c && decide (2 ≤ len) && decide (len ≤ 62) && decide (k < 18) &&
      mgmtType (m.headD 0)
    h.command c sendForm range (if h.linkUp k then stOk else stWrong) (fun h _ =>
      (h.sendLink k (mgmtFrame (m.headD 0) ((m.drop 1).headD 0) (m.drop 2)), some 0)))

/-- Ethertype of a whole frame without FCS. -/
def frameType (m : List Nat) : Nat := (m.drop 12).headD 0 * 256 + (m.drop 13).headD 0

/-- True for a PTP (0x88F7), ESMC (slow protocol 0x8809) or eCPRI (0xAEFE) type 2 frame (R66, R394). -/
def sendableFrame (m : List Nat) : Bool :=
  frameType m == 0x88F7 || (frameType m == 0x8809 && (m.drop 14).headD 0 == 0x0A) ||
    (frameType m == 0xAEFE && (m.drop 15).headD 0 == 2)

/-- True for a PTP event message: messageType 0x0-0x3 (R70). -/
def ptpEvent (m : List Nat) : Bool := frameType m == 0x88F7 && decide ((m.drop 14).headD 0 % 16 ≤ 3)

/-- MGMT_SEND_ETH, opcode 0x14 kind 0b10: a PTP, ESMC or eCPRI type 2 frame; a PTP event frame produces a transmit stamp
in the receive ring with the command's tag (R394, R395). The fraction of the stamp is a free value. -/
def execMgmtSendEth (c : CmdEntry) (s : State) : Host.Outcome State Fault Refusal :=
  s.upd (fun h =>
    let l := argBits c.a0 0 8
    let m := h.sendBytes c
    let range := argBits c.a0 8 2 == 2 && sendFits c && decide (l < 144) && h.get (F.laneCtl_mode l) == 2 &&
      decide (14 ≤ c.a1.toNat) && sendableFrame m
    h.command c sendForm range (if h.laneUp l then stOk else stWrong) (fun h k =>
      let h := h.sendLink (256 + l) m
      if ptpEvent m then let (f, h) := h.draw; (h.rxPut l 5 [] h.gtc f k.tag, some 0) else (h, some 0)))

end Sys2Proof.Machine
end

