-- ==== Sys2Proof/Machine/Streams.lean ====
section
/-! DEFINITION. Switching between sources, the one-sample steps of equalisation, and the store windows (R46, R50, R54 to
R58). -/

namespace Sys2Proof.Machine

/-- The interval between one-sample moves in ticks; 0 is treated as 1 ms (R51). -/
def Hive.eqTicks (h : Hive) : Nat := max 1 (h.get F.eqCtl_interval) * Config.msTicks

/-- One sample towards a target. -/
def towards (cur want : Nat) : Nat := if cur < want then cur + 1 else if want < cur then cur - 1 else cur

/-- One move of the store delay: only towards a target that two consecutive measurements have asked for, and no sooner
than the interval after the last move (R46). -/
def Hive.eqStep (h : Hive) (n : Nat) : Hive :=
  let st := h.sget n
  let cur := h.delayNow n
  if h.flag (F.steDelay_eq_auto n) && decide (2 ≤ st.eqDiff) && cur != st.eqWant &&
      (st.eqAt == 0 || decide (st.eqAt + h.eqTicks ≤ h.ticks)) then
    h.sset n { st with dNow := some (towards cur st.eqWant), eqAt := h.ticks }
  else h

/-- EQ_DELAY_STEP. The repeated or omitted sample follows from the store's read position (R46). -/
def execEqDelayStep (n : StreamId) (s : State) : Host.Outcome State Fault Refusal := s.upd (fun h => h.eqStep n.val)

/-- One move of an ingress delay (R54, R46). -/
def Hive.inStep (h : Hive) (n : Nat) (alt : Bool) : Hive :=
  let st := h.sget n
  let f := if alt then F.steInDly_in_alt n else F.steInDly_in_pri n
  let want := if alt then st.inWant.2 else st.inWant.1
  let cur := h.get f
  let want := min want (h.get (F.steInMax_in_max n))
  if decide (2 ≤ st.inDiff) && cur != want && (st.inAt == 0 || decide (st.inAt + h.eqTicks ≤ h.ticks)) then
    -- an increase repeats the copy's next sample once, a decrease omits it
    let step := fun (q : List Sample) => if cur < want then q.take 1 ++ q else q.drop 1
    let st := if alt then { st with inAlt := step st.inAlt } else { st with inPri := step st.inPri }
    (((h.sset n { st with inAt := h.ticks }).set f (towards cur want)).standbyEval n).latChanged n
  else h

/-- INGRESS_DELAY_STEP. -/
def execIngressDelayStep (n : StreamId) (alt : Bool) (s : State) : Host.Outcome State Fault Refusal :=
  s.upd (fun h => h.inStep n.val alt)

/-- SWITCH, opcode 0x06: a make-before-break switch at T (R56); an earlier one for the stream is superseded (R57). -/
def execSwitch (c : CmdEntry) (s : State) : Host.Outcome State Fault Refusal :=
  s.upd (fun h =>
    let n := argBits c.a0 0 11
    let pend := h.sched.any (fun o => o.kind == SchedKind.streamSwitch n)
    let chk :=
      if !h.isStream n || !h.flag (F.rteStatus_standby_ready n) then stWrong
      else if pend && h.schedStatus == stNoRes then stOk else h.schedStatus
    let form : CmdForm := ⟨0x06, 0x7FF, 0, 0, .required, .timed⟩
    let st := h.cmdStatus c form (h.leadOk c.t.toNat false) chk
    (h.countRefused st).command c form (h.leadOk c.t.toNat false) chk
      (fun h _ => ((h.switchSupersede n).schedule c.t.toNat (.streamSwitch n), some 0)))

/-- What a due switch does: the standby is checked once more, and the outcome recorded (R56, R57). -/
def Hive.switchAt (h : Hive) (n : Nat) : Hive :=
  let h := h.unsched (.streamSwitch n)
  if srcKind (h.get (F.steAlt_alt n)) = 0 then h.switchDone n 4 false
  else if h.flag (F.rteStatus_standby_ready n) then ((h.switchOver n).switchDone n 0 false).srcEval n
  else h.switchDone n (h.switchReason n) false

/-- SWITCH_AT_T: the scheduled switch of the stream is due. -/
def execSwitchAtT (n : StreamId) (s : State) : Host.Outcome State Fault Refusal :=
  s.upd (fun h => if h.due (.streamSwitch n.val) && !h.patchFirst n.val then h.switchAt n.val else h)

/-- A write to RTE.SW_LAST: writing 1 to valid clears the register (R58). -/
def Hive.wSwLast (h : Hive) (w : RegWrite) : Hive :=
  h.hostWrite w (fun _ _ => stOk) (fun h v => if h.w1cTakes F.swLast_valid v then h.wr R.swLast 0 else h)

/-- SW_LAST_CLEAR. -/
def execSwLastClear (w : RegWrite) (s : State) : Host.Outcome State Fault Refusal := s.upd (fun h => h.wSwLast w)

/-- A write to RTE.STORE_WIN: rd_en can be set only where the image permits store reads (R50). -/
def Hive.wStoreWin (h : Hive) (w : RegWrite) : Hive :=
  h.hostWrite w (fun h v => if bitOf v 0 && !h.storeReads then stNotAuth else stOk) (Hive.applyTypes R.storeWin)

/-- STORE_WIN_WRITE. -/
def execStoreWinWrite (w : RegWrite) (s : State) : Host.Outcome State Fault Refusal := s.upd (fun h => h.wStoreWin w)

/-- STORE_WINDOW_WRITE: every write into a store window is refused with NOT_AUTH (R50). -/
def execStoreWindowWrite (w : RegWrite) (s : State) : Host.Outcome State Fault Refusal :=
  s.upd (fun h => h.wRefused w stNotAuth)

end Sys2Proof.Machine
end

