-- ==== Sys2Proof/Machine/Store.lean ====
section
/-! DEFINITION. The stores: buffers with their two formats, what they take of each store, and the ingress buffers that samples
of a dual-homed stream pass (R46 to R51, R54). -/

namespace Sys2Proof.Machine

/-! ## Buffers (R46 to R48) -/

/-- The first byte of a stream's buffer, as its BAR0 address (R27, R36). -/
def Hive.bufAddr (h : Hive) (n : Nat) : Nat := 0x1000000 * (1 + h.home n) + 4 * h.get (F.steBufBase_buf_base n)

/-- Samples that a buffer holds. -/
def Hive.bufLen (h : Hive) (n : Nat) : Nat := 128 * h.get (F.steBufUnits_buf_units n)

/-- A sample as a 32-bit word: I in the low half, Q in the high half (R4). -/
def sampleWord (x : Sample) : Nat := twos 16 x.i + 2 ^ 16 * twos 16 x.q

/-- Bytes written to the stores. -/
def Mem.storePut (m : Mem) (a : Nat) (bytes : List Nat) : Mem :=
  { m with store := Tbl.putList Mem.ramByte m.store a (bytes.map (fun b => BitVec.ofNat 8 b)) }

/-- Bytes read from the stores, as a little-endian number. -/
def Mem.storeNat (m : Mem) (a n : Nat) : Nat :=
  leNat ((Tbl.getList Mem.ramByte m.store a n).map (fun b => b.toNat))

/-- The byte address and the bit offset in it of format-B block `b` of a buffer at `a`: 8 blocks to a unit of 388 bytes
(R48). -/
def blockAt (a b : Nat) : Nat × Nat := (a + 388 * (b / 8) + 388 * (b % 8) / 8, 388 * (b % 8) % 8)

/-- A format-B block written into the store (R47, R48). -/
def Mem.blockPut (m : Mem) (a b : Nat) (blk : List Sample) : Mem :=
  let (o, sh) := blockAt a b
  let old := m.storeNat o 49
  m.storePut o (leBytes (old - bitsOf old sh 388 * 2 ^ sh + fmtBPack blk * 2 ^ sh) 49)

/-- The samples of a format-B block read from the store. -/
def Mem.blockGet (m : Mem) (a b : Nat) : List (Int × Int) :=
  let (o, sh) := blockAt a b
  fmtBUnpack (bitsOf (m.storeNat o 49) sh 388)

/-- The block as a READY patch will have it, when the patch moves the stream's delay buffer (R273). -/
def Hive.bufNext (h : Hive) (n : Nat) : Option Hive :=
  [0, 1, 2, 3].findSome? (fun p =>
    match Tbl.get (fun _ => none) h.sys.patches p with
    | none => none
    | some q =>
      if h.get (F.imgPatchStat_state p) = 3 ∧ q.file.body.streams.contains n then
        let ws := q.file.body.words.filter (fun e => decide (R.steSrc n ≤ e.1) && decide (e.1 ≤ R.steValid n))
        let g := ws.foldl (fun (g : Hive) e => g.wr e.1 (BitVec.ofNat 32 e.2)) h
        if g.bufAddr n = h.bufAddr n ∧ g.bufLen n = h.bufLen n then none else some g
      else none)

/-! ## Ingress buffers of dual-homed streams (R48, R54) -/

/-- A stream that has an alternate source. -/
def Hive.dualHomed (h : Hive) (n : Nat) : Bool := srcKind (h.get (F.steAlt_alt n)) != 0

/-- Units of one ingress buffer: in_max in units of 128 samples, rounded up, and one more (R48). -/
def Hive.inUnits (h : Hive) (n : Nat) : Nat := (h.get (F.steInMax_in_max n) + 127) / 128 + 1

/-- Bytes of a unit in a stream's format (R48). -/
def Hive.unitBytes (h : Hive) (n : Nat) : Nat := if h.flag (F.steDelay_fmt n) then 388 else 512

/-- The first byte of an ingress buffer: the alternate's follows the source's directly (R36). -/
def Hive.inAddr (h : Hive) (n : Nat) (alt : Bool) : Nat :=
  0x1000000 * (1 + h.home n) + 4 * h.get (F.steInBase_in_base n) + (if alt then h.inUnits n * h.unitBytes n else 0)

/-- Samples of a source reach the ingress of every stream that names it; those of a dual-homed stream pass its ingress
buffers (R33, R54). -/
def Hive.deliver (h : Hive) (w : Nat) (xs : List Sample) : Hive :=
  h.image.foldl (fun h n =>
    if h.dualHomed n then
      let mine := fun (alt : Bool) => if h.srcWord n alt = w then xs.map (fun x => (n, alt, x)) else []
      { h with inNew := h.inNew ++ mine false ++ mine true }
    else if h.srcWord n false = w then h.sset n { h.sget n with inPri := (h.sget n).inPri ++ xs } else h) h

/-- The component that one of a pair belongs to. -/
def pick {α : Type} (p : α × α) (alt : Bool) : α := if alt then p.2 else p.1
/-- A pair with one component replaced. -/
def put {α : Type} (p : α × α) (alt : Bool) (v : α) : α × α := if alt then (p.1, v) else (v, p.2)

/-- One sample enters an ingress buffer in the stream's format; a format-B block is coded once its 16 samples have come. What
can be read then waits for the strainer (R47, R54). -/
def Hive.ingressPut (h : Hive) (m : Mem) (n : Nat) (alt : Bool) (x : Sample) : Hive × Mem :=
  let st := h.sget n
  let k := pick st.inWr alt
  let len := 128 * h.inUnits n
  let st := { st with inWr := put st.inWr alt (k + 1) }
  let wait := fun (st : StreamSt) (xs : List Sample) =>
    if alt then { st with inAlt := st.inAlt ++ xs } else { st with inPri := st.inPri ++ xs }
  if h.flag (F.steDelay_fmt n) then
    let blk := (if k % 16 = 0 then [] else pick st.inBlk alt) ++ [x]
    if k % 16 = 15 then
      let out := ((fmtBUnpack (fmtBPack blk)).zip blk).map (fun p => (⟨p.1.1, p.1.2, p.2.ovr⟩ : Sample))
      (h.sset n (wait { st with inBlk := put st.inBlk alt [] } out), m.blockPut (h.inAddr n alt) (k % len / 16) blk)
    else (h.sset n { st with inBlk := put st.inBlk alt blk }, m)
  else (h.sset n (wait st [x]), m.storePut (h.inAddr n alt + 4 * (k % len)) (leBytes (sampleWord x) 4))

/-- The samples that have come are written to the ingress buffers. -/
def Hive.ingress (h : Hive) (m : Mem) : Hive × Mem :=
  h.inNew.foldl (fun (a : Hive × Mem) e => a.1.ingressPut a.2 e.1 e.2.1 e.2.2) ({ h with inNew := [] }, m)

/-- The answer of a meaning that brings samples in. -/
def State.updIn (s : State) (f : Hive → Hive) : Host.Outcome State Fault Refusal :=
  let r := (f s.hive).ingress s.mem
  .next { s with hive := r.1, mem := r.2 }

/-! ## What the image and its patches allocate (R48, R51) -/

/-- Bytes of its home die's store that a stream's buffers take (R48). -/
def Hive.storeBytes (h : Hive) (n : Nat) : Nat :=
  h.unitBytes n * (h.get (F.steBufUnits_buf_units n) + (if h.dualHomed n then 2 * h.inUnits n else 0))

/-- Length d_g of a gated group's delay line in sub-band samples, by rate code: tile and decision delay (R163). -/
def gateBlocks (code : Nat) : Nat := gateTicks code / (1024 * 2 ^ code)

/-- Allocation units of one delay line (R167). -/
def lineUnits (code : Nat) : Nat := 4 * gateBlocks code + 1

/-- Bytes of the delay line of bank `b`, an input of a gated group (R167). -/
def Hive.lineBytes (h : Hive) (b : Nat) : Nat :=
  if h.flag (F.sivCtl_en b) && !h.flag (F.sivCtl_mode b) && h.flag (F.sivCtl_grouped b) && h.flag (F.ugtCtl_en (h.get (F.sivCtl_group b))) then
    h.unitBytes (h.get (F.sivCtl_stream b)) * lineUnits (h.get (F.sivCtl_rate b))
  else 0

/-- RTE.STORE_USE follows the streams of the image and the delay lines of gated groups, in the store of the group's die (R51,
R167). -/
def Hive.storeUse (h : Hive) : Hive :=
  [0, 1].foldl (fun h d =>
    let lines := (List.range 512).filter (fun b => h.get (F.sivCtl_group b) / 128 == d)
    h.set (F.storeUse_bytes d) (((h.image.filter (fun n => h.home n == d)).map (fun n => h.storeBytes n)).foldl (· + ·) 0 +
      (lines.map (fun b => h.lineBytes b)).foldl (· + ·) 0)) h

end Sys2Proof.Machine
end

