-- ==== Sys2Proof/Machine/Usage.lean ====
section
/-! DEFINITION. The usage meters: millisecond accumulation, intervals and their ring, rate epochs (R369 to R372, R376). -/

namespace Sys2Proof.Machine

/-- A tenant's interval. -/
def Hive.uget (h : Hive) (t : Nat) : UsageSt := Tbl.get (fun _ => UsageSt.init) h.usage t
/-- The block with a tenant's interval replaced. -/
def Hive.uset (h : Hive) (t : Nat) (u : UsageSt) : Hive := { h with usage := Tbl.put (fun _ => UsageSt.init) h.usage t u }

/-- Intervals open only with metering on, the GTC set, the hive in RUN, DEGRADED or SAFE, and the areas not frozen by a power
fail (R366, R370, R372). -/
def Hive.usageMay (h : Hive) (t : Nat) : Bool :=
  h.flag (F.useTCtl_en t) && h.get F.timStat_state != 0 && (h.running? || h.mode == .safe) && !h.pfFrozen

/-- An interval opens; at any instant but an interval end it is short (R370). -/
def Hive.usageOpen (h : Hive) (t : Nat) : Hive :=
  if h.usageMay t && !(h.uget t).opened then
    let u := h.uget t
    let len := h.get (F.useTCtl_len t)
    h.uset t { UsageSt.init with
      opened := true, gen := (u.gen + 2) % 2 ^ 32, start := h.gtc, last := h.gtc, short := h.gtc % (len * 58982400000) != 0
      lenNow := len, wAcc := (h.rd (R.useWeight t)).toNat }
  else h

/-- Intervals open wherever they may. -/
def Hive.usageOpenAll (h : Hive) : Hive := (List.range 16).foldl (fun h t => h.usageOpen t) h

/-- One stream's part of a millisecond (R369). -/
def Hive.usageStream (h : Hive) (u : UsageSt) (n : Nat) : UsageSt :=
  let b := h.get (F.useBw_bw n)
  let wbw := u.wAcc % 65536
  let we := u.wAcc / 65536
  let u := { u with bwRaw := (u.bwRaw + b) % 2 ^ 64, bwWt := (u.bwWt + roundEvenN (b * wbw) 256) % 2 ^ 64 }
  if h.flag (F.steSlice_dir n) then u
  else if h.flag (F.mtrOut_valid n) then
    let e := dbScale 1000 10 (2 ^ 60) (h.getS (F.mtrOut_level n) + h.getS (F.npmRefOfs_ofs n))
    { u with eRaw := (u.eRaw + e) % 2 ^ 64, eWt := (u.eWt + roundEvenN (e * we) 256) % 2 ^ 64 }
  else { u with unmet := min (u.unmet + 1) (2 ^ 32 - 1) }

/-- A millisecond of every metering tenant is counted (R369). -/
def Hive.usageMs (h : Hive) : Hive :=
  let h := (List.range 16).foldl (fun h t =>
    let u := h.uget t
    if u.opened then
      let u := (h.msLive.filter (fun n => h.tenant n == t)).foldl (fun u n => h.usageStream u n) u
      h.uset t { u with
        ms := (u.ms + 1) % 2 ^ 22, last := h.gtc, gen := (u.gen + 2) % 2 ^ 32, wAcc := (h.rd (R.useWeight t)).toNat }
    else h) h
  let live := h.image.filter (fun n => h.st n == stRampUp || h.st n == stLive || h.st n == stRampDown)
  { h with msLive := live, umsAt := some h.ticks }.usageOpenAll

/-- The millisecond that ends in this cycle is counted before any event stamped in the cycle (R369). -/
def Hive.usageDue (h : Hive) : Hive :=
  if h.gtc % Config.msTicks = 0 && h.flag F.pwrClkStat_sclk_lock && h.umsAt != some h.ticks then h.usageMs else h

/-- USAGE_MILLISECOND: GTC mod 983,040 = 0. -/
def execUsageMillisecond (s : State) : Host.Outcome State Fault Refusal := s.upd (fun h => h.usageDue)

/-- The open interval is written to the ring as the next entry and closed (R370, R372, R376). -/
def Hive.usageClose (h : Hive) (t : Nat) (interrupted short : Bool) : Hive :=
  let u := h.uget t
  if u.opened then
    let seq := h.get F.useRingSeq_next
    let flags := (if interrupted then 1 else 0) + (if u.short || short then 2 else 0) + (if u.wchg then 4 else 0)
    let e : UsageEnt := ⟨seq, t, flags, h.get (F.useTCtl_epoch t), u.start, h.gtc, u.bwRaw, u.bwWt, u.eRaw, u.eWt, u.ms, u.unmet⟩
    let h := { h with uring := Tbl.put (fun _ => none) h.uring (seq % 64) (some e) }
    let h := (h.wrapInc F.useRingSeq_next).uset t { u with opened := false, gen := (u.gen + 2) % 2 ^ 32 }
    h.setIrq 7
  else h

/-- Every open interval closes in this cycle (R370, R372). -/
def Hive.usageCloseAll (h : Hive) (interrupted short : Bool) : Hive :=
  (List.range 16).foldl (fun h t => h.usageClose t interrupted short) h.usageDue

/-- The ring entry of a tenant's interval that ended in this cycle. -/
def Hive.usageJust (h : Hive) (t : Nat) : Option UsageEnt :=
  (h.uring.filterMap (fun p => p.2)).find? (fun e => e.tenant == t && e.last == h.gtc && e.flags % 2 == 0)

/-- A power fail or a reset closes every open interval, interrupted. It comes before an interval end of its cycle: an interval
that just ended is the interrupted one, and none has opened (R372). -/
def Hive.usageStop (h : Hive) : Hive :=
  (List.range 16).foldl (fun h t =>
    let u := h.uget t
    match (if u.opened && u.start == h.gtc then h.usageJust t else none) with
    | some e =>
      ({ h with uring := Tbl.put (fun _ => none) h.uring (e.seq % 64) (some { e with flags := e.flags + 1 }) } : Hive).uset t
        { u with opened := false }
    | none => h.usageClose t true false) h.usageDue

/-- An interval end: the interval is written and a new one opens in the same cycle (R370). -/
def Hive.usageEnd (h : Hive) (t : Nat) : Hive :=
  let h := h.usageDue
  let u := h.uget t
  let len := if u.opened then u.lenNow else h.get (F.useTCtl_len t)
  if len ≠ 0 ∧ h.gtc % (len * 58982400000) = 0 ∧ !(u.opened && u.start == h.gtc) then (h.usageClose t false false).usageOpen t else h

/-- USAGE_INTERVAL_END. -/
def execUsageIntervalEnd (t : TenantId) (s : State) : Host.Outcome State Fault Refusal := s.upd (fun h => h.usageEnd t.val)

/-- RATE_EPOCH, opcode 0x0C: new weights for a tenant at T (R371). -/
def execRateEpoch (c : CmdEntry) (s : State) : Host.Outcome State Fault Refusal :=
  s.upd (fun h =>
    let t := argBits c.a0 0 4
    let form : CmdForm := ⟨0x0C, 0xF, 0xFFFFFFFF, 0, .required, .timed⟩
    let lead := h.leadOk c.t.toNat false
    let st := h.cmdStatus c form lead h.schedStatus
    (h.countRefused st).command c form lead h.schedStatus
      (fun h _ => (h.schedule c.t.toNat (.rateEpoch t c.a1.toNat), some 0)))

/-- The weights and the epoch number change; the open interval shows weights changed unless it starts now (R371). -/
def Hive.epochApply (h : Hive) (t w : Nat) : Hive :=
  let h := h.usageDue.wr (R.useWeight t) (BitVec.ofNat 32 w)
  let h := h.wrapInc (F.useTCtl_epoch t)
  let u := h.uget t
  if u.opened then
    h.uset t { u with wchg := u.wchg || u.start != h.gtc, wAcc := if u.start = h.gtc ∨ h.gtc % Config.msTicks = 0 then w else u.wAcc }
  else h

/-- RATE_EPOCH_AT_T: the tenant's due epochs take effect in the order they were accepted. -/
def execRateEpochAtT (t : TenantId) (s : State) : Host.Outcome State Fault Refusal :=
  s.upd (fun h =>
    let mine := fun (o : SchedOp) =>
      match o.kind with
      | .rateEpoch u _ => u == t.val && decide (o.t ≤ h.gtc)
      | _ => false
    (h.sched.filter mine).foldl (fun h o =>
      match o.kind with
      | .rateEpoch u w => h.epochApply u w
      | _ => h) { h with sched := h.sched.filter (fun o => !mine o) })

/-- The tenant of a register of USE.T_CTL. -/
def useTenantOf (a : Nat) : Nat := (a - 0x7E8000) / 4

/-- A write to USE.T_CTL: len 1-60; en = 0 closes the open interval, en = 1 opens one (R370, R376). -/
def Hive.wUsageCtl (h : Hive) (w : RegWrite) : Hive :=
  let t := useTenantOf (wKey w)
  h.hostWrite w (fun _ v => if 1 ≤ v % 64 ∧ v % 64 ≤ 60 then stOk else stBadArg) (fun h v =>
    let h := h.usageDue.applyTypes (wKey w) v
    if h.flag (F.useTCtl_en t) then h.usageOpen t else h.usageClose t false true)

/-- USAGE_CONTROL_WRITE. -/
def execUsageControlWrite (w : RegWrite) (s : State) : Host.Outcome State Fault Refusal := s.upd (fun h => h.wUsageCtl w)

end Sys2Proof.Machine
end

