-- ==== Sys2Proof/Machine/Time.lean ====
section
/-! DEFINITION. Global time: loads of the GTC, PPS, TIME messages, barriers, broadcasts and snapshots (R234 to R256). -/

namespace Sys2Proof.Machine

/-! ## The counter and its loads (R234 to R238) -/

/-- Half a message's value if it fits a signed 24-bit field, else a free value: the spec states none there. -/
def Hive.setSigned24 (h : Hive) (f : RF) (v : Int) : Hive :=
  if -8388608 ≤ v ∧ v ≤ 8388607 then h.setS f v else let (w, h) := h.draw; h.set f w

/-- The tolerance in ticks; 0 is treated as 1 (R255). -/
def Hive.tol (h : Hive) : Nat := max 1 (h.get F.timCtl_tol)

/-- A load is accepted only on a quiet hive: no stream ARMED, RAMP_UP, LIVE or RAMP_DOWN, no operation pending (R236). -/
def Hive.quiet (h : Hive) : Bool :=
  h.sched.isEmpty && h.image.all (fun n => h.st n == stIdle || h.st n == stMuted || h.st n == stFaulted)

/-- The GTC takes a value: open usage intervals close, TIM.EPOCH rises, the time state follows (R235, R236, R255, R370). -/
def Hive.loadGtc (h : Hive) (v : Nat) : Hive :=
  let h := h.usageCloseAll false true
  let h := { h with gtc := v % 2 ^ 64, loadCmd := 0, epsBad := 0 }
  let h := (h.wrapInc F.timEpoch_epoch).setFlag F.timStat_load_pend false
  let src := h.get F.timCtl_src
  let h := h.set F.timStat_state (if h.flag F.topo_root && src == 0 then 1 else 2)
  (h.jEvent 0x5 R.timCmd v 0).usageOpenAll

/-- The 64-bit TIM.SET. -/
def Hive.timSet (h : Hive) : Nat := h.getPair R.timSetLo R.timSetHi

/-- The checks of a write to TIM.CMD (R236, R255). -/
def Hive.timCmdChk (h : Hive) (v : Nat) : Nat :=
  let c := v % 8
  let src := h.get F.timCtl_src
  if c = 0 ∨ c > 3 then stBadArg
  else if (c = 1 ∧ src ≠ 1) ∨ (c = 2 ∧ src ≠ 0 ∧ src ≠ 2) ∨ (c = 3 ∧ src ≠ 3) then stWrong
  else if h.quiet then stOk else stWrong

/-- A write to TIM.CMD: 0x2 loads at once, 0x1 and 0x3 wait for their edge or message (R236). -/
def Hive.wTimCmd (h : Hive) (w : RegWrite) : Hive :=
  h.hostWrite w Hive.timCmdChk (fun h v =>
    if v % 8 = 2 then h.loadGtc h.timSet else { h with loadCmd := v % 8 }.setFlag F.timStat_load_pend true)

/-- GTC_LOAD_PPS: TIM.CMD 0x1. -/
def execGtcLoadPps (w : RegWrite) (s : State) : Host.Outcome State Fault Refusal := s.upd (fun h => h.wTimCmd w)

/-- GTC_LOAD_NOW: TIM.CMD 0x2. -/
def execGtcLoadNow (w : RegWrite) (s : State) : Host.Outcome State Fault Refusal := s.upd (fun h => h.wTimCmd w)

/-- GTC_LOAD_UPSTREAM: TIM.CMD 0x3. -/
def execGtcLoadUpstream (w : RegWrite) (s : State) : Host.Outcome State Fault Refusal := s.upd (fun h => h.wTimCmd w)

/-- Distance, in 1/16 tick, of a stamp from the nearest second boundary of absolute time (R238). -/
def Hive.ppsPhase (h : Hive) (s16 : Nat) : Int :=
  let sec := 16 * Config.secTicks
  let r := (s16 + 16 * h.tod) % (16 * 2 ^ 64) % sec
  if 2 * r < sec then (r : Int) else (r : Int) - sec

/-- TIME cause 0x01: one record, active while the phase is beyond tol or pps_ok is lost (R238). -/
def Hive.ppsJudge (h : Hive) : Hive :=
  if h.ppsBad || h.ppsLost then h else h.condEnd 0x0E 0x01 0x5

/-- PPS_EDGE: stamped, judged for validity and phase; a pending load is made (R236, R238). -/
def Hive.ppsRise (h : Hive) (frac : Nat) : Hive :=
  let s16 := 16 * h.gtc + frac
  let prev := h.ppsPrev
  let unset := h.get F.timStat_state == 0
  let ph := h.ppsPhase s16
  let valid :=
    if unset then
      match prev with
      | none => false
      | some p => decide (((s16 : Int) - p - 16 * (Config.secTicks : Int)).natAbs ≤ 16 * 983)
    else decide (ph.natAbs ≤ 16 * 983)
  let h := { h with ppsPrev := some s16 }.setPair R.timPpsLo R.timPpsHi h.gtc
  let h : Hive := if valid then { h with ppsLost := false, ppsAt := h.ticks }.setFlag F.timStat_pps_ok true else h
  let h := if valid && h.get F.timStat_state == 3 && h.get F.timCtl_src == 1 then h.set F.timStat_state 2 else h
  let h : Hive :=
    if unset then h
    else
      let h := (h.setSigned24 F.timPhase_val ph).setFlag F.timPhase_valid true
      if h.get F.timCtl_src = 1 then
        if ph.natAbs > 16 * h.tol then { h with ppsBad := true }.raiseSC 0x0E 0x01 0x5 1 0
        else { h with ppsBad := false }.ppsJudge
      else h
  if h.loadCmd = 1 then
    if h.quiet then h.loadGtc h.timSet
    else ({ h with loadCmd := 0 }.setFlag F.timStat_load_pend false).journal 0x5 5 7 stWrong false R.timCmd 0 0 0
  else h

/-- PPS_EDGE. -/
def execPpsEdge (frac : Fin 16) (s : State) : Host.Outcome State Fault Refusal := s.upd (fun h => h.ppsRise frac.val)

/-- PPS_LOSS: 1.5 s without a valid edge clear pps_ok; a loaded PPS root goes to HOLDOVER (R238). -/
def execPpsLoss (s : State) : Host.Outcome State Fault Refusal :=
  s.upd (fun h =>
    if h.flag F.timStat_pps_ok && decide (h.ppsAt + 3 * Config.secTicks / 2 ≤ h.ticks) then
      let h := h.setFlag F.timStat_pps_ok false
      if h.get F.timCtl_src == 1 && h.get F.timStat_state != 0 && h.flag F.topo_root then
        ({ h with holdAt := h.ticks, ppsLost := true }.set F.timStat_state 3).raiseSC 0x0E 0x01 0x5 1 0
      else h
    else h)

/-- A write to TIM.TOD_OFS_HI applies the pair in one cycle (R237). -/
def Hive.wTodHi (h : Hive) (w : RegWrite) : Hive :=
  h.hostWrite w (fun _ _ => stOk) (fun h v =>
    let h := h.applyTypes R.timTodOfsHi v
    { h with tod := h.getPair R.timTodOfsLo R.timTodOfsHi })

/-- TOD_OFS_HI_WRITE. -/
def execTodOfsHiWrite (w : RegWrite) (s : State) : Host.Outcome State Fault Refusal := s.upd (fun h => h.wTodHi w)

/-- PPS_OUT_RISE: at the first tick of a second of absolute time, with pps_out = 1 (R239). -/
def execPpsOutRise (s : State) : Host.Outcome State Fault Refusal :=
  s.upd (fun h =>
    if h.flag F.timCtl_pps_out && (h.gtc + h.tod) % 2 ^ 64 % Config.secTicks == 0 then { h with ppsOut := true, ppsOutAt := h.ticks } else h)

/-- PPS_OUT_FALL: 98,304,000 ticks after the rise (R239). -/
def execPpsOutFall (s : State) : Host.Outcome State Fault Refusal := 
  s.upd (fun h => if h.ppsOut && decide (h.ppsOutAt + 98304000 ≤ h.ticks) then { h with ppsOut := false } else h)

/-! ## Distribution over Rygayth links (R241, R242) -/

/-- The flags a hive sends: root locked, SUSPECT on the path, HOLDOVER on the path (R241). -/
def Hive.timeFlagsOut (h : Hive) : Nat :=
  let st := h.get F.timStat_state
  let b0 := if h.flag F.topo_root then (if st = 2 then 1 else 0) else h.timeFlags % 2
  let b1 := if st = 4 || bitOf h.timeFlags 1 then 2 else 0
  let b2 := if st = 3 || bitOf h.timeFlags 2 then 4 else 0
  b0 + b1 + b2

/-- TIME_MESSAGE_SEND: on a downstream tree link when GTC mod 98,304 = 0 (R241). -/
def execTimeMessageSend (k : LinkId) (s : State) : Host.Outcome State Fault Refusal :=
  s.upd (fun h =>
    if h.gtc % 98304 == 0 && h.treeDown.any (fun x => x == k.val) then
      h.sendLink k.val (mgmtFrame 0x40 0 (leBytes h.gtc 8 ++ [h.get F.topo_hop_depth, h.timeFlagsOut]))
    else h)

/-- A valid TIME message on the upstream link gives epsilon, in 1/16 tick (R241, R242). -/
def Hive.timeMsg (h : Hive) (k ts frac flags : Nat) : Hive :=
  let mup := match Tbl.get (fun _ => ([] : List Nat)) h.links k with
    | l :: _ => h.get (F.laneDlyUp_ticks l)
    | [] => 0
  let e : Int := (16 * h.gtc + frac : Nat) - (16 * (ts + mup) : Nat)
  let h := { h with timeFlags := flags, timeAt := h.ticks }
  let h := (h.setSigned24 F.timEps_val e).setFlag F.timEps_valid true
  let h := if mup > Tbl.get (fun _ => 0) h.linkProp k + 16 then h.raise 0x0E 0x04 0x5 1 0 else h
  let st := h.get F.timStat_state
  let within := decide (e.natAbs ≤ 16 * h.tol)
  if (st = 0 || h.loadCmd = 3) && h.quiet then
    h.loadGtc (((h.gtc : Int) - roundEven e 16) % (2 ^ 64 : Nat)).toNat
  else if st = 2 then
    if within then { h with epsBad := 0 }
    else
      let h := { h with epsBad := h.epsBad + 1 }
      if h.epsBad ≥ 3 then (h.set F.timStat_state 4).raise 0x0E 0x03 0x5 2 0 else h
  else if st = 3 then
    let h := (h.condEnd 0x0E 0x02 0x5)
    if within then { h with epsBad := 0 }.set F.timStat_state 2
    else (h.set F.timStat_state 4).raise 0x0E 0x03 0x5 2 0
  else h

/-- TIME_MESSAGE_RECEIVED: one that is not valid, or not from the upstream link, is not used. -/
def execTimeMessageReceived (k : LinkId) (ts : Nat) (frac : Fin 16) (_hops : Fin 5) (flags : Fin 8) (valid : Bool)
    (s : State) : Host.Outcome State Fault Refusal :=
  s.upd (fun h =>
    if valid && h.get F.timCtl_src == 3 && h.get F.timCtl_up_link == k.val then h.timeMsg k.val ts frac.val flags.val else h)

/-- TIME_HOLDOVER: no valid TIME message for 1 ms (R242). -/
def execTimeHoldover (s : State) : Host.Outcome State Fault Refusal :=
  s.upd (fun h =>
    if h.get F.timCtl_src == 3 && h.get F.timStat_state == 2 && decide (h.timeAt + Config.msTicks ≤ h.ticks) then
      ({ h with holdAt := h.ticks }.set F.timStat_state 3).raiseSC 0x0E 0x02 0x5 1 0
    else h)

/-! ## Barriers (R245, R246) -/

/-- A barrier's hidden state. -/
def Hive.bget (h : Hive) (b : Nat) : BarSt := Tbl.get (fun _ => BarSt.init) h.bars b
/-- The block with a barrier's hidden state replaced. -/
def Hive.bset (h : Hive) (b : Nat) (st : BarSt) : Hive := { h with bars := Tbl.put (fun _ => BarSt.init) h.bars b st }

/-- The command that opened a barrier completes: result bit 0 is 1 when it was aborted (R385). -/
def Hive.barFinish (h : Hive) (b result : Nat) : Hive :=
  match (h.bget b).tok with
  | some k => (h.bset b BarSt.init).finish k stOk result
  | none => h.bset b BarSt.init

/-- A barrier ends: its state, its stamp, the host's arrive bit cleared, vector 4 (R245, R246, R256). -/
def Hive.barEnd (h : Hive) (b state missing : Nat) : Hive :=
  let h := (h.set (F.timWagStat_state b) state).set (F.timWagStat_missing b) missing
  let h := h.set (F.timWagRelT_rel_t b) h.gtc
  let h := if b ≥ 32 then h.hwClear ⟨R.timWagArrive, b - 32, 1⟩ else h
  (h.barFinish b (if state = 3 then 1 else 0)).setIrq 4

/-- True when this hive has arrived at the barrier (R245): the release token at once, every shadow load verified, every
lane of the image UP, or the host's bit. -/
def Hive.arrivedHere (h : Hive) (b : Nat) : Bool :=
  match h.get (F.timWagStat_cond b) with
  | 0 => true
  | 1 => (List.range 4).all (fun p => h.get (F.imgPatchStat_state p) != 1)
  | 2 => (List.range 144).all (fun l => h.get (F.laneCtl_mode l) == 0 || h.laneUp l)
  | _ => decide (b ≥ 32) && bitOf (h.get F.timWagArrive_arrive) (b - 32)

/-- The arrive or release token of the urgent byte on a link (R83, R245), kept at 512 + link. -/
def Hive.sendToken (h : Hive) (k b : Nat) (release : Bool) : Hive := h.sendLink (512 + k) [if release then 2 else 1, b]

/-- An open barrier is looked at again: with every member arrived, the root of its scope releases it and a member hive
passes its arrive upstream (R245). -/
def Hive.barCheck (h : Hive) (b : Nat) : Hive :=
  if h.get (F.timWagStat_state b) = 1 then
    let st := h.bget b
    let me := h.get F.topo_hive_id
    let st := if h.arrivedHere b then { st with arrived := setBit st.arrived me true } else st
    let h := h.bset b st
    let apiary := h.flag (F.timWagStat_scope b)
    if !apiary then (if bitOf st.arrived me then h.barEnd b 2 0 else h)
    else if h.flag F.topo_root then
      if Nat.land st.arrived h.apiaryMask = h.apiaryMask && bitOf st.arrived me then
        (h.treeDown.foldl (fun h k => h.sendToken k b true) h).barEnd b 2 0
      else h
    else if Nat.land st.arrived h.subMask = h.subMask && bitOf st.arrived me then
      if st.sent then h else (h.bset b { st with sent := true }).sendToken (h.get F.timCtl_up_link) b false
    else h
  else h

/-- Every open barrier is looked at again. -/
def Hive.barCheckAll (h : Hive) : Hive := (List.range 64).foldl (fun h b => h.barCheck b) h

/-- A barrier opens (R245). -/
def Hive.barOpen (h : Hive) (b cond : Nat) (apiary : Bool) (tok : Option CmdTok) : Hive :=
  let h := (h.set (F.timWagStat_state b) 1).setFlag (F.timWagStat_scope b) apiary
  let h := (h.set (F.timWagStat_cond b) cond).set (F.timWagStat_missing b) 0
  h.bset b ⟨0, tok, h.ticks, false⟩

/-- A BCAST message: operation, argument, low word of T (R247). -/
def bcastMsg (op arg t : Nat) : List Nat := mgmtFrame 0x41 0 ([op % 256, arg % 256] ++ leBytes t 4)

/-- WAGGLE, opcode 0x0A: opens a host barrier (R245, R246). It completes at release or abort. -/
def execWaggle (c : CmdEntry) (s : State) : Host.Outcome State Fault Refusal :=
  s.upd (fun h =>
    let b := argBits c.a0 0 6
    let apiary := decide (argBits c.a0 8 1 = 1)
    let cond := argBits c.a0 9 2
    let chk := if h.get (F.timWagStat_state b) = 1 || (apiary && !h.flag F.topo_root) then stWrong else stOk
    (h.command c ⟨0x0A, 0x73F, 0, 0, .never, .timed⟩ (decide (32 ≤ b)) chk (fun h k =>
      let h := h.barOpen b cond apiary (some k)
      (if apiary then h.treeDown.foldl (fun h l => h.sendLink l (bcastMsg 2 (b + 64 * cond) 0)) h else h, none))).barCheck b)

/-- A write to TIM.WAG_ARRIVE: this hive arrives at host barriers (R245). A release that the write itself brings clears its
bit; a bit cleared otherwise in the same cycle stays set (R7). -/
def Hive.wWagArrive (h : Hive) (w : RegWrite) : Hive :=
  h.hostWrite w (fun _ _ => stOk) (fun h v =>
    let h := (h.wr R.timWagArrive (h.rd R.timWagArrive ||| BitVec.ofNat 32 v)).barCheckAll
    (bitList v 32).foldl (fun h b => h.markEdge R.timWagArrive b) h)

/-- WAGGLE_HOST_ARRIVE. -/
def execWaggleHostArrive (w : RegWrite) (s : State) : Host.Outcome State Fault Refusal := s.upd (fun h => h.wWagArrive w)

/-- WAGGLE_TOKEN_RECEIVED: a release ends the barrier here and goes on to the leaves; an arrive is counted (R245). -/
def execWaggleTokenReceived (b : BarrierId) (release : Bool) (hive : Fin 16) (s : State) : Host.Outcome State Fault Refusal :=
  s.upd (fun h =>
    if h.get (F.timWagStat_state b.val) = 1 then
      if release then (h.treeDown.foldl (fun h k => h.sendToken k b.val true) h).barEnd b.val 2 0
      else (h.bset b.val { h.bget b.val with arrived := setBit (h.bget b.val).arrived hive.val true }).barCheck b.val
    else h)

/-- The hives of `all` whose arrival at the barrier is missing. -/
def Hive.missingAt (h : Hive) (b all : Nat) : Nat :=
  (List.range 16).foldl (fun m i => setBit m i (bitOf all i && !bitOf (h.bget b).arrived i)) 0

/-- The barrier has been open for its timeout; 0 ms is treated as 1 (R246, R256). -/
def Hive.barLate (h : Hive) (b : Nat) : Bool :=
  decide ((h.bget b).opened + max 1 (h.get F.timWagCtl_timeout) * Config.msTicks ≤ h.ticks)

/-- WAGGLE_TIMEOUT: the root of its scope aborts the barrier and tells the tree which hives were missing (R246). -/
def execWaggleTimeout (b : BarrierId) (s : State) : Host.Outcome State Fault Refusal :=
  s.upd (fun h =>
    let apiary := h.flag (F.timWagStat_scope b.val)
    if h.get (F.timWagStat_state b.val) = 1 ∧ h.barLate b.val ∧ (!apiary || h.flag F.topo_root) then
      let missing := h.missingAt b.val (if apiary then h.apiaryMask else 2 ^ h.get F.topo_hive_id)
      let h := if apiary then h.treeDown.foldl (fun h k => h.sendLink k (bcastMsg 3 b.val missing)) h else h
      h.barEnd b.val 3 missing
    else h)

/-- A member hive without its upstream link shows its open apiary barriers aborted at once (R246). -/
def Hive.barOrphan (h : Hive) : Hive :=
  if h.get F.timCtl_src = 3 ∧ !h.flag F.topo_root ∧ !h.linkUp (h.get F.timCtl_up_link) then
    (List.range 64).foldl (fun h b =>
      if h.get (F.timWagStat_state b) = 1 ∧ h.flag (F.timWagStat_scope b) then h.barEnd b 3 (h.missingAt b h.subMask) else h) h
  else h

/-! ## Snapshots (R250, R251) -/

/-- The full T within 2^31 ticks of the GTC whose low word matches (R247). -/
def Hive.fullT (h : Hive) (low : Nat) : Nat :=
  let d := (low + 2 ^ 32 - h.gtc % 2 ^ 32) % 2 ^ 32
  if d < 2 ^ 31 then h.gtc + d else h.gtc + d - 2 ^ 32

/-- A snapshot is held for T (R251, R256). -/
def Hive.snapHold (h : Hive) (t tag : Nat) (apiary : Bool) : Hive :=
  let h := ((h.set F.timSnapCtl_state 1).setFlag F.timSnapCtl_scope apiary).set F.timSnapCtl_tag tag
  (h.setPair R.timSnapTLo R.timSnapTHi t).schedule t .snapshot

/-- SNAPSHOT, opcode 0x09 (R251): apiary scope only at the root, with T at most 2 s ahead (R247, R249). -/
def execSnapshot (c : CmdEntry) (s : State) : Host.Outcome State Fault Refusal :=
  s.upd (fun h =>
    let tag := argBits c.a0 0 8
    let apiary := decide (argBits c.a0 8 1 = 1)
    let t := c.t.toNat
    let range := h.leadOk t apiary && (!apiary || decide (t ≤ h.gtc + 1966080000))
    let chk := if (apiary && !h.flag F.topo_root) || h.get F.timSnapCtl_state == 1 then stWrong else h.schedStatus
    let form : CmdForm := ⟨0x09, 0x1FF, 0, 0, .required, .timed⟩
    let st := h.cmdStatus c form range chk
    (h.countRefused st).command c form range chk (fun h _ =>
      let h := h.snapHold t tag apiary
      (if apiary then h.treeDown.foldl (fun h k => h.sendLink k (bcastMsg 1 tag t)) h else h, some 0)))

/-- The registers of the items of a unit, in item-code order; `none` for an item the unit does not have (R250). -/
def Hive.snapItems (h : Hive) (kind u : Nat) : List (Option Nat) :=
  match kind with
  | 0 =>
    let c := (List.range 256).find? (fun c => h.flag (F.fbcCtl_en c) && h.get (F.fbcCtl_stream c) == u)
    [some (R.rteStatus u), some (R.mtrRms u), some (R.mtrOut u), some (R.mtrPeak u), some (R.mtrLine u), some (R.gceG u),
      c.map R.fbcDepth, c.map R.fbcMargin, some (R.npmStat u), some (R.smkCause u)]
  | 1 => [some (R.laneStat u), some (R.laneCwCorr u), some (R.laneCwUncorr u), some (R.laneDlyUp u), some (R.laneDlyDn u)]
  | 2 => [some (R.cgActLo u), some (R.cgActHi u), some (R.cgStat u)]
  | _ =>
    if h.flag (F.ugtCtl_en u) then [some (R.ugtReport u), some (R.ugtActive u), some (R.ugtStat u)] else [none, none, none]

/-- The act bit of each slot of a group: its stream is RAMP_UP, LIVE or RAMP_DOWN and the slot is not dropped (R42). -/
def Hive.cgAct (h : Hive) (g : Nat) : Nat :=
  h.image.foldl (fun m n =>
    let st := h.st n
    if st = stRampUp ∨ st = stLive ∨ st = stRampDown then
      (List.range 4).foldl (fun m d =>
        let w := h.dest n d
        if srcKind w = 3 ∧ srcA w = g ∧ !bitOf (h.gget g).dropped (srcB w) then setBit m (srcB w) true else m) m
    else m) 0

/-- A register's word for the capture, with the act bits computed (R43). -/
def Hive.snapWord (h : Hive) (a : Nat) : Word :=
  if 0x224000 ≤ a ∧ a < 0x225000 ∧ (a % 16 = 4 ∨ a % 16 = 8) then
    BitVec.ofNat 32 (h.cgAct ((a - 0x224000) / 16) / 2 ^ (if a % 16 = 4 then 0 else 32))
  else h.rd a

/-- The units of a kind that the capture visits. -/
def Hive.snapUnits (h : Hive) (kind : Nat) : List Nat :=
  match kind with
  | 0 => h.image
  | 1 => List.range 144
  | _ => List.range 256

/-- The values of every unit as they stand at the end of cycle T (R250). -/
def Hive.snapTake (h : Hive) : Hive :=
  let put := fun (m : Tbl Word) (k u : Nat) =>
    ((h.snapItems k u).foldl (fun (p : Tbl Word × Nat) (a : Option Nat) =>
      (Tbl.put (fun _ => 0x8000) p.1 (k * 65536 + u * 16 + p.2)
        (match a with | some a => h.snapWord a | none => 0x8000), p.2 + 1)) (m, 0)).1
  let m := [0, 1, 2, 3].foldl (fun m k => (h.snapUnits k).foldl (fun m u => put m k u) m) []
  -- the GTC at which each sleeping comb went to sleep, beside what can be read (R22)
  { h with
    snap := (List.range 64).foldl (fun m c =>
      let p := h.get (F.wrkCombStat_power c)
      if p = 1 ∨ p = 2 then
        let g := (Tbl.get (fun _ => CombSt.init) h.combs c).sleptGtc
        Tbl.put (fun _ => 0x8000) (Tbl.put (fun _ => 0x8000) m (2 ^ 24 + c * 16) (BitVec.ofNat 32 g)) (2 ^ 24 + c * 16 + 1)
          (BitVec.ofNat 32 (g / 2 ^ 32))
      else m) m }

/-- A patch of this instant or before has still to take effect (R249, R250). -/
def Hive.patchDue (h : Hive) : Bool :=
  h.sched.any (fun o => match o.kind with | .patchAct _ => decide (o.t ≤ h.gtc) | _ => false)

/-- SNAPSHOT_CAPTURE: at T, after a patch of the same cycle; time_suspect in SUSPECT or HOLDOVER here or on the path (R250, R251). -/
def execSnapshotCapture (s : State) : Host.Outcome State Fault Refusal :=
  s.upd (fun h =>
    if h.due .snapshot && !h.patchDue then
      let st := h.get F.timStat_state
      let sus := st == 3 || st == 4 || bitOf h.timeFlags 1 || bitOf h.timeFlags 2
      let h := (h.unsched .snapshot).snapTake
      ((h.set F.timSnapCtl_state 2).setFlag F.timSnapCtl_time_suspect sus).setIrq 4
    else h)

/-- A snapshot that does not take place shows missed (R249, R251). -/
def Hive.snapMiss (h : Hive) : Hive := (h.set F.timSnapCtl_state 3).setIrq 4

/-- BCAST_RECEIVED: snapshot, open barrier or abort barrier, relayed towards the leaves (R247, R249). -/
def execBcastReceived (op : Byte) (arg : Byte) (tLow : Word) (s : State) : Host.Outcome State Fault Refusal :=
  s.upd (fun h =>
    let h := h.treeDown.foldl (fun h k => h.sendLink k (bcastMsg op.toNat arg.toNat tLow.toNat)) h
    match op.toNat with
    | 1 =>
      let t := h.fullT tLow.toNat
      if t ≤ h.gtc then (h.set F.timSnapCtl_tag arg.toNat).snapMiss.raise 0x0E 0x07 0x5 1 0
      else if h.schedFull then h.bump F.timSched_refused 1
      else (h.unsched .snapshot).snapHold t arg.toNat true
    | 2 => (h.barOpen (arg.toNat % 64) (arg.toNat / 64) true none).barCheck (arg.toNat % 64)
    | 3 => if h.get (F.timWagStat_state (arg.toNat % 64)) = 1 then h.barEnd (arg.toNat % 64) 3 (tLow.toNat % 65536) else h
    | _ => h)

/-- FAULT_MESSAGE_RECEIVED: a note of the same class with the remote mark, its origin and its stamp (R248, R352); the message goes
on over the tree's other links, so that every hive has it. -/
def execFaultMessageReceived (k : LinkId) (origin : Fin 16) (cls : Fin 256) (cause : Fin 256) (level : Fin 6) (stamp : Nat)
    (s : State) : Host.Outcome State Fault Refusal :=
  s.upd (fun h =>
    let msg := mgmtFrame 0x42 0 ([origin.val, cls.val, level.val] ++ leBytes stamp 8)
    let h := (h.treeLinks.filter (fun x => x != k.val)).foldl (fun h x => h.sendLink x msg) h
    let h := h.record cls.val cause.val 0x5 0 0 false
    match h.fltFind cls.val cause.val 0x5 with
    | some i =>
      let r := h.flt i
      (h.setFlt i { r with remote := true, origin := origin.val, last := stamp, first := if r.count = 1 then stamp else r.first }).settle
    | none => h.settle)

end Sys2Proof.Machine
end

