-- ==== Sys2Proof/Machine/Lanes.lean ====
section
/-! DEFINITION. The lanes: link states of every mode, RLF and Rygayth codewords, delay measurement with the equalisation
that follows it, spares and fallback maps, retrain and eye scan (R59 to R61, R63 to R65, R72 to R89, R435). -/

namespace Sys2Proof.Machine

/-- Lane states (R89). -/
def lnOff : Nat := 0
def lnDown : Nat := 1
def lnTrain : Nat := 2
def lnCw : Nat := 3
def lnMf : Nat := 4
def lnConfirm : Nat := 5
def lnDeskew : Nat := 6
def lnUp : Nat := 7

/-- A lane's mode: 0 off, 1 CONV, 2 ETH, 3 RLF, 4 RYG. -/
def Hive.lmode (h : Hive) (l : Nat) : Nat := h.get (F.laneCtl_mode l)
/-- A lane's state. -/
def Hive.lstate (h : Hive) (l : Nat) : Nat := h.get (F.laneStat_state l)

/-- True when a source word reads lane `l`: by itself, by the working lane it carries or is spare for, or by its link. -/
def Hive.reads (h : Hive) (l w : Nat) : Bool :=
  let sp := Tbl.get (fun _ => none) h.spares l
  if srcKind w = 1 then
    srcA w == l || sp == some (srcA w) || h.carrier (srcA w) == l ||
      (match h.convOf (srcA w) with | some k => k.lanes.contains l | none => false)
  else if srcKind w = 4 then h.linkOf l == some (srcA w) || sp == some (256 + srcA w)
  else false

/-- The streams of a lane are looked at again, and so are the barriers that wait for lanes or need the upstream link (R53,
R245, R246). -/
def Hive.laneChanged (h : Hive) (l : Nat) : Hive := ((h.srcEvalAll (fun w => h.reads l w)).barCheckAll).barOrphan

/-- A lane that was replaced is UP again: it is the new spare, and the one in use is the working lane (R86, R89). -/
def Hive.repaired (h : Hive) (l : Nat) : Hive :=
  match Tbl.get (fun _ => none) h.spares l with
  | none => h
  | some w =>
    match (if w < 256 then [h.carrier w] else h.linkLanes (w - 256)).find? (fun s => h.flag (F.laneStat_spare_active s)) with
    | none => h
    | some s => ((h.setFlag (F.laneStat_spare_active s) false).setFlag (F.laneCtl_spare s) false).setFlag (F.laneCtl_spare l) true

/-- The samples that wait for a lane's codewords are lost when it stops sending (R72, R80). -/
def Hive.txDrop (h : Hive) (l : Nat) : Hive :=
  { h with txq := h.txq.filter (fun e => e.1 / 4096 != l && (match h.linkOf l with
      | some k => e.1 / 4096 != 0x100 + k
      | none => true)) }

/-- A lane enters a state. Entries into TRAIN are counted; the search counters start afresh; leaving UP raises LANE cause
0x03 unless a retrain or mode change takes it (R80, R85); reaching UP ends causes 0x02 and 0x03, and a measurement must
complete anew (R89). -/
def Hive.laneGo (h : Hive) (l new : Nat) (quiet : Bool) : Hive :=
  let old := h.lstate l
  let h := h.set (F.laneStat_state l) new
  let h := if new = lnTrain then h.bump (F.laneStat_retrains l) 1 else h
  let st := h.lget l
  let h := h.lset l { st with run := 0, fails := 0, clean := 0, msgOn := false, msg := [], dlyWait := st.dlyWait && new == lnUp }
  let h := if new < lnCw ∧ 3 ≤ h.lmode l then h.txDrop l else h
  if old = lnUp ∧ new ≠ lnUp then
    let h := if quiet then h else h.raiseSC 0x01 0x03 (srcNoLane l) 2 0
    h.laneChanged l
  else if new = lnUp ∧ old ≠ lnUp then
    let h := (h.setFlag (F.laneDlyUp_valid l) false).setFlag (F.laneDlyDn_valid l) false
    let h := (h.condEnd 0x01 0x03 (srcNoLane l)).condEnd 0x01 0x02 (srcNoLane l)
    let h := (h.repaired l).laneChanged l
    match h.maintOf 2 l with
    | some i => h.maintEnd i 0 0 stOk
    | none => h
  else h

/-- LANE_SIGNAL_DETECT: DOWN is left for TRAIN, or for CW_SEARCH in CONV mode, which has no training (R80, R435). -/
def execLaneSignalDetect (l : LaneId) (s : State) : Host.Outcome State Fault Refusal :=
  s.upd (fun h =>
    if h.lmode l.val != 0 && h.lstate l.val == lnDown then
      h.laneGo l.val (if h.lmode l.val = 1 then lnCw else lnTrain) false
    else h)

/-- LANE_TRAINING_COMPLETE: TRAIN is left for CW_SEARCH. -/
def execLaneTrainingComplete (l : LaneId) (s : State) : Host.Outcome State Fault Refusal :=
  s.upd (fun h => if h.lstate l.val = lnTrain then h.laneGo l.val lnCw false else h)

/-- LANE_TRAIN_TIMEOUT: TRAIN is left for DOWN, with LANE cause 0x02 at L2 until the lane is UP. -/
def execLaneTrainTimeout (l : LaneId) (s : State) : Host.Outcome State Fault Refusal :=
  s.upd (fun h =>
    if h.lstate l.val = lnTrain then (h.laneGo l.val lnDown false).raiseSC 0x01 0x02 (srcNoLane l.val) 2 0 else h)

/-- LANE_LOSS_OF_SIGNAL: loss of signal for 1 us takes any lane that is on to DOWN. -/
def execLaneLossOfSignal (l : LaneId) (s : State) : Host.Outcome State Fault Refusal :=
  s.upd (fun h => if h.lmode l.val != 0 && h.lstate l.val != lnOff then h.laneGo l.val lnDown false else h)

/-! ## CONV and ETH (R63 to R65, R435) -/

/-- CONV_SYNC_HEADER_LOCK: CW_SEARCH is left for MF_SEARCH. -/
def execConvSyncHeaderLock (l : LaneId) (s : State) : Host.Outcome State Fault Refusal :=
  s.upd (fun h => if h.lmode l.val = 1 ∧ h.lstate l.val = lnCw then h.laneGo l.val lnMf false else h)

/-- CONV_MULTIBLOCK_ALIGNED: MF_SEARCH is left for UP. -/
def execConvMultiblockAligned (l : LaneId) (s : State) : Host.Outcome State Fault Refusal :=
  s.upd (fun h => if h.lmode l.val = 1 ∧ h.lstate l.val = lnMf then h.laneGo l.val lnUp false else h)

/-- CONV_SYNC_LOSS: from UP the lane goes to DOWN in the cycle of the declaration (R65); a lock lost in MF_SEARCH returns
to CW_SEARCH (R435). -/
def execConvSyncLoss (l : LaneId) (s : State) : Host.Outcome State Fault Refusal :=
  s.upd (fun h =>
    if h.lmode l.val = 1 ∧ h.lstate l.val = lnUp then h.laneGo l.val lnDown false
    else if h.lmode l.val = 1 ∧ h.lstate l.val = lnMf then h.laneGo l.val lnCw false else h)

/-- CONV_CRC12_ERROR: counted, with LANE cause 0x01 at L1, while the lane is UP (R65, R81). -/
def execConvCrc12Error (l : LaneId) (s : State) : Host.Outcome State Fault Refusal :=
  s.upd (fun h =>
    if h.lmode l.val = 1 ∧ h.lstate l.val = lnUp then
      let st := h.lget l.val
      ((h.lset l.val { st with unc := st.unc + 1 }).bump (F.laneCwUncorr_count l.val) 1).raise 0x01 0x01 (srcNoLane l.val) 1 0
    else h)

/-- The period of a JESD204C link's extended multiblock clock in ticks, as a fraction: E multiblocks of 32 blocks of 66 bits at
the line rate (R63). -/
def Hive.lemcTicks (h : Hive) (k : ConvLink) : Nat × Nat :=
  (k.e * 32 * 66 * 98304, 10 * h.get (F.laneCtl_rate (k.lanes.headD 0)))

/-- Where a link's extended multiblock clock stands in its period, in units of one over the fraction's denominator: it starts at
the SYSREF edge (R63). -/
def Hive.lemcPhase (h : Hive) (k : ConvLink) : Nat :=
  let p := h.lemcTicks k
  (h.ticks - h.sysref) * p.2 % p.1

/-- SYSREF_EDGE: the local extended multiblock clocks of the CONV links are aligned to the edge (R63). -/
def execSysrefEdge (s : State) : Host.Outcome State Fault Refusal := s.upd (fun h => { h with sysref := h.ticks })

/-- ETH_LOCK_ACQUIRED: CW_SEARCH is left for UP. -/
def execEthLockAcquired (l : LaneId) (s : State) : Host.Outcome State Fault Refusal :=
  s.upd (fun h => if h.lmode l.val = 2 ∧ h.lstate l.val = lnCw then h.laneGo l.val lnUp false else h)

/-- ETH_LOCK_LOSS: UP is left for CW_SEARCH. -/
def execEthLockLoss (l : LaneId) (s : State) : Host.Outcome State Fault Refusal :=
  s.upd (fun h => if h.lmode l.val = 2 ∧ h.lstate l.val = lnUp then h.laneGo l.val lnCw false else h)

/-! ## Samples that arrive (R54, R75) -/

/-- A source word for a lane channel and for a link channel. -/
def laneSrc (l ch : Nat) : Nat := 1 + l * 16 + ch * 4096
def linkSrc (k ch : Nat) : Nat := 4 + k * 16 + ch * 4096

/-! ## RLF and RYG codewords (R72 to R84) -/

/-- CRC-16 of a codeword: polynomial 0x1021, initial value 0xFFFF, over bits p0-p5123 in transmit order (R73). -/
def cwCrc (p : Nat) : Nat := crcBits 16 0x1021 0xFFFF ((List.range 5124).map (fun i => bitOf p i))

/-- The CRC-16 field, sent least significant bit first. -/
def cwCrcField (p : Nat) : Nat := bitsOf p 5124 16

/-- A codeword that decodes: corrected or clean, CRC-16 good, type 0x1 or 0x2 (R74, R80). -/
def cwGood (p : Nat) (uncorr : Bool) : Bool :=
  !uncorr && cwCrc p == cwCrcField p && (bitsOf p 20 4 == 1 || bitsOf p 20 4 == 2)

/-- The lane whose maps and channels lane `l` carries: the working lane whose carrier it is, and for a spare the lane it stands
by for (R86). -/
def Hive.workingOf (h : Hive) (l : Nat) : Nat :=
  match h.carry.find? (fun e => e.2 == l + 1) with
  | some e => e.1
  | none =>
    match Tbl.get (fun _ => none) h.spares l with
    | some w => if w < 256 then w else (h.linkLanes (w - 256)).headD l
    | none => l

/-- Lane `l` stands by as a spare and carries idle slots (R86). -/
def Hive.standsBy (h : Hive) (l : Nat) : Bool := (Tbl.get (fun _ => none) h.spares l).isSome

/-- A channel map of lane `l`. -/
def Hive.mapOf (h : Hive) (l m : Nat) : List Nat := Tbl.get (fun _ => ([] : List Nat)) h.maps (h.workingOf l * 4 + m)

/-- Map `m` of lane `l` is held (R76). -/
def Hive.mapHeld (h : Hive) (l m : Nat) : Bool := !(h.mapOf l m).isEmpty

/-- The samples of block `b` of a payload, with the overrange bit of R107. -/
def cwBlock (p b : Nat) : List Sample :=
  (fmtBUnpack (bitsOf p (80 + 388 * b) 388)).map (fun x =>
    ⟨x.1, x.2, decide (x.1.natAbs ≥ 32752) || decide (x.2.natAbs ≥ 32752)⟩)

/-- Sixteen zero samples. -/
def zeroBlock : List Sample := List.replicate 16 Sample.zero

/-- The slot number of block `b` in codeword `idx`: by the link's codeword number on RYG (R75, R82). -/
def Hive.slotOf (h : Hive) (l idx b : Nat) : Nat :=
  match h.linkOf l with
  | some k => (idx * (h.linkLanes k).length + h.get (F.laneStat_link_pos l)) * 13 + b
  | none => idx * 13 + b

/-- The 13 blocks of a codeword reach their channels by the map in force: zero for a failed codeword, or throughout a multiframe
whose map is not held, whose channels are those of the map last held (R75, R76, R81). -/
def Hive.cwBlocks (h : Hive) (l idx p : Nat) (fail : Bool) : Hive :=
  if h.standsBy l then h
  else
    let st := h.lget l
    let map := h.mapOf l st.mapUse
    (List.range 13).foldl (fun h b =>
      let ch := map.getD (h.slotOf l idx b) 4096
      if ch ≥ 4096 then h
      else
        h.deliver (match h.linkOf l with | some k => linkSrc k ch | none => laneSrc (h.workingOf l) ch)
          (if fail || !st.mapOk then zeroBlock else cwBlock p b)) h

/-- The control fragment: start, end, count and bytes assemble messages; a whole one with a body of at most 1,016 bytes and a
good CRC-32 is kept as the lane's last message (R77). A count of 6 or 7, which R77 does not allow, is read as 5. -/
def LaneSt.fragment (st : LaneSt) (p : Nat) : LaneSt :=
  let start := bitOf p 32
  let fin := bitOf p 33
  let cnt := bitsOf p 34 3
  let bs := (List.range (min cnt 5)).map (fun i => bitsOf p (40 + 8 * i) 8)
  let buf := if start then bs else st.msg ++ bs
  if !start && !st.msgOn then st
  else if !fin then { st with msgOn := true, msg := buf }
  else
    let st := { st with msgOn := false, msg := [] }
    let n := buf.length
    if 8 ≤ n ∧ n ≤ 1024 ∧ leNat ((buf.drop 2).take 2) + 8 = n ∧ leNat (buf.drop (n - 4)) = crc32 (buf.take (n - 4)) then
      { st with msgLast := buf.take (n - 4) }
    else st

/-- A spare takes over the traffic of the working lane or link position that is lost, map and position included; the lost lane
stands by from then on. LANE cause 0x07 at L2 (R86). A map change that is due starts with the spare. -/
def Hive.spareTake (h : Hive) (l w : Nat) (lost : Nat) : Hive :=
  let key := if w < 256 then w else lost
  let due := h.due (.mapChange key)
  let old := h.lget lost
  let next := (h.lget key).mapNext
  let h := if due then h.unsched (.mapChange key) else h
  let h : Hive := { h with
    spares := Tbl.put (fun _ => none) (Tbl.put (fun _ => none) h.spares l none) lost (some w)
    carry := if w < 256 then Tbl.put (fun _ => 0) h.carry w (if l = w then 0 else l + 1) else h.carry
    links := if w < 256 then h.links
      else Tbl.put (fun _ => []) h.links (w - 256) ((h.linkLanes (w - 256)).map (fun x => if x = lost then l else x))
    maps := if w < 256 then h.maps
      else (List.range 4).foldl (fun m i =>
        Tbl.put (fun _ => []) m (l * 4 + i) (Tbl.get (fun _ => []) h.maps (lost * 4 + i))) h.maps
    sched := if w < 256 then h.sched
      else h.sched.map (fun o => if o.kind = .mapChange lost then { o with kind := .mapChange l } else o) }
  let h := (h.setFlag (F.laneStat_spare_active lost) false).setFlag (F.laneStat_spare_active l) true
  let h := (h.set (F.laneStat_link_pos l) (h.get (F.laneStat_link_pos lost))).set (F.laneStat_map_id l) (h.get (F.laneStat_map_id lost))
  let h := h.lset l { h.lget l with
    txMap := if due then next else old.txMap, mapNext := if w < 256 then (h.lget l).mapNext else next, mapUse := old.mapUse, mapOk := true }
  (h.raise 0x01 0x07 (srcNoLane l) 2 0).laneChanged l

/-- The lane that a spare of `w` would replace: the carrier of a working lane, or the first lane of a link for which `p` holds. -/
def Hive.lostLane (h : Hive) (w : Nat) (p : Nat → Bool) : Option Nat :=
  (if w < 256 then [h.carrier w] else h.linkLanes (w - 256)).find? p

/-- The header of a good codeword in UP (R74): rdi with LANE cause 0x05 at L1 while it lasts, the far end's state, and at
codeword 0 the map of the multiframe (R76, R81). A far end that sends UP and data on a spare has taken it over, and this end
follows (R86): for a link, at the position that the header names. -/
def Hive.cwHeader (h : Hive) (l p : Nat) : Hive :=
  let rdi := bitOf p 7
  let was := h.flag (F.laneStat_rdi_rx l)
  let h := h.setFlag (F.laneStat_rdi_rx l) rdi
  let h := if rdi && !was then h.raiseSC 0x01 0x05 (srcNoLane l) 1 0
    else if was && !rdi then h.condEnd 0x01 0x05 (srcNoLane l) else h
  let h := h.lset l { h.lget l with
    farState := bitsOf p 16 2, farPos := bitsOf p 10 3, farLanes := bitsOf p 13 3, farUrgent := bitsOf p 24 8 }
  let h := match Tbl.get (fun _ => none) h.spares l with
    | some w =>
      if bitsOf p 16 2 = 2 ∧ bitsOf p 80 5044 ≠ 0 then
        match h.lostLane w (fun x => decide (w < 256) || h.get (F.laneStat_link_pos x) == bitsOf p 10 3) with
        | some x => h.spareTake l w x
        | none => h
      else h
    | none => h
  if bitsOf p 0 7 = 0 then
    let m := bitsOf p 8 2
    let ok := h.mapHeld l m
    let st := h.lget l
    let h := (h.set (F.laneStat_map_id l) m).lset l { st with mapOk := ok, mapUse := if ok then m else st.mapUse, mfTick := h.ticks }
    if ok then h else h.raise 0x01 0x09 (srcNoLane l) 1 0
  else h

/-- A codeword received in UP (R80, R81). -/
def Hive.cwUp (h : Hive) (l p : Nat) (good : Bool) (symErr : Nat) : Hive :=
  let st := h.lget l
  let idx := bitsOf p 0 7
  if good && idx == st.idx then
    let h := h.lset l { st.fragment p with idx := (idx + 1) % 128, fails := 0, sym := st.sym + symErr }
    let h := if symErr > 0 then (h.bump (F.laneCwCorr_count l) 1).bump (F.laneSymErr_count l) symErr else h
    (h.cwHeader l p).cwBlocks l idx p false
  else
    let h := h.lset l { st with idx := (st.idx + 1) % 128, fails := st.fails + 1, unc := st.unc + 1, msgOn := false, msg := [] }
    let h := (h.bump (F.laneCwUncorr_count l) 1).cwBlocks l st.idx p true
    if st.fails + 1 ≥ 8 then h.laneGo l lnCw false else h

/-- Codeword 0 of two lanes arrives within the deskew window, by its place in the 6,144 ticks of a multiframe (R84). -/
def inWindow (a b : Nat) : Bool := decide ((a + 6144 - b % 6144) % 6144 ≤ 768) || decide ((b + 6144 - a % 6144) % 6144 ≤ 768)

/-- A lane in DESKEW has seen codeword 0. When every lane of its link waits in DESKEW or is UP, and codeword 0 of all of them lies
within the window, those that wait are UP; else the lane stays, with LANE at L2 (R80, R84). -/
def Hive.deskew (h : Hive) (l : Nat) : Hive :=
  let ls := match h.linkOf l with
    | some k => h.linkLanes k
    | none => [l]
  let ts := ls.map (fun x => (h.lget x).mfTick)
  if ls.all (fun x => h.lstate x == lnDeskew || h.lstate x == lnUp) then
    if ts.all (fun a => ts.all (fun b => inWindow a b)) then
      (ls.filter (fun x => h.lstate x == lnDeskew)).foldl (fun h x => h.laneGo x lnUp false) h
    else h.raise 0x01 0x06 (srcNoLane l) 2 0
  else h

/-- A codeword received outside UP (R80): four good ones in sequence, codeword 0 with a map that is held, a further
multiframe without a failure, and on RYG the deskew. -/
def Hive.cwSearch (h : Hive) (l p : Nat) (good : Bool) : Hive :=
  let st := h.lget l
  let idx := bitsOf p 0 7
  let next := (idx + 1) % 128
  let seq := good && idx == st.idx
  let state := h.lstate l
  if state = lnCw then
    if !good then h.lset l { st with run := 0 }
    else
      let run := if seq && st.run > 0 then st.run + 1 else 1
      let h := h.lset l { st with run := run, idx := next }
      if run ≥ 4 then (h.laneGo l lnMf false).lset l { (h.lget l) with run := 0, idx := next } else h
  else if !seq then h.laneGo l lnCw false
  else
    let h := h.lset l { st with idx := next, mfTick := if idx = 0 then h.ticks else st.mfTick }
    if state = lnMf then
      let m := bitsOf p 8 2
      if idx == 0 && h.mapHeld l m then
        let h := (h.laneGo l lnConfirm false).set (F.laneStat_map_id l) m
        h.lset l { h.lget l with idx := next, clean := 0, mapOk := true, mapUse := m }
      else h
    else if state = lnConfirm then
      let h := h.lset l { h.lget l with clean := st.clean + 1 }
      if st.clean + 1 ≥ 128 then
        if h.lmode l = 4 then
          let h := h.laneGo l lnDeskew false
          (h.lset l { h.lget l with idx := next }).deskew l
        else
          let h := h.laneGo l lnUp false
          h.lset l { h.lget l with idx := next }
      else h
    else if idx = 0 then h.deskew l
    else h

/-- An FEC codeword of an ETH lane in UP, corrected or uncorrectable, is counted (R81). -/
def Hive.ethFec (h : Hive) (l : Nat) (uncorr : Bool) (symErr : Nat) : Hive :=
  let st := h.lget l
  if uncorr then (h.lset l { st with unc := st.unc + 1 }).bump (F.laneCwUncorr_count l) 1
  else if symErr > 0 then
    ((h.lset l { st with sym := st.sym + symErr }).bump (F.laneCwCorr_count l) 1).bump (F.laneSymErr_count l) symErr
  else h

/-- RLF_CODEWORD_RECEIVED: a codeword decoded whole on an RLF or RYG lane (R72 to R84); on an ETH lane, an FEC codeword whose
errors are counted (R81). -/
def execRlfCodewordReceived (l : LaneId) (payload : Nat) (uncorr : Bool) (symErr : Nat) (s : State) :
    Host.Outcome State Fault Refusal :=
  s.updIn (fun h =>
    let st := h.lstate l.val
    let good := cwGood payload uncorr
    if h.lmode l.val < 3 then (if h.lmode l.val = 2 ∧ st = lnUp then h.ethFec l.val uncorr symErr else h)
    else if st = lnUp then h.cwUp l.val payload good symErr
    else if lnCw ≤ st ∧ st ≤ lnDeskew then h.cwSearch l.val payload good
    else h)

/-- A word of a lane's record in the recorder (R362, R364). -/
def laneRec (l o : Nat) : Nat := 0x4580 + 32 * l + o

/-- A recorder word. -/
def Hive.kget (h : Hive) (o : Nat) : Word := Tbl.get (fun _ => 0) h.keeper o
/-- The block with a recorder word written. -/
def Hive.kput (h : Hive) (o : Nat) (v : Nat) : Hive := { h with keeper := Tbl.put (fun _ => 0) h.keeper o (BitVec.ofNat 32 v) }

/-- A record's generation word advances by a whole update (R365). -/
def Hive.kgen (h : Hive) (o : Nat) : Hive := h.kput o ((h.kget o).toNat + 2)

/-- A maximum with its GTC in a lane record: replaced only by a larger count. -/
def Hive.kmax (h : Hive) (o v : Nat) : Hive :=
  if (h.kget o).toNat < v then ((h.kput o v).kput (o + 4) h.gtc).kput (o + 8) (h.gtc / 2 ^ 32) else h

/-- A lane record after a 1 s window (R364); a frozen recorder takes no update (R366). -/
def Hive.laneExtremes (h : Hive) (l : Nat) : Hive :=
  if h.areasFrozen then h
  else
    let st := h.lget l
    let h := (h.kput (laneRec l 4) (((h.kget (laneRec l 4)).toNat / 256) * 256 + l)).kmax (laneRec l 8) (min st.sym (2 ^ 32 - 1))
    (h.kmax (laneRec l 0x14) (min st.unc (2 ^ 32 - 1))).kgen (laneRec l 0)

/-- BER_WINDOW_END: a 1 s window ends: degraded with LANE cause 0x04 at L1 above the threshold, clear below it; the
recorder's extremes (R81, R364). -/
def execBerWindowEnd (l : LaneId) (s : State) : Host.Outcome State Fault Refusal :=
  s.upd (fun h =>
    let st := h.lget l.val
    let thr := h.get (F.laneBerCtl_threshold l.val)
    let h := if h.laneUp l.val || decide (st.sym + st.unc > 0) then h.laneExtremes l.val else h
    let h :=
      if st.sym > thr then (h.setFlag (F.laneStat_degraded l.val) true).raiseSC 0x01 0x04 (srcNoLane l.val) 1 0
      else if st.sym < thr then (h.setFlag (F.laneStat_degraded l.val) false).condEnd 0x01 0x04 (srcNoLane l.val)
      else h
    h.lset l.val { st with sym := 0, unc := 0 })

/-! ## Delay measurement and equalisation (R79, R45, R46, R54) -/

/-- DELAY_REQUEST_SEND: DLY_REQ with a new sequence on an RLF or RYG lane that is UP, unless interval is 0 (R79). -/
def execDelayRequestSend (l : LaneId) (s : State) : Host.Outcome State Fault Refusal :=
  s.upd (fun h =>
    if h.laneUp l.val && decide (h.lmode l.val ≥ 3) && h.get (F.laneDlyCtl_interval l.val) != 0 then
      let st := h.lget l.val
      let q := (st.dlySeq + 1) % 2 ^ 32
      (h.lset l.val { st with dlySeq := q, dlyT1 := h.gtc, dlyWait := true }).sendLink (256 + l.val)
        (mgmtFrame 1 0 (leBytes q 4))
    else h)

/-- DLY_REQ_RECEIVED: as far end on RYG the hive answers with its turnaround and A = 0 (R79). The turnaround is a free
value: the spec states no number for it. -/
def execDlyReqReceived (l : LaneId) (seq : Word) (s : State) : Host.Outcome State Fault Refusal :=
  s.upd (fun h =>
    if h.lmode l.val = 4 ∧ h.laneUp l.val then
      let (t, h) := h.draw
      h.sendLink (256 + l.val) (mgmtFrame 2 0 (leBytes seq.toNat 4 ++ leBytes t 4 ++ leBytes 0 2))
    else h)

/-- A measured target for the store delay: two consecutive measurements must differ from the delay in force; a need beyond
the buffer is held at its largest delay, with cause 5 (R46). -/
def Hive.eqMeasured (h : Hive) (top : Nat) (p : Nat × Nat) : Hive :=
  let n := p.1
  if h.flag (F.steDelay_eq_auto n) then
    let d := h.eqNeed top p
    let cap := (h.get (F.steBufUnits_buf_units n) - 1) * 128
    let st := h.sget n
    let want := min d cap
    let cur := h.delayNow n
    let h := h.sset n { st with eqWant := want, eqDiff := if want = cur then 0 else st.eqDiff + 1 }
    if d > cap then (h.setFlag (F.rteStatus_eq_clamped n) true).sitOn 5 n
    else if h.flag (F.rteStatus_eq_clamped n) then (h.setFlag (F.rteStatus_eq_clamped n) false).sitOff 5 n
    else h
  else h

/-- A set is equalised again after a measurement (R45, R46). -/
def Hive.eqSet (h : Hive) (set : List (Nat × Nat)) : Hive :=
  let top := h.latMax set
  set.foldl (fun h' p => (h'.setFit (F.rteStatus_resid p.1) (h.eqResidue top p)).eqMeasured top p) h

/-- True when a member's latency counts lane `l`'s measurement. -/
def Hive.usesLane (h : Hive) (l : Nat) (p : Nat × Nat) : Bool :=
  h.endLane (h.srcNow p.1) == some l || h.endLane (h.dest p.1 p.2) == some l

/-- Every set that counts lane `l` is equalised again: combine groups, then alignment sets. -/
def Hive.eqLane (h : Hive) (l : Nat) : Hive :=
  let sets := (List.range 256).map (fun g => h.groupMembers g) ++ (List.range 127).map (fun a => h.asetMembers (a + 1))
  (sets.filter (fun s => s.any (fun p => h.usesLane l p))).foldl (fun h s => h.eqSet s) h

/-- The arrival of a source at its ingress buffer, in units of 2^-64 tick (R54). -/
def Hive.arrive64 (h : Hive) (n w : Nat) : Nat :=
  let m := match h.endLane w with
    | some l => h.get (F.laneDlyUp_ticks l)
    | none => 0
  (m + 16) * tick64 + h.srcHop64 n w + h.cross64 n w

/-- True when the lane or link of a source has measured (R54). -/
def Hive.measured (h : Hive) (w : Nat) : Bool :=
  match h.endLane w with
  | some l => h.flag (F.laneDlyUp_valid l)
  | none => false

/-- The ingress delays that both measurements ask for; the image's values stand until both have measured (R54). -/
def Hive.ingressMeasured (h : Hive) (n : Nat) : Hive :=
  let a := h.srcWord n false
  let b := h.srcWord n true
  if h.measured a && h.measured b then
    let ta := h.arrive64 n a
    let tb := h.arrive64 n b
    let unit := rateTicks (h.get (F.steSlice_src_rate n)) * tick64
    let want := (roundEvenN (tb - ta) unit, roundEvenN (ta - tb) unit)
    let st := h.sget n
    let cap := h.get (F.steInMax_in_max n)
    let now := (h.get (F.steInDly_in_pri n), h.get (F.steInDly_in_alt n))
    -- measurements in a row that ask for the same new value
    let run := if (min want.1 cap, min want.2 cap) = now then 0 else if want = st.inWant then st.inDiff + 1 else 1
    (h.sset n { st with inWant := want, inDiff := run }).standbyEval n
  else h

/-- DELAY_RESPONSE_RECEIVED: a response to the latest request gives M_up and M_dn, and equalisation is recomputed (R79, R44
to R46, R54). A sequence that does not match is discarded. -/
def execDelayResponseReceived (l : LaneId) (seq : Word) (tTa : Word) (asym : Int) (s : State) :
    Host.Outcome State Fault Refusal :=
  s.upd (fun h =>
    let st := h.lget l.val
    if st.dlyWait && st.dlySeq == seq.toNat && decide (h.gtc ≤ st.dlyT1 + Config.msTicks) then
      let rtt : Int := (h.gtc : Int) - st.dlyT1 - tTa.toNat
      let h := h.lset l.val { st with dlyWait := false }
      -- a negative or too large delay has no stated value
      let fit := fun (h : Hive) (f : RF) (v : Int) =>
        if 0 ≤ v ∧ v < 2 ^ 24 then h.set f v.toNat else let (w, h) := h.draw; h.set f w
      let h := (fit h (F.laneDlyUp_ticks l.val) (roundEven (rtt + asym) 2)).setFlag (F.laneDlyUp_valid l.val) true
      let h := (fit h (F.laneDlyDn_ticks l.val) (roundEven (rtt - asym) 2)).setFlag (F.laneDlyDn_valid l.val) true
      let h := h.eqLane l.val
      (h.image.filter (fun n => srcKind (h.get (F.steAlt_alt n)) != 0 &&
        (h.endLane (h.srcWord n false) == some l.val || h.endLane (h.srcWord n true) == some l.val))).foldl
          (fun h n => h.ingressMeasured n) h
    else h)

/-- DELAY_RESPONSE_TIMEOUT: no response within 1 ms; the previous values stand (R79). -/
def execDelayResponseTimeout (l : LaneId) (s : State) : Host.Outcome State Fault Refusal :=
  s.upd (fun h => h.lset l.val { h.lget l.val with dlyWait := false })

/-- MANAGEMENT_MESSAGE_RECEIVED: a whole message of type 0x10-0x3F goes to the receive ring, with type and tag (R78, R395);
other types are handled by their own rows or discarded. -/
def execManagementMessageReceived (l : LaneId) (msg : List Byte) (s : State) : Host.Outcome State Fault Refusal :=
  s.upd (fun h =>
    let m := msg.map (fun b => b.toNat)
    let ok := h.laneUp l.val && mgmtType (m.headD 0)
    match h.lmode l.val with
    | 3 => if ok then h.rxPut l.val 1 m h.gtc 0 0 else h
    | 4 => if ok then (match h.linkOf l.val with | some k => h.rxPut k 2 m h.gtc 0 0 | none => h) else h
    | _ => h)

/-! ## Maps, spares, fallback (R76, R86, R87) -/

/-- A multiframe starts at this GTC (R72). -/
def Hive.mfStart (h : Hive) : Bool := h.gtc % 6144 == 0

/-- CHANNEL_MAP_CHANGE: the transmit map changes at the first multiframe boundary (GTC mod 6,144 = 0) at or after its
activation GTC (R76). -/
def execChannelMapChange (l : LaneId) (s : State) : Host.Outcome State Fault Refusal :=
  s.upd (fun h =>
    if h.due (.mapChange l.val) && h.mfStart then
      let p := h.carrier l.val
      (h.unsched (.mapChange l.val)).lset p { h.lget p with txMap := (h.lget l.val).mapNext }
    else h)

/-- SPARE_TAKEOVER: at a multiframe boundary a spare that is UP takes over the working lane that left UP (R86). -/
def execSpareTakeover (l : LaneId) (s : State) : Host.Outcome State Fault Refusal :=
  s.upd (fun h =>
    match Tbl.get (fun _ => none) h.spares l.val with
    | none => h
    | some w =>
      match h.lostLane w (fun x => !h.laneUp x) with
      | some x => if h.mfStart && h.laneUp l.val then h.spareTake l.val w x else h
      | none => h)

/-- The lanes of a link that are UP share it by its fallback map from now on (R87). -/
def Hive.fallBack (h : Hive) (k : Nat) : Hive :=
  let m := Tbl.get (fun _ => 0) h.fallbacks k - 1
  let left := (h.linkLanes k).filter (fun x => h.laneUp x)
  let h : Hive := { h with
    links := Tbl.put (fun _ => []) h.links k left, fellBack := Tbl.put (fun _ => false) h.fellBack k true }
  let h := left.foldl (fun h l =>
    (h.set (F.laneStat_map_id l) m).lset l { h.lget l with txMap := m, mapUse := m, mapOk := h.mapHeld l m }) h.linkPos
  h.srcEvalAll (fun w => srcKind w == 4 && srcA w == k)

/-- LINK_FALLBACK_MAP: at a multiframe boundary a link without a spare that lost a lane switches to its fallback map for N - 1
lanes; streams absent from it take cause 0 (R87). -/
def execLinkFallbackMap (k : LinkId) (s : State) : Host.Outcome State Fault Refusal :=
  s.upd (fun h => if h.mfStart && h.canFallBack k.val && decide ((h.linkLost k.val).length = 1) then h.fallBack k.val else h)

/-! ## Retrain and eye scan (R85, R88) -/

/-- A retrain begins: TRAIN, or DOWN for a CONV lane (R85). -/
def Hive.retrainStart (l : Nat) (h : Hive) (_ : Nat) : Hive :=
  h.laneGo l (if h.lmode l = 1 then lnDown else lnTrain) true

/-- A patch that changes a lane's mode or rate takes effect on the lane: it is powered down, or retrains from this instant (R61). -/
def Hive.lanePatch (h old : Hive) (l : Nat) : Hive :=
  let same := h.lmode l == old.lmode l && h.flag (F.laneCtl_pam4 l) == old.flag (F.laneCtl_pam4 l) &&
    h.get (F.laneCtl_rate l) == old.get (F.laneCtl_rate l)
  if same then h else if h.lmode l = 0 then h.laneGo l lnOff true else h.retrainStart l 0

/-- Every lane after a patch. -/
def Hive.lanesPatch (h old : Hive) : Hive := (List.range 144).foldl (fun h l => h.lanePatch old l) h

/-- The status of a retrain: WRONG_STATE for a lane that is off (R85). -/
def Hive.retrainChk (h : Hive) (l : Nat) : Nat := if h.lmode l = 0 then stWrong else stOk

/-- LANE_RETRAIN: maintenance activity 0x2 (R85, R388). -/
def execLaneRetrain (c : CmdEntry) (s : State) : Host.Outcome State Fault Refusal :=
  s.upd (fun h =>
    let l := argBits c.a0 4 12
    h.maintStart c 2 none (decide (l < 144)) (h.retrainChk l) (Hive.retrainStart l))

/-- RETRAIN_DEADLINE: not UP 600 ms after the start, or at the end of the training limits: result failed (R85). -/
def execRetrainDeadline (l : LaneId) (s : State) : Host.Outcome State Fault Refusal :=
  s.upd (fun h =>
    match h.maintOf 2 l.val with
    | some i => if h.laneUp l.val then h else h.maintEnd i 1 0 stOk
    | none => h)

/-- A scan begins: busy (R89). -/
def Hive.eyeStart (l : Nat) (h : Hive) (_ : Nat) : Hive := h.setFlag (F.laneEyeCtl_busy l) true

/-- The status of a scan: WRONG_STATE while the lane is not UP (R88). -/
def Hive.eyeChk (h : Hive) (l : Nat) : Nat := if h.laneUp l then stOk else stWrong

/-- LANE_EYE_SCAN: maintenance activity 0x1 (R88, R388). -/
def execLaneEyeScan (c : CmdEntry) (s : State) : Host.Outcome State Fault Refusal :=
  s.upd (fun h =>
    let l := argBits c.a0 4 12
    h.maintStart c 1 none (decide (l < 144)) (h.eyeChk l) (Hive.eyeStart l))

/-- EYE_SCAN_COMPLETE: width and height of the error-free region; done and not busy (R88, R89). -/
def execEyeScanComplete (l : LaneId) (width : Fin 65) (height : Fin 129) (s : State) : Host.Outcome State Fault Refusal :=
  s.upd (fun h =>
    match h.maintOf 1 l.val with
    | some i =>
      let h := (h.set (F.laneEyeRes_width l.val) width.val).set (F.laneEyeRes_height l.val) height.val
      ((h.setFlag (F.laneEyeCtl_busy l.val) false).hwSet (F.laneEyeCtl_done l.val)).maintEnd i 0 0 stOk
    | none => h)

/-- The checks of a write to LANE.DLY_CTL, BER_CTL or EYE_CTL: BUSY_MAINT while a scan is busy; eye 0-2 (0 on NRZ), dwell
10-31 (R89). -/
def Hive.laneCtlChk (a : Nat) (h : Hive) (v : Nat) : Nat :=
  let l := (a - 0x100000) / 0x1000
  let o := (a - 0x100000) % 0x1000
  let eye := v % 4
  if o = 0x28 ∧ (eye = 3 ∨ (eye ≠ 0 ∧ !h.flag (F.laneCtl_pam4 l)) ∨ bitsOf v 2 5 < 10) then stBadArg
  else if h.flag (F.laneEyeCtl_busy l) then stBusy else stOk

end Sys2Proof.Machine
end

