-- ==== Sys2Proof/Machine/Ethernet.lean ====
section
/-! DEFINITION. ETH lanes: eCPRI ingress with its playout buffers, egress, and the frames passed to the host (R66 to R70,
R395). -/

namespace Sys2Proof.Machine

/-- The block with an eCPRI channel's hidden state replaced. -/
def Hive.ethSet (h : Hive) (l ch : Nat) (st : EthSt) : Hive :=
  { h with eth := Tbl.put (fun _ => EthSt.init) h.eth (l * 4096 + ch) st }

/-- A frame dropped on a lane and counted (R66). -/
def Hive.ethDrop (h : Hive) (l : Nat) : Hive := h.lset l { h.lget l with drops := (h.lget l).drops + 1 }

/-- A received component: -32,768 becomes -32,767 (R35, R107). -/
def ethComp (v : Int) : Int := if v < -32767 then -32767 else v

/-- A received sample: overrange when a component has magnitude 32,767 or came as -32,768 (R107). -/
def ethSample (p : Int × Int) : Sample :=
  let i := ethComp p.1
  let q := ethComp p.2
  ⟨i, q, decide (i.natAbs ≥ 32767) || decide (q.natAbs ≥ 32767)⟩

/-- The messages at the front of the buffer that are present leave it in order (R68); `f` bounds how many. -/
def Hive.ethPlay (h : Hive) (l ch : Nat) : Nat → Hive
  | 0 => h
  | f + 1 =>
    let st := h.ethGet l ch
    match st.held.find? (fun p => p.1 == st.next) with
    | none => h
    | some (q, xs) =>
      let st := { st with next := (st.next + 1) % 256, held := st.held.filter (fun p => p.1 != q) }
      ((h.ethSet l ch st).deliver (laneSrc l ch) xs).ethPlay l ch f

/-- Cause 0's situation of a channel that had fallen silent ends with a message (R68). -/
def Hive.ethAlive (h : Hive) (l ch : Nat) : Hive :=
  if (h.ethGet l ch).down then
    (h.ethSet l ch { h.ethGet l ch with down := false }).srcEvalAll (fun w => w == laneSrc l ch)
  else h

/-- A message placed in the playout buffer by its sequence number (R68): the first fixes the index; a second copy is
discarded; one declared missing is late; one more than 128 ahead resynchronises the channel. -/
def Hive.ethPlace (h : Hive) (l ch q : Nat) (xs : List Sample) : Hive :=
  let st := h.ethGet l ch
  let recent := (q :: st.seen).take 128
  if !st.on then
    (h.ethSet l ch { st with on := true, next := q, want := (q + 1) % 256, held := [(q, xs)], seen := [q] }).ethPlay l ch 1
  else if st.seen.any (fun x => x == q) then h
  else if st.gone.any (fun x => x == q) then h.bump (F.laneDrop_late l) 1
  else
    let waiting := decide ((q + 256 - st.next) % 256 < (st.want + 256 - st.next) % 256)
    let ahead := (q + 256 - st.want) % 256
    if waiting then (h.ethSet l ch { st with held := st.held ++ [(q, xs)], seen := recent }).ethPlay l ch 256
    else if ahead ≤ 128 then
      (h.ethSet l ch { st with want := (q + 1) % 256, held := st.held ++ [(q, xs)], seen := recent }).ethPlay l ch 256
    else
      let h := h.ethSet l ch { st with next := q, want := (q + 1) % 256, held := [(q, xs)], seen := [q], gone := [] }
      let h := h.deliver (laneSrc l ch) (List.replicate st.depth Sample.zero)
      (h.ethPlay l ch 1).raise 0x01 0x08 (srcNoLane l) 1 0

/-- ECPRI_IQ_MESSAGE_RECEIVED: PC_ID[15:12] must be 0, the channel must be one of the image's and carry its number of
samples; any other message is dropped (R67, R68). -/
def execEcpriIqMessageReceived (l : LaneId) (pcid : Fin 65536) (seq : Fin 256) (samples : List (Int × Int)) (s : State) :
    Host.Outcome State Fault Refusal :=
  s.updIn (fun h =>
    let ch := pcid.val % 4096
    let st := h.ethGet l.val ch
    if h.lmode l.val ≠ 2 ∨ !h.laneUp l.val then h
    else if pcid.val ≥ 4096 ∨ st.spm = 0 ∨ samples.length ≠ st.spm then h.ethDrop l.val
    else (h.ethAlive l.val ch).ethPlace l.val ch seq.val (samples.map ethSample))

/-- ECPRI_PLAYOUT_MISSING: a message not there at its playout time: its samples are zero, and it is counted (R68). -/
def execEcpriPlayoutMissing (l : LaneId) (ch : Fin 4096) (s : State) : Host.Outcome State Fault Refusal :=
  s.updIn (fun h =>
    let st := h.ethGet l.val ch.val
    if st.on then
      let st' := { st with
        next := (st.next + 1) % 256, gone := (st.next :: st.gone).take 128
        want := if st.next = st.want then (st.want + 1) % 256 else st.want
        seen := st.seen.filter (fun x => x != (st.next + 128) % 256) }
      let h := (h.ethSet l.val ch.val st').deliver (laneSrc l.val ch.val) (List.replicate st.spm Sample.zero)
      (h.bump (F.laneDrop_missing l.val) 1).ethPlay l.val ch.val 256
    else h)

/-- ECPRI_CHANNEL_TIMEOUT: no message for 64 message periods: cause 0 for the streams of the channel (R68). -/
def execEcpriChannelTimeout (l : LaneId) (ch : Fin 4096) (s : State) : Host.Outcome State Fault Refusal :=
  s.upd (fun h =>
    let st := h.ethGet l.val ch.val
    if st.on then
      (h.ethSet l.val ch.val { st with down := true }).srcEvalAll (fun w => w == laneSrc l.val ch.val)
    else h)

/-- Two's-complement 16 bits in network byte order. -/
def be16 (v : Int) : List Nat := let u := twos 16 v; [u / 256, u % 256]

/-- ECPRI_MESSAGE_TRANSMIT: the samples of a message have come: it is sent with the channel, the next sequence number and
I then Q of each sample in network byte order (R67, R68). -/
def execEcpriMessageTransmit (l : LaneId) (ch : Fin 4096) (s : State) : Host.Outcome State Fault Refusal :=
  s.upd (fun h =>
    let st := h.ethGet l.val ch.val
    let q := Tbl.get (fun _ => ([] : List Sample)) h.txq (l.val * 4096 + ch.val)
    if h.lmode l.val == 2 && st.spm != 0 && decide (st.spm ≤ q.length) then
      let h : Hive := { h with txq := Tbl.put (fun _ => []) h.txq (l.val * 4096 + ch.val) (q.drop st.spm) }
      (h.ethSet l.val ch.val { st with txSeq := (st.txSeq + 1) % 256 }).sendLink (256 + l.val)
        ([0x10, 0x00, ch.val / 256, ch.val % 256, st.txSeq] ++ (q.take st.spm).flatMap (fun x => be16 x.i ++ be16 x.q))
    else h)

/-- A frame passed to the host through the receive ring, from an ETH lane that is UP (R66, R69, R70, R395). -/
def Hive.ethToHost (h : Hive) (l kind : Nat) (frame : List Byte) (frac : Nat) : Hive :=
  if h.lmode l = 2 ∧ h.laneUp l then h.rxPut l kind (frame.map (fun b => b.toNat)) h.gtc frac 0 else h

/-- ECPRI_RTC_MESSAGE_RECEIVED: eCPRI type 2 goes to the host (R69). -/
def execEcpriRtcMessageReceived (l : LaneId) (frame : List Byte) (frac : Fin 65536) (s : State) :
    Host.Outcome State Fault Refusal :=
  s.upd (fun h => h.ethToHost l.val 3 frame frac.val)

/-- PTP_FRAME_RECEIVED: stamped and passed to the host (R70). -/
def execPtpFrameReceived (l : LaneId) (frame : List Byte) (frac : Fin 65536) (s : State) : Host.Outcome State Fault Refusal :=
  s.upd (fun h => h.ethToHost l.val 4 frame frac.val)

/-- ESMC_FRAME_RECEIVED: passed to the host (R66). -/
def execEsmcFrameReceived (l : LaneId) (frame : List Byte) (frac : Fin 65536) (s : State) : Host.Outcome State Fault Refusal :=
  s.upd (fun h => h.ethToHost l.val 6 frame frac.val)

/-- ETH_FRAME_DROPPED: a frame of another Ethertype or message type is dropped and counted (R66). -/
def execEthFrameDropped (l : LaneId) (s : State) : Host.Outcome State Fault Refusal := s.upd (fun h => h.ethDrop l.val)

end Sys2Proof.Machine
end

