-- ==== Sys2Proof/Machine/Sieve.lean ====
section
/-! DEFINITION. Sieve banks: blocks of 512 samples, sub-band samples with their taint, the tile accumulators and the spectral
windows, starts and restarts (R108, R110 to R116, R123, R164). -/

namespace Sys2Proof.Machine

/-- I^2 + Q^2. -/
def power (x : Sample) : Nat := (x.i * x.i + x.q * x.q).toNat
/-- I^2 + Q^2 of a sub-band sample's value. -/
def subPower (v : Int × Int) : Nat := (v.1 * v.1 + v.2 * v.2).toNat

/-- A sample whose value the spec does not determine, saturated: its sat16 form and whether the clamp was met. -/
def Hive.drawSample (h : Hive) : Hive × Int × Int × Bool :=
  let (i, q) := Config.freeSample h.free
  ({ h with free := h.free + 1 }, sat16 i, sat16 q, satHit i || satHit q)

/-- A sieve bank's hidden state. -/
def Hive.sieveGet (h : Hive) (b : Nat) : BankSt := Tbl.get (fun _ => BankSt.init) h.sieve b
/-- The block with a sieve bank's hidden state replaced. -/
def Hive.sieveSet (h : Hive) (b : Nat) (st : BankSt) : Hive := { h with sieve := Tbl.put (fun _ => BankSt.init) h.sieve b st }

/-- A bank that fills or restarts delivers zeros (R114). -/
def Hive.sieveFills (h : Hive) (b : Nat) : Bool := h.get (F.sivStat_state b) == 1 || h.get (F.sivStat_state b) == 3

/-- A bank starts in a state: 4,096 stream samples of zeros, and no window or tile goes on (R114). -/
def Hive.sieveStart (h : Hive) (b state : Nat) : Hive :=
  let st := h.sieveGet b
  (h.set (F.sivStat_state b) state).sieveSet b { st with fill := 4096, bfill := true }

/-- Ticks of a bank's stream sample (R110). -/
def Hive.sieveTicks (h : Hive) (b : Nat) : Nat := rateTicks (h.get (F.sivCtl_rate b))

/-- The 512 values of a sub-band sample. They are free: the spec does not give the prototype's coefficients. -/
def Hive.subValues (h : Hive) : List (Int × Int) × Hive :=
  ((List.range 512).map (fun k => let v := Config.freeSample (h.free + k); (sat16 v.1, sat16 v.2)), { h with free := h.free + 512 })

/-- 512 zeros. -/
def subZeros : List (Int × Int) := List.replicate 512 (0, 0)

/-- Sums over sub-bands, where none listed counts as zeros. -/
def sumsAdd (a p : List Nat) : List Nat := if a.isEmpty then p else List.zipWith (· + ·) a p

/-- The stream whose spectral meters read bank `b` (R117, R123). -/
def Hive.specStream (h : Hive) (b : Nat) : Option Nat :=
  let n := h.get (F.sivCtl_stream b)
  if h.flag (F.mtrCtl_spec_en n) && h.get (F.mtrCtl_spec_bank n) == b then some n else none

/-- A sub-band sample enters the open spectral window; the last of 2^w closes it (R123). -/
def BankSt.window (st : BankSt) (w : Nat) (p : List Nat) (bad : Bool) : BankSt :=
  if st.wskip then { st with wskip := false }
  else
    let sum := sumsAdd st.wsum p
    let bad := st.wbad || bad
    if st.wn + 1 = 2 ^ w then
      { st with wsum := [], wn := 0, wbad := false, wdone := some ⟨!bad, w, sum⟩, wmeter := true, wtrk := true }
    else { st with wsum := sum, wn := st.wn + 1, wbad := bad }

/-- A window that spec_w changes is dropped: the next one starts with the next block (R123). -/
def BankSt.windowAnew (st : BankSt) : BankSt :=
  { st with wsum := [], wn := 0, wbad := false, wskip := decide (st.cnt > 0), wdone := none, wmeter := false, wtrk := false }

/-- A block of an analysis bank is whole: its sub-band sample is zero while the bank fills, and tainted if any input sample of its
window of 4,096 is (R108, R114). It goes to the tile accumulators, the spectral window and the bank's group. -/
def Hive.sieveBlock (h : Hive) (b : Nat) : Hive :=
  let st := h.sieveGet b
  let taint := decide (st.clean < 4096)
  let (v, h) := if st.bfill then (subZeros, h) else h.subValues
  let p := v.map subPower
  let tile := st.blk * (512 * h.sieveTicks b) / 32768
  let same := decide (st.accTile = tile)
  let st := { st with
    cnt := 0, acc := if same then sumsAdd st.acc p else p, accTile := tile
    accTaint := (same && st.accTaint) || taint, accFill := (same && st.accFill) || st.bfill }
  let st := match h.specStream b with
    | some n => st.window (h.get (F.mtrCtl_spec_w n)) p (taint || st.bfill)
    | none => st
  let h := h.sieveSet b st
  if h.flag (F.sivCtl_grouped b) then { h with subNew := h.subNew ++ [(b, ⟨st.blk, v, taint⟩)] } else h

/-- A stream sample enters an analysis bank. Blocks begin when GTC mod (512 x t_s) = 0 (R112); one that the bank has not seen from
its start is not delivered. -/
def Hive.sieveTake (h : Hive) (b : Nat) (x : Sample) : Hive :=
  if !h.flag (F.sivCtl_en b) || h.flag (F.sivCtl_mode b) then h
  else
    let st := h.sieveGet b
    let blk := h.gtc / (512 * h.sieveTicks b)
    let same := decide (blk = st.blk) && decide (st.cnt > 0)
    let fills := h.sieveFills b
    let st := { st with
      blk := blk, cnt := if same then st.cnt + 1 else 1, bfill := fills || (same && st.bfill)
      clean := if x.ovr then 0 else min 4096 (st.clean + 1), fill := st.fill - 1 }
    let h := h.sieveSet b st
    if st.cnt = 512 then h.sieveBlock b else h

/-- The analysis bank through which stream `n` enters group `g` (R40, R116). -/
def Hive.analysisOf (h : Hive) (g n : Nat) : Option Nat :=
  (List.range 512).find? (fun b =>
    h.flag (F.sivCtl_en b) && !h.flag (F.sivCtl_mode b) && h.flag (F.sivCtl_grouped b) && h.get (F.sivCtl_group b) == g &&
      h.get (F.sivCtl_stream b) == n)

/-- A bank restarts: it delivers zeros for 4,096 stream samples (R114); its stream's windows are invalid until then (R135). -/
def Hive.bankRestart (h : Hive) (b : Nat) : Hive :=
  let h := (h.sieveStart b 3).bump (F.sivStat_restarts b) 1
  h.srcEvalAll (fun w => srcKind w == 2 && srcB w == b)

/-- SIEVE_FILL_END: one prototype length of zeros has been delivered, and the bank runs (R114). -/
def execSieveFillEnd (b : BankId) (s : State) : Host.Outcome State Fault Refusal :=
  s.upd (fun h =>
    if h.sieveFills b.val && decide ((h.sieveGet b.val).fill = 0) then
      (h.set (F.sivStat_state b.val) 2).srcEvalAll (fun w => srcKind w == 2 && srcB w == b.val)
    else h)

end Sys2Proof.Machine
end

