-- ==== Sys2Proof/Machine/Groups.lean ====
section
/-! DEFINITION. Destinations and combine groups: the adder in both domains, the gating delay line, and synthesis (R39 to R42, R45,
R108, R111, R114, R166, R167). -/

namespace Sys2Proof.Machine

/-! ## Destinations and combine groups (R39 to R42, R45) -/

/-- A sample handed to a lane or link channel: queued for an eCPRI message or a codeword's slot; a converter takes the latest
(R39). -/
def Hive.txPut (h : Hive) (key : Nat) (queue : Bool) (x : Sample) : Hive :=
  let old := Tbl.get (fun _ => ([] : List Sample)) h.txq key
  { h with txq := Tbl.put (fun _ => []) h.txq key (if queue then old ++ [x] else [x]) }

/-- The synthesis bank of a sub-band group (R111). -/
def Hive.synthOf (h : Hive) (g : Nat) : Option Nat :=
  (List.range 512).find? (fun b =>
    h.flag (F.sivCtl_en b) && h.flag (F.sivCtl_mode b) && h.get (F.sivCtl_group b) == g)

/-- A group's output reaches its readers, as source kind 0x3 or as its synthesis bank; a clamp sets ovr of each and counts
once (R41, R111). -/
def Hive.groupOut (h : Hive) (g : Nat) (x : Sample) (hit : Bool) : Hive :=
  let bank := h.synthOf g
  let mine := fun (w : Nat) => (srcKind w == 3 && srcA w == g) || (srcKind w == 2 && some (srcB w) == bank)
  let h :=
    if hit then
      ((h.image.filter (fun n => mine (h.srcNow n))).foldl (fun h n => h.hwSet (F.rteStatus_ovr n)) h).bump
        (F.cgStat_sat g) 1
    else h
  let h := h.deliver (3 + g * 16) [x]
  match bank with
  | some b => h.deliver (2 + b * 4096) [x]
  | none => h

/-- The sum of a time-domain group: exact sums, shift, saturation (R41). -/
def groupSum (shift : Nat) (xs : List Sample) : Int × Int :=
  (roundEven ((xs.map (fun x => x.i)).foldl (· + ·) 0) (2 ^ shift), roundEven ((xs.map (fun x => x.q)).foldl (· + ·) 0) (2 ^ shift))

/-- A time-domain group's output sample once every active slot has one waiting (R41, R42, R45). -/
def Hive.groupTry (h : Hive) (g : Nat) : Hive :=
  let gs := h.gget g
  let act := h.cgAct g
  let slots := gs.slots.filter (fun p => bitOf act p.1)
  if (List.range 64).all (fun i => !bitOf act i || slots.any (fun p => p.1 == i && !p.2.isEmpty)) then
    let xs := slots.map (fun p => p.2.headD Sample.zero)
    let h := h.gset g { gs with slots := slots.map (fun p => (p.1, p.2.drop 1)) }
    let (yi, yq) := groupSum (h.get (F.cgCtl_shift g)) xs
    h.groupOut g ⟨sat16 yi, sat16 yq, xs.any (fun x => x.ovr)⟩ (satHit yi || satHit yq)
  else h

/-- A sample waits at a slot of a group. -/
def GroupSt.push (gs : GroupSt) (slot : Nat) (x : Sample) : GroupSt :=
  if gs.slots.any (fun p => p.1 == slot) then
    { gs with slots := gs.slots.map (fun p => if p.1 = slot then (p.1, p.2 ++ [x]) else p) }
  else { gs with slots := gs.slots ++ [(slot, [x])] }

/-- A destination takes stream `n`'s samples: its die runs, or it is the stream's own die, whose smoker still ramps (R18). -/
def Hive.reaches (h : Hive) (n w : Nat) : Bool :=
  match h.endDie w with
  | some d => h.dieSt d == 2 || (d == h.home n && h.broodActs d)
  | none => true

/-- The slot of a group that paces it while none is active: the lowest that a stream feeds. -/
def Hive.lowestSlot (h : Hive) (g i : Nat) : Bool :=
  h.cgAct g == 0 && (h.groupMembers g).all (fun p => decide (i ≤ srcB (h.dest p.1 p.2)))

/-- A sample of stream `n` reaches one destination: zero on a lane or link that cannot be reached, nothing in a bank or group there;
a sub-band group is fed through the stream's analysis bank, and an inactive slot contributes nothing (R18, R39, R40, R42). -/
def Hive.toDest (h : Hive) (n w : Nat) (y : Sample) : Hive :=
  let ok := h.reaches n w
  let x := if ok then y else Sample.zero
  match if ok || srcKind w == 1 || srcKind w == 4 then srcKind w else 0 with
  | 1 =>
    -- control bits sent to a converter are 0 (R64)
    let conv := h.lmode (srcA w) == 1
    h.txPut (srcA w * 4096 + srcB w) (!conv) (if conv then { x with ovr := false } else x)
  | 2 => h.sieveTake (srcB w) x
  | 3 =>
    let g := srcA w
    if h.flag (F.cgCtl_domain g) then (match h.analysisOf g n with | some b => h.sieveTake b x | none => h)
    else if bitOf (h.cgAct g) (srcB w) then (h.gset g ((h.gget g).push (srcB w) x)).groupTry g
    -- with no slot active the adder gives a zero for each period of its first input (R41, R42, R45)
    else if h.lowestSlot g (srcB w) then h.groupTry g
    else h
  | 4 => h.txPut (0x100000 + srcA w * 4096 + srcB w) true x
  | _ => h

/-- Zero samples stand in place of what a lost die's streams no longer send (R18). -/
def Hive.zeroOut (h : Hive) (ns : List Nat) : Hive :=
  ns.foldl (fun h n => (List.range 4).foldl (fun h i => h.toDest n (h.dest n i) Sample.zero) h) h

/-! ## The sub-band domain (R40, R41, R108, R111, R114) -/

/-- One output sample of a synthesis bank: zero, or free where some sub-band sample of its window is not zero; the spec does not
give the prototype's coefficients. -/
def Hive.synthSample (h : Hive) (g : Nat) (zero taint : Bool) : Hive :=
  if zero then h.groupOut g ⟨0, 0, taint⟩ false
  else
    let (h, i, q, hit) := h.drawSample
    h.groupOut g ⟨i, q, taint⟩ hit

/-- A summed sub-band sample enters the group's synthesis bank, which puts out 512 samples: zeros while it fills, or when the
eight sub-band samples of the window are zero; tainted if one of them is (R108, R114). -/
def Hive.synthTake (h : Hive) (g : Nat) (v : List (Int × Int)) (taint : Bool) : Hive :=
  match h.synthOf g with
  | none => h
  | some b =>
    let st := h.sieveGet b
    let zeros := if v.all (fun x => x == (0, 0)) then min 8 (st.zeros + 1) else 0
    let tclean := if taint then 0 else min 8 (st.tclean + 1)
    let fills := h.sieveFills b
    let h := h.sieveSet b { st with zeros := zeros, tclean := tclean, fill := st.fill - 512 }
    (List.range 512).foldl (fun h _ => h.synthSample g (fills || zeros == 8) (decide (tclean < 8))) h

/-- The sum of sub-band samples: exact, shifted, saturated, by sub-band; and how many sub-bands were clamped (R41). -/
def subSum (shift : Nat) (xs : List (List (Int × Int))) : List (Int × Int) × Nat :=
  let ys := (List.range 512).map (fun k =>
    let vs := xs.map (fun v => v.getD k (0, 0))
    (roundEven ((vs.map (fun v => v.1)).foldl (· + ·) 0) (2 ^ shift), roundEven ((vs.map (fun v => v.2)).foldl (· + ·) 0) (2 ^ shift)))
  (ys.map (fun y => (sat16 y.1, sat16 y.2)), (ys.filter (fun y => satHit y.1 || satHit y.2)).length)

/-- The active slots' sub-band samples that wait, once each has one: those of the earliest block are summed (R40 to R42, R112). -/
def Hive.subTry (h : Hive) (g : Nat) : Hive :=
  let gs := h.gget g
  let act := h.cgAct g
  let qs := gs.sub.filter (fun p => bitOf act p.1 && !p.2.isEmpty)
  if act ≠ 0 ∧ (List.range 64).all (fun i => !bitOf act i || qs.any (fun p => p.1 == i)) then
    let heads := qs.flatMap (fun p => p.2.take 1)
    let first := heads.foldl (fun m x => min m x.blk) ((heads.map (fun x => x.blk)).headD 0)
    let now := heads.filter (fun x => x.blk == first)
    let (y, clamps) := subSum (h.get (F.cgCtl_shift g)) (now.map (fun x => x.v))
    let h := h.gset g { gs with
      sub := qs.map (fun p => (p.1, if (p.2.map (fun x => x.blk)).headD 0 = first then p.2.drop 1 else p.2)) }
    let h := if clamps = 0 then h
      else ((h.image.filter (fun n => h.groupBehind (h.srcNow n) == some g)).foldl (fun h n => h.hwSet (F.rteStatus_ovr n)) h).bump
        (F.cgStat_sat g) clamps
    h.synthTake g y (now.any (fun x => x.taint))
  else h

/-- A sub-band sample waits at a slot. -/
def GroupSt.subPush (gs : GroupSt) (slot : Nat) (x : SubBlk) : GroupSt :=
  if gs.sub.any (fun p => p.1 == slot) then
    { gs with sub := gs.sub.map (fun p => if p.1 = slot then (p.1, p.2 ++ [x]) else p) }
  else { gs with sub := gs.sub ++ [(slot, [x])] }

/-- A sub-band sample of slot `i` reaches the adder; an inactive slot contributes zero (R42). -/
def Hive.subIn (h : Hive) (g i : Nat) (x : SubBlk) : Hive :=
  if bitOf (h.cgAct g) i then (h.gset g ((h.gget g).subPush i x)).subTry g
  else if h.lowestSlot g i then h.synthTake g subZeros false
  else h

/-! ## The gating delay line (R163, R166, R167) -/

/-- The first byte of a bank's delay line, in the store of the group's die. -/
def Hive.lineAddr (h : Hive) (b : Nat) : Nat :=
  0x1000000 * (1 + h.get (F.sivCtl_group b) / 128) + 4 * Tbl.get (fun _ => 0) h.lineBase b

/-- The tile of a block (R163). -/
def Hive.tileOf (h : Hive) (b blk : Nat) : Nat := blk * (512 * h.sieveTicks b) / 32768

/-- The enables of a tile at a slot: those decided, or every in-band sub-band where no decision was made (R166, R170). -/
def Hive.enables (h : Hive) (g i tile : Nat) : Nat :=
  match (((Tbl.get (fun _ => UgtSt.init) h.ugt g).slots.getD i UgtSlot.init).ens.find? (fun e => e.1 == tile)) with
  | some e => e.2
  | none => (Tbl.get (fun _ => ([] : List Nat)) h.inband (4096 + g)).foldl (fun m k => setBit m k true) 0

/-- The values of a sub-band sample whose enables are 1 (R40). -/
def maskSub (mask : Nat) (v : List (Int × Int)) : List (Int × Int) :=
  ((List.range 512).zip v).map (fun x => if bitOf mask x.1 then x.2 else (0, 0))

/-- A sub-band sample written to a delay line at sample position `p` of its `len`, in the input's format (R47, R167). -/
def Mem.linePut (m : Mem) (a len p : Nat) (fmt : Bool) (v : List (Int × Int)) : Mem :=
  if fmt then
    (List.range 32).foldl (fun m c =>
      m.blockPut a ((p + 16 * c) % len / 16) (((v.drop (16 * c)).take 16).map (fun x => ⟨x.1, x.2, false⟩))) m
  else
    ((List.range 512).zip v).foldl (fun m x =>
      m.storePut (a + 4 * ((p + x.1) % len)) (leBytes (sampleWord ⟨x.2.1, x.2.2, false⟩) 4)) m

/-- The sub-band sample read from a delay line at a position. -/
def Mem.lineGet (m : Mem) (a len p : Nat) (fmt : Bool) : List (Int × Int) :=
  if fmt then (List.range 32).flatMap (fun c => m.blockGet a ((p + 16 * c) % len / 16))
  else (List.range 512).map (fun k =>
    let w := m.storeNat (a + 4 * ((p + k) % len)) 4
    (sext 16 w, sext 16 (w / 2 ^ 16)))

/-- A sub-band sample of a gated group's input enters the delay line; the one that entered d_g sub-band samples before leaves it
for the adder under the enables of its tile (R166). -/
def Hive.lineTake (h : Hive) (m : Mem) (b g i : Nat) (x : SubBlk) : Hive × Mem :=
  let st := h.sieveGet b
  let d := gateBlocks (h.get (F.sivCtl_rate b))
  let len := 128 * lineUnits (h.get (F.sivCtl_rate b))
  let fmt := h.flag (F.steDelay_fmt (h.get (F.sivCtl_stream b)))
  let a := h.lineAddr b
  let m := m.linePut a len (st.wr * 512 % len) fmt x.v
  let held := st.held ++ [(x.blk, x.taint)]
  match held with
  | old :: rest =>
    if held.length > d then
      let v := m.lineGet a len ((st.wr - d) * 512 % len) fmt
      let h := h.sieveSet b { st with wr := st.wr + 1, held := rest }
      (h.subIn g i ⟨old.1, maskSub (h.enables g i (h.tileOf b old.1)) v, old.2⟩, m)
    else (h.sieveSet b { st with wr := st.wr + 1, held := held }, m)
  | [] => (h, m)

/-- The input slot of a bank's stream in the bank's group. -/
def Hive.bankSlot (h : Hive) (b : Nat) : Option Nat :=
  let n := h.get (F.sivCtl_stream b)
  ((List.range 4).find? (fun d => srcKind (h.dest n d) == 3 && srcA (h.dest n d) == h.get (F.sivCtl_group b))).map (fun d =>
    srcB (h.dest n d))

/-- The sub-band samples that the analysis banks have delivered reach their groups, through the delay line where the group is
gated (R112, R161, R166). -/
def Hive.subFlow (h : Hive) (m : Mem) : Hive × Mem :=
  h.subNew.foldl (fun (r : Hive × Mem) e =>
    let h := r.1
    let g := h.get (F.sivCtl_group e.1)
    match h.bankSlot e.1 with
    | none => r
    | some i => if h.flag (F.ugtCtl_en g) then h.lineTake r.2 e.1 g i e.2 else (h.subIn g i e.2, r.2)) ({ h with subNew := [] }, m)

end Sys2Proof.Machine
end

