-- ==== Sys2Proof/Machine/Echo.lean ====
section
/-! DEFINITION. The signals of the feedback canceller: exact complex arithmetic, the estimate's block format, the samples it takes
and returns, the probe in the output and the reference (R140, R141, R147, R149). -/

namespace Sys2Proof.Machine

/-! ## Complex numbers as pairs of integers -/

def cAdd (a b : Int × Int) : Int × Int := (a.1 + b.1, a.2 + b.2)
def cMul (a b : Int × Int) : Int × Int := (a.1 * b.1 - a.2 * b.2, a.1 * b.2 + a.2 * b.1)
def cConj (a : Int × Int) : Int × Int := (a.1, -a.2)
def cScale (k : Int) (a : Int × Int) : Int × Int := (a.1 * k, a.2 * k)
/-- The square of the magnitude. -/
def cSq (a : Int × Int) : Nat := (a.1 * a.1 + a.2 * a.2).toNat
/-- Both parts divided, rounded half to even (R5). -/
def cRound (a : Int × Int) (d : Nat) : Int × Int := (roundEven a.1 d, roundEven a.2 d)
def cSum (xs : List (Int × Int)) : Int × Int := xs.foldl cAdd (0, 0)

/-- Samples and the probe carry 32 fraction bits. -/
def echoOne : Nat := 2 ^ 32

/-- exp(-2 pi i k / n) at the scale of `trigOne`, for even `n`. -/
def twiddle (k n : Nat) : Int × Int :=
  let a := 2 * (k % n)
  (cosPi a n, -cosPi ((a + 2 * n - n / 2) % (2 * n)) n)

/-- The discrete Fourier transform of `n` values, rounded to their own units. -/
def dft (n : Nat) (xs : List (Int × Int)) : List (Int × Int) :=
  let ws := (List.range n).map (fun k => twiddle k n)
  (List.range n).map (fun k =>
    cRound (cSum (((List.range n).zip xs).map (fun x => cMul x.2 (ws.getD (k * x.1 % n) (0, 0))))) trigOne)

/-- Its inverse. -/
def idft (n : Nat) (xs : List (Int × Int)) : List (Int × Int) :=
  let ws := (List.range n).map (fun k => cConj (twiddle k n))
  (List.range n).map (fun k =>
    cRound (cSum (((List.range n).zip xs).map (fun x => cMul x.2 (ws.getD (k * x.1 % n) (0, 0))))) (n * trigOne))

/-! ## The estimate (R141, R147) -/

/-- A partition's bins in units of 2^-151, from its exponent and mantissas. -/
def estVals (p : Nat × List (Int × Int)) : List (Int × Int) := p.2.map (fun m => cScale (2 ^ p.1 : Nat) m)

/-- Bins given as numerators over `d` in units of 2^-151, held with 24-bit mantissas under the smallest exponent of 8 bits that fits
them all, rounded half to even (R147). -/
def estPack (d : Nat) (xs : List (Int × Int)) : Nat × List (Int × Int) :=
  let fits := fun (e : Nat) => xs.all (fun c =>
    decide ((roundEven c.1 (d * 2 ^ e)).natAbs < 2 ^ 23) && decide ((roundEven c.2 (d * 2 ^ e)).natAbs < 2 ^ 23))
  let e := ((List.range 256).find? fits).getD 255
  (e, xs.map (fun c => let r := cRound c (d * 2 ^ e); (clampS 24 r.1, clampS 24 r.2)))

/-- In-band sub-bands and guard bands of a stream (R124). -/
def Hive.inbandOf (h : Hive) (n : Nat) : List Nat := Tbl.get (fun _ => ([] : List Nat)) h.inband n
def Hive.guardsOf (h : Hive) (n : Nat) : List (List Nat) := Tbl.get (fun _ => ([] : List (List Nat))) h.gbands n

/-- Block size B and partitions P of a canceller (R141). -/
def Hive.fbB (h : Hive) (c : Nat) : Nat := blkLen (h.get (F.fbcCtl_blk c))
def Hive.fbP (h : Hive) (c : Nat) : Nat := h.get (F.fbcCtl_parts c)

/-- Ticks of a canceller's block; it works at whole ticks per sample (R152). -/
def Hive.fbBlock (h : Hive) (c : Nat) : Nat :=
  let t := h.tOut (h.get (F.fbcCtl_stream c))
  h.fbB c * (t.1 / t.2)

/-- The FFT bins of a canceller that lie in the stream's in-band set: those nearest to one of its sub-bands (R124, R147). -/
def Hive.fbBins (h : Hive) (c : Nat) : List Nat :=
  let b := h.fbB c
  let inb := h.inbandOf (h.get (F.fbcCtl_stream c))
  (List.range (2 * b)).filter (fun k => inb.contains ((k + b / 512) / (2 * b / 512) % 512))

/-- Bins outside the in-band set are zero. -/
def bandOnly (bins : List Nat) (xs : List (Int × Int)) : List (Int × Int) :=
  ((List.range xs.length).zip xs).map (fun x => if bins.contains x.1 then x.2 else (0, 0))

/-- A bank swap on the stream: each in-band bin is multiplied by the ratio of the new set's response to the old set's (R149). -/
def Hive.fbSwap (h : Hive) (n : Nat) (corr : List (Int × Int)) : Hive :=
  match (List.range 256).find? (fun c => h.flag (F.fbcCtl_en c) && h.get (F.fbcCtl_stream c) == n) with
  | none => h
  | some c =>
    let st := h.cancGet c
    let est := st.est.map (fun p =>
      estPack (2 ^ 23) (((List.range p.2.length).zip (estVals p)).map (fun x => cMul x.2 (corr.getD x.1 (2 ^ 23, 0)))))
    h.cancSet c { st with est := if corr.isEmpty then st.est else est, swapAt := h.ticks + 1 }

/-! ## The path (R140, R142) -/

/-- A sample at the kernel input joins its block; the block before it waits for its step. -/
def EchoSt.take (e : EchoSt) (blk : Nat) (x : Sample) : EchoSt :=
  if blk = e.vblk ∧ !e.vcur.isEmpty then { e with vcur := e.vcur ++ [x] }
  else { e with
    vold := if e.vcur.isEmpty then e.vold else some (e.vblk, e.vcur, e.refN)
    vblk := blk, vcur := [x] }

/-- A canceller takes one sample and returns the one that entered B samples and 512 ticks before; zero and tainted where that block's
step has not been made (R140, R142, R222). -/
def Hive.fbPath (h : Hive) (c : Nat) (x : Sample) (tainted : Bool) : Hive × Sample × Bool :=
  let st := h.cancGet c
  let e := st.e.take (h.gtc / max 1 (h.fbBlock c)) { x with ovr := tainted }
  match e.outq with
  | r :: rest => (h.cancSet c { st with e := { e with outq := rest, pin := r.2 } }, r.1, r.1.ovr)
  | [] => (h.cancSet c { st with e := { e with pin := (0, 0) } }, Sample.zero, true)

/-- The canceller in a stream's path. -/
def Hive.fbOn (h : Hive) (n : Nat) : Option Nat :=
  let w := h.runsOn (h.get (F.steKern_kern_worker n))
  if h.flag (F.steKern_kern_en n) && !(h.sget n).bypass && h.kid w == 1 then some (h.instOf w) else none

/-- The probe that an output sample carries after stage 6: q = probe x m (R140). -/
def Hive.fbProbed (h : Hive) (n mg ms : Nat) : Hive :=
  match h.fbOn n with
  | none => h
  | some c =>
    let st := h.cancGet c
    let q := cRound (cScale ((mg * ms : Nat) : Int) st.e.pin) (2 ^ 31)
    h.cancSet c { st with e := { st.e with qout := (q :: st.e.qout).take (h.bufLen n + 32) } }

/-- The reference takes the sample that leaves the store, `back` samples after it was written, with the probe in it; the last D_b +
(P + 2) B are kept (R140, R147). -/
def Hive.fbRef (h : Hive) (n back : Nat) (y : Sample) : Hive :=
  match h.fbOn n with
  | none => h
  | some c =>
    let st := h.cancGet c
    let keep := h.get (F.fbcBulk_bulk c) + (h.fbP c + 2) * h.fbB c
    h.cancSet c { st with e := { st.e with
      ref := (((y.i, y.q), st.e.qout.getD back (0, 0)) :: st.e.ref).take keep, refN := st.e.refN + 1 } }

end Sys2Proof.Machine
end

