-- ==== Sys2Proof/Machine/Strainer.lean ====
section
/-! DEFINITION. Strainer slices: the six stages of a sample, overrange and taint, the store with its delay, and coefficient swaps
(R46 to R48, R90 to R109, R115). -/

namespace Sys2Proof.Machine

/-! ## Stages 1 to 3 -/

/-- A saturation in a half's stages: counted, and it sets ovr of the stream (R35, R115). -/
def Hive.satMark (h : Hive) (n s p : Nat) : Hive :=
  (h.hwSet (F.rteStatus_ovr n)).bump (F.strOvrCnt_sat s p) 1

/-- A = round_even(2 pi 2^(32-m)) (R93). -/
def dcAlpha (m : Nat) : Nat := roundEvenN (2 * trigPi * 2 ^ (32 - m)) trigOne

/-- The DC estimate after a sample: 32 fraction bits, the product rounded once (R93). -/
def dcNext (m : Nat) (d x : Int) : Int :=
  d + roundEven ((dcAlpha m : Int) * (x * (2 ^ 32 : Nat) - d)) (2 ^ 32)

/-- The sample less the DC estimate (R93), before saturation. -/
def dcOut (d x : Int) : Int := x - roundEven d (2 ^ 32)

/-- Stage 1: DC block with its freeze (R93, R94). -/
def Hive.stage1 (h : Hive) (n s p : Nat) (x : Sample) : Hive × Sample :=
  let hs := h.hget (2 * s + p)
  let m := h.get (F.strDcCtl_m s p)
  let h := if x.ovr then h.bump (F.strOvrCnt_in_ovr s p) 1 else h
  let auto := x.ovr || decide (hs.settleLeft > 0)
  let left := if x.ovr then h.get (F.strDcCtl_settle s p) - 1 else hs.settleLeft - 1
  let frozen := h.flag (F.strDcCtl_freeze s p) || auto
  let h := h.setFlag (F.strDcCtl_frozen s p) frozen
  if m = 0 then (h.hset (2 * s + p) { hs with settleLeft := left }, x)
  else
    let yi := dcOut hs.dI x.i
    let yq := dcOut hs.dQ x.q
    let hs := if frozen then hs else { hs with dI := dcNext m hs.dI x.i, dQ := dcNext m hs.dQ x.q }
    let h := h.hset (2 * s + p) { hs with settleLeft := left }
    let hit := satHit yi || satHit yq
    let h := if hit then h.satMark n s p else h
    (h, ⟨sat16 yi, sat16 yq, x.ovr || hit⟩)

/-- round_even(131,071 cos(2 pi f / 2^20)) for the 20 upper bits of a phase (R95). -/
def ncoCos (f : Nat) : Int := roundEven (131071 * cosPi f (2 ^ 19)) trigOne

/-- The sine of the same angle: the cosine a quarter turn earlier. -/
def ncoSin (f : Nat) : Int := ncoCos ((f + 3 * 2 ^ 18) % 2 ^ 20)

/-- Stage 2: NCO mixer; a frequency word of 0 holds the phase at 0 (R95). -/
def Hive.stage2 (h : Hive) (n s p : Nat) (x : Sample) : Hive × Sample :=
  let hs := h.hget (2 * s + p)
  let ftw := h.get (F.strNcoFtw_ftw s p)
  if ftw = 0 then (h.hset (2 * s + p) { hs with ph := 0 }, x)
  else
    let f := hs.ph / 2 ^ 12
    let c := ncoCos f
    let sn := ncoSin f
    let yi := roundEven (x.i * c - x.q * sn) (2 ^ 17)
    let yq := roundEven (x.i * sn + x.q * c) (2 ^ 17)
    let h := h.hset (2 * s + p) { hs with ph := (hs.ph + ftw) % 2 ^ 32 }
    let hit := satHit yi || satHit yq
    let h := if hit then h.satMark n s p else h
    (h, ⟨sat16 yi, sat16 yq, x.ovr || hit⟩)

/-- The output positions that fall before the next input: positions in UQ8.32, `f` bounds how many (R96). -/
def rsSteps (step : Nat) : Nat → Int → Nat × Int
  | 0, pos => (0, pos)
  | f + 1, pos =>
    if pos < 2 ^ 32 then
      let r := rsSteps step f (pos + step)
      (r.1 + 1, r.2)
    else (0, pos)

/-- Resampler outputs of free value; the first carries the overrange bit of the inputs since the last (R96, R108). -/
def Hive.rsOuts (h : Hive) (n s p : Nat) : Nat → Bool → Hive × List Sample
  | 0, _ => (h, [])
  | k + 1, bit =>
    let (h, i, q, hit) := h.drawSample
    let h := if hit then h.satMark n s p else h
    let (h, xs) := h.rsOuts n s p k false
    (h, ⟨i, q, bit || hit⟩ :: xs)

/-- Stage 3: j halvings, then one output for each step of the 40-bit position (R96). Which inputs give an output is exact;
the values are free, because the spec does not give the coefficients. -/
def Hive.stage3 (h : Hive) (n s p : Nat) (x : Sample) : Hive × List Sample :=
  let hs := h.hget (2 * s + p)
  if !h.flag (F.strRsCtl_active s p) then (h, [x])
  else
    let bit := hs.ovrBit || x.ovr
    let dec := hs.dec + 1
    if dec < 2 ^ h.get (F.strRsCtl_j s p) then (h.hset (2 * s + p) { hs with dec := dec, ovrBit := bit }, [])
    else
      let (k, pos) := rsSteps (h.rsStep s p) 4 hs.acc
      let h := h.hset (2 * s + p) { hs with dec := 0, acc := pos - 2 ^ 32, ovrBit := if k = 0 then bit else false }
      h.rsOuts n s p k bit

/-! ## Stage 4 (R99) -/

/-- The coefficient h_k of a set, folded or not (R99). -/
def coefTap (c : CoefSet) (k : Nat) : Int :=
  if c.sym then c.coefs.getD (min k (c.n - 1 - k)) 0 else c.coefs.getD k 0

/-- The exact sum of h_k x[n-k] over a delay line, newest first. -/
def firAcc (c : CoefSet) (line : List Int) : Int :=
  ((List.range c.n).map (fun k => coefTap c k * line.getD k 0)).foldl (· + ·) 0

/-- The set that a bank of a half holds: B for `true`. -/
def Hive.bankSet (h : Hive) (s p : Nat) (b : Bool) : CoefSet :=
  let hs := h.hget (2 * s + p)
  if b then hs.bankB else hs.bankA

/-- The active set of a half. -/
def Hive.activeSet (h : Hive) (s p : Nat) : CoefSet := h.bankSet s p (h.flag (F.strFirCtl_bank s p))

/-- The valid flag of bank `b` of a half. -/
def bankFlag (s p : Nat) (b : Bool) : RF := if b then F.strFirCtl_b_valid s p else F.strFirCtl_a_valid s p

/-- A READY patch names a swap of the half and activates no later than `t` (R101). -/
def Hive.patchSwaps (h : Hive) (i t : Nat) : Bool :=
  [0, 1, 2, 3].any (fun k =>
    match Tbl.get (fun _ => none) h.sys.patches k with
    | some q => h.get (F.imgPatchStat_state k) == 3 && q.file.body.swaps.contains i && decide (q.file.body.t ≤ t)
    | none => false)

/-- The bank of a half for an input sample at the present tick: it enters the FIR 16 ticks later, and a swap that is due by then
applies to it (R101). A patch due at the same instant goes first, and the swap acts on its banks (R102). -/
def Hive.bankFor (h : Hive) (s p : Nat) : Bool :=
  let i := 2 * s + p
  let b := h.flag (F.strFirCtl_bank s p)
  let b := if h.patchSwaps i (h.gtc + 16) then !b else b
  if h.sched.any (fun o => o.kind == SchedKind.bankSwap i && decide (o.t ≤ h.gtc + 16)) && h.flag (bankFlag s p (!b)) then !b else b

/-- Stage 4: channel FIR with the bank for this sample; bypassed with no taps. The flag tells a saturation, which taints only this
output (R99, R101, R107). -/
def Hive.stage4 (h : Hive) (n s p : Nat) (x : Sample) : Hive × Sample × Bool :=
  let hs := h.hget (2 * s + p)
  let line := ((x.i, x.q) :: hs.line).take 256
  let h := h.hset (2 * s + p) { hs with line := line }
  let b := h.bankFor s p
  let c := h.bankSet s p b
  if (if b == h.flag (F.strFirCtl_bank s p) then h.get (F.strFirCtl_taps s p) else c.n) = 0 then (h, x, false)
  else
    let yi := roundEven (firAcc c (line.map (fun v => v.1))) (2 ^ 17)
    let yq := roundEven (firAcc c (line.map (fun v => v.2))) (2 ^ 17)
    let hit := satHit yi || satHit yq
    let h := if hit then h.satMark n s p else h
    (h, ⟨sat16 yi, sat16 yq, x.ovr⟩, hit)

/-! ## Taint and stage 5 (R105, R107, R108) -/

/-- The taint of an output of the last slice: TAINT_LEN outputs after the last that carries the bit (R108). -/
def Hive.taintOf (h : Hive) (s p : Nat) (bit satFir : Bool) : Hive × Bool :=
  let left := h.get (F.strTaint_left s p)
  if bit then (h.set (F.strTaint_left s p) (h.get (F.strTaint_len s p)), true)
  else if left > 0 then (h.set (F.strTaint_left s p) (left - 1), true)
  else (h, satFir)

/-- One step of the envelope with 17 fraction bits, rounded half to even (R121). -/
def envStep (ka kd e p : Nat) : Nat :=
  let q := p * 2 ^ 17
  if q > e then e + roundEvenN (q - e) (2 ^ ka) else e - roundEvenN (e - q) (2 ^ kd)

/-- The samples that the peak over the latest 2^20 or fewer can be: `k` is the new one's number, and each listed one is stronger
than every later one (R119). -/
def peakPut (k p : Nat) (xs : List (Nat × Nat)) : List (Nat × Nat) :=
  (k, p) :: (xs.dropWhile (fun e => decide (e.2 ≤ p))).filter (fun e => decide (k < e.1 + 2 ^ 20))

/-- Stage 5: the moving-average window takes the sample, none for a tainted one; peak and envelope of the stream follow
the stage 4 output (R105, R119, R121). -/
def Hive.stage5 (h : Hive) (n s p : Nat) (x : Sample) (tainted lastOne : Bool) : Hive :=
  let hs := h.hget (2 * s + p)
  let h := h.hset (2 * s + p) { hs with win := ((if tainted then none else some (power x)) :: hs.win).take 4096 }
  if tainted || !lastOne then h
  else
    let st := h.sget n
    h.sset n { st with
      pkN := st.pkN + 1
      pk := peakPut (st.pkN + 1) (power x) st.pk
      env := envStep (h.get (F.mtrCtl_env_ka n)) (h.get (F.mtrCtl_env_kd n)) st.env (power x) }

/-! ## The kernel detour and stage 6 (R35, R106, R140, R222, R228, R229) -/

/-- Samples that PROBE delays its stream by: B and 512 ticks (R213). -/
def Hive.probeDelay (h : Hive) (n : Nat) : Nat :=
  let t := h.tOut n
  roundEvenN (h.kern64 n * t.2) (t.1 * tick64)

/-- PROBE takes a sample. -/
def Hive.probeFeed (h : Hive) (n w : Nat) (x : Sample) (tainted : Bool) : Hive :=
  h.wset w { h.wget w with path := ({ x with ovr := tainted } :: (h.wget w).path).take (h.probeDelay n + 1) }

/-- PROBE in a stream's path: the sample that entered B samples and 512 ticks before, with a probe added while it measures, whose
shape and level the spec does not give it: a free value (R213, R217). -/
def Hive.probePath (h : Hive) (n w : Nat) (x : Sample) (tainted : Bool) : Hive × Sample × Bool :=
  let k := h.wget w
  let y := ((x :: k.path)[h.probeDelay n]?).getD { Sample.zero with ovr := true }
  let h := h.probeFeed n w x tainted
  if k.meas then
    let (h, i, q, _) := h.drawSample
    let hit := satHit (y.i + i) || satHit (y.q + q)
    (if hit then h.hwSet (F.rteStatus_ovr n) else h, ⟨sat16 (y.i + i), sat16 (y.q + q), false⟩, y.ovr || hit)
  else (h, { y with ovr := false }, y.ovr)

/-- What the kernel in a stream's path returns while it works: a canceller's and PROBE's own sample; of a patch kernel a free one,
clamped by it (R35, R140, R217, R223). -/
def Hive.kernelPath (h : Hive) (n w : Nat) (x : Sample) (tainted : Bool) : Hive × Sample × Bool :=
  match h.fbOn n with
  | some c => h.fbPath c x tainted
  | none =>
    if h.kid w = 4 then h.probePath n w x tainted
    else
      let (h, i, q, hit) := h.drawSample
      (if hit then h.hwSet (F.rteStatus_ovr n) else h, ⟨i, q, false⟩, tainted || hit)

/-- A returned sample under the fade-in that follows a wake: the raised-cosine curve over len_up, tainted (R197, R229). -/
def Hive.fadeIn (h : Hive) (n : Nat) (y : Sample) (t : Bool) : Hive × Sample × Bool :=
  let st := h.sget n
  if st.fade = 0 then (h, y, t)
  else
    let m : Int := (Sys2Proof.Machine.rampUp 0 st.fadeLen (st.fadeLen - st.fade) : Nat)
    (h.sset n { st with fade := st.fade - 1 }, { y with i := roundEven (y.i * m) msFull, q := roundEven (y.q * m) msFull }, true)

/-- The sample that the kernel detour returns: zero and tainted on a missed block, while the kernel is lost, while its comb sleeps and
until it resumes at a step boundary after a wake (R35, R222, R228, R229). -/
def Hive.detour (h : Hive) (n : Nat) (x : Sample) (tainted : Bool) : Hive × Sample × Bool :=
  if !h.flag (F.steKern_kern_en n) || (h.sget n).bypass then (h, x, tainted)
  else
    let w := h.runsOn (h.get (F.steKern_kern_worker n))
    let k := h.wget w
    let p := h.get (F.wrkCombStat_power (w / 8))
    if p = 1 ∨ p = 2 ∨ (Tbl.get (fun _ => CombSt.init) h.combs (w / 8)).scrub ∨ k.zero > 0 ∨ k.lost ∨ h.ticks < k.resumeAt then
      let h := match h.fbOn n with
        | some c =>
          let h := (h.fbPath c x tainted).1
          h.cancSet c { h.cancGet c with e := { (h.cancGet c).e with pin := (0, 0) } }
        | none => if h.kid w = 4 then h.probeFeed n w x tainted else h
      (h.wset w { h.wget w with zero := k.zero - 1 }, Sample.zero, true)
    else
      let r := h.kernelPath n w x tainted
      r.1.fadeIn n r.2.1 r.2.2

/-- The smoker's multiplier advances by one output sample of a ramp (R197, R199). -/
def Hive.rampStep (h : Hive) (n : Nat) : Hive :=
  let st := h.sget n
  if h.st n = stRampUp ∨ h.st n = stRampDown then
    let pos := min (h.get (F.smkStat_pos n) + 1) st.len
    let ms := if h.st n = stRampUp then rampUp st.shape st.len pos else rampDown st.shape st.len pos
    (h.setMs n ms).set (F.smkStat_pos n) pos
  else h

/-- Stage 6's product, rounded once, before saturation (R106). -/
def gainOut (x : Int) (mg ms : Nat) : Int := roundEven (x * mg * ms) (2 ^ 31)

/-- Stage 6: gain and smoker; a saturation taints only this sample (R106, R107). -/
def Hive.stage6 (h : Hive) (n s p : Nat) (x : Sample) (tainted : Bool) : Hive × Sample :=
  let st := h.sget n
  let h := h.sset n { st with k6 := ((if tainted then none else some (power x)) :: st.k6).take 4096 }
  let h := h.rampStep n
  let mg := h.get (F.strGain_mult s p)
  let ms := (h.sget n).ms
  let yi := gainOut x.i mg ms
  let yq := gainOut x.q mg ms
  let hit := satHit yi || satHit yq
  let h := if hit then h.satMark n s p else h
  let t := tainted || hit
  ((h.fbProbed n mg ms).setFlag (F.rteStatus_tainted n) t, ⟨sat16 yi, sat16 yq, t⟩)

/-! ## The store (R46 to R48) -/

/-- Sample `k` of a stream (counted from its start) as the store holds it. -/
def Hive.storeRead (h : Hive) (m : Mem) (n k : Nat) : Int × Int :=
  let len := h.bufLen n
  let i := if len = 0 then 0 else k % len
  if h.flag (F.steDelay_fmt n) then (m.blockGet (h.bufAddr n) (i / 16)).getD (i % 16) (0, 0)
  else
    let w := m.storeNat (h.bufAddr n + 4 * i) 4
    (sext 16 w, sext 16 (w / 2 ^ 16))

/-- The taint of sample `k`: its 16-sample block's (R108). -/
def Hive.storeTaint (h : Hive) (n k : Nat) : Bool :=
  let st := h.sget n
  let newest := (st.wr - 1) / 16
  st.tb.getD (newest - k / 16) false

/-- Sample `k` written also to the buffer that a READY patch gives the stream, and counted once the buffer holds it (R273). -/
def Hive.storeFill (g : Hive) (m : Mem) (n k : Nat) (x : Sample) (blk : List Sample) (st : StreamSt) : Mem × StreamSt :=
  let len := g.bufLen n
  let i := if len = 0 then 0 else k % len
  if len = 0 then (m, st)
  else if g.flag (F.steDelay_fmt n) then
    if k % 16 = 15 then (m.blockPut (g.bufAddr n) (i / 16) blk, { st with primed := st.primed + blk.length }) else (m, st)
  else (m.storePut (g.bufAddr n + 4 * i) (leBytes (sampleWord x) 4), { st with primed := st.primed + 1 })

/-- A sample written to the store: taint by block; format A at once, format B with its block (R47, R108). `done` tells how
many samples can be read now. -/
def Hive.storeWrite (h : Hive) (m : Mem) (n : Nat) (x : Sample) : Hive × Mem × Nat :=
  let st := h.sget n
  let k := st.wr
  let next := h.bufNext n
  let tb := if k % 16 = 0 then (x.ovr :: st.tb).take (max (h.bufLen n) ((next.map (fun g => g.bufLen n)).getD 0) / 16 + 2)
    else match st.tb with
      | t :: ts => (t || x.ovr) :: ts
      | [] => [x.ovr]
  let len := h.bufLen n
  let i := if len = 0 then 0 else k % len
  let st := { st with wr := k + 1, tb := tb }
  let blk := (if k % 16 = 0 then [] else st.blk) ++ [x]
  let (m, st) := match next with
    | some g => g.storeFill m n k x blk st
    | none => (m, st)
  if len = 0 then (h.sset n st, m, 1)
  else if h.flag (F.steDelay_fmt n) then
    if k % 16 = 15 then (h.sset n { st with blk := [] }, m.blockPut (h.bufAddr n) (i / 16) blk, 16)
    else (h.sset n { st with blk := blk }, m, 0)
  else (h.sset n st, m.storePut (h.bufAddr n + 4 * i) (leBytes (sampleWord x) 4), 1)

/-- The read position moves towards the delay in force; the samples that can be read now are delivered, each to every
destination in one cycle (R39, R46). A sample before the stream's first is zero. -/
def Hive.emit (h : Hive) (m : Mem) (n : Nat) (x : Sample) : Hive × Mem :=
  let first := (h.sget n).wr
  let (h, m, done) := h.storeWrite m n x
  let start := if done = 16 then first - 15 else first
  let d := h.delayNow n
  let h := (List.range done).foldl (fun h j =>
    let k := start + j
    let y : Sample :=
      if h.bufLen n = 0 then x
      else if k < d then Sample.zero
      else
        let v := h.storeRead m n (k - d)
        ⟨v.1, v.2, h.storeTaint n (k - d)⟩
    (List.range 4).foldl (fun h i => h.toDest n (h.dest n i) y) (h.fbRef n (d + (start + done - 1 - k)) y)) h
  (h, m)

/-! ## One sample (R91, R92) -/

/-- The sample at a half's input: what waits there from its source, else the operand. A dual-homed stream takes one of each
copy, compares the pair (R54, R55), and carries the bit of either (R107). A stream whose traffic is cut carries zeros
(R14, R18, R86). The flag tells a sample that slice0 of a cascade saturated in its stage 4 (R107). -/
def Hive.inputOf (h : Hive) (n s p : Nat) (x : Sample) : Hive × Sample × Bool :=
  if h.isCasc s p then
    let hs := h.hget (2 * s + p)
    match hs.inq with
    | y :: q => (h.hset (2 * s + p) { hs with inq := q }, y)
    | [] => (h, x, false)
  else
    let st := h.sget n
    let alt := h.flag (F.rteStatus_active n)
    let dual := h.dualHomed n
    let dP := if dual then h.get (F.steInDly_in_pri n) else 0
    let dA := if dual then h.get (F.steInDly_in_alt n) else 0
    let tP := if st.inPri.length > dP then st.inPri.head? else none
    let tA := if st.inAlt.length > dA then st.inAlt.head? else none
    let now := if alt then tA else tP
    let other := if alt then tP else tA
    let y := now.getD x
    -- pairs count while the copies are aligned (R55)
    let (same, diff) := match now, other with
      | some a, some b =>
        if !h.ingressAligned n then (st.same, st.differed)
        else if a.i = b.i ∧ a.q = b.q then (min 4096 (st.same + 1), st.differed && decide (st.same + 1 < 4096))
        else (0, true)
      | _, _ => (st.same, st.differed)
    let bit := y.ovr || (match other with | some b => b.ovr | none => false)
    let h := h.sset n { st with
      same := same
      differed := diff
      inPri := if tP.isSome then st.inPri.drop 1 else st.inPri
      inAlt := if tA.isSome then st.inAlt.drop 1 else st.inAlt }
    let h := if dual && same != st.same && (same == 4096 || same == 0) then h.standbyEval n else h
    -- until a spare or the fallback map takes over, and on a die that does not run, there are no samples (R14, R18, R86)
    let gap := match srcKind (h.srcNow n) with
      | 1 => decide (3 ≤ h.lmode (srcA (h.srcNow n))) && !h.laneUp (h.carrier (srcA (h.srcNow n))) && h.laneCarried (srcA (h.srcNow n))
      | 4 => !h.linkUp (srcA (h.srcNow n)) && h.linkCarried (srcA (h.srcNow n))
      | _ => false
    let cut := gap || h.zeroed.any (fun z => z == n) || (h.onFaulted (h.srcNow n) && h.endDie (h.srcNow n) != some (h.home n))
    (h, if cut then Sample.zero else { y with ovr := bit }, false)

/-- The outputs of a half's stage 4, each with its overrange bit and whether it is tainted by a saturation: its own there, or one
of slice0 in an input sample since the last output (R91, R107). -/
def Hive.stages (h : Hive) (n s p : Nat) (x : Sample) (sat : Bool) : Hive × List (Sample × Bool) :=
  let (h, x) := h.stage1 n s p x
  let (h, x) := h.stage2 n s p x
  let (h, xs) := h.stage3 n s p x
  let hs := h.hget (2 * s + p)
  let sat := sat || hs.satIn
  let h := h.hset (2 * s + p) { hs with satIn := sat && xs.isEmpty }
  let r := xs.foldl (fun (a : Hive × List (Sample × Bool) × Bool) x =>
    let (h, y, hit) := a.1.stage4 n s p x
    (h, a.2.1 ++ [(y, hit || a.2.2)], false)) (h, [], sat)
  (r.1, r.2.1)

/-- The output of a stream's last slice through taint, stage 5, the detour, stage 6, the store and the destinations. -/
def Hive.finishSample (h : Hive) (m : Mem) (n s p : Nat) (y : Sample × Bool) : Hive × Mem :=
  let (h, t) := h.taintOf s p y.1.ovr y.2
  let h := h.stage5 n s p y.1 t true
  let (h, z, t) := h.detour n y.1 t
  let (h, out) := h.stage6 n s p z t
  h.emit m n out

/-- One input sample of a half: the last slice of its stream finishes it, another passes it on with its bit (R92, R108). -/
def Hive.strain (h : Hive) (m : Mem) (s p : Nat) (x : Sample) : Hive × Mem :=
  match h.halfStream s p with
  | none => (h, m)
  | some n =>
    -- a die that does not run processes no sample (R18, R26)
    if !h.broodActs (s / 512) then (h.zeroOut [n], m) else
    let (h, x, sat) := h.inputOf n s p x
    let (h, ys) := h.stages n s p x sat
    if h.lastSlice n = s ∧ h.lastHalf n = p then
      ys.foldl (fun (a : Hive × Mem) y => a.1.finishSample a.2 n s p y) (h, m)
    else
      let i := 2 * h.lastSlice n + h.lastHalf n
      (ys.foldl (fun h y =>
        let h := h.stage5 n s p y.1 y.1.ovr false
        h.hset i { h.hget i with inq := (h.hget i).inq ++ [y] }) h, m)

/-- A slice accepts one sample per SCLK cycle: when it is time-shared, half 0 in cycles with an even GTC and half 1 in the others
(R90). -/
def Hive.accepts (h : Hive) (s p : Nat) : Bool :=
  (h.get (F.strCfg_use s) != 2 || h.gtc % 2 == p) && Tbl.get (fun _ => 0) h.sliceAt s != h.ticks + 1

/-- What follows from samples in the same cycle: sub-band samples reach their groups, and samples their ingress buffers. -/
def Hive.flow (h : Hive) (m : Mem) : Hive × Mem :=
  let r := h.subFlow m
  r.1.ingress r.2

/-- STRAINER_SAMPLE: one input sample through the six stages of a slice half, in a cycle in which the slice accepts one. -/
def execStrainerSample (s : SliceId) (p : Fin 2) (x : Sample) (st : State) : Host.Outcome State Fault Refusal :=
  let h := st.hive
  if h.accepts s.val p.val then
    let r := ({ h with sliceAt := Tbl.put (fun _ => 0) h.sliceAt s.val (h.ticks + 1) } : Hive).strain st.mem s.val p.val x
    let r := r.1.flow r.2
    .next { st with hive := r.1, mem := r.2 }
  else .next st

/-- DC_SETTLE_END: the settling window has passed; the estimate adapts again unless the host freezes it (R94). -/
def execDcSettleEnd (s : SliceId) (p : Fin 2) (st : State) : Host.Outcome State Fault Refusal :=
  st.upd (fun h =>
    if (h.hget (2 * s.val + p.val)).settleLeft = 0 then
      h.setFlag (F.strDcCtl_frozen s.val p.val) (h.flag (F.strDcCtl_freeze s.val p.val))
    else h)

/-- TAINT_END: the last tainted output sample has left; tainted returns to 0 (R108). -/
def execTaintEnd (n : StreamId) (s : State) : Host.Outcome State Fault Refusal :=
  s.upd (fun h =>
    if h.get (F.strTaint_left (h.lastSlice n.val) (h.lastHalf n.val)) = 0 then h.setFlag (F.rteStatus_tainted n.val) false else h)

/-! ## Slice registers the host writes (R98, R105, R115) -/

/-- Slice and half of a register of STR. -/
def sliceOf (a : Nat) : Nat := (a - 0x300000) / 0x400
def halfOf (a : Nat) : Nat := ((a - 0x300000) % 0x400) / 0x100 - 1

/-- The checks of STR.RS_PHASE: -2,048 to +2,048, and trim = 1 (R98). -/
def Hive.rsPhaseChk (a : Nat) (h : Hive) (v : Nat) : Nat :=
  let x := sext 16 v
  if x < -2048 ∨ x > 2048 then stBadArg
  else if h.flag (F.strRsCtl_trim (sliceOf a) (halfOf a)) then stOk else stWrong

/-- A write to STR.MA_CTL restarts the windows of stage 5 and of stage 6 empty (R105, R122). -/
def Hive.wMaLen (h : Hive) (w : RegWrite) : Hive :=
  let a := wKey w
  h.hostWrite w (fun _ _ => stOk) (fun h v =>
    let h := h.applyTypes a v
    let i := 2 * sliceOf a + halfOf a
    let h := h.hset i { h.hget i with win := [] }
    match h.halfStream (sliceOf a) (halfOf a) with
    | some n => if h.lastSlice n = sliceOf a ∧ h.lastHalf n = halfOf a then h.sset n { h.sget n with k6 := [] } else h
    | none => h)

/-- MA_LEN_WRITE. -/
def execMaLenWrite (w : RegWrite) (s : State) : Host.Outcome State Fault Refusal := s.upd (fun h => h.wMaLen w)

/-- A write to STR.DC_CTL: clearing freeze does not end an automatic freeze (R94). -/
def Hive.dcCtlApp (a : Nat) (h : Hive) (v : Nat) : Hive :=
  let h := h.applyTypes a v
  let s := sliceOf a
  let p := halfOf a
  h.setFlag (F.strDcCtl_frozen s p) (h.flag (F.strDcCtl_freeze s p) || decide ((h.hget (2 * s + p)).settleLeft > 0))

/-! ## Coefficient swaps (R100 to R104) -/

/-- The outcome of a swap is shown and journaled (R102). -/
def Hive.swapDone (h : Hive) (s p result : Nat) : Hive :=
  ((h.set (F.strFirCtl_swap_last s p) result).setFlag (F.strFirCtl_swap_pend s p) false).jEvent (srcNoSlice s)
    (R.strFirCtl s p) result (h.halfStream s p |>.getD 0)

/-- The pending swap of a half is superseded or cancelled. -/
def Hive.swapDrop (h : Hive) (s p result : Nat) : Hive :=
  if h.flag (F.strFirCtl_swap_pend s p) then (h.unsched (.bankSwap (2 * s + p))).swapDone s p result else h

/-- The disclosed group delay of a half in 1/16 tick (R97, R98, R104): (N - 1) / 2 output samples for a linear-phase set, what
Fulis gives for a minimum-phase one; while stage 3 is active its D_rs, and the delay that the host adds by RS_PHASE. -/
def Hive.gdOf (h : Hive) (n s p : Nat) : Nat :=
  let c := h.activeSet s p
  let ti := h.tIn s p n
  let r := h.halfRatio s p
  let j := h.get (F.strRsCtl_j s p)
  let act := h.flag (F.strRsCtl_active s p)
  let fir : Int := if c.minph then 0 else ((2048 * (c.n - 1) * ti.1 * r : Nat) : Int)
  -- 16 (11 (2^j - 1) + 7.5 2^j) input samples
  let rs : Int := if act then (((176 * (2 ^ j - 1) + 120 * 2 ^ j) * ti.1 * 2 ^ 40 : Nat) : Int) else 0
  let ph : Int := if act && h.flag (F.strRsCtl_trim s p) then h.getS (F.strRsPhase_phase s p) * ((ti.1 * r : Nat) : Int) else 0
  (if c.minph then c.gd else 0) + (roundEven (fir + rs + ph) (ti.2 * 2 ^ 40)).toNat

/-- The active set's N, form and disclosed group delay are shown (R104, R115); what was measured for another set is gone. -/
def Hive.showSet (h : Hive) (n s p : Nat) : Hive :=
  let c := h.activeSet s p
  let h := ((h.set (F.strFirCtl_taps s p) c.n).setFlag (F.strFirCtl_minph s p) c.minph).setFlag (F.strFirCtl_sym s p) c.sym
  let h := h.set (F.strGd_gd s p) (h.gdOf n s p)
  (h.setFlag (F.strGdMeas_valid s p) false).set (F.strGdMeas_gd s p) 0

/-- The halves of a stream's slices. -/
def Hive.halvesOf (h : Hive) (n : Nat) : List (Nat × Nat) :=
  (h.get (F.steSlice_slice0 n), h.get (F.steSlice_phase0 n)) ::
    (if h.flag (F.steSlice_slice1_en n) then [(h.get (F.steSlice_slice1 n), h.get (F.steSlice_phase1 n))] else [])

/-- The disclosed group delays of a stream's halves follow their sets and resamplers; where one differs from what is shown, a
measurement is void (R104). -/
def Hive.showGds (h : Hive) (n : Nat) : Hive :=
  (h.halvesOf n).foldl (fun h x =>
    if h.gdOf n x.1 x.2 = h.get (F.strGd_gd x.1 x.2) ∧ (h.activeSet x.1 x.2).n = h.get (F.strFirCtl_taps x.1 x.2) then h
    else h.showSet n x.1 x.2) h

/-- An accepted offset adds to the disclosed group delay and shifts the resampler's position from the next output on (R98). -/
def Hive.rsPhaseApp (a : Nat) (h : Hive) (v : Nat) : Hive :=
  let s := sliceOf a
  let p := halfOf a
  let old := h.getS (F.strRsPhase_phase s p)
  let h := h.applyTypes a v
  let hs := h.hget (2 * s + p)
  let h := h.hset (2 * s + p) { hs with acc := hs.acc - roundEven ((h.getS (F.strRsPhase_phase s p) - old) * h.rsStep s p) 4096 }
  match h.halfStream s p with
  | some n => (h.set (F.strGd_gd s p) (h.gdOf n s p)).latChanged n
  | none => h

/-- A write to STR.RS_PHASE. -/
def Hive.wRsPhase (h : Hive) (w : RegWrite) : Hive :=
  h.hostWrite w (Hive.rsPhaseChk (wKey w)) (Hive.rsPhaseApp (wKey w))

/-- RS_PHASE_WRITE. -/
def execRsPhaseWrite (w : RegWrite) (s : State) : Host.Outcome State Fault Refusal := s.upd (fun h => h.wRsPhase w)

/-- BANK_SWAP, opcode 0x07: the inactive bank becomes active at T (R101); an earlier one is superseded (R102). -/
def execBankSwap (c : CmdEntry) (s : State) : Host.Outcome State Fault Refusal :=
  s.upd (fun h =>
    let sl := argBits c.a0 0 10
    let p := argBits c.a0 10 1
    let tgt := bankFlag sl p (!h.flag (F.strFirCtl_bank sl p))
    let form : CmdForm := ⟨0x07, 0x7FF, 0, 0, .required, .timed⟩
    let lead := h.leadOk c.t.toNat false
    let pend := h.flag (F.strFirCtl_swap_pend sl p)
    let chk :=
      if (h.halfStream sl p).isNone || !h.flag tgt then stWrong
      else if pend && h.schedStatus == stNoRes then stOk else h.schedStatus
    (h.countRefused (h.cmdStatus c form lead chk)).command c form lead chk (fun h _ =>
      let h := (h.swapDrop sl p 2).setFlag (F.strFirCtl_swap_pend sl p) true
      ((h.setPair (R.strSwapTLo sl p) (R.strSwapTHi sl p) c.t.toNat).schedule c.t.toNat (.bankSwap (2 * sl + p)), some 0)))

/-- The other bank becomes active: shown, journaled, and the latency follows (R101 to R103); a mute for an error in the bank it
replaces ends (R30). -/
def Hive.bankFlip (h : Hive) (s p : Nat) : Hive :=
  let h := h.setFlag (F.strFirCtl_bank s p) (!h.flag (F.strFirCtl_bank s p))
  match h.halfStream s p with
  | some n => (((h.sitOff 6 n).showSet n s p).swapDone s p 0).latChanged n |>.fbSwap n (h.activeSet s p).corr
  | none => h.swapDone s p 0

/-- A half swaps its banks, unless the target has become invalid: STRAIN cause 0x03 at L1 (R101, R102). -/
def Hive.swapNow (h : Hive) (s p : Nat) : Hive :=
  if h.flag (bankFlag s p (!h.flag (F.strFirCtl_bank s p))) then h.bankFlip s p
  else (h.swapDone s p 1).raise 0x03 0x03 (srcNoSlice s) 1 0

/-- The half's scheduled swap is due. -/
def Hive.swapAt (h : Hive) (s p : Nat) : Hive := (h.unsched (.bankSwap (2 * s + p))).swapNow s p

/-- BANK_SWAP_AT_T: the half's scheduled swap is due. -/
def execBankSwapAtT (s : SliceId) (p : Fin 2) (st : State) : Host.Outcome State Fault Refusal :=
  st.upd (fun h => if h.due (.bankSwap (2 * s.val + p.val)) && !(match h.halfStream s.val p.val with | some n => h.patchFirst n | none => false) then h.swapAt s.val p.val else h)

/-- GD_MEASUREMENT_COMPLETE: a minimum-phase set's delay measured in-band; STRAIN cause 0x04 at L1 when it differs from the
disclosed value by more than one output sample (R104). -/
def execGdMeasurementComplete (s : SliceId) (p : Fin 2) (gd : Fin 16777216) (st : State) : Host.Outcome State Fault Refusal :=
  st.upd (fun h =>
    match h.halfStream s.val p.val with
    | none => h
    | some n =>
      if h.flag (F.strFirCtl_minph s.val p.val) then
        let h := (h.set (F.strGdMeas_gd s.val p.val) gd.val).setFlag (F.strGdMeas_valid s.val p.val) true
        let ti := h.tIn s.val p.val n
        let r := h.halfRatio s.val p.val
        let diff := ((gd.val : Int) - h.get (F.strGd_gd s.val p.val)).natAbs
        let h := if diff * ti.2 * 2 ^ 32 > 16 * ti.1 * r then h.raise 0x03 0x04 (srcNoSlice s.val) 1 0 else h
        h.latChanged n
      else h)

end Sys2Proof.Machine
end

