-- ==== Sys2Proof/Machine/Units.lean ====
section
/-! DEFINITION. What the kernels, meters and loops share: access to the units' hidden state, levels in dBFS, critical values
at use, kernels with their gangs and streams, and the wake of a comb (R118, R212, R229, R298). -/

namespace Sys2Proof.Machine

/-! ## Hidden state of the units -/

def Hive.trkGet (h : Hive) (t : Nat) : TrkSt := Tbl.get (fun _ => TrkSt.init) h.trk t
def Hive.trkSet (h : Hive) (t : Nat) (v : TrkSt) : Hive := { h with trk := Tbl.put (fun _ => TrkSt.init) h.trk t v }
def Hive.combGet (h : Hive) (c : Nat) : CombSt := Tbl.get (fun _ => CombSt.init) h.combs c
def Hive.combSet (h : Hive) (c : Nat) (v : CombSt) : Hive := { h with combs := Tbl.put (fun _ => CombSt.init) h.combs c v }
def Hive.conGet (h : Hive) (n : Nat) : ConSt := Tbl.get (fun _ => ConSt.init) h.cons n
def Hive.conSet (h : Hive) (n : Nat) (v : ConSt) : Hive := { h with cons := Tbl.put (fun _ => ConSt.init) h.cons n v }
def Hive.pinGet (h : Hive) (p : Nat) : PinSt := Tbl.get (fun _ => PinSt.init) h.pins p
def Hive.pinSet (h : Hive) (p : Nat) (v : PinSt) : Hive := { h with pins := Tbl.put (fun _ => PinSt.init) h.pins p v }

/-! ## Levels (R118) -/

/-- 32,767^2. -/
def fullSq : Nat := 1073676289

/-- A level in Q8.8 dBFS of the power ratio `n / d`; no reading when nothing lies behind it (`d` = 0); -120 dBFS for no
power or less than that (R118). -/
def level (n d : Nat) : Option Int :=
  if d = 0 then none
  else match dbPower n d with
    | none => some (-30720)
    | some v => some (max (-30720) v)

/-- A result register takes a reading, or -128 with valid 0 (R118). -/
def Hive.putLevel (h : Hive) (fl fv : RF) (v : Option Int) : Hive :=
  match v with
  | some x => (h.setS fl x).setFlag fv true
  | none => (h.set fl 0x8000).setFlag fv false

/-- The reading that a result register holds. -/
def Hive.reading (h : Hive) (fl fv : RF) : Option Int := if h.flag fv then some (h.getS fl) else none

/-- Sum and count of the untainted powers among the latest `l` samples (R105). -/
def winSum (win : List (Option Nat)) (l : Nat) : Nat × Nat :=
  let xs := (win.take l).filterMap id
  (xs.foldl (· + ·) 0, xs.length)

/-- Ten to the power `d` / 2,560 at the scale of `trigOne`, for a Q8.8 dB value `d` that is not positive. -/
def tenDb (d : Int) : Nat := tenTo (-d).toNat 10240

/-! ## Critical values at use (R298, R299) -/

/-- An RWC register is used by the unit `source`: a bad complement is a mismatch, unless one is outstanding at `a`. -/
def Hive.useReg (h : Hive) (a source : Nat) (ns : List Nat) : Hive :=
  if rwcOk (h.rd a) || h.mism.any (fun p => p.1 == a) then h else h.mismatch source a false ns

/-- A working copy of an envelope field is used. -/
def Hive.useWc (h : Hive) (t f source : Nat) : Hive :=
  if rwcOk (h.wc t f) || h.mism.any (fun p => p.1 == envAddr t f) then h
  else h.mismatch source (envAddr t f) false (h.tenantStreams t)

/-- gmin and gmax of a stream's tenant (R294); without bound for a tenant that is not in use. -/
def Hive.gminOf (h : Hive) (n : Nat) : Int := if h.envUsed (h.tenant n) then h.wcS (h.tenant n) 0 else -32768
def Hive.gmaxOf (h : Hive) (n : Nat) : Int := if h.envUsed (h.tenant n) then h.wcS (h.tenant n) 1 else 32767

/-! ## Contests: their slots and new readings (R176, R181) -/

/-- The slots of a stream's contest with a loop type. -/
def Hive.slotsOfType (h : Hive) (n ty : Nat) : List Nat :=
  (h.slotsOf n).filter (fun s => h.get (F.gceLoopCfg_type s) == ty)

/-- A measurement of the stream's loops of one type is new: the time without a reading starts again, and stale clears with its
fault (R181). -/
def Hive.freshen (h : Hive) (n ty : Nat) : Hive :=
  (h.slotsOfType n ty).foldl (fun h s =>
    let l := h.loopGet s
    let h := h.loopSet s { l with fresh := true, quiet := 0, since := l.since.map (fun _ => h.ticks) }
    if h.flag (F.gceLoopState_stale s) then (h.setFlag (F.gceLoopState_stale s) false).condEnd 0x07 0x01 (srcNoLoop s) else h) h

/-- The canceller of a stream (R159). -/
def Hive.cancOf (h : Hive) (n : Nat) : Option Nat :=
  (List.range 256).find? (fun c => h.flag (F.fbcCtl_en c) && h.get (F.fbcCtl_stream c) == n)

/-- The tracker slot of a stream (R125). -/
def Hive.trkOf (h : Hive) (n : Nat) : Option Nat :=
  (List.range 256).find? (fun t => h.flag (F.trkStat_valid t) && h.get (F.trkStat_stream t) == n)

/-! ## Kernels and gangs (R211 to R213) -/

/-- The words of a worker's descriptor. -/
def Hive.desc (h : Hive) (w : Nat) : List Nat :=
  let c := w / 8
  let k := w % 8
  [R.wrkDesc0 c k, R.wrkDesc1 c k, R.wrkDesc2 c k, R.wrkDesc3 c k, R.wrkDesc4 c k, R.wrkDesc5 c k, R.wrkDesc6 c k,
    R.wrkDesc7 c k].map (fun a => (h.rd a).toNat)

/-- The descriptor but for pos, which all workers of a gang share (R212). -/
def Hive.gangKey (h : Hive) (w : Nat) : List Nat :=
  match h.desc w with
  | d :: ds => setBit (setBit (setBit d 12 false) 13 false) 14 false :: ds
  | [] => []

/-- The state code of a worker (R232). -/
def Hive.wrkSt (h : Hive) (w : Nat) : Nat := h.get (F.wrkStat_state (w / 8) (w % 8))
/-- The block with a worker's state written. -/
def Hive.setWrkSt (h : Hive) (w v : Nat) : Hive := h.set (F.wrkStat_state (w / 8) (w % 8)) v

/-- The workers of the gang that runs worker `w`'s kernel; one that has failed has left it (R230). -/
def Hive.gang (h : Hive) (w : Nat) : List Nat :=
  ((List.range 8).map (fun k => 8 * (w / 8) + k)).filter (fun v =>
    h.kvalid v && h.gangKey v == h.gangKey w && (v == w || h.wrkSt v != 6))

/-- One worker for each gang that has a member among `ws` which has not failed. -/
def Hive.gangsOf (h : Hive) (ws : List Nat) : List Nat :=
  ((ws.filter (fun w => h.kvalid w && h.wrkSt w != 6)).map (fun w => (h.gang w).headD w)).eraseDups

/-- The streams whose path names the kernel of worker `w` (R36, R53). -/
def Hive.pathStreams (h : Hive) (w : Nat) : List Nat :=
  h.image.filter (fun n => h.flag (F.steKern_kern_en n) &&
    h.get (F.steKern_kern_worker n) / 8 == w / 8 && h.gangKey (h.get (F.steKern_kern_worker n)) == h.gangKey w)

/-- A kernel completed a step within its deadline (R222). -/
def Hive.stepOnTime (h : Hive) (w : Nat) : Hive := h.wset w { h.wget w with missRun := 0 }

/-- A comb's workers. -/
def combWorkers (c : Nat) : List Nat := (List.range 8).map (fun k => 8 * c + k)

/-! ## Combs, frames and supers: sleep and wake (R21, R26, R227, R229) -/

/-- A frame's state. -/
def Hive.frameSt (h : Hive) (f : Nat) : Nat := bitsOf (h.rd R.frameState).toNat (2 * f) 2
/-- The block with a frame's state written. -/
def Hive.setFrameSt (h : Hive) (f v : Nat) : Hive := h.set ⟨R.frameState, 2 * f, 2⟩ v

/-- A comb is awake: its super runs and it is neither retained nor off. -/
def Hive.combAwake (h : Hive) (c : Nat) : Bool :=
  let p := h.get (F.wrkCombStat_power c)
  let d := h.dieSt (2 + c / 32)
  (d == 2 || d == 3) && (p == 0 || p == 3)

/-- Frames of a patch load in progress (R26). -/
def Hive.shadowFrames (h : Hive) : Nat :=
  match h.maintOfAct 8 with
  | some i =>
    match h.mget i with
    | some m => (match m.file with | some f => f.body.frames | none => 0)
    | none => 0
  | none => 0

/-- The WCLK PLL of a super: stopped 0, locked 2 (R332). -/
def wclkOf (d : Nat) : RF := if d = 2 then F.pwrClkStat_wclk_s0 else F.pwrClkStat_wclk_s1

/-- The structure registers follow the combs: awake bits, frame states, and SLEEP of a super whose four frames are
clock-gated, with its WCLK PLL stopped (R21, R26, R322). -/
def Hive.structEval (h : Hive) : Hive :=
  let bits := fun (lo : Nat) => (List.range 32).foldl (fun m i => setBit m i (h.combAwake (lo + i))) 0
  let h := (h.set F.combAwakeLo_awake (bits 0)).set F.combAwakeHi_awake (bits 32)
  let sh := h.shadowFrames
  let h := (List.range 8).foldl (fun h f =>
    let d := h.dieSt (2 + f / 4)
    if d ≠ 2 ∧ d ≠ 3 then h
    else
      let awake := (List.range 8).any (fun c => h.combAwake (8 * f + c))
      h.setFrameSt f (if !awake then 0 else if bitOf sh f then 2 else 1)) h
  [2, 3].foldl (fun h d =>
    if h.dieSt d = 2 ∨ h.dieSt d = 3 then
      let gated := (List.range 4).all (fun f => h.frameSt (4 * (d - 2) + f) == 0)
      let h := ({ h with superSleep := setBit h.superSleep (d - 2) gated } : Hive).setDieSt d (if gated then 3 else 2)
      h.set (wclkOf d) (if gated then 0 else 2)
    else if h.dieSt d = 4 then h
    else h.set (wclkOf d) 0) h

/-- Ticks of a kernel's step (R213). -/
def Hive.stepTicks (h : Hive) (w : Nat) : Nat :=
  let sample := fun (n : Nat) => (h.tOut n).1 / (h.tOut n).2
  let n := h.get (F.wrkDesc1_stream (w / 8) (w % 8))
  max 1 (match h.kid w with
    | 1 => h.fbBlock (h.instOf w)
    | 2 => 32768
    | 3 =>
      let n := h.get (F.trkStat_stream (h.instOf w))
      512 * 2 ^ h.get (F.mtrCtl_spec_w n) * sample n
    | 4 => blkLen (bitsOf (h.par w 0) 12 2) * sample n
    | 7 => 1024 * 2 ^ bitsOf (h.par w 0) 20 4
    | _ => 1024 * sample n)

/-- The first step boundary of a kernel at or after the GTC `t`. -/
def Hive.stepBound (h : Hive) (w t : Nat) : Nat := (t + h.stepTicks w - 1) / h.stepTicks w * h.stepTicks w

/-- The kernels of a comb resume at a wake, each at its next step boundary: the workers run, and from there on the samples of
RAMP_UP and LIVE streams fade in over len_up, tainted (R229). -/
def Hive.combResume (h : Hive) (c : Nat) : Hive :=
  let h := (combWorkers c).foldl (fun h w =>
    if h.wrkSt w = 4 then (h.setWrkSt w 2).wset w { h.wget w with resumeAt := h.ticks + (h.stepBound w h.gtc - h.gtc) } else h) h
  let ns := h.image.filter (fun n => h.flag (F.steKern_kern_en n) && h.get (F.steKern_kern_worker n) / 8 == c &&
    (h.st n == stRampUp || h.st n == stLive))
  ns.foldl (fun h n =>
    let len := h.samplesOf n (h.get (F.smkCfg_len_up n))
    h.sset n { h.sget n with fade := len, fadeLen := len }) h

/-- A wake trigger of R229 for a comb: a sleeping comb begins to wake, an entry is abandoned, and a comb awake for a scrub
pass stays awake with its kernels resumed. -/
def Hive.combWake (h : Hive) (c : Nat) : Hive :=
  let p := h.get (F.wrkCombStat_power c)
  let k := h.combGet c
  let h := h.combSet c { k with scrub := false, waking := k.waking || p == 1 || p == 2, trigAt := h.ticks + 1, idleAt := none
                                fromOff := if k.waking then k.fromOff else p == 2 }
  let h := if p = 3 then (h.set (F.wrkCombStat_power c) 0).structEval else h
  if k.scrub && (p == 0 || p == 3) then h.combResume c else h

end Sys2Proof.Machine
end

