-- ==== Sys2Proof/Machine/Protect.lean ====
section
/-! DEFINITION. The network protection monitor: conditions and how long they hold, LIMIT, MUTE and SILENCE, the return to
clear, the ceiling, and learning (R129 to R135, R139). -/

namespace Sys2Proof.Machine

/-- The source number of a stream's network protection monitor (R244). -/
def Hive.npmSrc (h : Hive) (n : Nat) : Nat := 0x34 + h.home n

/-- The monitor evaluates a stream's criteria 0 to 2 (R129). -/
def Hive.npmRuns (h : Hive) (n : Nat) : Bool :=
  let st := h.st n
  st == stRampUp || st == stLive || st == stRampDown

/-- Criterion `c` is enabled (R139). -/
def Hive.critOn (h : Hive) (n c : Nat) : Bool := bitOf (h.get (F.npmCtl_crit_en n)) c

/-- A criterion's state is written. -/
def Hive.setCrit (h : Hive) (n c v : Nat) : Hive := h.set ⟨R.npmStat n, 2 * c, 2⟩ v

/-! ## Conditions that hold throughout an interval (R129)

Numbers of conditions: 0 line excess above OSC_LIM; 1 margin below MARGIN_LIM; 2 rise above RISE_LIM; 3 N above N_max; 4 N above
N_max + 3 dB; 5 the LIMIT condition of criterion 1; 6 a guard band above its limit; 7 above its limit + 6 dB; 8 RMS below
DONOR; 9 to 13 the clear conditions of line, margin, criterion 1, criterion 2 and donor loss. -/

/-- A condition was seen true or false at an evaluation: the first true one after a false one starts its interval (R129). -/
def Hive.setCond (h : Hive) (n j : Nat) (b : Bool) : Hive :=
  let st := h.npmGet n
  let start := match st.holds.find? (fun p => p.1 == j) with
    | some p => p.2.1
    | none => h.ticks
  let rest := st.holds.filter (fun p => p.1 != j)
  h.npmSet n { st with holds := if b then (j, start, h.ticks) :: rest else rest }

/-- Start and last evaluation of a condition that holds. -/
def Hive.condOf (h : Hive) (n j : Nat) : Option (Nat × Nat) :=
  ((h.npmGet n).holds.find? (fun p => p.1 == j)).map (fun p => p.2)

/-- A millisecond count of a register, where 0 is treated as 1, in ticks. -/
def msOf (v : Nat) : Nat := max 1 v * Config.msTicks
/-- A count of seconds, where 0 is treated as 1, in ticks. -/
def secOf (v : Nat) : Nat := max 1 v * Config.secTicks

/-- The timed conditions of R130 by the operand of NPM_HOLD_EXPIRY: condition, interval, and whether it counts from the
LIMIT. 0 line esc; 1 margin esc; 2 rise 1 s; 3 N 100 ms; 4 N + 3 dB 100 ms; 5 rise_esc; 6 guard 1 ms; 7 guard + 6 dB 1 ms;
8 guard esc; 9 donor_ms. -/
def Hive.holdRule (h : Hive) (k : Nat) : Nat × Nat × Option Nat :=
  match k with
  | 0 => (0, msOf (h.get F.npmTimes_esc), some 0)
  | 1 => (1, msOf (h.get F.npmTimes_esc), some 0)
  | 2 => (2, Config.secTicks, none)
  | 3 => (3, 100 * Config.msTicks, none)
  | 4 => (4, 100 * Config.msTicks, none)
  | 5 => (5, secOf (h.get F.npmTimes2_rise_esc), some 1)
  | 6 => (6, Config.msTicks, none)
  | 7 => (7, Config.msTicks, none)
  | 8 => (6, msOf (h.get F.npmTimes_esc), some 2)
  | _ => (8, msOf (h.get F.npmTimes2_donor_ms), none)

/-- True when a timed condition has held throughout its interval; an escalation needs its criterion at LIMIT and counts
from the later of the LIMIT and the start (R129). -/
def Hive.holdDue (h : Hive) (n k : Nat) : Bool :=
  let (j, x, after) := h.holdRule k
  match h.condOf n j with
  | none => false
  | some (start, last) =>
    match after with
    | none => decide (start + x ≤ last)
    | some c => h.critSt n c == 1 && decide (max start ((h.npmGet n).limAt.getD c 0) + x ≤ last)

/-! ## Actions (R132, R133) -/

/-- The ceiling that a LIMIT writes, and the stamp of the LIMIT. -/
def Hive.npmCeil (h : Hive) (n c : Nat) : Hive :=
  let h := h.useReg R.npmBackoff (h.npmSrc n) (h.image.filter (fun k => h.get (F.npmCtl_crit_en k) % 8 != 0))
  let v := min (h.getS (F.npmStat_ceiling n)) (h.getS (F.gceG_in_force n) - h.rwcS R.npmBackoff)
  let st := h.npmGet n
  (h.npmSet n { st with limAt := st.limAt.set c h.ticks }).setS (F.npmStat_ceiling n) (clampS 16 v)

/-- Streams that a MUTE of criterion `c` mutes: the stream, and for donor loss its donor group (R132). -/
def Hive.npmMutesOf (h : Hive) (n c : Nat) : List Nat :=
  let g := h.get (F.npmCtl_donor_grp n)
  if c = 3 ∧ h.flag (F.npmCtl_donor n) ∧ g ≠ 0 then
    h.image.filter (fun m => m == n || h.get (F.npmCtl_donor_grp m) == g)
  else [n]

/-- MUTE of criterion `c`: cause 5, PROTECT at L3; the sil_n-th within sil_win of one criterion in one tenant band silences
the band, PROTECT at L4 (R132, R133). -/
def Hive.npmMute (h : Hive) (n c : Nat) : Hive :=
  if h.critSt n c ≥ 2 then h
  else
    let h := (h.setCrit n c 2).bump (F.npmCnt_mutes n) 1
    let h := (h.triggerAll 5 false (h.npmMutesOf n c)).raise 0x08 0x02 (srcNoStream n) 3 c
    let t := h.tenant n
    let r := h.rangeOf n
    let win := secOf (h.get F.npmTimes_sil_win)
    let all := ((t, r, c, n, h.ticks) :: h.npmMutes).filter (fun p => decide (h.ticks ≤ p.2.2.2.2 + win))
    let mine := all.filter (fun p => p.1 == t && p.2.1 == r && p.2.2.1 == c)
    let h : Hive := { h with npmMutes := all }
    if mine.length ≥ max 1 (h.get F.npmTimes_sil_n) then
      let h : Hive := { h with npmSil := h.npmSil ++ mine.map (fun p => (t, r, p.2.2.2.1, c)) }
      let ns := (h.tenantStreams t).filter (fun m => h.rangeOf m == r)
      ((h.setCrit n c 3).triggerAll 6 false ns).raise 0x08 0x03 (srcNoStream n) 4 c
    else h

/-- LIMIT of criterion `c`: a ceiling, PROTECT at L2; one whose ceiling falls below gmin becomes a MUTE (R132). -/
def Hive.npmLimit (h : Hive) (n c : Nat) : Hive :=
  if h.critSt n c ≠ 0 then h
  else
    let h := h.npmCeil n c
    if h.getS (F.npmStat_ceiling n) < h.gminOf n then h.npmMute n c
    else ((h.setCrit n c 1).bump (F.npmCnt_limits n) 1).raise 0x08 0x01 (srcNoStream n) 2 c

/-- What is due of a criterion at one evaluation: with both due the MUTE applies and the ceiling is still written (R135). -/
def Hive.npmStep (h : Hive) (n c : Nat) (lim mute : Bool) : Hive :=
  if mute then
    let h := if lim && h.critSt n c == 0 then h.npmCeil n c else h
    h.npmMute n c
  else if lim then h.npmLimit n c else h

/-- Criterion 0 after a window: the growth count and the line excess (R130). -/
def Hive.npmLine (h : Hive) (n : Nat) (exc : Option Int) : Hive :=
  if h.critOn n 0 && h.npmRuns n then
    let h := h.useReg (R.npmOscLim n) (h.npmSrc n) [n]
    let lim := h.rwcS (R.npmOscLim n)
    let c := h.get (F.mtrExcess_c n)
    let up := match exc, (h.npmGet n).prev with
      | some x, some p => decide (x > lim) && decide (x ≥ p + 128)
      | _, _ => false
    let c := if up then min 7 (c + 1) else 0
    let h := h.set (F.mtrExcess_c n) c
    let h := match exc with
      | some x => (h.setCond n 0 (decide (x > lim))).setCond n 9 (decide (x ≤ lim))
      | none => h
    let far := match exc with
      | some x => decide (x > lim + 2560)
      | none => false
    h.npmStep n 0 (decide (c ≥ 3)) (decide (c ≥ 3) && (far || decide (c ≥ 6)))
  else h

/-- Criterion 0 after a canceller's publication: the margin (R130). -/
def Hive.npmMargin (h : Hive) (n : Nat) (m : Int) : Hive :=
  if h.critOn n 0 && h.npmRuns n then
    let h := h.useReg (R.npmMarginLim n) (h.npmSrc n) [n]
    let lim := h.rwcS (R.npmMarginLim n)
    let st := h.npmGet n
    let low := if m < lim then st.lowM + 1 else 0
    let neg := if m < 0 then st.negM + 1 else 0
    let h := h.npmSet n { st with lowM := min 2 low, negM := min 2 neg }
    let h := (h.setCond n 1 (decide (m < lim))).setCond n 10 (decide (m ≥ lim))
    h.npmStep n 0 (decide (low ≥ 2)) (decide (neg ≥ 2))
  else h

/-- True when the noise contribution of `k` sub-bands at the floor `f` and of the residue `r` exceeds `lim` (R131). -/
def noiseAbove (k : Nat) (f : Int) (res : Option Int) (lim : Int) : Bool :=
  let far := (decide (k > 0) && decide (f > lim)) || (match res with | some r => decide (r > lim) | none => false)
  far ||
    decide (trigOne < (if k > 0 then k * tenDb (f - lim) else 0) + (match res with | some r => tenDb (r - lim) | none => 0))

/-- Criterion 1 after a window with the floor, `k` untracked sub-bands outside the residue, and the residue's power (R130, R131).
Without a floor the rise is no reading, and what needs it stays as it was (R129). -/
def Hive.npmNoise (h : Hive) (n : Nat) (fl : Option Int) (k : Nat) (res : Option Int) : Hive :=
  if h.critOn n 1 && h.npmRuns n then
    let h := (h.useReg (R.npmRiseLim n) (h.npmSrc n) [n]).useWc (h.tenant n) 3 (h.npmSrc n)
    let learned := h.flag (F.npmStat_learned n)
    let high := match fl with
      | some f => some (learned && decide (f - h.getS (F.npmFloor_ref n) > h.rwcS (R.npmRiseLim n)))
      | none => if learned then none else some false
    let f := fl.getD 0
    let lim := h.wcS (h.tenant n) 3 - h.getS (F.npmRefOfs_ofs n)
    let above := noiseAbove k f res lim
    let h := (h.setCond n 3 above).setCond n 4 (noiseAbove k f res (lim + 768))
    match high with
    | some b => ((h.setCond n 2 b).setCond n 5 (b || above)).setCond n 11 (!b && !above)
    | none => if above then (h.setCond n 5 true).setCond n 11 false else h
  else h

/-- The limit of guard band `i` of a stream in dBFS (R130). -/
def Hive.guardLim (h : Hive) (n i : Nat) : Int := h.wcS (h.tenant n) (8 + i) - h.getS (F.npmRefOfs_ofs n)

/-- Criterion 2 after a window with the guard bands' powers (R130). -/
def Hive.npmGuard (h : Hive) (n : Nat) (gs : List (Nat × Int)) : Hive :=
  if h.critOn n 2 && h.npmRuns n then
    let h := gs.foldl (fun h p => h.useWc (h.tenant n) (8 + p.1) (h.npmSrc n)) h
    let any := fun (d : Int) => gs.any (fun p => decide (p.2 > h.guardLim n p.1 + d))
    ((h.setCond n 6 (any 0)).setCond n 7 (any 1536)).setCond n 12 (!any 0)
  else h

/-- Criterion 3 at a meter tick, in every stream state; a loss of the donor stream's source mutes at once (R129, R130). -/
def Hive.npmDonor (h : Hive) (n : Nat) (rms : Option Int) : Hive :=
  if h.critOn n 3 then
    let h := h.useReg R.npmDonor (h.npmSrc n) (h.image.filter (fun k => h.critOn k 3))
    let lim := h.rwcS R.npmDonor
    let h := match rms with
      | some r => (h.setCond n 8 (decide (r < lim))).setCond n 13 (decide (r ≥ lim + 768) && h.srcUp (h.srcNow n))
      | none => h
    if bitOf (h.sget n).sit 0 then h.npmStep n 3 false true else h
  else h

/-- NPM_HOLD_EXPIRY: a timed condition has held throughout its interval, and its criterion's action is taken. -/
def Hive.npmHold (h : Hive) (n k : Nat) : Hive :=
  let c := if k ≤ 1 then 0 else if k ≤ 5 then 1 else if k ≤ 8 then 2 else 3
  if h.critOn n c && (h.npmRuns n || c == 3) && h.holdDue n k then
    match c with
    | 0 => h.npmStep n 0 false true
    | 1 => h.npmStep n 1 (h.holdDue n 2 || h.holdDue n 3) (h.holdDue n 4 || h.holdDue n 5)
    | 2 => h.npmStep n 2 (h.holdDue n 6) (h.holdDue n 7 || h.holdDue n 8)
    | _ => h.npmStep n 3 false true
  else h

/-- NPM_HOLD_EXPIRY. -/
def execNpmHoldExpiry (n : StreamId) (k : Fin 10) (s : State) : Host.Outcome State Fault Refusal :=
  s.upd (fun h => h.npmHold n.val k.val)

/-! ## Return to clear (R134) -/

/-- The clear conditions that criterion `c` of a stream waits for. -/
def Hive.clearConds (h : Hive) (n c : Nat) : List Nat :=
  match c with
  | 0 => (if h.flag (F.mtrCtl_spec_en n) then [9] else []) ++ (if (h.cancOf n).isSome then [10] else [])
  | 1 => [11]
  | 2 => [12]
  | _ => [13]

/-- A clear condition has held throughout `x`; while the stream is MUTED those of criteria 0 to 2 count as holding from
the first cycle of MUTED. -/
def Hive.clearDue (h : Hive) (n j x : Nat) : Bool :=
  match h.condOf n j with
  | some (start, last) => decide (start + x ≤ (if h.st n = stMuted ∧ j ≠ 13 then h.ticks else last))
  | none => false

/-- Cause 5 stands while a criterion of the stream is at MUTE or SILENCE, or the donor criterion of a donor stream of its
group is (R132, R202). -/
def Hive.npmCause (h : Hive) (n : Nat) : Bool :=
  let g := h.get (F.npmCtl_donor_grp n)
  (List.range 4).any (fun c => decide (h.critSt n c ≥ 2)) ||
    (g != 0 && h.image.any (fun m =>
      h.flag (F.npmCtl_donor m) && h.get (F.npmCtl_donor_grp m) == g && decide (h.critSt m 3 ≥ 2)))

/-- NPM_CLEAR_EXPIRY: criterion `c` returns to clear, and cause 5 clears where nothing holds it any more. -/
def Hive.npmClear (h : Hive) (n c : Nat) : Hive :=
  let x := if c = 3 then msOf (h.get F.npmTimes2_donor_ms) else secOf (h.get F.npmTimes_clear)
  let up := c ≠ 3 ∨ h.srcUp (h.srcNow n)
  if h.critSt n c ≠ 0 ∧ up ∧ (h.clearConds n c).all (fun j => h.clearDue n j x) then
    let ns := h.npmMutesOf n c
    let h := h.setCrit n c 0
    let h := ns.foldl (fun h m => if h.hasCause 5 m && !h.npmCause m then h.uncause 5 m else h) h
    let all := (List.range 4).all (fun i => h.critSt n i == 0)
    if all && h.st n == stLive then h.npmSet n { h.npmGet n with okAt := some h.ticks } else h
  else h

/-- NPM_CLEAR_EXPIRY. -/
def execNpmClearExpiry (n : StreamId) (k : Fin 4) (s : State) : Host.Outcome State Fault Refusal :=
  s.upd (fun h => h.npmClear n.val k.val)

/-- NPM_CEILING_REMOVED: every criterion clear and the stream LIVE throughout a further clear (R134). -/
def Hive.npmUnceil (h : Hive) (n : Nat) : Hive :=
  let x := secOf (h.get F.npmTimes_clear)
  let at0 := match (h.npmGet n).okAt with
    | some t => max t (h.sget n).liveAt
    | none => (h.sget n).liveAt
  if h.st n = stLive ∧ (List.range 4).all (fun c => h.critSt n c == 0) ∧ at0 + x ≤ h.ticks then
    h.set (F.npmStat_ceiling n) 0x7FFF
  else h

/-- NPM_CEILING_REMOVED. -/
def execNpmCeilingRemoved (n : StreamId) (s : State) : Host.Outcome State Fault Refusal :=
  s.upd (fun h => h.npmUnceil n.val)

/-! ## Learning (R131) -/

/-- Ticks of a spectral window in units of 2^-64 tick (R123). -/
def Hive.window64 (h : Hive) (n : Nat) : Nat := span64 (h.tOut n) (512 * 2 ^ h.get (F.mtrCtl_spec_w n))

/-- A valid window with the floor `f` while the stream is LIVE and has no reference yet. -/
def Hive.npmLearn (h : Hive) (n : Nat) (f : Int) : Hive :=
  if h.st n = stLive ∧ !h.flag (F.npmStat_learned n) then
    let st := h.npmGet n
    (h.npmSet n { st with
      learnT := st.learnT + h.window64 n, learnSum := st.learnSum + f, learnN := st.learnN + 1 }).setFlag (F.npmStat_learning n) true
  else h

/-- NPM_LEARN_COMPLETE: learn_s seconds of valid windows; ref is the mean of f. -/
def Hive.npmLearned (h : Hive) (n : Nat) : Hive :=
  let st := h.npmGet n
  if h.flag (F.npmStat_learning n) ∧ st.learnN ≠ 0 ∧ secOf (h.get F.npmTimes2_learn_s) * tick64 ≤ st.learnT then
    ((h.setS (F.npmFloor_ref n) (roundEven st.learnSum st.learnN)).setFlag (F.npmStat_learned n) true).setFlag
      (F.npmStat_learning n) false
  else h

/-- NPM_LEARN_COMPLETE. -/
def execNpmLearnComplete (n : StreamId) (s : State) : Host.Outcome State Fault Refusal := s.upd (fun h => h.npmLearned n.val)

/-- Learning starts again: from the stream's first LIVE after the command, or at once (R131). -/
def Hive.npmRelearn (h : Hive) (n : Nat) : Hive :=
  let h := h.npmSet n { h.npmGet n with learnT := 0, learnSum := 0, learnN := 0 }
  ((h.setFlag (F.npmStat_learned n) false).setFlag (F.npmStat_learning n) (h.st n == stLive)).set (F.npmFloor_ref n) 0x8000

/-- PROTECTION_RELEARN, opcode 0x08 (R385). -/
def execProtectionRelearn (c : CmdEntry) (s : State) : Host.Outcome State Fault Refusal :=
  s.upd (fun h =>
    let n := cmdStream c
    let chk := if h.isStream n then stOk else stWrong
    h.command c ⟨0x08, 0x7FF, 0, 0, .never, .timed⟩ true chk (fun h _ => (h.npmRelearn n, some 0)))

/-! ## Writes (R139) -/

/-- The ranges of the protection registers: OSC_LIM 6-40 dB, MARGIN_LIM 0-20, RISE_LIM 0.5-20, BACKOFF 1-20, DONOR -110 to
-20 dBFS. -/
def npmRwcChk (lo hi : Int) (_ : Hive) (v : Nat) : Nat :=
  let x := sext 16 v
  if lo ≤ x ∧ x ≤ hi then stOk else stBadArg

/-- Counts and timers of criteria 0 to 2 start again from zero; a_k is kept (R135). -/
def Hive.npmRestart (h : Hive) (n : Nat) : Hive :=
  let st := { h.npmGet n with prev := none, lowM := 0, negM := 0 }
  (h.npmSet n (if h.st n = stMuted then st.atMuted h.ticks else st.unMuted)).set (F.mtrExcess_c n) 0

end Sys2Proof.Machine
end

