-- ==== Sys2Proof/Machine/Meters.lean ====
section
/-! DEFINITION. The meters and the carrier tracker: level results on the meter tick, spectral windows, carrier entries and
the residue (R117 to R128, R137, R138). -/

namespace Sys2Proof.Machine

/-! ## Level meters (R119 to R122) -/

/-- The level results of a stream on a meter tick, and criterion 3 (R117 to R122, R130). -/
def Hive.meterPublish (h : Hive) (n : Nat) : Hive :=
  let s := h.lastSlice n
  let p := h.lastHalf n
  let st := h.sget n
  let len := h.get (F.strMaCtl_len s p) + 1
  let a := winSum (h.hget (2 * s + p)).win len
  let detour := h.flag (F.steKern_kern_en n) && !st.bypass
  let b := if detour then winSum st.k6 len else a
  let peak := if st.pkN = 0 then none
    else level (((st.pk.filter (fun e => decide (st.pkN < e.1 + 2 ^ h.get (F.mtrCtl_peak_k n)))).map (fun e => e.2)).foldl max 0) fullSq
  let rms := level a.1 (a.2 * fullSq)
  let env := if st.pkN = 0 then none else level st.env (2 ^ 17 * fullSq)
  let m := h.get (F.strGain_mult s p) * st.ms
  let out := if st.ms = 0 then some (-30720) else level (b.1 * m ^ 2) (b.2 * fullSq * 2 ^ 62)
  let l6 := level b.1 (b.2 * fullSq)
  let h := (h.putLevel (F.mtrPeak_level n) (F.mtrPeak_valid n) peak).putLevel (F.mtrRms_level n) (F.mtrRms_valid n) rms
  let h := (h.putLevel (F.mtrEnv_level n) (F.mtrEnv_valid n) env).putLevel (F.mtrOut_level n) (F.mtrOut_valid n) out
  let h := h.npmSet n { h.npmGet n with l6 := l6 }
  let h := if l6.isSome then h.freshen n 1 else h
  h.npmDonor n rms

/-- METER_TICK: for a stream, when GTC mod 1,024 = 0 (R117). -/
def execMeterTick (n : StreamId) (s : State) : Host.Outcome State Fault Refusal :=
  s.upd (fun h => if h.gtc % 1024 = 0 && h.isStream n.val then h.meterPublish n.val else h)

/-! ## Spectral windows (R123, R124, R131) -/

/-- The level of a set of sub-bands: 10 log10 of the linear sum of s_k, with the factor 4 of the analysis scaling (R123). -/
def bandLevel (w : SpecWindow) (ks : List Nat) : Int :=
  (level (4 * (ks.map (fun k => w.p.getD k 0)).foldl (· + ·) 0) (2 ^ w.lg * fullSq)).getD (-30720)

/-- The place of a sub-band in the order of frequency, and the sub-band at a place: 256 is the lowest, 0 lies in the middle, 255
is the highest (R110). -/
def bandTurn (k : Nat) : Nat := (k + 256) % 512

/-- The sub-bands at the places `a` to `b` in the order of frequency. -/
def bandRange (a b : Nat) : List Nat := (List.range (b + 1 - a)).map (fun i => bandTurn (a + i))

/-- The places of a carrier entry's sub-bands. -/
def Hive.carRange (h : Hive) (t e : Nat) : Nat × Nat :=
  (bandTurn (h.get (F.trkCar_first t e)), bandTurn (h.get (F.trkCar_first t e)) + h.get (F.trkCar_width t e))

/-- Sub-bands of a stream's tracked carriers and of its residue (R126, R127). -/
def Hive.carrierBands (h : Hive) (n : Nat) : List Nat :=
  match h.trkOf n with
  | none => []
  | some t => (List.range 16).flatMap (fun i =>
      if h.get (F.trkCar_state t i) = 0 then []
      else bandRange (h.carRange t i).1 (h.carRange t i).2)
def Hive.residueBands (h : Hive) (n : Nat) : List Nat :=
  match h.trkOf n with
  | none => []
  | some t => (h.trkGet t).res.flatMap (fun r => bandRange r.1 r.2)

/-- One of several equal candidates, by a free value: the spec does not order them. -/
def Hive.pick (h : Hive) (xs : List Nat) : Hive × Nat :=
  match xs with
  | [x] => (h, x)
  | _ =>
    let (w, h) := h.draw
    (h, xs.getD (w % max 1 xs.length) 0)

/-- The excesses x_k over the averages, as numerators over 1024 ^ e, for parallel lists of levels and averages. -/
def excessNums (s avg : List Int) (e : Nat) : List Int := List.zipWith (fun x a => x * (1024 ^ e : Nat) - a) s avg

/-- The averages after a window: a + (s - a) / 1024, exactly, over 1024 ^ (e + 1) (R124). -/
def avgNext (s avg : List Int) (e : Nat) : List Int := List.zipWith (fun x a => 1023 * a + x * (1024 ^ e : Nat)) s avg

/-- A sub-band is a candidate: in the residue, or isolated by 6 dB from its in-band neighbours in frequency (R110, R124). -/
def isCand (inb res : List Nat) (x : List Int) (e : Nat) (i : Nat) : Bool :=
  let k := inb.getD i 0
  let xi := x.getD i 0
  let apart := fun (j : Nat) =>
    match inb.idxOf? j with
    | some m => decide (xi ≥ x.getD m 0 + 1536 * (1024 ^ e : Nat))
    | none => true
  res.contains k || ((k == 256 || apart ((k + 511) % 512)) && (k == 255 || apart ((k + 1) % 512)))

/-- Line excess of a valid window with its sub-band; none at the first, which sets the averages (R124). -/
def Hive.lineExcess (h : Hive) (n : Nat) (s : List Int) : Hive × Option (Int × Nat) :=
  let st := h.npmGet n
  let inb := h.inbandOf n
  if st.avg.length ≠ inb.length ∨ st.avg.isEmpty then (h.npmSet n { st with avg := s, aExp := 0 }, none)
  else
    let e := st.aExp
    let x := excessNums s st.avg e
    let h := h.npmSet n { st with avg := avgNext s st.avg e, aExp := e + 1 }
    let cs := (List.range inb.length).filter (isCand inb (h.residueBands n) x e)
    match cs with
    | [] => (h, none)
    | c :: rest =>
      let top := rest.foldl (fun m i => max m (x.getD i 0)) (x.getD c 0)
      let (h, i) := h.pick (cs.filter (fun i => x.getD i 0 == top))
      (h, some (clampS 16 (roundEven top (1024 ^ e)), inb.getD i 0))

/-- `x` put into a list before the first element that it may precede. -/
def insertBy {α : Type} (le : α → α → Bool) (x : α) : List α → List α
  | [] => [x]
  | y :: ys => if le x y then x :: y :: ys else y :: insertBy le x ys

/-- A list in the order `le`; elements equal in it keep their order. -/
def sortBy {α : Type} (le : α → α → Bool) (l : List α) : List α := l.foldr (insertBy le) []

/-- The 10th percentile of levels: the value at rank n / 10 rounded up, rising (R131). -/
def floorOf (xs : List Int) : Option Int :=
  match xs with
  | [] => none
  | _ => (sortBy (fun a b => decide (a ≤ b)) xs)[(xs.length + 9) / 10 - 1]?

/-- The guard band nearest its limit, with its power (R137). -/
def Hive.nearestGuard (h : Hive) (n : Nat) (gs : List (Nat × Int)) : Hive × Option (Nat × Int) :=
  match gs with
  | [] => (h, none)
  | g :: rest =>
    let gap := fun (p : Nat × Int) => h.guardLim n p.1 - p.2
    let best := rest.foldl (fun m p => min m (gap p)) (gap g)
    let (h', i) := h.pick ((gs.filter (fun p => gap p == best)).map (fun p => p.1))
    (h', gs.find? (fun p => p.1 == i))

/-- A valid window: results, floor, learning, and criteria 0 to 2 in their order (R123, R124, R129 to R131). -/
def Hive.windowValid (h : Hive) (n : Nat) (w : SpecWindow) : Hive :=
  let inb := h.inbandOf n
  let s := inb.map (fun k => bandLevel w [k])
  let h := h.putLevel (F.mtrLine_level n) (F.mtrLine_valid n) (if inb.isEmpty then none else some (bandLevel w inb))
  let gb := h.guardsOf n
  let gs := (List.range gb.length).filterMap (fun i =>
    let ks := gb.getD i []
    if ks.isEmpty then none else some (i, bandLevel w ks))
  let (h, near) := h.nearestGuard n gs
  let h := (h.putLevel (F.mtrGuard_level n) (F.mtrGuard_valid n) (near.map (fun p => p.2))).set (F.mtrGuard_band n)
    ((near.map (fun p => p.1)).getD 0)
  let (h, exc) := h.lineExcess n s
  let h := (h.putLevel (F.mtrExcess_excess n) (F.mtrExcess_valid n) (exc.map (fun p => p.1))).set (F.mtrExcess_subband n)
    ((exc.map (fun p => p.2)).getD 0)
  let car := h.carrierBands n
  let res := h.residueBands n
  let free := (List.zip inb s).filter (fun p => !car.contains p.1)
  let nres := (free.filter (fun p => res.contains p.1)).length
  let fl := floorOf (free.map (fun p => p.2))
  let h := match fl with
    | some f => ((h.setS (F.npmFloor_floor n) f).npmLearn n f)
    | none => h.set (F.npmFloor_floor n) 0x8000
  let h := if h.flag (F.npmStat_learned n) && fl.isSome then h.freshen n 3 else h
  let h := h.npmLine n (exc.map (fun p => p.1))
  let h := h.npmSet n { h.npmGet n with prev := exc.map (fun p => p.1) }
  let r := if res.isEmpty then none else (h.trkOf n).map (fun t => h.getS (F.trkRes_power t))
  (h.npmNoise n fl (free.length - nres) r).npmGuard n gs

/-- SPECTRAL_WINDOW_END: the window that has ended publishes; an invalid one has no reading and leaves every count and timer
(R123, R129). -/
def execSpectralWindowEnd (n : StreamId) (s : State) : Host.Outcome State Fault Refusal :=
  s.upd (fun h =>
    let n := n.val
    let b := h.get (F.mtrCtl_spec_bank n)
    let st := h.sieveGet b
    match (if h.flag (F.mtrCtl_spec_en n) && st.wmeter then st.wdone else none) with
    | none => h
    | some w =>
      let h := h.sieveSet b { st with wmeter := false }
      if w.valid then h.windowValid n w
      else
        let h := h.putLevel (F.mtrLine_level n) (F.mtrLine_valid n) none
        (h.putLevel (F.mtrGuard_level n) (F.mtrGuard_valid n) none).putLevel (F.mtrExcess_excess n) (F.mtrExcess_valid n) none)

/-- The ranges of MTR.CTL: peak_k 0-20, exponents 0-24, spec_w 0-10 (R137). -/
def mtrCtlChk (_ : Hive) (v : Nat) : Nat :=
  if bitsOf v 0 5 ≤ 20 ∧ bitsOf v 5 5 ≤ 24 ∧ bitsOf v 10 5 ≤ 24 ∧ bitsOf v 15 4 ≤ 10 then stOk else stBadArg

/-- A write to MTR.CTL: a new spec_w starts a new window and restarts the counts of criteria 0 to 2 (R123, R135). -/
def Hive.mtrCtlApp (a : Nat) (h : Hive) (v : Nat) : Hive :=
  let n := (a - 0x480000) / 0x20
  let same := decide (h.get (F.mtrCtl_spec_w n) = bitsOf v 15 4)
  let h := h.applyTypes a v
  if same then h
  else
    let b := h.get (F.mtrCtl_spec_bank n)
    (if h.flag (F.mtrCtl_spec_en n) then h.sieveSet b (h.sieveGet b).windowAnew else h).npmRestart n

/-- MTR_CTL_WRITE. -/
def execMtrCtlWrite (w : RegWrite) (s : State) : Host.Outcome State Fault Refusal :=
  s.upd (fun h => h.hostWrite w mtrCtlChk (Hive.mtrCtlApp (wKey w)))

/-! ## Carrier tracking (R125 to R128) -/

/-- Maximal runs of occupied sub-bands by their places in the order of frequency, a gap of one unoccupied sub-band not breaking a
run: `k` is the next place (R110, R125). -/
def candRuns (occ : Nat → Bool) : Nat → Nat → Option (Nat × Nat) → List (Nat × Nat)
  | 0, _, cur => cur.toList
  | f + 1, k, cur =>
    match cur with
    | none => if occ k then candRuns occ f (k + 1) (some (k, k)) else candRuns occ f (k + 1) none
    | some (a, b) =>
      if occ k then candRuns occ f (k + 1) (some (a, k))
      else if k ≤ b + 1 then candRuns occ f (k + 1) cur
      else (a, b) :: candRuns occ f (k + 1) none

/-- Two ranges of places overlap. -/
def overlaps (a b : Nat × Nat) : Bool := decide (a.1 ≤ b.2) && decide (b.1 ≤ a.2)

/-- Candidates by falling power, ties to the lower first sub-band (R126). -/
def byPower (pw : Nat × Nat → Int) (xs : List (Nat × Nat)) : List (Nat × Nat) :=
  sortBy (fun a b => decide (pw a > pw b) || (decide (pw a = pw b) && decide (bandTurn a.1 ≤ bandTurn b.1))) xs

/-- Carrier entry `e` of a slot takes a candidate. -/
def Hive.carPut (h : Hive) (t e : Nat) (c : Nat × Nat) (pw : Int) : Hive :=
  let st := h.trkGet t
  let h := h.trkSet t { st with away := st.away.filter (fun p => p.1 != e) }
  let h := (h.set (F.trkCar_first t e) (bandTurn c.1)).set (F.trkCar_width t e) (c.2 - c.1)
  (h.set (F.trkCar_state t e) 1).setS (F.trkPwr_power t e) pw

/-- An appear event: it wakes each comb that watches the slot, if the slot's wake bit is 1 (R128, R229). -/
def Hive.appear (h : Hive) (t : Nat) : Hive :=
  if (h.trkGet t).wake then
    (List.range 64).foldl (fun h c =>
      let watch := (List.range 4).any (fun i => bitOf (h.get (F.wrkSleepCtl_watch_en c)) i &&
        bitsOf (h.get (F.wrkWatch_slots c)) (8 * i) 8 == t)
      if watch then h.combWake c else h) h
  else h

/-- The lowest free entry of a slot. -/
def Hive.carFree (h : Hive) (t : Nat) : Option Nat := (List.range 16).find? (fun e => h.get (F.trkCar_state t e) == 0)

/-- Candidates take free entries in their order; those that find none are left. -/
def Hive.acquire (h : Hive) (t : Nat) (pw : Nat × Nat → Int) : List (Nat × Nat) → Hive × List (Nat × Nat)
  | [] => (h, [])
  | c :: cs =>
    match h.carFree t with
    | some e => ((h.carPut t e c (pw c)).appear t).acquire t pw cs
    | none =>
      let (h, rest) := h.acquire t pw cs
      (h, c :: rest)

/-- Entries follow the candidates that overlap them, lower entries first, the stronger candidate first; an entry without
one is absent. Answers the candidates left over (R126). -/
def Hive.follow (h : Hive) (t : Nat) (pw : Nat × Nat → Int) : List Nat → List (Nat × Nat) → Hive × List (Nat × Nat)
  | [], cs => (h, cs)
  | e :: es, cs =>
    if h.get (F.trkCar_state t e) = 0 then h.follow t pw es cs
    else
      match byPower pw (cs.filter (fun c => overlaps c (h.carRange t e))) with
      | c :: _ => (h.carPut t e c (pw c)).follow t pw es (cs.filter (fun x => x != c))
      | [] =>
        let h := if h.get (F.trkCar_state t e) = 1 then
            let st := h.trkGet t
            (h.trkSet t { st with away := (e, h.ticks) :: st.away.filter (fun p => p.1 != e) }).set (F.trkCar_state t e) 2
          else h
        h.follow t pw es cs

/-- Entries in use are counted (R138). -/
def Hive.carCount (h : Hive) (t : Nat) : Hive :=
  h.set (F.trkStat_tracked t) ((List.range 16).filter (fun e => h.get (F.trkCar_state t e) != 0)).length

/-- The sub-bands of a gated group that the residue of its tracker's stream forces open (R169). -/
def Hive.forcedBy (h : Hive) (g : Nat) : List Nat :=
  let t := h.get (F.ugtCtl_trk_slot g)
  let map := Tbl.get (fun _ => ([] : List (List Nat))) h.gmap g
  ((h.trkGet t).res.flatMap (fun r => bandRange r.1 r.2)).flatMap (fun k => if map.isEmpty then [k] else map.getD k [])

/-- A publication in the cycle in which a tile ends counts for that tile (R169). -/
def Hive.tileForced (h : Hive) (t : Nat) : Hive :=
  (List.range 256).foldl (fun h g =>
    let u := h.ugtGet g
    match u.tile with
    | some x =>
      if h.flag (F.ugtCtl_en g) && h.get (F.ugtCtl_trk_slot g) == t && 32768 * (x.idx + 1) == h.gtc then
        h.ugtSet g { u with tile := some { x with res := h.forcedBy g } }
      else h
    | none => h) h

/-- The residue changes: its registers, and a PROTECT note with the residue power at each fold event (R127, R128). -/
def Hive.setResidue (h : Hive) (t : Nat) (res : List (Nat × Nat)) (power : Int) : Hive :=
  let was := h.flag (F.trkStat_fold t)
  let h := (h.trkSet t { h.trkGet t with res := res }).tileForced t
  let h := h.setFlag (F.trkStat_fold t) (!res.isEmpty)
  let old := h.get (F.trkRes_power t)
  let h := if res.isEmpty then h.set (F.trkRes_power t) 0x8000 else h.setS (F.trkRes_power t) power
  let h := h.set (F.trkRes_subbands t) ((res.map (fun r => r.2 + 1 - r.1)).foldl (· + ·) 0)
  if res.isEmpty == was then h.raise 0x08 0x04 (srcNoTrk t) 0 (if was then old else h.get (F.trkRes_power t)) else h

/-- A carrier absent for the release time leaves its entry (R125). -/
def Hive.carRelease (h : Hive) (t e : Nat) : Hive :=
  let st := h.trkGet t
  let due := st.away.any (fun p => p.1 == e && decide (p.2 + msOf st.release ≤ h.ticks))
  if h.get (F.trkCar_state t e) = 2 ∧ due then
    let h := h.trkSet t { st with away := st.away.filter (fun p => p.1 != e) }
    ((h.wr (R.trkCar t e) 0).wr (R.trkPwr t e) 0x8000).carCount t
  else h

/-- A valid window of a tracker slot (R125 to R128). -/
def Hive.trkWindow (h : Hive) (t n : Nat) (w : SpecWindow) : Hive :=
  let f := h.getS (F.npmFloor_floor n)
  let occ := fun (k : Nat) => decide (bandLevel w [bandTurn k] ≥ f + (h.trkGet t).detect)
  let pw := fun (c : Nat × Nat) => bandLevel w (bandRange c.1 c.2)
  let cs := candRuns occ 512 0 none
  -- entries whose release ends with this window are free for it (R128)
  let h := (List.range 16).foldl (fun h e => h.carRelease t e) h
  let (h, new) := h.follow t pw (List.range 16) cs
  let st := h.trkGet t
  -- a candidate of the residue stays acquired while it is present
  let folded := new.filter (fun c => st.res.any (overlaps c))
  let fresh := (new.filter (fun c => !st.res.any (overlaps c))).map (fun c =>
    (c, 1 + ((st.cand.filter (fun o => overlaps c (o.1, o.2.1))).map (fun o => o.2.2)).foldl max 0))
  let got := (fresh.filter (fun p => decide (p.2 ≥ st.acquire))).map (fun p => p.1)
  let h := h.trkSet t { st with cand := (fresh.filter (fun p => !decide (p.2 ≥ st.acquire))).map (fun p => (p.1.1, p.1.2, p.2)) }
  let (h, rest) := h.acquire t pw (byPower pw folded)
  let (h, rest2) := h.acquire t pw (byPower pw got)
  let res := rest ++ rest2
  (h.carCount t).setResidue t res (bandLevel w (res.flatMap (fun c => bandRange c.1 c.2)))

/-- CTRK_WINDOW_UPDATE: the tracker takes the window that has ended; an invalid one changes no entry (R126, R222), nor does one
without a floor. -/
def execCtrkWindowUpdate (t : TrkId) (s : State) : Host.Outcome State Fault Refusal :=
  s.upd (fun h =>
    let t := t.val
    let n := h.get (F.trkStat_stream t)
    let b := h.get (F.mtrCtl_spec_bank n)
    let sv := h.sieveGet b
    match (if h.flag (F.trkStat_valid t) && h.flag (F.mtrCtl_spec_en n) && sv.wtrk then sv.wdone else none) with
    | none => h
    | some w =>
      let h := h.sieveSet b { sv with wtrk := false }
      let st := h.trkGet t
      if st.skip then h.trkSet t { st with skip := false }
      else
        let h := h.stepOnTime (Tbl.get (fun _ => 0) h.trkWorker t)
        if w.valid && h.get (F.npmFloor_floor n) != 0x8000 then h.trkWindow t n w else h)

/-- CARRIER_RELEASE: a carrier absent for the release time leaves its entry (R125). -/
def execCarrierRelease (t : TrkId) (e : Fin 16) (s : State) : Host.Outcome State Fault Refusal :=
  s.upd (fun h => h.carRelease t.val e.val)

end Sys2Proof.Machine
end

