-- ==== Sys2Proof/Machine/Gating.lean ====
section
/-! DEFINITION. Noise-gated uplink combining: tiles, enables, learning of the floors, stuck sub-bands and reports (R161 to
R175). -/

namespace Sys2Proof.Machine

/-- The in-band set of a gated group (R162). -/
def Hive.ugtBands (h : Hive) (g : Nat) : List Nat := h.inbandOf (4096 + g)

/-- The stream that feeds input slot `i` of a group. -/
def Hive.slotStream (h : Hive) (g i : Nat) : Option Nat :=
  ((h.groupMembers g).find? (fun p => srcB (h.dest p.1 p.2) == i)).map (fun p => p.1)

/-- A slot enters LEARNING: floors and counts start again (R168, R173). -/
def Hive.ugtLearn (h : Hive) (g i : Nat) : Hive :=
  let sl := h.ugtSlot g i
  let h := h.ugtSetSlot g i { sl with subs := List.replicate 512 UgtSub.init, cnt := 0, back := inLearning }
  (h.set (F.ugtIn_state g i) (if h.get (F.ugtIn_state g i) = inPaused then inPaused else inLearning)).set (F.ugtIn_stuck g i) 0

/-- A slot is no longer used (R175). -/
def Hive.ugtFree (h : Hive) (g i : Nat) : Hive := (h.ugtSetSlot g i UgtSlot.init).wr (R.ugtIn g i) 0

/-- The floor of a sub-band as a fraction over a power of two. -/
def floorFrac (f : Nat × Nat) : Nat × Nat := (f.1 * 2 ^ f.2, 128)

/-- A fraction over a power of two as a floor holds it: rounded half to even to a mantissa m of 24 bits and an exponent e of 8, worth
m x 2^(e - 128) (R174). -/
def floorPack (x : Nat × Nat) : Nat × Nat :=
  if x.1 = 0 then (0, 0)
  else
    let up := x.1 * 2 ^ 24
    -- the places below the mantissa, after the shift by 24 bits
    let cut := Nat.log2 up - 23
    let m := roundEvenN up (2 ^ cut)
    let e := (if m = 2 ^ 24 then cut + 1 else cut) + 104
    if e < x.2 then (0, 0) else (if m = 2 ^ 24 then 2 ^ 23 else m, min 255 (e - x.2))

/-- The floor and enable selected by UGT.FLOOR_SEL are shown (R175). -/
def Hive.ugtShow (h : Hive) (g : Nat) : Hive :=
  let i := h.get (F.ugtFloorSel_slot g)
  let x := (h.ugtSlot g i).subs.getD (h.get (F.ugtFloorSel_subband g)) UgtSub.init
  let h := match x.floor with
    | some f => h.setS (F.ugtFloorRd_floor g) ((level (floorFrac f).1 (2 ^ 128 * fullSq)).getD (-30720))
    | none => h.set (F.ugtFloorRd_floor g) 0x8000
  ((h.setFlag (F.ugtFloorRd_en g) x.en).set (F.ugtFloorRd_why g) x.why).setFlag (F.ugtFloorRd_valid g)
    (h.get (F.ugtIn_state g i) != 0)

/-- A slot after a file is written: one that a stream newly feeds starts in LEARNING, PAUSED while the stream carries nothing; one
without a stream is free (R168, R173, R175). -/
def Hive.ugtSlotPut (h : Hive) (g i : Nat) (src : Option Nat) : Hive :=
  match (if h.flag (F.ugtCtl_en g) then src else none) with
  | none => if h.ugtSlot g i = UgtSlot.init ∧ h.get (F.ugtIn_state g i) = 0 then h else h.ugtFree g i
  | some n =>
    if (h.ugtSlot g i).src = n + 1 then h
    else
      let h := (h.ugtFree g i).ugtLearn g i
      (h.ugtSetSlot g i { h.ugtSlot g i with src := n + 1 }).ugtPause g i (h.npmRuns n)

/-- The gated groups after a file is written. -/
def Hive.ugtPut (h : Hive) : Hive :=
  (List.range 256).foldl (fun h g =>
    if !h.flag (F.ugtCtl_en g) && (h.ugtGet g).slots.isEmpty then h
    else ((List.range 64).foldl (fun h i => h.ugtSlotPut g i (h.slotStream g i)) h).ugtShow g) h

/-- Log2 of the sub-band samples in a tile of a slot's stream (R163). -/
def Hive.tileLog (h : Hive) (n : Nat) : Nat :=
  let t := h.tOut n
  Nat.log2 (64 * t.2 / max 1 t.1)

/-- E ≥ F x 10^(thr / 10), for energies given as numerators over powers of two (R165). -/
def tileAbove (e : Nat × Nat) (f : Option (Nat × Nat)) (thr : Int) : Bool :=
  match f with
  | none => false
  | some f => f.1 == 0 || !powLt (e.1 * 2 ^ f.2) (f.1 * 2 ^ e.2) 2560 thr

/-- F + 2^-a (E - F), exactly (R168). -/
def floorStep (a : Nat) (e f : Nat × Nat) : Nat × Nat :=
  let x := max e.2 f.2
  (f.1 * 2 ^ (x - f.2) * (2 ^ a - 1) + e.1 * 2 ^ (x - e.2), x + a)

/-- Energies compared. -/
def fracLt (e f : Nat × Nat) : Bool := decide (e.1 * 2 ^ f.2 < f.1 * 2 ^ e.2)

/-- Energies added. -/
def fracAdd (e f : Nat × Nat) : Nat × Nat :=
  let x := max e.2 f.2
  (e.1 * 2 ^ (x - e.2) + f.1 * 2 ^ (x - f.2), x)

/-- What a decision knows of a tile of one slot: its state, taint or filling, a group forced open, the tracker lost; the
registers thr, hang and the exponents; the in-band and forced-open sub-bands. -/
structure TileCtx where
  learning : Bool
  bad : Bool
  force : Bool
  lost : Bool
  thr : Int
  hang : Nat
  aLearn : Nat
  aTrack : Nat
  inb : List Nat
  res : List Nat
deriving DecidableEq, Repr

/-- The floor after a tile with energy `e`: a usable tile sets one that has none yet, a tile above threshold never changes it
(R168). -/
def floorNext (x : TileCtx) (usable above : Bool) (e : Nat × Nat) (fl : Option (Nat × Nat)) : Option (Nat × Nat) :=
  if !usable then fl
  else match fl with
    | none => some (floorPack e)
    | some f =>
      if above then some f
      else some (floorPack (floorStep (if x.learning || fracLt e (floorFrac f) then x.aLearn else x.aTrack) e (floorFrac f)))

/-- The decision for one sub-band with tile energy `e` (R165, R168). -/
def decideSub (x : TileCtx) (k : Nat) (e : Nat × Nat) (u : UgtSub) : UgtSub :=
  if !x.inb.contains k then { u with en := false, why := 5 }
  else
    let above := tileAbove e (u.floor.map floorFrac) x.thr
    let hangOn := decide (1 ≤ u.hang) && decide (u.hang ≤ x.hang)
    let res := x.res.contains k
    let forced := x.learning || x.bad || x.force || x.lost
    let en := above || hangOn || res || forced
    { floor := floorNext x (!x.bad && !res && !x.lost) above e u.floor
      hang := if above then 1 else if u.hang = 0 ∨ u.hang ≥ 65535 then 0 else u.hang + 1
      above := if above && !res && !x.lost then u.above + 1 else 0
      stuck := u.stuck && en
      en := en
      why := if above then 1 else if hangOn then 2 else if res then 3 else if forced then 4 else 0 }

/-- A sub-band of a slot whose instance is lost: open, with its floor kept and the hang a tile older (R170). -/
def openSub (inb : List Nat) (k : Nat) (u : UgtSub) : UgtSub :=
  if inb.contains k then
    { u with en := true, why := 4, hang := if u.hang = 0 ∨ u.hang ≥ 65535 then 0 else u.hang + 1, above := 0 }
  else { u with en := false, why := 5 }

/-- A slot counts in the report while it is active (R42, R172). -/
def Hive.slotActive (h : Hive) (g i : Nat) : Bool :=
  bitOf (h.cgAct g) i && h.get (F.ugtIn_state g i) != inPaused && h.get (F.ugtIn_state g i) != 0

/-- A slot's enables are in force for tile `j`: its open count and the report's sums (R166, R172, R175). -/
def Hive.slotDone (h : Hive) (g i j : Nat) (sl : UgtSlot) : Hive :=
  let inb := h.ugtBands g
  let bits := ((List.range 512).zip sl.subs).foldl (fun m x => setBit m x.1 x.2.en) 0
  let sl := { sl with ens := ((j, bits) :: sl.ens).take 3 }
  let n := (sl.subs.filter (fun x => x.en)).length
  let stuck := (sl.subs.filter (fun x => x.stuck)).length
  let h := ((h.ugtSetSlot g i sl).set (F.ugtIn_open_ g i) n).set (F.ugtIn_stuck g i) stuck
  if h.slotActive g i then
    let u := h.ugtGet g
    let fs := inb.map (fun k => sl.subs.getD k UgtSub.init)
    let sumF := fs.foldl (fun a x => fracAdd a (floorFrac (x.floor.getD (0, 0)))) u.sumF
    let sumEF := fs.foldl (fun a x => if x.en then fracAdd a (floorFrac (x.floor.getD (0, 0))) else a) u.sumEF
    h.ugtSet g { u with ones := u.ones + n, sumF := sumF, sumEF := sumEF, act := setBit u.act i true }
  else h

/-- A tile has been dealt with: slots whose LEARNING starts with the next one, the tile count, the floor shown. -/
def Hive.tileDone (h : Hive) (g : Nat) (rl : List Nat) : Hive :=
  let h := rl.foldl (fun h i => if h.get (F.ugtIn_state g i) = 0 then h else h.ugtLearn g i) h
  let u := h.ugtGet g
  (h.ugtSet g { u with tile := none, tiles := u.tiles + 1 }).ugtShow g

/-- One slot's part of a tile's decision; `late` says that no decision was made in time (R165, R168, R170). -/
def Hive.slotTile (h : Hive) (g i n : Nat) (x : TileSt) (late : Bool) : Hive :=
  let st := h.get (F.ugtIn_state g i)
  let sl := h.ugtSlot g i
  let inb := h.ugtBands g
  if st = inPaused ∨ st = 0 then h
  else if late && h.flag (F.ugtStat_fail_open g) then
    h.slotDone g i x.idx { sl with subs := (List.range 512).map (fun k => openSub inb k (sl.subs.getD k UgtSub.init)) }
  else
    let bad := x.tainted.getD i false || x.filling.getD i false
    let lost := h.flag (F.ugtStat_trk_lost g)
    let ctx : TileCtx :=
      { learning := st == inLearning, bad := bad, force := x.force || late, lost := lost, thr := x.thr, hang := x.hang
        aLearn := h.get (F.ugtLearn_a_learn g), aTrack := h.get (F.ugtLearn_a_track g), inb := inb, res := x.res }
    let row := x.sums.getD i []
    let lg := h.tileLog n
    let subs := (List.range 512).map (fun k => decideSub ctx k (4 * row.getD k 0, lg) (sl.subs.getD k UgtSub.init))
    h.slotDone g i x.idx { sl with subs := subs, cnt := if st = inLearning ∧ !bad ∧ !lost then sl.cnt + 1 else sl.cnt }

/-- The tile that has ended is dealt with, decided or late (R165 to R168, R170). -/
def Hive.ugtTile (h : Hive) (g : Nat) (x : TileSt) (late : Bool) : Hive :=
  let h := if late then h.bump (F.ugtStat_late g) 1 else h.stepOnTime (h.runsOn (h.get (F.ugtCtl_worker g)))
  let h := (List.range 64).foldl (fun h i =>
    match h.slotStream g i with
    | none => h
    | some n => h.slotTile g i n x late) h
  h.tileDone g x.relearn

/-- No decision within 2,048 ticks: the group is open for the tile, which is counted (R170). -/
def Hive.ugtLate (h : Hive) (g : Nat) : Hive :=
  match (h.ugtGet g).tile with
  | none => h
  | some x => h.ugtTile g x true

/-- The tick by which a tile's enables are due (R166). -/
def TileSt.due (x : TileSt) : Nat := 32768 * (x.idx + 1) + 2048

/-- UGT_DECISION: the UGT worker's enables for the tile that has ended; one after 2,048 ticks comes too late. -/
def execUgtDecision (g : GroupId) (s : State) : Host.Outcome State Fault Refusal :=
  s.upd (fun h =>
    match (if h.flag (F.ugtCtl_en g.val) then (h.ugtGet g.val).tile else none) with
    | none => h
    | some x => h.ugtTile g.val x (decide (x.due < h.gtc)))

/-- UGT_DECISION_LATE: at 2,048 ticks after the tile's end. -/
def execUgtDecisionLate (g : GroupId) (s : State) : Host.Outcome State Fault Refusal :=
  s.upd (fun h =>
    match (if h.flag (F.ugtCtl_en g.val) then (h.ugtGet g.val).tile else none) with
    | none => h
    | some x => if x.due ≤ h.gtc then h.ugtTile g.val x true else h)

/-- TILE_END: at GTC mod 32,768 = 0 the accumulators deliver the tile's sums and marks; what its decision uses is taken as it
stands, and LEARNING asked for by relearn starts with the next tile (R163, R164, R168, R169, R173). -/
def execTileEnd (g : GroupId) (s : State) : Host.Outcome State Fault Refusal :=
  s.upd (fun h =>
    let g := g.val
    if h.flag (F.ugtCtl_en g) && decide (h.gtc % 32768 = 0) && decide (h.gtc ≠ 0) then
      -- a tile before that has had no decision is late
      let h := h.ugtLate g
      let rl := (List.range 64).filter (fun i => h.flag (F.ugtIn_relearn g i))
      let h := rl.foldl (fun h i => h.hwClear (F.ugtIn_relearn g i)) h
      let h := h.useReg (R.ugtThr g) (srcNoGated g) []
      let j := h.gtc / 32768 - 1
      let accs := (List.range 64).map (fun i =>
        match (h.slotStream g i).bind (fun n => h.analysisOf g n) with
        | some b => if (h.sieveGet b).accTile = j then h.sieveGet b else BankSt.init
        | none => BankSt.init)
      let x : TileSt :=
        { idx := j, sums := accs.map (fun a => a.acc), tainted := accs.map (fun a => a.accTaint)
          filling := accs.map (fun a => a.accFill), relearn := rl, thr := h.rwcS (R.ugtThr g)
          hang := h.get (F.ugtHang_hang g), force := h.flag (F.ugtCtl_force_open g), res := h.forcedBy g }
      h.ugtSet g { h.ugtGet g with tile := some x }
    else h)

/-- Group and slot of an address in UGT.IN. -/
def ugtOfAddr (a : Nat) : Nat × Nat := ((a - 0x4D0000) / 0x200, ((a - 0x4D0000) % 0x200 - 0x100) / 4)

/-- A write to UGT.IN: relearn clears the slot's hang counts (R173). -/
def Hive.ugtInApp (a : Nat) (h : Hive) (v : Nat) : Hive :=
  let h := h.applyTypes a v
  let (g, i) := ugtOfAddr a
  if bitOf v 2 then
    let sl := h.ugtSlot g i
    if sl.subs.isEmpty then h else h.ugtSetSlot g i { sl with subs := sl.subs.map (fun x => { x with hang := 0 }) }
  else h

/-- UGT_RELEARN: a write to UGT.IN; relearn reads 1 until the next tile (R168, R175). -/
def execUgtRelearn (w : RegWrite) (s : State) : Host.Outcome State Fault Refusal :=
  s.upd (fun h => h.hostWrite w (fun _ _ => stOk) (Hive.ugtInApp (wKey w)))

/-- UGT_LEARN_COMPLETE: learn_t usable tiles; the slot is GATING (R168). -/
def execUgtLearnComplete (g : GroupId) (i : Fin 64) (s : State) : Host.Outcome State Fault Refusal :=
  s.upd (fun h =>
    if h.get (F.ugtIn_state g.val i.val) = inLearning ∧
        max 1 (h.get (F.ugtLearn_learn_t g.val)) ≤ (h.ugtSlot g.val i.val).cnt then
      h.set (F.ugtIn_state g.val i.val) inGating
    else h)

/-- UGT_STUCK: a sub-band above threshold in every tile for stuck_s seconds (30,000 tiles each); the first of an input
raises PROTECT at L1 (R168). -/
def execUgtStuck (g : GroupId) (i : Fin 64) (k : Fin 512) (s : State) : Host.Outcome State Fault Refusal :=
  s.upd (fun h =>
    let g := g.val
    let i := i.val
    let sl := h.ugtSlot g i
    let x := sl.subs.getD k.val UgtSub.init
    let secs := h.get (F.ugtLearn_stuck_s g)
    if secs ≠ 0 ∧ !x.stuck ∧ secs * 30000 ≤ x.above then
      let h := h.ugtSetSlot g i { sl with subs := sl.subs.set k.val { x with stuck := true } }
      let n := h.get (F.ugtIn_stuck g i)
      let h := h.set (F.ugtIn_stuck g i) (n + 1)
      if n = 0 then h.raise 0x08 0x08 (srcNoGated g) 1 0 else h
    else h)

/-- UGT_REPORT: every 1,024 tiles, at GTC mod 33,554,432 = 0 (R172). -/
def execUgtReport (g : GroupId) (s : State) : Host.Outcome State Fault Refusal :=
  s.upd (fun h =>
    let g := g.val
    if h.flag (F.ugtCtl_en g) && decide (h.gtc % 33554432 = 0) then
      let u := h.ugtGet g
      let inb := (h.ugtBands g).length
      let h := (h.ugtSet g { u with tiles := 0, ones := 0, sumF := (0, 0), sumEF := (0, 0), act := 0 }).set (F.ugtActive_inband g) inb
      let den := u.tiles * inb
      if u.act = 0 ∨ den = 0 then
        let h := (h.set (F.ugtReport_saving g) 0x8000).setFlag (F.ugtReport_valid g) false
        (h.setFlag (F.ugtReport_allclosed g) false).set (F.ugtActive_active g) 0x8000
      else
        let closed := u.ones == 0
        let save : Int :=
          if closed then 15360
          else
            min 15360 (max 0 ((dbPower (u.sumF.1 * 2 ^ u.sumEF.2) (u.sumEF.1 * 2 ^ u.sumF.2)).getD 15360))
        let h := (h.setS (F.ugtReport_saving g) save).setFlag (F.ugtReport_valid g) true
        (h.setFlag (F.ugtReport_allclosed g) closed).set (F.ugtActive_active g) (roundEvenN (256 * u.ones) den)
    else h)

/-- The UGT kernel restarts cold: every slot enters LEARNING (R170). -/
def Hive.ugtCold (h : Hive) (g : Nat) : Hive :=
  (List.range 64).foldl (fun h i => if h.get (F.ugtIn_state g i) = 0 then h else h.ugtLearn g i) h

/-- The ranges of UGT.THR (1-20 dB) and of the exponents of UGT.LEARN (1-15). -/
def ugtThrChk (_ : Hive) (v : Nat) : Nat := if 256 ≤ sext 16 v ∧ sext 16 v ≤ 5120 then stOk else stBadArg
def ugtLearnChk (_ : Hive) (v : Nat) : Nat := if 1 ≤ bitsOf v 16 4 ∧ 1 ≤ bitsOf v 20 4 then stOk else stBadArg

end Sys2Proof.Machine
end

