-- ==== Sys2Proof/Machine/Cancellers.lean ====
section
/-! DEFINITION. The feedback canceller: the probe, the blocks with the estimate's update, publications, convergence, the collapse
detector, and the re-probe sweep (R140 to R160). -/

namespace Sys2Proof.Machine

/-- Canceller states (R160). -/
def fbOff : Nat := 0
def fbAcquiring : Nat := 1
def fbConverged : Nat := 2
def fbReacquiring : Nat := 3

/-- The canceller works: enabled, its state not off, its comb awake and its kernel not lost (R156, R228). -/
def Hive.fbWorks (h : Hive) (c : Nat) : Bool :=
  let w := h.runsOn (h.get (F.fbcBulk_worker0 c))
  h.flag (F.fbcCtl_en c) && h.get (F.fbcStat_state c) != fbOff && h.combAwake (w / 8) && !(h.wget w).lost

/-! ## The probe (R144 to R146) -/

/-- One step of the shift register x^23 + x^18 + 1: its output bit and the next state (R144). -/
def lfsrStep (s : Nat) : Nat × Nat :=
  let o := s / 2 ^ 22 % 2
  (o, (s * 2 + (o + s / 2 ^ 17) % 2) % 2 ^ 23)

/-- The filter's input for a sample: A times the signs of the next two output bits (R144). -/
def probeRaw (a : Nat) (s : Nat) : (Int × Int) × Nat :=
  let b := lfsrStep s
  let b' := lfsrStep b.2
  (((a : Int) * (1 - 2 * (b.1 : Int)), (a : Int) * (1 - 2 * (b'.1 : Int))), b'.2)

/-- The amplitude A, in units of 2^-32, at which white signs through a filter of taps `hs` have the power of the level `v` (R145). -/
def probeAmp (hs : List Int) (v : Option Int) : Nat :=
  let p := 2 * (hs.map (fun t => (t * t).toNat)).foldl (· + ·) 0
  match v with
  | none => 0
  | some v =>
    if p = 0 then 0
    else (leastFrom (fun y => !powLt (y.toNat ^ 2 * p) (fullSq * 2 ^ 98) 2560 v) 0 80 (2 ^ 64)).toNat

/-- The next sample of the shaped probe, with the register and the filter advanced (R144, R145). -/
def EchoSt.probe (e : EchoSt) (hs : List Int) (a : Nat) : (Int × Int) × EchoSt :=
  let (x, s) := probeRaw a e.lfsr
  let raw := (x :: e.raw).take hs.length
  (cRound (cSum ((hs.zip raw).map (fun t => cScale t.1 t.2))) (2 ^ 17), { e with lfsr := s, raw := raw })

/-! ## Blocks (R147, R148) -/

/-- The reference sample of absolute number `i`, and the probe in it. -/
def EchoSt.refAt (e : EchoSt) (i : Int) : (Int × Int) × (Int × Int) :=
  if 1 ≤ i ∧ i ≤ e.refN then e.ref.getD ((e.refN : Int) - i).toNat ((0, 0), (0, 0)) else ((0, 0), (0, 0))

/-- The FFT of the 2B reference samples, or of the probe in them, that end at number `last` (R147). -/
def EchoSt.spectrum (e : EchoSt) (b : Nat) (last : Int) (probe : Bool) : List (Int × Int) :=
  dft (2 * b) ((List.range (2 * b)).map (fun (m : Nat) =>
    let r := e.refAt (last - (2 * (b : Int) - 1 - m))
    if probe then r.2 else cScale echoOne r.1))

/-- Bin values summed with those of other partitions: the whole of two lists. -/
def listAdd (a b : List (Int × Int)) : List (Int × Int) := if a.isEmpty then b else List.zipWith cAdd a b

/-- The echo estimate of a block: the last B samples of the inverse transform of the sum over partitions (R147). -/
def echoOf (b : Nat) (est : List (Nat × List (Int × Int))) (xs : List (List (Int × Int))) : List (Int × Int) :=
  let z := (est.zip xs).foldl (fun acc p =>
    listAdd acc (List.zipWith (fun m x => cRound (cMul m x) (2 ^ 151)) (estVals p.1) p.2)) []
  (idft (2 * b) z).drop b

/-- A new estimate of zeros. -/
def estZero (b p : Nat) : List (Nat × List (Int × Int)) := List.replicate p (0, List.replicate (2 * b) (0, 0))

/-- A partition's update: H + E conj(Q) / S_q x 2^-mu on the in-band bins; `den` over `num` is 2^mu S_q (R147). -/
def estUpdate (bins : List Nat) (num den : Nat) (es qs : List (Int × Int)) (p : Nat × List (Int × Int)) : Nat × List (Int × Int) :=
  let step := (es.zip qs).map (fun x => cScale ((num * 2 ^ 151 : Nat) : Int) (cMul x.1 (cConj x.2)))
  estPack den (bandOnly bins (List.zipWith (fun m d => cAdd (cScale den m) d) (estVals p) step))

/-- A partition's taps: the inverse transform in units of 2^-151. -/
def estTaps (b : Nat) (p : Nat × List (Int × Int)) : List (Int × Int) := idft (2 * b) (estVals p)

/-- The constraint on one partition: its last B taps are zeroed (R147). -/
def estConstrain (b : Nat) (bins : List Nat) (p : Nat × List (Int × Int)) : Nat × List (Int × Int) :=
  estPack 1 (bandOnly bins (dft (2 * b) ((estTaps b p).take b ++ List.replicate b (0, 0))))

/-- The taps of a whole estimate, T = P x B (R141). -/
def allTaps (b : Nat) (est : List (Nat × List (Int × Int))) : List (Int × Int) := est.flatMap (fun p => (estTaps b p).take b)

/-- The block that waits for its step at block number `j`: its samples and the reference samples until its end. -/
def EchoSt.ready (e : EchoSt) (j : Nat) : Option (List Sample × Nat) :=
  if e.next > j ∨ j = 0 then none
  else if e.vblk + 1 = j ∧ !e.vcur.isEmpty then some (e.vcur, e.refN)
  else match e.vold with
    | some (b, xs, n) => if b + 1 = j then some (xs, n) else none
    | none => none

/-- The 10th percentile of naturals: rank n / 10 rounded up (R145). -/
def tenthOf (xs : List Nat) : Nat := (sortBy (fun a b => decide (a ≤ b)) xs).getD ((xs.length + 9) / 10 - 1) 0

/-- The statistics take a block: its noise and error powers, and on an update its bins (R145, R148, R150). -/
def FbWin.add (w : FbWin) (win b : Nat) (bins : List Nat) (es : List (Int × Int)) (err : List (Int × Int))
    (upd : Option (List (Int × Int))) : FbWin :=
  let w := if w.win = win then w else { FbWin.init with win := win }
  let pw := es.map cSq
  let noise := tenthOf (bins.map (fun k => pw.getD k 0)) * bins.length / (2 * b * b)
  let w := { w with
    blocks := w.blocks + 1, noise := w.noise + noise, n := w.n + err.length, pe := w.pe + (err.map cSq).foldl (· + ·) 0 }
  match upd with
  | none => w
  | some g => { w with upd := w.upd + 1, g := listAdd w.g g, e2 := sumsAdd w.e2 pw }

/-- The set-point of the stream's MARGIN loop (R154). -/
def Hive.fbTarget (h : Hive) (n : Nat) : Int :=
  match h.slotsOfType n 2 with
  | s :: _ => h.rwcS (R.gceSetp s)
  | [] => 0

/-- The K taps with the largest power, the lower first among equals (R153). -/
def principal (k : Nat) (taps : List (Int × Int)) : List Nat :=
  ((sortBy (fun (a b : Nat × Nat) => decide (b.2 < a.2) || (decide (b.2 = a.2) && decide (a.1 ≤ b.1)))
    ((List.range taps.length).zip (taps.map cSq))).take k).map (fun p => p.1)

/-- d_fast and d_res of a window of `n` samples: sums of e conj(q) at the K lags, |q|^2, |e|^2, and the taps' power (R153). -/
def fbFigures (n : Nat) (c : List (Int × Int)) (q2 e2 eh : Nat) : Option Int × Option Int :=
  let bias := c.length * e2 * q2
  let top := max (2 * ((c.map cSq).foldl (· + ·) 0 * n) - 2 * bias) bias
  (dbPower (eh * (2 * n * q2 * q2)) (2 ^ 302 * top), (dbPower (eh * (n * q2)) (2 ^ 302 * (c.length * e2))).map (fun v => v + 768))

/-- The detector takes a block of number `j`: e against the probe at the K lags, in blocks that count, and at the end of its window
forms the figures (R153, R156). -/
def Hive.fbWindow (h : Hive) (c j : Nat) (err : List (Int × Int)) (counts : Bool) (last : Int) : Hive :=
  let n := h.get (F.fbcCtl_stream c)
  let st := h.cancGet c
  let b := h.fbB c
  let len := max 1 (h.get (F.fbcDet_w_det c))
  let k := h.get (F.fbcDet_k_taps c)
  let anew := st.det.len ≠ len ∨ st.det.win ≠ j / len ∨ j % len = 0
  let taps := if st.taps.isEmpty then principal k (allTaps b st.est) else st.taps
  let d := if anew then ⟨len, j / len, h.rwcS (R.fbcCollapse c), h.fbTarget n, taps.map (fun _ => (0, 0)), 0, 0⟩ else st.det
  let first := last - b + 1
  let bulk : Int := h.get (F.fbcBulk_bulk c)
  let idx := (List.range b).zip err
  let d := if !counts then d else { d with
    c := List.zipWith (fun acc (t : Nat) =>
      idx.foldl (fun acc x => cAdd acc (cMul x.2 (cConj (st.e.refAt (first + x.1 - bulk - t)).2))) acc) d.c taps
    q2 := idx.foldl (fun acc x => acc + cSq (st.e.refAt (first + x.1)).2) d.q2
    e2 := (err.map cSq).foldl (· + ·) d.e2 }
  let h := h.cancSet c { st with det := d, taps := taps }
  if (j + 1) % len = 0 ∧ h.npmRuns n then
    let all := allTaps b st.est
    let eh := (taps.map (fun t => cSq (all.getD t (0, 0)))).foldl (· + ·) 0
    let f := fbFigures (len * b) d.c d.q2 d.e2 eh
    h.cancSet c { h.cancGet c with res := some ⟨h.ticks, f.1, f.2, d.col, d.tgt⟩ }
  else h

/-- The 64-bit update count (R160). -/
def Hive.fbUpdates (h : Hive) (c : Nat) : Nat := h.getPair (R.fbcUpdLo c) (R.fbcUpdHi c)

/-- Updates that ACQUIRING, or REACQUIRING with its boost, lasts (R151, R155). -/
def Hive.fbCount (h : Hive) (c : Nat) : Nat :=
  let mu := h.get (F.fbcAdapt_mu_exp c)
  if h.get (F.fbcStat_state c) = fbReacquiring then 2 ^ (mu + 2 - h.get (F.fbcAdapt_boost c)) else 2 ^ (mu + 2)

/-- The update of the estimate on block `j`, with what the statistics take of it; none while no probe has passed (R147, R155). -/
def Hive.fbUpdate (h : Hive) (c j : Nat) (last : Int) (es : List (Int × Int)) : Option (List (Nat × List (Int × Int)) × List (Int × Int)) :=
  let st := h.cancGet c
  let b := h.fbB c
  let bins := h.fbBins c
  let boost := if h.get (F.fbcStat_state c) = fbReacquiring then h.get (F.fbcAdapt_boost c) else 0
  let qs := (List.range (h.fbP c)).map (fun p => st.e.spectrum b (last - (p * b : Nat)) true)
  let power := ((qs.flatMap (fun q => bins.map (fun k => cSq (q.getD k (0, 0))))).foldl (· + ·) 0)
  let num := h.fbP c * bins.length
  if power = 0 then none
  else
    let est := (st.est.zip qs).map (fun x => estUpdate bins (num * 2 ^ boost) (power * 2 ^ h.get (F.fbcAdapt_mu_exp c)) es x.2 x.1)
    let p := j % max 1 (h.fbP c)
    let est := match est[p]? with
      | some x => est.set p (estConstrain b bins x)
      | none => est
    some (est, (es.zip (qs.headD [])).map (fun x => cRound (cScale ((num * 2 ^ 40 : Nat) : Int) (cMul x.1 (cConj x.2))) power))

/-- The step of the canceller for block `j` (R140, R146 to R148): the echo estimate is subtracted, the probe added while the stream
is RAMP_UP, LIVE or RAMP_DOWN, and the samples wait to be returned; the estimate is updated where R148 allows. -/
def Hive.fbStep (h : Hive) (c j : Nat) (vs : List Sample) (refs : Nat) : Hive :=
  let n := h.get (F.fbcCtl_stream c)
  let b := h.fbB c
  let h := h.stepOnTime (h.runsOn (h.get (F.fbcBulk_worker0 c)))
  let st := h.cancGet c
  let full := decide (vs.length = b)
  let v := List.replicate (b - vs.length) Sample.zero ++ vs.take b
  let last : Int := (refs : Int) - h.get (F.fbcBulk_bulk c)
  let xs := (List.range (h.fbP c)).map (fun p => st.e.spectrum b (last - (p * b : Nat)) false)
  let err := List.zipWith (fun x y => cAdd (cScale echoOne (x.i, x.q)) (cScale (-1) y)) v (echoOf b st.est xs)
  let hs := Tbl.get (fun _ => ([] : List Int)) h.shapes c
  let amp := probeAmp hs st.probe
  let runs := h.npmRuns n
  let made := (v.zip err).foldl (fun (a : List (Sample × (Int × Int)) × EchoSt × Bool) x =>
    let (p, e) := a.2.1.probe hs amp
    let p := if runs then p else (0, 0)
    let r := cRound (cAdd x.2 p) echoOne
    let hit := satHit r.1 || satHit r.2
    (a.1 ++ [(⟨sat16 r.1, sat16 r.2, x.1.ovr || hit⟩, p)], e, a.2.2 || hit)) ([], st.e, false)
  let h := if made.2.2 then h.hwSet (F.rteStatus_ovr n) else h
  let e := { made.2.1 with
    next := j + 1, outq := made.2.1.outq ++ made.1.drop (b - vs.length)
    vcur := if st.e.vblk = j then [] else made.2.1.vcur, vold := if st.e.vblk = j then made.2.1.vold else none }
  let adapting := full && h.st n == stLive && !vs.any (fun x => x.ovr) && !h.flag (F.fbcAdapt_freeze c)
  let h := (h.cancSet c { st with e := e }).setFlag (F.fbcStat_adapting c) adapting
  let h := h.fbWindow c j err adapting (refs : Int)
  let es := dft (2 * b) (List.replicate b (0, 0) ++ err)
  let upd := if adapting && decide (j % 2 ^ h.get (F.fbcAdapt_q c) = 0) then h.fbUpdate c j last es else none
  let st := h.cancGet c
  let adapt := if st.win.win = j / 64 then st.adapt else 0
  let win := st.win.add (j / 64) b (h.fbBins c) es err (upd.map (fun u => u.2))
  let h := h.cancSet c { st with
    adapt := if adapting then adapt + 1 else adapt, win := win
    est := (upd.map (fun u => u.1)).getD st.est, upd := if upd.isSome then st.upd + 1 else st.upd }
  if upd.isSome then h.setPair (R.fbcUpdLo c) (R.fbcUpdHi c) ((h.fbUpdates c + 1) % 2 ^ 64) else h

/-- The block that ends here takes its step, once (R147). -/
def Hive.fbDo (h : Hive) (c : Nat) : Hive :=
  let j := h.gtc / max 1 (h.fbBlock c)
  match (h.cancGet c).e.ready j with
  | some (vs, refs) => h.fbStep c (j - 1) vs refs
  | none => h

/-- FBC_BLOCK: at a block boundary, GTC mod (B x t_s) = 0 (R147). -/
def execFbcBlock (c : CancId) (s : State) : Host.Outcome State Fault Refusal :=
  s.upd (fun h => if h.fbWorks c.val && decide (h.gtc % max 1 (h.fbBlock c.val) = 0) then h.fbDo c.val else h)

/-- The probe level moves towards its target by at most 1 dB (R145). -/
def probeMove (cur : Option Int) (want : Int) : Int :=
  match cur with
  | none => want
  | some p => if want > p + 256 then p + 256 else if want < p - 256 then p - 256 else want

/-- A figure with its bin and marks (R160). -/
def Hive.fbFigure (h : Hive) (a : Nat) (v : Int) (bin : Nat) (design : Bool) : Hive :=
  let h := h.setFit ⟨a, 0, 16⟩ v
  ((h.set ⟨a, 16, 11⟩ bin).setFlag ⟨a, 30, 1⟩ design).setFlag ⟨a, 31, 1⟩ true

/-- The response of the whole estimate in bin `k`, in units of 2^-151 (R150). -/
def estTotal (est : List (Nat × List (Int × Int))) (k : Nat) : Int × Int :=
  cSum (((List.range est.length).zip est).map (fun x =>
    cScale ((if k % 2 = 1 ∧ x.1 % 2 = 1 then -1 else 1) * (2 ^ x.2.1 : Nat)) (x.2.2.getD k (0, 0))))

/-- The running mean G of a bin after a window: G + 2^-6 (window mean - G), in units of 2^-40 (R150). -/
def gNext (g sum : Int × Int) (n : Nat) : Int × Int :=
  if n = 0 then g else cRound (cAdd (cScale (63 * n : Nat) g) sum) (64 * n)

/-- Isolation and depth of an in-band bin; none where the estimate has no response (R150). -/
def binFigures (tot g : Int × Int) (bias : Nat) : Option (Int × Int) :=
  let rho := cSq g - bias
  match dbPower (2 ^ 302) (cSq tot) with
  | none => none
  | some iso => some (iso, if rho = 0 then 11520 else min 11520 ((dbPower (cSq tot * 2 ^ 80) (rho * 2 ^ 302)).getD 11520))

/-- The bin with the smallest margin, with its isolation and depth; among equals a free one, and free figures where no bin has any
(R150). -/
def Hive.fbWeakest (h : Hive) (c : Nat) : Hive × Nat × Int × Int :=
  let st := h.cancGet c
  let fs := (h.fbBins c).filterMap (fun k =>
    let bias := Config.noiseBias (st.win.e2.getD k 0) st.win.upd st.gN
    (binFigures (estTotal st.est k) (st.g.getD k (0, 0)) bias).map (fun f => (k, f)))
  match fs with
  | [] =>
    let (w, h) := h.draw
    (h, bitsOf w 0 11, sext 16 w, sext 16 (w / 2 ^ 16))
  | f :: rest =>
    let low := rest.foldl (fun m x => min m (x.2.1 + x.2.2)) (f.2.1 + f.2.2)
    let (h, k) := h.pick ((fs.filter (fun x => x.2.1 + x.2.2 == low)).map (fun x => x.1))
    (h, match fs.find? (fun x => x.1 == k) with | some x => (k, x.2.1, x.2.2) | none => (k, f.2.1, f.2.2))

/-- A publication's window enters the running means, and the detector's taps are chosen anew (R150, R153). -/
def Hive.fbMean (h : Hive) (c : Nat) : Hive :=
  let st := h.cancGet c
  let bins := List.range (2 * h.fbB c)
  let g := bins.map (fun k => gNext (st.g.getD k (0, 0)) (st.win.g.getD k (0, 0)) st.win.upd)
  let taps := principal (h.get (F.fbcDet_k_taps c)) (allTaps (h.fbB c) st.est)
  h.cancSet c { st with g := g, gN := st.gN + st.win.upd, taps := taps }

/-- The figures of a publication (R150 to R155): margin = isolation + depth - gain. -/
def Hive.fbPublish (h : Hive) (c : Nat) : Hive :=
  let n := h.get (F.fbcCtl_stream c)
  let st := h.cancGet c
  let h := h.fbMean c
  let state := h.get (F.fbcStat_state c)
  let design := state == fbAcquiring
  let (h, bin, iso, depth) := if design then ((h.useReg (R.fbcIsoDesign c) (srcNoCanc c) [n]), h.get (F.fbcIso_bin c), h.rwcS (R.fbcIsoDesign c), 0)
    else h.fbWeakest c
  let d1 := match st.bound with | some d => min depth d | none => depth
  let d2 := match st.latest with | some d => if state = fbReacquiring then min d1 d else d1 | none => d1
  let gain := h.getS (F.gceG_in_force n)
  let margin := iso + d2 - gain
  let h := h.fbFigure (R.fbcIso c) iso bin design
  let h := (h.fbFigure (R.fbcDepth c) d2 bin design).fbFigure (R.fbcMargin c) margin bin design
  -- N_in, and the ratio of probe echo to the rest, in dBFS of samples with 32 fraction bits (R145)
  let nin := (level st.win.noise (st.win.blocks * fullSq * 2 ^ 64)).getD (-30720)
  let pe := (level st.win.pe (st.win.n * fullSq * 2 ^ 64)).getD (-30720)
  let h := match st.probe with
    | some l => h.setFit (F.fbcPir_pir c) (l + gain - iso - pe)
    | none => let (w, h) := h.draw; h.set (F.fbcPir_pir c) w
  let h := h.setFit (F.fbcPir_nin c) nin
  let down : Int := if state = fbReacquiring then 10 else h.get (F.fbcProbe_d c)
  let ok := if margin ≥ h.fbTarget n then min 64 (st.okPubs + 1) else 0
  let h := h.cancSet c { h.cancGet c with
    bound := none, adapt := 0, okPubs := ok, probe := some (probeMove st.probe (nin - down * 256)) }
  let h := if state = fbConverged ∧ ok = 64 then h.set (F.fbcCeil_ceiling c) 0x7FFF else h
  (h.freshen n 2).npmMargin n margin

/-- FBC_PUBLICATION: every 64 blocks; fewer than 32 adapting blocks leave the figures as they were (R152). -/
def execFbcPublication (c : CancId) (s : State) : Host.Outcome State Fault Refusal :=
  s.upd (fun h =>
    let c := c.val
    let b := h.fbBlock c
    if h.fbWorks c && decide (h.gtc % max 1 (64 * b) = 0) && h.st (h.get (F.fbcCtl_stream c)) != stMuted then
      let h := h.fbDo c
      if (h.cancGet c).win.win + 1 = h.gtc / max 1 (64 * b) ∧ 32 ≤ (h.cancGet c).adapt then h.fbPublish c else h
    else h)

/-- FBC_CONVERGED: ACQUIRING ends after 2^(mu_exp + 2) updates (R151). -/
def execFbcConverged (c : CancId) (s : State) : Host.Outcome State Fault Refusal :=
  s.upd (fun h =>
    let c := c.val
    if h.get (F.fbcStat_state c) = fbAcquiring ∧ h.st (h.get (F.fbcCtl_stream c)) ≠ stMuted ∧ h.fbCount c ≤ (h.cancGet c).upd then
      (h.set (F.fbcStat_state c) fbConverged).cancSet c { h.cancGet c with upd := 0 }
    else h)

/-- A canceller begins REACQUIRING (R151, R155). -/
def Hive.fbReacquire (h : Hive) (c : Nat) : Hive :=
  (h.set (F.fbcStat_state c) fbReacquiring).cancSet c { h.cancGet c with upd := 0 }

/-- The isolation in force: what is published, or the design value before anything is (R151). -/
def Hive.fbIso (h : Hive) (c : Nat) : Int := if h.flag (F.fbcIso_valid c) then h.getS (F.fbcIso_value c) else h.rwcS (R.fbcIsoDesign c)

/-- A collapse: the ceiling, PROTECT, and REACQUIRING; a ceiling below gmin mutes the stream (R154). -/
def Hive.fbCollapse (h : Hive) (c n : Nat) (tgt dfast : Int) : Hive :=
  let g := h.getS (F.gceG_in_force n)
  let delta := tgt - (h.fbIso c + dfast - g)
  let ceil := clampS 16 (min (h.getS (F.fbcCeil_ceiling c)) (g - (delta + 1536)))
  let h := ((h.setS (F.fbcCeil_ceiling c) ceil).bump (F.fbcStat_collapses c) 1).raise 0x08 0x06 (srcNoCanc c) 2 0
  let h := (h.cancSet c { h.cancGet c with bound := some dfast }).fbReacquire c
  if ceil < h.gminOf n then
    ((if h.critSt n 0 < 2 then h.setCrit n 0 2 else h).triggerAll 5 false [n]).raise 0x08 0x07 (srcNoCanc c) 3 0
  else h

/-- The blind and collapse tests on a window's figures (R154). -/
def Hive.fbDetect (h : Hive) (c : Nat) (x : FbRes) (dfast dres : Int) : Hive :=
  let n := h.get (F.fbcCtl_stream c)
  let h := (h.setFit (F.fbcDfast_dfast c) dfast).setFit (F.fbcDfast_dres c) dres
  let h := (h.useReg (R.fbcCollapse c) (srcNoCanc c) [n]).cancSet c { h.cancGet c with latest := some dfast, res := none }
  let g := h.getS (F.gceG_in_force n)
  let iso := h.fbIso c
  if dres < g - iso + x.tgt - x.col + 768 then
    if h.flag (F.fbcStat_blind c) then h
    else (h.setFlag (F.fbcStat_blind c) true).raise 0x08 0x05 (srcNoCanc c) 1 0
  else
    let h := h.setFlag (F.fbcStat_blind c) false
    if iso + dfast - g < x.tgt - x.col then h.fbCollapse c n x.tgt dfast else h

/-- A figure that the window gives, or a free one: no sample counted, or one of its terms is zero (R153). -/
def Hive.fbValue (h : Hive) (v : Option Int) : Hive × Int :=
  match v with
  | some x => (h, x)
  | none => let (w, h) := h.draw; (h, sext 16 w)

/-- FBC_DETECTION: 1,024 ticks after a detection window's end; one in whose last cycle the stream's bank swapped is discarded, and a
MUTED stream makes none (R154, R156). -/
def execFbcDetection (c : CancId) (s : State) : Host.Outcome State Fault Refusal :=
  s.upd (fun h =>
    let c := c.val
    match (h.cancGet c).res with
    | none => h
    | some x =>
      if h.ticks < x.at_ + 1024 then h
      else if h.fbWorks c && h.st (h.get (F.fbcCtl_stream c)) != stMuted && (h.cancGet c).swapAt != x.at_ + 1 then
        let (h, df) := h.fbValue x.dfast
        let (h, dr) := h.fbValue x.dres
        h.fbDetect c x df dr
      else h.cancSet c { h.cancGet c with res := none })

/-! ## The re-probe sweep (R151, R388) -/

/-- The first enabled canceller from slot `c` on; what a MUTED stream's canceller is, is held (R156). -/
def Hive.fbNext (h : Hive) (c : Nat) : Option Nat :=
  (List.range 256).find? (fun k => decide (c ≤ k) && h.flag (F.fbcCtl_en k) && h.get (F.fbcStat_state k) != fbOff &&
    h.st (h.get (F.fbcCtl_stream k)) != stMuted)

/-- The sweep puts the next canceller from slot `c` on into REACQUIRING, or ends. -/
def Hive.sweepFrom (h : Hive) (i c : Nat) : Hive :=
  match h.mget i with
  | none => h
  | some m =>
    match h.fbNext c with
    | some k => (h.mset i (some { m with cnt := k + 1 })).fbReacquire k
    | none => h.maintEnd i 0 0 stOk

/-- The sweep begins. -/
def Hive.sweepStart (h : Hive) (i : Nat) : Hive := h.sweepFrom i 0

/-- CANCELLER_REPROBE_SWEEP: maintenance activity 0x3. -/
def execCancellerReprobeSweep (c : CmdEntry) (s : State) : Host.Outcome State Fault Refusal :=
  s.upd (fun h => h.maintStart c 3 none (decide (argBits c.a0 4 12 = 0)) stOk Hive.sweepStart)

/-- FBC_REACQUIRE_END: the count of REACQUIRING ends; the sweep goes on with the next canceller, or ends if its abort waits
for this one (R155, R388, R392). -/
def execFbcReacquireEnd (c : CancId) (s : State) : Host.Outcome State Fault Refusal :=
  s.upd (fun h =>
    let c := c.val
    if h.get (F.fbcStat_state c) = fbReacquiring ∧ h.st (h.get (F.fbcCtl_stream c)) ≠ stMuted ∧ h.fbCount c ≤ (h.cancGet c).upd then
      let h := (h.set (F.fbcStat_state c) fbConverged).cancSet c { h.cancGet c with upd := 0 }
      match h.maintOfAct 3 with
      | some i =>
        match h.mget i with
        | some m =>
          if m.cnt = c + 1 then (if !m.stop.isEmpty then h.maintEnd i 2 0 stOk else h.sweepFrom i (c + 1)) else h
        | none => h
      | none => h
    else h)

/-- Samples of zeros that a canceller returns first: its latency of B samples and 512 ticks (R142). -/
def Hive.fbLag (h : Hive) (c : Nat) : List (Sample × (Int × Int)) :=
  List.replicate (h.fbB c + 512 * h.fbB c / max 1 (h.fbBlock c)) (Sample.zero, (0, 0))

/-- A canceller's kernel restarts cold: ACQUIRING, with an estimate of zeros and the probe from its seed (R144, R151). The collapse
ceiling stays. -/
def Hive.fbCold (h : Hive) (c : Nat) : Hive :=
  if h.flag (F.fbcCtl_en c) then
    ((h.set (F.fbcStat_state c) fbAcquiring).setFlag (F.fbcStat_adapting c) false).cancSet c { CancSt.init with
      est := estZero (h.fbB c) (h.fbP c), e := { EchoSt.init with lfsr := h.get (F.fbcProbe_seed c), outq := h.fbLag c } }
  else h

/-- The taps of an estimate under a new bulk delay and partitioning: those that fall inside the new span are kept (R149). -/
def estRepart (b p bulk b' p' bulk' : Nat) (bins : List Nat) (est : List (Nat × List (Int × Int))) : List (Nat × List (Int × Int)) :=
  let taps := allTaps b (est.take p)
  (List.range p').map (fun q => estPack 1 (bandOnly bins (dft (2 * b') ((List.range (2 * b')).map (fun m =>
    let at_ := bulk' + q * b' + m
    if m < b' ∧ bulk ≤ at_ then taps.getD (at_ - bulk) (0, 0) else (0, 0))))))

/-- Cancellers after a patch: a slot no longer used is off, one newly used starts anew, one whose B, P or D_b changes converts its
estimate; its state and figures stay (R149, R160). -/
def Hive.fbPatch (h old : Hive) : Hive :=
  (List.range 256).foldl (fun h c =>
    let was := old.flag (F.fbcCtl_en c)
    let now := h.flag (F.fbcCtl_en c)
    if was && !now then (h.wr (R.fbcStat c) (h.rd (R.fbcStat c) &&& 0xFFFF0000#32)).cancSet c CancSt.init
    else if now && !was then
      [R.fbcIso c, R.fbcDepth c, R.fbcMargin c, R.fbcDfast c, R.fbcPir c, R.fbcCeil c, R.fbcUpdLo c, R.fbcUpdHi c].foldl
        (fun h a => h.wr a (Regs.resetOf a)) h
    else if now && (h.fbB c != old.fbB c || h.fbP c != old.fbP c || h.get (F.fbcBulk_bulk c) != old.get (F.fbcBulk_bulk c)) then
      let st := h.cancGet c
      let est := estRepart (old.fbB c) (old.fbP c) (old.get (F.fbcBulk_bulk c)) (h.fbB c) (h.fbP c) (h.get (F.fbcBulk_bulk c))
        (h.fbBins c) st.est
      if h.fbB c = old.fbB c then h.cancSet c { st with est := est, taps := [], det := FbDet.init }
      else h.cancSet c { st with
        est := est, taps := [], det := FbDet.init, win := FbWin.init, g := [], gN := 0
        e := { st.e with vcur := [], vold := none, next := 0, outq := h.fbLag c } }
    else h) h

/-! ## Writes (R160) -/

/-- Ranges of FBC.ADAPT, PROBE and DET, and of the RWC registers COLLAPSE and ISO_DESIGN. -/
def fbcAdaptChk (_ : Hive) (v : Nat) : Nat :=
  if 8 ≤ bitsOf v 0 5 ∧ bitsOf v 0 5 ≤ 20 ∧ bitsOf v 5 3 ≤ 6 then stOk else stBadArg
def fbcProbeChk (_ : Hive) (v : Nat) : Nat := if 10 ≤ bitsOf v 23 5 ∧ bitsOf v 23 5 ≤ 30 then stOk else stBadArg
def fbcDetChk (_ : Hive) (v : Nat) : Nat := if 1 ≤ bitsOf v 0 8 ∧ 1 ≤ bitsOf v 8 8 then stOk else stBadArg

end Sys2Proof.Machine
end

