-- ==== Sys2Proof/Machine/Loops.lean ====
section
/-! DEFINITION. The gain control engine: loop boundaries with loops, contest, clamp and slew, loop commands, parameter writes,
and the set-point pins (R176 to R196). -/

namespace Sys2Proof.Machine

/-- The engine of a stream's home die, as a source number (R244). -/
def Hive.gceSrc (h : Hive) (n : Nat) : Nat := 0x30 + h.home n

/-- A GCE word as the next boundary uses it: a write made in the boundary's own cycle waits for the one after (R191). -/
def Hive.gceWord (h : Hive) (a : Nat) : Word :=
  if h.gceOldAt = h.gtc then
    match h.gceOld.find? (fun p => p.1 == a) with
    | some p => p.2
    | none => h.rd a
  else h.rd a

/-- Its value: the low half, signed or not. -/
def Hive.gceVal (h : Hive) (a : Nat) : Nat := (h.gceWord a).toNat % 65536
def Hive.gceValS (h : Hive) (a : Nat) : Int := sext 16 (h.gceVal a)

/-- The loop slot, the contest's stream and the pin of a GCE address. -/
def gceSlot (a : Nat) : Nat := (a - 0x500000) / 0x20
def conOf (a : Nat) : Nat := (a - 0x510000) / 0x20
def pinOf (a : Nat) : Nat := (a - 0x520000) / 0x10

/-- The stream whose loop slot or contest an address belongs to. -/
def Hive.gceStream (h : Hive) (a : Nat) : Nat :=
  if a < 0x510000 then h.get (F.gceLoopCfg_stream (gceSlot a)) else if a < 0x520000 then conOf a else 2048

/-- The effect of an accepted write: the access types, the word before it kept for this cycle, a mismatch ended, and cause 4
when every value is inside the envelope (R191, R202, R299). -/
def Hive.gceApp (a : Nat) (h : Hive) (v : Nat) : Hive :=
  let old := if h.gceOldAt = h.gtc then h.gceOld else []
  let old := if old.any (fun p => p.1 == a) then old else (a, h.rd a) :: old
  let h := (({ h with gceOld := old, gceOldAt := h.gtc } : Hive).applyTypes a v).mismClear a
  h.envEval (h.gceStream a)

/-! ## Set-point pins (R187 to R189) -/

/-- The streams whose EXTERNAL loop follows pin `p`. -/
def Hive.pinStreams (h : Hive) (p : Nat) : List Nat :=
  h.image.filter (fun n => (h.slotsOfType n 5).any (fun s => h.get (F.gceLoopCfg_pin s) == p))

/-- The pin value at use is checked against its complement (R187, R298). -/
def Hive.usePin (h : Hive) (p source : Nat) : Hive :=
  if h.get (F.gceSetpVal_value p) + (h.pinGet p).comp = 65535 ∨ h.mism.any (fun m => m.1 == R.gceSetpVal p) then h
  else h.mismatch source (R.gceSetpVal p) false (h.pinStreams p)

/-- The pin value of a raw reading: round_even(256 (lo + (hi - lo) raw / full)) / 256 (R187). -/
def Hive.pinValue (h : Hive) (p raw : Nat) : Int :=
  let full : Nat := if h.flag (F.gceSetpCtl_mode p) then 4095 else 4096
  let lo := h.rwcS (R.gceSetpLo p)
  let hi := h.rwcS (R.gceSetpHi p)
  roundEven (lo * full + (hi - lo) * raw) full

/-- The pin takes a value, with its complement; a valid update ends a mismatch of the value (R298, R299). -/
def Hive.pinPut (h : Hive) (p : Nat) (v : Int) : Hive :=
  let h := (h.useReg (R.gceSetpLo p) (0x20 + p) (h.pinStreams p)).useReg (R.gceSetpHi p) (0x20 + p) (h.pinStreams p)
  let h := (h.setS (F.gceSetpVal_value p) v).setFlag (F.gceSetpVal_valid p) true
  (h.pinSet p { h.pinGet p with comp := 65535 - twos 16 v }).mismClear (R.gceSetpVal p)

/-- A raw reading: shown, and unless the pin is held it gives the value. A pin without a value gets none from a reading at a rail,
to which the loss rule applies (R188, R189). -/
def Hive.pinRaw (h : Hive) (p raw : Nat) (rail : Bool) : Hive :=
  let h := h.set (F.gceSetpVal_raw p) raw
  if h.flag (F.gceSetpVal_held p) || (rail && !h.flag (F.gceSetpVal_valid p)) then h else h.pinPut p (h.pinValue p raw)

/-- PWM_PERIOD_COMPLETE: a period of 9,830.4 to 983,040 ticks gives the duty; another sets badper (R187). -/
def execPwmPeriodComplete (p : PinId) (high : Nat) (period : Nat) (s : State) : Host.Outcome State Fault Refusal :=
  s.upd (fun h =>
    let p := p.val
    if !h.flag (F.gceSetpCtl_en p) || h.flag (F.gceSetpCtl_mode p) then h
    else
      let st := h.pinGet p
      if 98304 ≤ 10 * period ∧ period ≤ 983040 then
        (h.pinSet p { st with run := st.run + 1 }).pinRaw p (roundEvenN (4096 * high) period) false
      else (h.pinSet p { st with run := 0 }).hwSet (F.gceSetpVal_badper p))

/-- ANALOGUE_CONVERSION: the mean of the last 2^avg conversions; at a rail the value before it is remembered (R187, R188). -/
def execAnalogueConversion (p : PinId) (code : Fin 4096) (s : State) : Host.Outcome State Fault Refusal :=
  s.upd (fun h =>
    let p := p.val
    if !h.flag (F.gceSetpCtl_en p) || !h.flag (F.gceSetpCtl_mode p) then h
    else
      let st := h.pinGet p
      let k := 2 ^ min 8 (h.get (F.gceSetpCtl_avg p))
      let conv := (code.val :: st.conv).take k
      let raw := roundEvenN (conv.foldl (· + ·) 0) conv.length
      let rail := raw == 0 || raw == 4095
      let before := if !rail then none else if st.before.isSome then st.before else some (h.get (F.gceSetpVal_value p))
      (h.pinSet p { st with conv := conv, before := before }).pinRaw p raw rail)

/-- SETP_PIN_LOSS: the value before the loss is held; GAINCTL at L2, which clears itself (R188). -/
def execSetpPinLoss (p : PinId) (s : State) : Host.Outcome State Fault Refusal :=
  s.upd (fun h =>
    let p := p.val
    let st := h.pinGet p
    let lost := !h.flag (F.gceSetpCtl_mode p) || st.before.isSome
    if h.flag (F.gceSetpCtl_en p) && !h.flag (F.gceSetpVal_held p) && lost then
      let v := match st.before with
        | some v => if h.flag (F.gceSetpCtl_mode p) then v else h.get (F.gceSetpVal_value p)
        | none => h.get (F.gceSetpVal_value p)
      let h := (h.set (F.gceSetpVal_value p) v).pinSet p { st with comp := 65535 - v, run := 0 }
      (h.setFlag (F.gceSetpVal_held p) true).raiseSC 0x07 0x02 (0x20 + p) 2 0
    else h)

/-- SETP_PIN_RECOVERY: two valid PWM periods in a row, or readings off the rails; the new value applies (R188). -/
def execSetpPinRecovery (p : PinId) (s : State) : Host.Outcome State Fault Refusal :=
  s.upd (fun h =>
    let p := p.val
    let st := h.pinGet p
    let ok := if h.flag (F.gceSetpCtl_mode p) then st.before.isNone && !st.conv.isEmpty else decide (2 ≤ st.run)
    if h.flag (F.gceSetpVal_held p) && ok then
      let h := h.setFlag (F.gceSetpVal_held p) false
      (h.pinPut p (h.pinValue p (h.get (F.gceSetpVal_raw p)))).condEnd 0x07 0x02 (0x20 + p)
    else h)

/-! ## Loops (R178 to R181) -/

/-- The tentative integrator, in Q8.24 (R178): Ki is Q4.12 and e Q8.8, so the product has 20 fraction bits. -/
def tentI (i ki e : Int) : Int := clampS 32 (i + ki * e * 16)

/-- The tentative output in Q8.8 (R178). -/
def tentU (i' kp e : Int) : Int := clampS 16 (roundEven (kp * e * 16 + i') (2 ^ 16))

/-- The integrator that a close initialises: I = b - Kp e (R180). -/
def initI (b kp e : Int) : Int := clampS 32 (b - kp * e * 16)

/-- A PI loop type. -/
def isPi (ty : Nat) : Bool := decide (1 ≤ ty) && decide (ty ≤ 4)

/-- A loop's reading at a boundary with the gain `b` (Q8.8) in force: only a measurement that is new since the previous
boundary and is a reading (R177, R181). -/
def Hive.loopReading (h : Hive) (n s : Nat) (b : Int) : Option Int :=
  if !(h.loopGet s).fresh then none
  else
    match h.get (F.gceLoopCfg_type s) with
    | 1 => (h.npmGet n).l6.map (fun l => l + b + h.getS (F.npmRefOfs_ofs n))
    | 2 => match h.cancOf n with
      | some c => h.reading (F.fbcMargin_value c) (F.fbcMargin_valid c)
      | none => none
    | 3 => if h.flag (F.npmStat_learned n) && h.get (F.npmFloor_floor n) != 0x8000 then
        some (h.getS (F.npmFloor_floor n) - h.getS (F.npmFloor_ref n))
      else none
    | 4 => h.reading (F.hskDieT_t (h.home n)) (F.hskDieT_valid (h.home n))
    | _ => none

/-- The pending command of a slot takes effect; one written in the boundary's own cycle waits, and the one before it takes effect
(R180, R191). -/
def Hive.loopCmd (h : Hive) (s : Nat) : Hive :=
  let st := h.loopGet s
  let late := decide (st.cmdAt = h.gtc)
  let now := if late then st.cmdPrev else st.cmd
  if now = 0 then h
  else
    let was := h.get (F.gceLoopState_state s)
    let h := (h.loopSet s { st with cmd := if late then st.cmd else 0, cmdPrev := 0 }).setFlag (F.gceLoopState_pend s)
      (late && st.cmd != 0)
    match now with
    | 1 => (h.set (F.gceLoopState_state s) lpOpen).setFlag (F.gceLoopState_capped s) st.ready
    | 2 =>
      let h := (h.set (F.gceLoopState_state s) lpClosed).setFlag (F.gceLoopState_capped s) false
      if was = lpOpen then h.loopSet s { h.loopGet s with ready := false } else h
    | 3 => h.set (F.gceLoopState_state s) lpHeld
    | _ => h.setFlag (F.gceLoopState_capped s) false

/-- The published output and integrator of a slot. -/
def Hive.loopShow (h : Hive) (s : Nat) : Hive :=
  let st := h.loopGet s
  (h.setS (F.gceOut_u s) st.u).set (F.gceOut_integ s) (twos 32 st.integ / 2 ^ 16)

/-- What a slot brings to the contest: its output, and the integrator it may commit. -/
structure Entrant where
  slot : Nat
  u : Int
  commit : Option Int
deriving DecidableEq, Repr

/-- A PI loop that is CLOSED computes at a reading (R178, R180). -/
def Hive.piStep (h : Hive) (n s : Nat) (b : Int) : Hive × Option Entrant :=
  let st := h.loopGet s
  match h.loopReading n s (roundEven b (2 ^ 16)) with
  | none => (h, if st.ready then some ⟨s, st.u, none⟩ else none)
  | some m =>
    let h := h.useReg (R.gceSetp s) (srcNoLoop s) [n]
    let sp := h.gceValS (R.gceSetp s)
    let e := if h.get (F.gceLoopCfg_type s) = 2 then m - sp else sp - m
    let kp := sext 16 (h.gceVal (R.gceKp s))
    let ki := sext 16 (h.gceVal (R.gceKi s))
    if st.ready then
      let i' := tentI st.integ ki e
      let u := tentU i' kp e
      ((h.loopSet s { st with u := u }).loopShow s, some ⟨s, u, some i'⟩)
    else
      let u := clampS 16 (roundEven b (2 ^ 16))
      ((h.loopSet s { st with u := u, ready := true, integ := initI b kp e }).loopShow s, some ⟨s, u, none⟩)

/-- What every boundary does with a slot: no winner yet, the pending command, and the measurement sampled (R186, R194). -/
def Hive.loopSample (h : Hive) (n s : Nat) (b : Int) : Hive :=
  let h := (h.setFlag (F.gceLoopState_winner s) false).setFlag (F.gceLoopState_committed s) false
  let h := h.loopCmd s
  match h.loopReading n s (roundEven b (2 ^ 16)) with
  | some m => (h.setFit (F.gceMeas_m s) m).setFlag (F.gceMeas_valid s) true
  | none => h

/-- A slot at a boundary of a stream that is RAMP_UP or LIVE (R177, R180, R182). -/
def Hive.loopStep (h : Hive) (n s : Nat) (b : Int) : Hive × Option Entrant :=
  let h := h.loopSample n s b
  let st := h.loopGet s
  let ty := h.get (F.gceLoopCfg_type s)
  let state := h.get (F.gceLoopState_state s)
  if ty = 4 ∧ h.flag (F.gceLoopState_dormant s) then (h, none)
  else if state = lpOpen then (h, if h.flag (F.gceLoopState_capped s) then some ⟨s, st.u, none⟩ else none)
  else if state = lpHeld then (h, if st.ready then some ⟨s, st.u, none⟩ else none)
  else if isPi ty then h.piStep n s b
  else if ty = 6 then
    let h := h.useReg (R.gceSetp s) (srcNoLoop s) [n]
    let u := h.gceValS (R.gceSetp s)
    ((h.loopSet s { st with u := u, ready := true }).loopShow s, some ⟨s, u, none⟩)
  else
    let p := h.get (F.gceLoopCfg_pin s)
    if h.flag (F.gceSetpVal_valid p) then
      let h := h.usePin p (srcNoLoop s)
      let u := h.getS (F.gceSetpVal_value p)
      ((h.loopSet s { st with u := u, ready := true }).loopShow s, some ⟨s, u, none⟩)
    else (h, none)

/-- All slots of a contest, lowest first. -/
def Hive.loopAll (h : Hive) (n : Nat) (b : Int) : List Nat → Hive × List Entrant
  | [] => (h, [])
  | s :: ss =>
    let (h, e) := h.loopStep n s b
    let (h, es) := h.loopAll n b ss
    (h, e.toList ++ es)

/-- The lowest output; among equals the lowest slot (R182). -/
def winnerOf : List Entrant → Option Entrant
  | [] => none
  | e :: es =>
    match winnerOf es with
    | some w => if w.u < e.u then some w else some e
    | none => some e

/-! ## Contest, clamp and slew (R182 to R186) -/

/-- m_g of a gain in Q8.8 (R106). -/
def gainMult (g : Int) : Nat := dbScale 16384 20 262143 g

/-- FBC.CEIL of a stream's canceller; 0x7FFF when none (R154). -/
def Hive.ceilOf (h : Hive) (n : Nat) : Int :=
  match h.cancOf n with
  | some c => h.getS (F.fbcCeil_ceiling c)
  | none => 32767

/-- hi and lo of R183. -/
def Hive.clampHi (h : Hive) (n : Nat) : Int :=
  min (min (h.gmaxOf n) (h.gceValS (R.gceLimHi n))) (min (h.getS (F.npmStat_ceiling n)) (h.ceilOf n))
def Hive.clampLo (h : Hive) (n : Nat) : Int := max (h.gminOf n) (h.gceValS (R.gceLimLo n))

/-- A slew step per period in Q8.24: round_even(2^24 rate N / 960) of a UQ8.8 rate (R184). -/
def slewStep (rate n : Nat) : Int := (roundEvenN (65536 * rate * n) 960 : Nat)

/-- The clamped value (R183). -/
def clampTo (c lo hi : Int) : Int := if hi < lo then hi else min (max c lo) hi

/-- The critical values that a boundary uses are checked (R190, R298). -/
def Hive.conUse (h : Hive) (n : Nat) : Hive :=
  let src := h.gceSrc n
  let h := [R.gceSlewUp n, R.gceSlewDn n, R.gceLimHi n, R.gceLimLo n].foldl (fun h a => h.useReg a src [n]) h
  if h.envUsed (h.tenant n) then (h.useWc (h.tenant n) 0 src).useWc (h.tenant n) 1 src else h

/-- Step 1 of a boundary: the base takes effect (R186). -/
def Hive.conBase (h : Hive) (n : Nat) : Hive × Int :=
  let g := sext 32 (h.rd (R.gceGExact n)).toNat
  let ceil := h.ceilOf n * 65536
  let b := min g ceil
  let h := (h.setFlag (F.gceConStat_ceil_step n) (decide (ceil < g))).setS (F.gceG_in_force n) (clampS 16 (roundEven b 65536))
  (h.set (F.strGain_mult (h.lastSlice n) (h.lastHalf n)) (gainMult (h.getS (F.gceG_in_force n))), b)

/-- Clamp and slew of the contest value `c` from the base `b`, both Q8.24; g(k) is shown as pending (R183, R184). -/
def Hive.conOut (h : Hive) (n : Nat) (b c : Int) : Hive × Int :=
  let hi := h.clampHi n
  let lo := h.clampLo n
  let per := h.get (F.gceConCfg_n n)
  let up := slewStep (h.gceVal (R.gceSlewUp n)) per
  let dn := slewStep (h.gceVal (R.gceSlewDn n)) per
  let cc := clampTo c (lo * 65536) (hi * 65536)
  let g := b + min (max (cc - b) (-dn)) up
  let h := (h.setFlag (F.gceConStat_clamp_hi n) (decide (c > hi * 65536))).setFlag (F.gceConStat_clamp_lo n) (decide (c < lo * 65536))
  let h := (h.setFlag (F.gceConStat_slew_up n) (decide (cc - b > up))).setFlag (F.gceConStat_slew_dn n) (decide (cc - b < -dn))
  (h.setS (F.gceConStat_hi n) hi, g)

/-- g(k) is held for the next boundary (R184, R186). -/
def Hive.conHold (h : Hive) (n : Nat) (g : Int) : Hive :=
  (h.wr (R.gceGExact n) (BitVec.ofInt 32 g)).setS (F.gceG_pending n) (clampS 16 (roundEven g 65536))

/-- The contest in RAMP_UP and LIVE: loops, winner, clamp, slew, and the winner's commit when g(k) is its output exactly
(R179, R182). -/
def Hive.conRun (h : Hive) (n : Nat) (b : Int) : Hive :=
  let (h, es) := h.loopAll n b (h.slotsOf n)
  let win := winnerOf es
  let c := match win with
    | some e => e.u * 65536
    | none => b
  let h := h.conSet n ⟨some c⟩
  let (h, g) := h.conOut n b c
  let h := (h.setFlag (F.gceConStat_none n) win.isNone).setFlag (F.gceConStat_stream_hold n) false
  let h := match win with
    | none => h
    | some e =>
      let h := (h.set (F.gceConStat_winner n) (e.slot - h.get (F.steCfg_loop0 n))).setFlag (F.gceLoopState_winner e.slot) true
      match e.commit with
      | some i => if g = e.u * 65536 then
          ((h.loopSet e.slot { h.loopGet e.slot with integ := i }).setFlag (F.gceLoopState_committed e.slot) true).loopShow e.slot
        else h
      | none => h
  h.conHold n g

/-- A boundary at which no contest runs: no loop takes part, nothing is clamped or slewed yet (R185, R195). -/
def Hive.conIdle (h : Hive) (n : Nat) (hold : Bool) : Hive :=
  let h := (h.setFlag (F.gceConStat_none n) true).setFlag (F.gceConStat_stream_hold n) hold
  let h := (h.setFlag (F.gceConStat_clamp_hi n) false).setFlag (F.gceConStat_clamp_lo n) false
  (h.setFlag (F.gceConStat_slew_up n) false).setFlag (F.gceConStat_slew_dn n) false

/-- A boundary of a stream's contest (R185, R186). -/
def Hive.boundary (h : Hive) (n : Nat) : Hive :=
  let (h, b) := h.conBase n
  let h := h.conUse n
  let st := h.st n
  let h :=
    if st = stRampUp ∨ st = stLive then h.conRun n b
    else
      let h := ((h.slotsOf n).foldl (fun h s => h.loopSample n s b) h).conIdle n (decide (st ≠ stRampDown))
      if st = stRampDown then
        let (h, g) := h.conOut n b ((h.conGet n).c.getD b)
        h.conHold n g
      else (h.setS (F.gceConStat_hi n) (h.clampHi n)).conHold n (h.clampLo n * 65536)
  (h.slotsOf n).foldl (fun h s => h.loopSet s { h.loopGet s with fresh := false }) h

/-- LOOP_BOUNDARY: at GTC mod (N x 1,024) = 0 (R186). -/
def execLoopBoundary (n : StreamId) (s : State) : Host.Outcome State Fault Refusal :=
  s.upd (fun h =>
    let per := h.get (F.gceConCfg_n n.val) * 1024
    if per ≠ 0 ∧ h.gtc % per = 0 ∧ h.isStream n.val then h.boundary n.val else h)

/-- The path kernel of a stream sleeps with its comb: its loops hold and no stale fault is raised (R228). -/
def Hive.heldBySleep (h : Hive) (n : Nat) : Bool :=
  h.flag (F.steKern_kern_en n) && !h.combAwake (h.get (F.steKern_kern_worker n) / 8)

/-- LOOP_STALE: a CLOSED PI loop without a reading for 100 ms of RAMP_UP or LIVE: GAINCTL at L1, which clears itself (R181). -/
def execLoopStale (s : LoopId) (st : State) : Host.Outcome State Fault Refusal :=
  st.upd (fun h =>
    let s := s.val
    let n := h.get (F.gceLoopCfg_stream s)
    let run := h.st n == stRampUp || h.st n == stLive
    let l := h.loopGet s
    let quiet := l.quiet + (match l.since with | some t => h.ticks - t | none => 0)
    if isPi (h.get (F.gceLoopCfg_type s)) && h.get (F.gceLoopState_state s) == lpClosed && run &&
        !h.flag (F.gceLoopState_stale s) && !h.flag (F.gceLoopState_dormant s) && !h.heldBySleep n &&
        decide (100 * Config.msTicks ≤ quiet) then
      (h.setFlag (F.gceLoopState_stale s) true).raiseSC 0x07 0x01 (srcNoLoop s) 1 0
    else h)

/-! ## Loop commands and parameter writes (R180, R190 to R192) -/

/-- The checks of GCE.LOOP_CTL: a slot in use and a command of R180, from a state that allows it. -/
def Hive.loopCtlChk (a : Nat) (h : Hive) (v : Nat) : Nat :=
  let s := gceSlot a
  let cmd := v % 8
  let st := h.get (F.gceLoopState_state s)
  if h.get (F.gceLoopCfg_type s) = 0 ∨ cmd = 0 ∨ 4 < cmd then stBadArg
  else
    let ok := match cmd with
      | 1 => st == lpClosed || st == lpHeld
      | 2 => st == lpOpen || st == lpHeld
      | 3 => st == lpClosed
      | _ => st == lpOpen
    if ok then stOk else stWrong

/-- The command waits for the next boundary, in place of one that waits; for a boundary in this very cycle that one stays (R191). -/
def Hive.loopCtlApp (a : Nat) (h : Hive) (v : Nat) : Hive :=
  let s := gceSlot a
  let l := h.loopGet s
  (h.loopSet s { l with cmd := v % 8, cmdAt := h.gtc, cmdPrev := if l.cmdAt = h.gtc then l.cmdPrev else l.cmd }).setFlag (F.gceLoopState_pend s) true

/-- A write to GCE.LOOP_CTL. -/
def Hive.wLoopCtl (h : Hive) (w : RegWrite) : Hive :=
  h.hostWrite w (Hive.loopCtlChk (wKey w)) (Hive.loopCtlApp (wKey w))

/-- LOOP_OPEN. -/
def execLoopOpen (w : RegWrite) (s : State) : Host.Outcome State Fault Refusal := s.upd (fun h => h.wLoopCtl w)
/-- LOOP_CLOSE. -/
def execLoopClose (w : RegWrite) (s : State) : Host.Outcome State Fault Refusal := s.upd (fun h => h.wLoopCtl w)
/-- LOOP_HOLD. -/
def execLoopHold (w : RegWrite) (s : State) : Host.Outcome State Fault Refusal := s.upd (fun h => h.wLoopCtl w)
/-- LOOP_RELEASE. -/
def execLoopRelease (w : RegWrite) (s : State) : Host.Outcome State Fault Refusal := s.upd (fun h => h.wLoopCtl w)

/-- The checks of GCE.KP and GCE.KI: a slot in use, OPEN (R192). -/
def Hive.kpChk (a : Nat) (h : Hive) (_ : Nat) : Nat :=
  let s := gceSlot a
  if h.get (F.gceLoopCfg_type s) = 0 then stBadArg
  else if h.get (F.gceLoopState_state s) = lpOpen then stOk else stWrong

/-- KP_KI_WRITE. -/
def execKpKiWrite (w : RegWrite) (s : State) : Host.Outcome State Fault Refusal :=
  s.upd (fun h => h.hostWrite w (Hive.kpChk (wKey w)) (Hive.gceApp (wKey w)))

/-- The checks of GCE.SETP by loop type (R190). -/
def Hive.setpChk (a : Nat) (h : Hive) (v : Nat) : Nat :=
  let s := gceSlot a
  let n := h.get (F.gceLoopCfg_stream s)
  let t := h.tenant n
  let x := sext 16 v
  match h.get (F.gceLoopCfg_type s) with
  | 1 => if h.envUsed t && decide (x > h.wcS t 2) then stDenied else stOk
  | 2 => if 0 ≤ x ∧ x ≤ 10240 then stOk else stBadArg
  | 3 => if 128 ≤ x ∧ x ≤ 5120 then stOk else stBadArg
  | 4 => if 15360 ≤ x ∧ x ≤ 32000 then stOk else stBadArg
  | 6 => if h.gminOf n ≤ x ∧ x ≤ h.gmaxOf n then stOk else stDenied
  | _ => stBadArg

/-- SETP_WRITE. -/
def execSetpWrite (w : RegWrite) (s : State) : Host.Outcome State Fault Refusal :=
  s.upd (fun h => h.hostWrite w (Hive.setpChk (wKey w)) (Hive.gceApp (wKey w)))

/-- The checks of GCE.LIM_HI and GCE.LIM_LO: LIM_LO ≤ LIM_HI, and within the envelope or the none code (R190). -/
def Hive.limChk (a : Nat) (h : Hive) (v : Nat) : Nat :=
  let n := conOf a
  let hiReg := decide (a = R.gceLimHi n)
  let x := sext 16 v
  let hi := if hiReg then x else h.rwcS (R.gceLimHi n)
  let lo := if hiReg then h.rwcS (R.gceLimLo n) else x
  let free := if hiReg then x == 32767 else x == -32768
  if lo > hi then stBadArg
  else if free || (decide (h.gminOf n ≤ x) && decide (x ≤ h.gmaxOf n)) then stOk else stDenied

/-- GCE_LIMIT_WRITE. -/
def execGceLimitWrite (w : RegWrite) (s : State) : Host.Outcome State Fault Refusal :=
  s.upd (fun h => h.hostWrite w (Hive.limChk (wKey w)) (Hive.gceApp (wKey w)))

/-- The check of a slew rate: not 0 (R190). -/
def slewChk (_ : Hive) (v : Nat) : Nat := if v % 65536 = 0 then stBadArg else stOk

/-- SLEW_WRITE. -/
def execSlewWrite (w : RegWrite) (s : State) : Host.Outcome State Fault Refusal :=
  s.upd (fun h => h.hostWrite w slewChk (Hive.gceApp (wKey w)))

/-- The checks of GCE.SETP_LO and GCE.SETP_HI: within the envelope of every tenant whose EXTERNAL loop follows the pin. -/
def Hive.setpRangeChk (a : Nat) (h : Hive) (v : Nat) : Nat :=
  let x := sext 16 v
  if (h.pinStreams (pinOf a)).all (fun n => decide (h.gminOf n ≤ x) && decide (x ≤ h.gmaxOf n)) then stOk else stDenied

/-- SETP_RANGE_WRITE: takes effect at the pin's next update (R187). -/
def execSetpRangeWrite (w : RegWrite) (s : State) : Host.Outcome State Fault Refusal :=
  s.upd (fun h => h.hostWrite w (Hive.setpRangeChk (wKey w)) (fun h v => (h.applyTypes (wKey w) v).mismClear (wKey w)))

/-- A THERMAL loop of a tenant's streams is armed or disarmed by the throttle ladder (R177). -/
def Hive.armThermal (h : Hive) (t : Nat) (on : Bool) : Hive :=
  (h.tenantStreams t).foldl (fun h n => (h.slotsOfType n 4).foldl (fun h s =>
    if h.flag (F.gceLoopState_dormant s) = on then
      (h.setFlag (F.gceLoopState_dormant s) (!on)).loopSet s { h.loopGet s with ready := false }
    else h) h) h

end Sys2Proof.Machine
end

