-- ==== Sys2Proof/Machine/Workers.lean ====
section
/-! DEFINITION. Workers and combs: deadlines and lost kernels, cold restarts, measurements, MSTAT, sparing, spare BIST, the
comb DMA, sleep and wake (R209 to R233, R363). -/

namespace Sys2Proof.Machine

/-! ## Kernels restart, fail and return (R222, R223, R230) -/

/-- The tracker slots that a worker's kernel serves (R216). -/
def Hive.slotsOfWorker (h : Hive) (w : Nat) : List Nat :=
  (List.range 256).filter (fun t => h.flag (F.trkStat_valid t) && h.gangKey (Tbl.get (fun _ => 0) h.trkWorker t) == h.gangKey w &&
    Tbl.get (fun _ => 0) h.trkWorker t / 8 == w / 8)

/-- A tracker slot starts empty. -/
def Hive.trkCold (h : Hive) (t : Nat) : Hive :=
  let h := (List.range 16).foldl (fun h e => (h.wr (R.trkCar t e) 0).wr (R.trkPwr t e) 0x8000) h
  let st := h.trkGet t
  let h := h.trkSet t { st with cand := [], res := [], away := [], skip := false }
  ((h.set (F.trkStat_tracked t) 0).setFlag (F.trkStat_fold t) false).wr (R.trkRes t) 0x8000

/-! The stream records of the recorder (R363): 480 bytes each, 240 of them. -/

/-- The byte offset of stream record `r`. -/
def recAt (r : Nat) : Nat := 0x6C00 + 480 * r

/-- The record that holds a stream. -/
def Hive.recOf (h : Hive) (n : Nat) : Option Nat :=
  (List.range 240).find? (fun r =>
    let w := (h.kget (recAt r + 4)).toNat
    bitOf w 11 && bitsOf w 0 11 == n)

/-- The 16-bit count `b` of a record's histogram `q`. -/
def Hive.recBin (h : Hive) (r q b : Nat) : Nat :=
  bitsOf (h.kget (recAt r + 8 + 128 * q + b / 2 * 4)).toNat (16 * (b % 2)) 16

/-- A histogram loaded from its record as n_b x 2^e (R363). -/
def Hive.recLoad (h : Hive) (r q : Nat) : HistSt :=
  let e := bitsOf (h.kget (recAt r + 4)).toNat (13 + 5 * q) 5
  let x := recAt r + 0x188 + 24 * q
  let t0 := (h.kget (recAt r + 0x1D0)).toNat + 2 ^ 32 * (h.kget (recAt r + 0x1D4)).toNat
  let t1 := (h.kget (recAt r + 0x1D8)).toNat + 2 ^ 32 * (h.kget (recAt r + 0x1DC)).toNat
  let bins := (List.range 64).map (fun b => h.recBin r q b * 2 ^ e)
  if bins.all (fun v => v == 0) then HistSt.init
  else
    let w := (h.kget x).toNat
    let stamp := fun (o : Nat) => (h.kget (x + o)).toNat + 2 ^ 32 * (h.kget (x + o + 4)).toNat
    ⟨bins, some (sext 16 w, stamp 8), some (sext 16 (w / 65536), stamp 16), some (t0, t1)⟩

/-- The streams of an MSTAT worker (R220). -/
def Hive.mstatStreams (h : Hive) (w : Nat) : List Nat :=
  let p := h.par w 0
  (List.range (bitsOf p 11 9)).map (fun i => bitsOf p 0 11 + i)

/-- An MSTAT kernel that starts or restarts cold loads its bins from the records (R363). -/
def Hive.mstatCold (h : Hive) (w : Nat) : Hive :=
  (h.mstatStreams w).foldl (fun h n =>
    [0, 1, 2].foldl (fun h q =>
      let v := match h.recOf n with
        | some r => h.recLoad r q
        | none => HistSt.init
      ({ h with hist := Tbl.put (fun _ => HistSt.init) h.hist (n * 4 + q) v } : Hive)) h) h

/-- The kernel of a worker restarts cold: marked and counted, and its own state starts again (R151, R168, R170, R363). -/
def Hive.kernelCold (h : Hive) (w : Nat) : Hive :=
  let h := (h.gang w).foldl (fun h v =>
    let h := (h.setFlag (F.wrkStat_cold (v / 8) (v % 8)) true).bump (F.wrkStat_restarts (v / 8) (v % 8)) 1
    h.wset v { h.wget v with missRun := 0, zero := 0, meas := false, path := [] }) h
  match h.kid w with
  | 1 => h.fbCold (h.instOf w)
  | 2 => h.ugtCold (h.instOf w)
  | 3 => (h.slotsOfWorker w).foldl (fun h t => h.trkCold t) h
  | 7 => h.mstatCold w
  | _ => h

/-- UGT.STAT shows which gated groups have lost their instance or their tracker (R170). -/
def Hive.gateMarks (h : Hive) : Hive :=
  (List.range 256).foldl (fun h g =>
    if h.flag (F.ugtCtl_en g) then
      let lost := fun (w : Nat) => (h.wget (h.runsOn w)).lost
      (h.setFlag (F.ugtStat_fail_open g) (lost (h.get (F.ugtCtl_worker g)))).setFlag (F.ugtStat_trk_lost g)
        (lost (Tbl.get (fun _ => 0) h.trkWorker (h.get (F.ugtCtl_trk_slot g))))
    else h) h

/-- A kernel's worker is lost or being reset: cause 1 of R53 for its streams, a UGT group open, a tracker lost (R53, R170). -/
def Hive.kernelDown (h : Hive) (w : Nat) : Hive :=
  let h := (h.gang w).foldl (fun h v => h.wset v { h.wget v with lost := true }) h
  (h.pathStreams w).foldl (fun h n => h.sitOn 1 n) h.gateMarks

/-- The kernel works again: the situation of cause 1 ends (R222). -/
def Hive.kernelUp (h : Hive) (w : Nat) : Hive :=
  let h := (h.gang w).foldl (fun h v => h.wset v { h.wget v with lost := false, missRun := 0 }) h
  (h.pathStreams w).foldl (fun h n => h.sitOff 1 n) h.gateMarks

/-- A kernel restarts cold with its code loaded anew: a copy that fails its check loses the kernel, TRUST cause 0x06 at L2
(R223). -/
def Hive.kernelReload (h : Hive) (w : Nat) (bad : Bool) : Hive :=
  if bad && (h.kdeclOf w).isSome then (h.kernelDown w).raise 0x0F 0x06 0x2 2 0 else h.kernelCold w

/-- A worker reset on account of a fault: the kernel restarts cold on the same worker (R20, R30, R225). -/
def Hive.workerReset (h : Hive) (w : Nat) (bad : Bool) : Hive :=
  if h.kvalid w then (h.kernelDown w).kernelReload w bad else h

/-! ## Byte memories (R20) -/

/-- The scrubbed unit that holds an error: its comb 0-63, store 64-65, keeper 66 (R29, R31). -/
def eccUnit (kind unit : Nat) : Nat :=
  if kind = 0 ∨ kind = 1 then unit / 8 else if kind = 2 then unit else if kind = 3 then 64 + unit else 66

/-- The cells of a memory outside `lo` to `hi - 1`. -/
def cellsClear (lo hi : Nat) (m : List Host.Cell) : List Host.Cell := m.filter (fun c => decide (c.1 < lo) || decide (hi ≤ c.1))

/-- A worker reset clears its data memory (R20). -/
def Mem.clearWorker (m : Mem) (w : Nat) : Mem := { m with wdata := cellsClear (w * 65536) (w * 65536 + 65536) m.wdata }

/-- A comb reset, or sleep in off mode, clears comb memory, data memories and kernel stores (R20, R227). -/
def Mem.clearComb (m : Mem) (c : Nat) : Mem :=
  { m with
    comb := cellsClear (c * 524288) (c * 524288 + 524288) m.comb
    wdata := cellsClear (c * 524288) (c * 524288 + 524288) m.wdata
    kstore := cellsClear (c * 262144) (c * 262144 + 262144) m.kstore }

/-- The first `len` bytes of worker `a`'s data memory are copied to worker `b`'s (R230). -/
def Mem.copyWorker (m : Mem) (a b len : Nat) : Mem :=
  let src := m.wdata.filter (fun c => decide (a * 65536 ≤ c.1) && decide (c.1 < a * 65536 + len))
  let base := cellsClear (b * 65536) (b * 65536 + len) m.wdata
  { m with wdata := src.foldl (fun t c => Tbl.put Mem.ramByte t (c.1 - a * 65536 + b * 65536) c.2) base }

/-- Patch kernels' code in the kernel stores of workers, and its verified copy at the start of the kernel's region of comb
memory (R223). What the code of a ROM kernel is, the spec does not give: its stores list nothing. -/
def Mem.codeLoad (m : Mem) (h : Hive) (ws : List Nat) : Mem :=
  ws.foldl (fun m w =>
    match h.kdeclOf w with
    | some d =>
      if h.kvalid w then
        let bytes := d.code.map (fun b => BitVec.ofNat 8 b)
        { m with
          kstore := Tbl.putList Mem.ramByte m.kstore (w * 32768) (bytes.take 32768)
          comb := Tbl.putList Mem.ramByte m.comb (w / 8 * 524288 + h.get (F.wrkDesc3_cm_base (w / 8) (w % 8)))
            (bytes.take (h.get (F.wrkDesc4_cm_len (w / 8) (w % 8)))) }
      else m
    | none => m) m

/-- Bytes written to a comb's memory. -/
def Mem.combPut (m : Mem) (a : Nat) (bytes : List Nat) : Mem :=
  { m with comb := Tbl.putList Mem.ramByte m.comb a (bytes.map (fun b => BitVec.ofNat 8 b)) }

/-! ## Sparing (R23, R230, R231) -/

/-- The spare's worker number, when the comb holds one. -/
def Hive.spareOfComb (h : Hive) (c : Nat) : Option Nat :=
  if h.flag (F.wrkCombStat_spare c) then some (8 * c + h.get (F.wrkCombStat_spare_idx c)) else none

/-- A usable spare: not used, not bad, not failed, and not promised to another worker. -/
def Hive.spareUsable (h : Hive) (c : Nat) : Option Nat :=
  match h.spareOfComb c with
  | none => none
  | some s =>
    if h.flag (F.wrkCombStat_spare_used c) || h.flag (F.wrkCombStat_spare_bad c) || bitOf (h.get (F.wrkCombStat_failed c)) (s % 8) ||
        !(h.combGet c).bistOk || (combWorkers c).any (fun v => (h.wget v).moveTo == some s) then none
    else some s

/-- The first step boundary at least 2 us later (R230). -/
def Hive.sparingT (h : Hive) (w : Nat) : Nat :=
  h.stepBound w (h.gtc + Config.leadTicks 0)

/-- A worker's descriptor is copied to another worker. -/
def Hive.descCopy (h : Hive) (w s : Nat) : Hive :=
  (List.range 8).foldl (fun h i => h.wr (R.wrkDesc0 (s / 8) (s % 8) + 4 * i) (h.rd (R.wrkDesc0 (w / 8) (w % 8) + 4 * i))) h

/-- The spare takes the failing worker's descriptor, and T is set (R230). -/
def Hive.sparingSet (h : Hive) (w s : Nat) : Hive :=
  ((h.descCopy w s).setWrkSt s 1).schedule (h.sparingT w) (.sparing w)

/-- Spare BIST running on the comb is aborted (R231). -/
def Hive.bistAbort (h : Hive) (c : Nat) : Hive :=
  match h.maintOf 7 c with
  | some i => h.maintEnd i 2 0 stOk
  | none => h

/-- A worker is marked failing: WORKER at L2 and T for its move; without a usable spare its kernel is lost; the spare itself
becomes unusable, WORKER at L1 (R230, R231). -/
def Hive.markFailing (h : Hive) (w : Nat) : Hive :=
  let c := w / 8
  let used := h.flag (F.wrkCombStat_spare_used c)
  if h.wrkSt w = 5 ∨ h.wrkSt w = 6 then h
  else if h.spareOfComb c = some w ∧ !used then
    (h.setFlag (F.wrkCombStat_spare_bad c) true).raise 0x05 0x04 (srcNoWorker w) 1 0
  else
    let h := (h.setWrkSt w 5).raise 0x05 0x01 (srcNoWorker w) 2 0
    if !h.kvalid w then h
    else
      let h := h.bistAbort c
      match (if h.flag (F.wrkDesc0_spare_ok c (w % 8)) then h.spareUsable c else none) with
      | none => h.kernelDown w
      | some s =>
        if h.get (F.wrkCombStat_power c) ≠ 0 then (h.wset w { h.wget w with moveTo := some s, waits := true }).combWake c
        else (h.wset w { h.wget w with moveTo := some s }).sparingSet w s

/-- A patch whose scope includes the comb is due: it applies before a move of the same instant (R231). -/
def Hive.combPatchFirst (h : Hive) (c : Nat) : Bool :=
  h.sched.any (fun o =>
    match o.kind with
    | .patchAct p => decide (o.t ≤ h.gtc) &&
      (match Tbl.get (fun _ => none) h.sys.patches p with
        | some q => bitOf q.file.body.frames (c / 8)
        | none => false)
    | _ => false)

/-- T of a move: the spare carries what the worker holds then; a worker that holds no kernel any more has nothing to move, and the
spare waits again (R230, R231). -/
def Hive.sparingNow (h : Hive) (w : Nat) : Hive :=
  let h := h.unsched (.sparing w)
  match (h.wget w).moveTo with
  | none => h
  | some s =>
    if h.kvalid w then h.descCopy w s
    else
      let h := h.wset w { h.wget w with moveTo := none }
      if h.wrkSt s = 1 then (h.descCopy w s).setWrkSt s 7 else h

/-- SPARING_AT_T: the failing worker stops after the step that ends at T, if it still holds a kernel (R230, R231). -/
def execSparingAtT (w : WorkerId) (s : State) : Host.Outcome State Fault Refusal :=
  s.upd (fun h => if h.due (.sparing w.val) && !h.combPatchFirst (w.val / 8) then h.sparingNow w.val else h)

/-- The end of a move (R230, R231): the spare runs the kernel, cold after a bad copy; a spare that fails loses it. -/
def Hive.moveDone (h : Hive) (w s : Nat) (copyOk spareOk : Bool) : Hive :=
  let c := w / 8
  let h := (h.setWrkSt w 6).set (F.wrkCombStat_failed c) (setBit (h.get (F.wrkCombStat_failed c)) (w % 8) true)
  let h := h.jEvent (srcNoWorker w) (R.wrkCombStat c) s 0
  -- UGT.CTL names the worker that runs the instance (R175)
  let h := if h.kid w = 2 then h.set (F.ugtCtl_worker (h.instOf w)) s else h
  if !spareOk then
    let h := (h.setWrkSt s 6).set (F.wrkCombStat_failed c) (setBit (h.get (F.wrkCombStat_failed c)) (s % 8) true)
    (h.setFlag (F.wrkCombStat_spare_bad c) true).kernelDown s
  else
    let h := (h.setFlag (F.wrkCombStat_spare_used c) true).setWrkSt s 2
    if copyOk then
      -- what the kernel was at moves with it
      let k := h.wget w
      let h := h.wset s { h.wget s with missRun := k.missRun, lost := k.lost, lostAt := k.lostAt, zero := k.zero, meas := k.meas, path := k.path }
      (h.wset w { WorkSt.init with moveTo := some s }).gateMarks
    else (h.kernelDown s).kernelCold s

/-- SPARE_STATE_COPY_COMPLETE. -/
def execSpareStateCopyComplete (w : WorkerId) (copyOk : Bool) (spareOk : Bool) (s : State) :
    Host.Outcome State Fault Refusal :=
  let w := w.val
  let h := s.hive
  match (h.wget w).moveTo with
  | none => .next s
  | some sp =>
    if h.wrkSt w = 5 ∧ !(h.wget w).waits ∧ !h.sched.any (fun o => o.kind == SchedKind.sparing w) then
      .next { s with
        hive := h.moveDone w sp copyOk spareOk
        mem := if !spareOk then s.mem
          else (if copyOk then s.mem.copyWorker w sp (h.get (F.wrkDesc5_wd_len (w / 8) (w % 8))) else s.mem).codeLoad h [sp] }
    else .next s

/-! ## Deadlines (R222) -/

/-- Samples of a block of FBC or PROBE. -/
def Hive.blockOf (h : Hive) (w : Nat) : Nat :=
  if h.kid w = 1 then blkLen (h.get (F.fbcCtl_blk (h.instOf w))) else blkLen (bitsOf (h.par w 0) 12 2)

/-- Three misses in a row: WORKER at L2, cause 1, and a cold restart; lost again within 1 s, the worker is failing (R222). -/
def Hive.kernelLost (h : Hive) (w : Nat) (bad : Bool) : Hive :=
  let st := h.wget w
  let again := decide (st.lostAt ≠ 0) && decide (h.ticks ≤ st.lostAt - 1 + Config.secTicks)
  let h := (h.raise 0x05 0x02 (srcNoWorker w) 2 0).kernelDown w
  let h := h.wset w { h.wget w with missRun := 0, lostAt := h.ticks + 1 }
  if again then h.markFailing w else h.kernelReload w bad

/-- A kernel misses a deadline: the consequence of one miss, and the count (R222). -/
def Hive.miss (h : Hive) (w : Nat) (bad : Bool) : Hive :=
  let h := h.bump (F.wrkStat_misses (w / 8) (w % 8)) 1
  let h := match h.kid w with
    | 1 | 4 => (h.gang w).foldl (fun (h : Hive) v => h.wset v { h.wget v with zero := h.blockOf w }) h
    | 2 => h.ugtLate (h.instOf w)
    | 3 => (h.slotsOfWorker w).foldl (fun h t => h.trkSet t { h.trkGet t with skip := true }) h
    | _ => h
  let h := h.wset w { h.wget w with missRun := (h.wget w).missRun + 1 }
  if (h.wget w).missRun ≥ 3 then h.kernelLost w bad else h

/-- A kernel has a deadline: by the table of R213, or as a patch kernel declares (R223). -/
def Hive.hasDeadline (h : Hive) (w : Nat) : Bool :=
  match h.kdeclOf w with
  | some d => d.deadline != 0
  | none => [1, 2, 3, 4, 7].contains (h.kid w)

/-- KERNEL_DEADLINE_MISS: for a running kernel that has a deadline (R213, R222). `bad` says that the code of a kernel that is
lost by it fails its check at the restart (R223). -/
def execKernelDeadlineMiss (w : WorkerId) (bad : Bool) (s : State) : Host.Outcome State Fault Refusal :=
  s.upd (fun h => if h.kvalid w.val && h.hasDeadline w.val && h.combAwake (w.val / 8) then h.miss w.val bad else h)

/-- KERNEL_FIRST_STEP_ON_TIME: a restarted kernel has completed its first step within its deadline (R222). -/
def execKernelFirstStepOnTime (w : WorkerId) (s : State) : Host.Outcome State Fault Refusal :=
  s.upd (fun h =>
    let st := h.wrkSt w.val
    if h.kvalid w.val && (h.wget w.val).lost && st != 5 && st != 6 then h.kernelUp w.val else h)

/-! ## Measurements (R217 to R221) -/

/-- Comb and index of an address in a worker's registers, as a worker number (R15). -/
def wrkOfAddr (a : Nat) : Nat := (a - 0x600000) / 0x4000 * 8 + ((a - 0x600000) % 0x4000 - 0x2000) / 0x400

/-- The checks of WRK.CTL (R221, R232): a command of the table; a measurement on PROBE, DLYCAL or SPECT that does not run;
a PROBE on a LIVE stream whose gain is 10 dB below iso_min. -/
def Hive.wrkCtlChk (a : Nat) (h : Hive) (v : Nat) : Nat :=
  let w := wrkOfAddr a
  let k := h.kid w
  let meter := h.kvalid w && (k == 4 || k == 5 || k == 6)
  match v % 8 with
  | 1 =>
    if !meter then stBadArg
    else if (h.wget w).meas then stWrong
    else if k = 4 then
      let n := bitsOf (h.par w 0) 0 11
      if h.st n = stLive ∧ h.getS (F.gceG_in_force n) + 2560 ≤ sext 16 (h.par w 3) then stOk else stWrong
    else stOk
  | 2 => if meter then stOk else stBadArg
  | 3 => if h.wrkSt w = 5 ∨ h.wrkSt w = 6 then stWrong else stOk
  | _ => stBadArg

/-- The result registers of a worker. -/
def Hive.setRes (h : Hive) (w i v : Nat) : Hive := h.set (F.wrkRes_res (w / 8) (w % 8) i) v

/-- The effect of WRK.CTL: a start clears the results; a stop ends the measurement; a move marks the worker failing. -/
def Hive.wrkCtlApp (a : Nat) (h : Hive) (v : Nat) : Hive :=
  let w := wrkOfAddr a
  let gangSet := fun (h : Hive) (b : Bool) => (h.gang w).foldl (fun h v => h.wset v { h.wget v with meas := b }) h
  match v % 8 with
  | 1 => gangSet ((List.range 16).foldl (fun h i => h.setRes w i 0) h) true
  | 2 => gangSet h false
  | _ => h.markFailing w

/-- A write to WRK.CTL. -/
def Hive.wWrkCtl (h : Hive) (w : RegWrite) : Hive :=
  h.hostWrite w (Hive.wrkCtlChk (wKey w)) (Hive.wrkCtlApp (wKey w))

/-- START_MEASUREMENT. -/
def execStartMeasurement (w : RegWrite) (s : State) : Host.Outcome State Fault Refusal := s.upd (fun h => h.wWrkCtl w)
/-- STOP_MEASUREMENT. -/
def execStopMeasurement (w : RegWrite) (s : State) : Host.Outcome State Fault Refusal := s.upd (fun h => h.wWrkCtl w)
/-- MOVE_TO_SPARE. -/
def execMoveToSpare (w : RegWrite) (s : State) : Host.Outcome State Fault Refusal := s.upd (fun h => h.wWrkCtl w)

/-- A signed 16-bit result, or a free value outside its range. -/
def Hive.setRes16 (h : Hive) (w i : Nat) (v : Int) : Hive := h.setFit ⟨R.wrkRes (w / 8) (w % 8) i, 0, 16⟩ v

/-- PROBE_COMPLETE: the results of R217. -/
def execProbeComplete (w : WorkerId) (iso : Int) (lag : Fin 65536) (taps : Fin 32768) (snr : Int) (s : State) :
    Host.Outcome State Fault Refusal :=
  s.upd (fun h =>
    let w := w.val
    if h.kid w = 4 ∧ (h.wget w).meas then
      let h := (h.setRes16 w 0 iso).setFlag ⟨R.wrkRes (w / 8) (w % 8) 0, 31, 1⟩ true
      let h := ((h.setRes w 1 lag.val).setRes w 2 taps.val).setRes16 w 3 snr
      let h := h.setRes w 4 (bitsOf (h.par w 2) 28 4)
      (h.gang w).foldl (fun h v => h.wset v { h.wget v with meas := false }) h
    else h)

/-- DLYCAL_COMPLETE: the results of R218; without a clear peak valid stays 0. -/
def execDlycalComplete (w : WorkerId) (delay : Fin 268435456) (peak : Int) (used : Fin 256) (clear : Bool) (s : State) :
    Host.Outcome State Fault Refusal :=
  s.upd (fun h =>
    let w := w.val
    if h.kid w = 5 ∧ (h.wget w).meas then
      let h := h.setRes w 0 (delay.val + if clear then 2 ^ 31 else 0)
      let h := (h.setRes16 w 1 peak).setRes w 2 used.val
      (h.gang w).foldl (fun h v => h.wset v { h.wget v with meas := false }) h
    else h)

/-- SPECT_AVERAGE_COMPLETE: the result region takes the generation word, the GTC and 2^f bins; RES0 the blocks used (R219). -/
def execSpectAverageComplete (w : WorkerId) (bins : List Int) (used : Word) (s : State) : Host.Outcome State Fault Refusal :=
  let w := w.val
  let h := s.hive
  if h.kid w = 6 ∧ (h.wget w).meas then
    let base := w / 8 * 524288 + h.get (F.wrkDesc6_res_base (w / 8) (w % 8))
    let len := 64 * h.get (F.wrkDesc6_res_len (w / 8) (w % 8))
    let gen := leNat ((Tbl.getList Mem.ramByte s.mem.comb base 4).map (fun b => b.toNat))
    let n := 2 ^ bitsOf (h.par w 0) 12 4
    let bytes := leBytes ((gen + 2) % 2 ^ 32) 4 ++ leBytes h.gtc 8 ++ (bins.take n).flatMap (fun b => leBytes (twos 16 b) 2)
    .next { s with hive := h.setRes w 0 used.toNat, mem := s.mem.combPut base (bytes.take len) }
  else .next s

/-- A sample of one quantity in its histogram: 0.5 dB per bin from `lo`, ends clamped; extremes with their GTC (R220). -/
def histAdd (g : Nat) (lo v : Int) (x : HistSt) : HistSt :=
  let b := (max 0 (min 63 ((v - lo) / 128))).toNat
  let bins := if x.bins.isEmpty then List.replicate 64 0 else x.bins
  { bins := bins.set b (min (bins.getD b 0 + 1) (2 ^ 32 - 1))
    lo := match x.lo with
      | some (m, t) => if v < m then some (v, g) else some (m, t)
      | none => some (v, g)
    hi := match x.hi with
      | some (m, t) => if v > m then some (v, g) else some (m, t)
      | none => some (v, g)
    span := match x.span with
      | some (a, _) => some (a, g)
      | none => some (g, g) }

/-- A quantity of a stream sampled by MSTAT. -/
def Hive.mstatPut (h : Hive) (n q : Nat) (lo : Int) (v : Option Int) : Hive :=
  match v with
  | none => h
  | some v =>
    let x := Tbl.get (fun _ => HistSt.init) h.hist (n * 4 + q)
    { h with hist := Tbl.put (fun _ => HistSt.init) h.hist (n * 4 + q) (histAdd h.gtc lo v x) }

/-- MSTAT_SAMPLE: every 2^c meter ticks (R220). -/
def execMstatSample (w : WorkerId) (s : State) : Host.Outcome State Fault Refusal :=
  s.upd (fun h =>
    let w := w.val
    if h.kid w = 7 ∧ h.kvalid w ∧ !(h.wget w).lost ∧ h.gtc % h.stepTicks w = 0 then
      (h.mstatStreams w).foldl (fun h n =>
        let h := h.mstatPut n 0 (sext 16 (h.par w 1)) (h.reading (F.mtrOut_level n) (F.mtrOut_valid n))
        let h := h.mstatPut n 1 (sext 16 (h.par w 1 / 65536)) (if h.npmRuns n then some (h.getS (F.gceG_in_force n)) else none)
        h.mstatPut n 2 (sext 16 (h.par w 2)) (match h.cancOf n with
          | some c => h.reading (F.fbcMargin_value c) (F.fbcMargin_valid c)
          | none => none)) (h.stepOnTime w)
    else h)

/-- The exponent of a stored histogram: the smallest from 0 to 16 that fits every bin (R363). -/
def recExp (bins : List Nat) : Nat :=
  ((List.range 17).find? (fun e => bins.all (fun c => decide (roundEvenN c (2 ^ e) ≤ 65535)))).getD 16

/-- An extremes block (R362). -/
def Hive.recExt (h : Hive) (x : Nat) (s : HistSt) : Hive :=
  match s.lo, s.hi with
  | some (a, ta), some (b, tb) =>
    let h := (h.kput x (twos 16 a + 65536 * twos 16 b)).kput (x + 4) 0
    (((h.kput (x + 8) ta).kput (x + 12) (ta / 2 ^ 32)).kput (x + 16) tb).kput (x + 20) (tb / 2 ^ 32)
  | _, _ => h

/-- A stream's record takes its three histograms (R363, R365). -/
def Hive.recStore (h : Hive) (r n : Nat) : Hive :=
  let hs := [0, 1, 2].map (fun q => Tbl.get (fun _ => HistSt.init) h.hist (n * 4 + q))
  let es := hs.map (fun s => recExp s.bins)
  let spans := hs.filterMap (fun s => s.span)
  let h := h.kput (recAt r + 4) (n + 2 ^ 11 + es.getD 0 0 * 2 ^ 13 + es.getD 1 0 * 2 ^ 18 + es.getD 2 0 * 2 ^ 23)
  let h := [0, 1, 2].foldl (fun h q =>
    let s := hs.getD q HistSt.init
    let nb := fun (b : Nat) => min 65535 (roundEvenN (s.bins.getD b 0) (2 ^ es.getD q 0))
    let h := (List.range 32).foldl (fun h i => h.kput (recAt r + 8 + 128 * q + 4 * i) (nb (2 * i) + 65536 * nb (2 * i + 1))) h
    h.recExt (recAt r + 0x188 + 24 * q) s) h
  let h := match spans with
    | [] => h
    | p :: ps =>
      let t0 := ps.foldl (fun m (x : Nat × Nat) => min m x.1) p.1
      let t1 := ps.foldl (fun m (x : Nat × Nat) => max m x.2) p.2
      (((h.kput (recAt r + 0x1D0) t0).kput (recAt r + 0x1D4) (t0 / 2 ^ 32)).kput (recAt r + 0x1D8) t1).kput (recAt r + 0x1DC) (t1 / 2 ^ 32)
  h.kgen (recAt r)

/-- RECORDER_MSTAT_COPY: at GTC mod 983,040,000 = 0, unless the areas are frozen (R363, R366). -/
def execRecorderMstatCopy (s : State) : Host.Outcome State Fault Refusal :=
  s.upd (fun h =>
    if h.gtc % 983040000 = 0 && !h.areasFrozen then
      (List.range 240).foldl (fun h r =>
        let w := (h.kget (recAt r + 4)).toNat
        if bitOf w 11 then h.recStore r (bitsOf w 0 11) else h) h
    else h)

/-! ## The comb DMA and the result window (R225, R226) -/

/-- DMA_ACCESS_BLOCKED: counted, a cold restart by worker reset, WORKER at L2 (R225). -/
def execDmaAccessBlocked (w : WorkerId) (bad : Bool) (s : State) : Host.Outcome State Fault Refusal :=
  .next { s with
    hive := ((s.hive.bump (F.wrkDmaStat_blocked (w.val / 8)) 1).workerReset w.val bad).raise 0x05 0x03 (srcNoWorker w.val) 2 0
    mem := (s.mem.clearWorker w.val).codeLoad s.hive [w.val] }

/-- RESULT_WINDOW_WRITE: ignored, refused with NOT_AUTH (R226). -/
def execResultWindowWrite (w : RegWrite) (s : State) : Host.Outcome State Fault Refusal :=
  s.upd (fun h => h.wRefused w stNotAuth)

/-! ## Spare BIST (R231) -/

/-- WORKER_SPARE_BIST: maintenance activity 0x7 on a comb that holds an unused spare. -/
def Hive.bistChk (h : Hive) (c : Nat) : Nat :=
  if h.flag (F.wrkCombStat_spare c) && !h.flag (F.wrkCombStat_spare_used c) then stOk else stWrong

/-- The BIST begins: nothing else shows it. -/
def Hive.bistStart (h : Hive) (_ : Nat) : Hive := h

/-- WORKER_SPARE_BIST. -/
def execWorkerSpareBist (c : CmdEntry) (s : State) : Host.Outcome State Fault Refusal :=
  s.upd (fun h =>
    let u := argBits c.a0 4 12
    h.maintStart c 7 none (decide (u < 64)) (h.bistChk u) Hive.bistStart)

/-- SPARE_BIST_COMPLETE: a failure sets spare_bad and raises WORKER at L1 (R231). -/
def execSpareBistComplete (c : CombId) (passed : Bool) (s : State) : Host.Outcome State Fault Refusal :=
  s.upd (fun h =>
    let c := c.val
    match h.maintOf 7 c with
    | none => h
    | some i =>
      let h := h.combSet c { h.combGet c with bistOk := passed }
      if passed then h.maintEnd i 0 0 stOk
      else
        let w := (h.spareOfComb c).getD (8 * c)
        ((h.setFlag (F.wrkCombStat_spare_bad c) true).raise 0x05 0x04 (srcNoWorker w) 1 0).maintEnd i 1 0 stOk)

/-! ## Sleep and wake (R21, R22, R227 to R229) -/

/-- The comb of an address in its register block. -/
def combOfAddr (a : Nat) : Nat := (a - 0x600000) / 0x4000

/-- The comb holds an FBC kernel. -/
def Hive.combHasFbc (h : Hive) (c : Nat) : Bool := (combWorkers c).any (fun w => h.kvalid w && h.kid w == 1)

/-- The checks of WRK.SLEEP_CTL: mode 0b11, and mode off on a comb that holds FBC (R227, R233). -/
def Hive.sleepCtlChk (a : Nat) (h : Hive) (v : Nat) : Nat :=
  if v % 4 = 3 then stBadArg
  else if v % 4 = 2 ∧ h.combHasFbc (combOfAddr a) then stWrong else stOk

/-- A write of mode never wakes the comb (R229). -/
def Hive.sleepCtlApp (a : Nat) (h : Hive) (v : Nat) : Hive :=
  let h := h.applyTypes a v
  if v % 4 = 0 then h.combWake (combOfAddr a) else h

/-- SLEEP_CTL_WRITE. -/
def execSleepCtlWrite (w : RegWrite) (s : State) : Host.Outcome State Fault Refusal :=
  s.upd (fun h => h.hostWrite w (Hive.sleepCtlChk (wKey w)) (Hive.sleepCtlApp (wKey w)))

/-- A watch slot whose stream passes through one of the comb's own kernels is refused (R227). -/
def Hive.watchChk (a : Nat) (h : Hive) (v : Nat) : Nat :=
  let c := combOfAddr a
  let bad := (List.range 4).any (fun i =>
    let t := bitsOf v (8 * i) 8
    let n := h.get (F.trkStat_stream t)
    h.flag (F.trkStat_valid t) && h.flag (F.steKern_kern_en n) && h.get (F.steKern_kern_worker n) / 8 == c)
  if bad then stBadArg else stOk

/-- WATCH_WRITE. -/
def execWatchWrite (w : RegWrite) (s : State) : Host.Outcome State Fault Refusal :=
  s.upd (fun h => h.hostWrite w (Hive.watchChk (wKey w)) (Hive.applyTypes (wKey w)))

/-- A maintenance activity names the comb: its spare BIST, or a patch load whose frames hold it (R227). -/
def Hive.combNamed (h : Hive) (c : Nat) : Bool :=
  (h.maintOf 7 c).isSome || bitOf h.shadowFrames (c / 8)

/-- The conditions of R227 that a comb sleeps under. -/
def Hive.sleepOk (h : Hive) (c : Nat) : Bool :=
  let ws := (combWorkers c).filter (fun w => h.kvalid w)
  let slots := ((List.range 4).filter (fun i => bitOf (h.get (F.wrkSleepCtl_watch_en c)) i)).map (fun i =>
    bitsOf (h.get (F.wrkWatch_slots c)) (8 * i) 8)
  h.get (F.wrkSleepCtl_mode c) != 0 &&
    ws.all (fun w => h.flag (F.wrkDesc0_sleep_ok c (w % 8)) && !(h.wget w).meas && h.wrkSt w != 5) &&
    !slots.isEmpty && slots.all (fun t => h.get (F.trkStat_tracked t) == 0 && !h.flag (F.trkStat_fold t)) &&
    !h.combNamed c

/-- At a tick: since when the conditions of sleep have held without a break on each comb whose mode is not never (R227). -/
def Hive.idleWatch (h : Hive) : Hive :=
  (List.range 64).foldl (fun (h : Hive) c =>
    let k := h.combGet c
    let ok := h.get (F.wrkSleepCtl_mode c) != 0 && h.get (F.wrkCombStat_power c) == 0 && h.combAwake c && !k.scrub && h.sleepOk c
    if ok && k.idleAt.isSome then h
    else if ok then h.combSet c { k with idleAt := some (h.ticks - 1) }
    else if k.idleAt.isSome then h.combSet c { k with idleAt := none } else h) h

/-- The conditions have held for idle_ms (R227). -/
def Hive.idleLong (h : Hive) (c : Nat) : Bool :=
  match (h.combGet c).idleAt with
  | some t => decide (t + max 1 (h.get (F.wrkSleepCtl_idle_ms c)) * Config.msTicks ≤ h.ticks)
  | none => false

/-- COMB_SLEEP_START: the conditions have held for idle_ms; entry begins, unless a wake trigger falls on this cycle (R22,
R227). -/
def execCombSleepStart (c : CombId) (s : State) : Host.Outcome State Fault Refusal :=
  s.upd (fun h =>
    if h.get (F.wrkCombStat_power c.val) = 0 ∧ h.combAwake c.val ∧ !(h.combGet c.val).scrub ∧ h.sleepOk c.val ∧ h.idleLong c.val ∧
        (h.combGet c.val).trigAt ≠ h.ticks + 1 then
      h.set (F.wrkCombStat_power c.val) 3
    else h)

/-- The comb sleeps: retained or off, its kernels' workers asleep; the GTC of the entry is kept (R22, R227, R232, R26). -/
def Hive.combSlept (h : Hive) (c : Nat) : Hive :=
  let off := h.get (F.wrkSleepCtl_mode c) == 2
  let h := (h.set (F.wrkCombStat_power c) (if off then 2 else 1)).bump (F.wrkCombStat_sleeps c) 1
  let h := h.combSet c { h.combGet c with
    scrub := false, waking := false, fromOff := false, sleptAt := h.ticks, sleptGtc := h.stamp, idleAt := none }
  let h := (combWorkers c).foldl (fun h w => if h.kvalid w && h.wrkSt w == 2 then h.setWrkSt w 4 else h) h
  h.structEval

/-- COMB_SLEEP_ENTERED: 2 us after the start; off mode loses the memories (R227). -/
def execCombSleepEntered (c : CombId) (s : State) : Host.Outcome State Fault Refusal :=
  if s.hive.get (F.wrkCombStat_power c.val) = 3 then
    .next { s with
      hive := s.hive.combSlept c.val
      mem := if s.hive.get (F.wrkSleepCtl_mode c.val) = 2 then s.mem.clearComb c.val else s.mem }
  else .next s

/-- A comb's scrubber starts a new pass from the first word (R29): errors of the pass before no longer count (R30). -/
def Hive.scrubAnew (h : Hive) (u : Nat) : Hive :=
  { h with
    scrubDone := h.scrubDone.filter (fun x => x != u)
    eccSeen := h.eccSeen.filter (fun p => eccUnit p.1 p.2.1 != u) }

/-- The comb runs again: a fresh scrub pass, kernels cold from off with their code checked, resumed unless it woke for a scrub
pass, and a move that waited for it gets its T (R21, R29, R223, R229, R231). -/
def Hive.wakeDone (h : Hive) (c : Nat) (bad : List Nat) : Hive :=
  let k := h.combGet c
  let h := (h.set (F.wrkCombStat_power c) 0).combSet c { k with waking := false, fromOff := false }
  let h := (h.scrubAnew c).structEval
  let h := if k.fromOff then (h.gangsOf (combWorkers c)).foldl (fun h w => h.kernelReload w (bad.contains w)) h else h
  let h := if k.scrub then h else h.combResume c
  (combWorkers c).foldl (fun h w =>
    let st := h.wget w
    match st.moveTo with
    | some s => if st.waits then (h.wset w { st with waits := false }).sparingSet w s else h
    | none => h) h

/-- COMB_WAKE_COMPLETE: `bad` names the workers whose code fails its check at a wake from off (R223). -/
def execCombWakeComplete (c : CombId) (bad : List WorkerId) (s : State) : Host.Outcome State Fault Refusal :=
  if (s.hive.combGet c.val).waking then
    .next { s with
      hive := s.hive.wakeDone c.val (bad.map (fun w => w.val))
      mem := if (s.hive.combGet c.val).fromOff then s.mem.codeLoad s.hive (combWorkers c.val) else s.mem }
  else .next s

/-- SLEEP_SCRUB_WAKE: a comb that has slept for sleep_scrub_min minutes wakes for one pass; 0 means never (R29, R31). -/
def execSleepScrubWake (c : CombId) (s : State) : Host.Outcome State Fault Refusal :=
  s.upd (fun h =>
    let p := h.get (F.wrkCombStat_power c.val)
    let k := h.combGet c.val
    let min := h.get F.scrubCtl_sleep_scrub_min
    if (p = 1 ∨ p = 2) ∧ min ≠ 0 ∧ !k.waking ∧ k.sleptAt + min * 60 * Config.secTicks ≤ h.ticks then
      h.combSet c.val { k with waking := true, scrub := true, fromOff := p == 2 }
    else h)

/-- A scrubber has finished its pass: combs 0-63, stores 64-65, keeper 66; a sleeping comb is not scrubbed (R29). The
hive-wide count rises when every unit that is scrubbed has finished (R31); a comb awake for the pass alone sleeps again. -/
def Hive.scrubEnd (h : Hive) (u : Nat) : Hive :=
  if u < 64 && !h.combAwake u then h
  else
    let h := h.scrubAnew u
    let h : Hive := { h with scrubDone := u :: h.scrubDone }
    let all := (List.range 67).all (fun x => h.scrubDone.contains x || (decide (x < 64) && !h.combAwake x))
    let h : Hive := if all then ({ h with scrubDone := [] } : Hive).wrapInc F.scrubStat_passes else h
    if u < 64 ∧ (h.combGet u).scrub ∧ h.get (F.wrkCombStat_power u) = 0 then h.set (F.wrkCombStat_power u) 3 else h

/-- SCRUB_PASS_END. -/
def execScrubPassEnd (unit : Fin 67) (s : State) : Host.Outcome State Fault Refusal := s.upd (fun h => h.scrubEnd unit.val)

/-! ## Clock gating (R21, R232) -/

/-- A running kernel waits for input: a meter kernel that does not measure, a UGT instance whose group is not gated, a CTRK or
MSTAT instance that serves nothing, and a path kernel that no stream names (R21). -/
def Hive.kernelWaits (h : Hive) (w : Nat) : Bool :=
  match h.kid w with
  | 1 | 4 => (h.pathStreams w).isEmpty
  | 2 => !h.flag (F.ugtCtl_en (h.instOf w))
  | 3 => (h.slotsOfWorker w).isEmpty
  | 5 | 6 => !(h.wget w).meas
  | 7 => (h.mstatStreams w).isEmpty
  | _ => false

/-- WRK.STAT.state as read: clock-gated while a running kernel waits for input (R21). -/
def Hive.wrkStatWord (h : Hive) (a : Nat) : Nat :=
  let w := (a - 0x600000) / 0x4000 * 8 + ((a - 0x600000) % 0x4000 - 0x2000) / 0x400
  let v := (h.rd a).toNat
  if h.wrkSt w = 2 && h.kernelWaits w then v + 1 else v

end Sys2Proof.Machine
end

