-- ==== Sys2Proof/Machine/Structure.lean ====
section
/-! DEFINITION. Bridges, dies and memory errors (R12 to R18, R26, R28 to R31). -/

namespace Sys2Proof.Machine

/-! ## Bridges (R13, R14) -/

/-- WIRE_GROUP_FAIL: ROUTE cause 0x01 at L1; with the spare in use or awaited, the bridge fails as a whole (R14). -/
def execWireGroupFail (b : BridgeId) (s : State) : Host.Outcome State Fault Refusal :=
  s.upd (fun h =>
    let k := h.brGet b.val
    if !h.bridgeUp b.val then h
    else if k.wgFail || k.spare then h.bridgeLost b.val
    else (h.brSet b.val { k with wgFail := true }).raise 0x02 0x01 (srcNoBridge b.val) 1 0)

/-- SPARE_WIRE_GROUP_SUBSTITUTE: the spare replaces the failed group; no sample is lost (R14). -/
def execSpareWireGroupSubstitute (b : BridgeId) (s : State) : Host.Outcome State Fault Refusal :=
  s.upd (fun h =>
    let k := h.brGet b.val
    if k.wgFail && h.bridgeUp b.val then h.brSet b.val { k with wgFail := false, spare := true } else h)

/-- BRIDGE_FAIL: the bridge is lost, and the streams it carried carry zero samples while they are moved (R14). -/
def execBridgeFail (b : BridgeId) (s : State) : Host.Outcome State Fault Refusal := s.upd (fun h => h.bridgeLost b.val)

/-- BRIDGE_TRAFFIC_MOVED: the streams of the move are placed on the surviving capacity in ascending stream number; those that
fit run on, 112 ticks later over bridge 6's detour, and the others take cause 2 (R14, R52, R53). -/
def Hive.moveTraffic (h : Hive) (b : Nat) : Hive :=
  let ns := h.image.filter (fun n => (h.brGet b).moving.contains n)
  ns.foldl (fun h n => h.placeStream n) (h.brSet b { h.brGet b with moving := [] })

/-- BRIDGE_TRAFFIC_MOVED. -/
def execBridgeTrafficMoved (b : BridgeId) (s : State) : Host.Outcome State Fault Refusal := s.upd (fun h => h.moveTraffic b.val)

/-! ## Die faults (R17, R18, R26) -/

/-- A brood die is faulted (R18): cause 2 and the power-fail ramp on every stream it names; without its smoker its own streams
go to FAULTED, and its lanes and the other die's router half send zeros in place of their samples. Sources and destinations
on the die are lost (R53). -/
def Hive.broodFault (h : Hive) (d : Nat) (smokerLost : Bool) : Hive :=
  let ns := h.image.filter (fun n => h.onDie n d)
  let own := ns.filter (fun n => h.home n == d)
  let h := (h.triggerAll 2 true ns).setDieSt d 4
  let h : Hive := { h with smkLost := setBit h.smkLost d smokerLost }
  let h := if smokerLost then (own.foldl (fun h n => h.toFaulted n) h).zeroOut own else h
  (h.bridgeEval.srcEvalAll (fun w => h.endDie w == some d)).settle

/-- BROOD_DIE_FAULT. Before RUN the die is held faulted from the end of the load on (R26). -/
def execBroodDieFault (d : Fin 2) (smokerLost : Bool) (s : State) : Host.Outcome State Fault Refusal :=
  s.upd (fun h =>
    let d := d.val
    if h.dieSt d = 0 ∨ h.dieSt d = 4 then h
    else if h.preRun then { h with dieBad := setBit h.dieBad d true, smkLost := setBit h.smkLost d smokerLost }
    else h.broodFault d smokerLost)

/-- The kernels of a list of workers are lost, each gang once. -/
def Hive.kernelsDown (h : Hive) (ws : List Nat) : Hive := (h.gangsOf ws).foldl (fun h w => h.kernelDown w) h

/-- The kernels of a list of workers restart cold, their code loaded anew; one on a worker that is failing stays lost (R223,
R231). -/
def Hive.kernelsCold (h : Hive) (ws : List Nat) (bad : List Nat) : Hive :=
  (h.gangsOf (ws.filter (fun w => h.wrkSt w != 5))).foldl (fun h w => h.kernelReload w ((h.gang w).any (fun v => bad.contains v))) h

/-- Workers of a super, frame or comb. -/
def dieWorkers (d : Nat) : List Nat := (List.range 256).map (fun k => 256 * (d - 2) + k)
def frameWorkers (f : Nat) : List Nat := (List.range 64).map (fun k => 64 * f + k)

/-- A super is faulted: the die and its frames read FAULTED, and every kernel on it is lost (R17, R26, R53). -/
def Hive.superFault (h : Hive) (d : Nat) : Hive :=
  let h := h.setDieSt d 4
  let h := (List.range 4).foldl (fun h f => h.setFrameSt (4 * (d - 2) + f) 3) h
  (h.structEval.bridgeEval.kernelsDown (dieWorkers d)).settle

/-- SUPER_DIE_FAULT. Before RUN the die is held faulted from the end of the load on (R26). -/
def execSuperDieFault (d : Fin 2) (s : State) : Host.Outcome State Fault Refusal :=
  s.upd (fun h =>
    let d := 2 + d.val
    if h.dieSt d = 0 ∨ h.dieSt d = 4 then h
    else if h.preRun then { h with dieBad := setBit h.dieBad d true }
    else h.superFault d)

/-! ## Memory errors (R28 to R31) -/

/-- CORRECTABLE_ECC_ERROR: counted; the corrected word is written back (R28). -/
def execCorrectableEccError (_o : EccOwner) (s : State) : Host.Outcome State Fault Refusal :=
  s.upd (fun h => h.bump F.eccCe_count 1)

/-- Kind and unit of HIVE.ECC_LAST_WHERE; none for a memory that has no code there (R31). -/
def eccWhere (o : EccOwner) : Option (Nat × Nat) :=
  match o with
  | .workerData w => some (0, w.val)
  | .kernelStore w => some (1, w.val)
  | .combMem c => some (2, c.val)
  | .store d _ => some (3, d.val)
  | .keeperSram _ => some (4, 0)
  | _ => none

/-- The first uncorrectable error after valid was cleared is held (R31). -/
def Hive.eccNote (h : Hive) (o : EccOwner) (word : Nat) (scrub : Bool) : Hive :=
  let h := h.bump F.eccUe_count 1
  match eccWhere o with
  | none => h
  | some (k, u) =>
    if h.flag F.eccLastWhere_valid then h
    else
      let h := ((h.set F.eccLastWhere_kind k).set F.eccLastWhere_unit u).setFlag F.eccLastWhere_scrub scrub
      (h.hwSet F.eccLastWhere_valid).set F.eccLastWord_word word

/-- A stream muted for an error in its bank or table entry: situation 6, which R53 leaves reserved, holds the mute. -/
def Hive.eccMute (h : Hive) (n : Nat) : Hive := h.fmapMute n 6

/-- A recorder record is marked invalid: die records 0-3, lane records 4-147, stream records 148-387 (R30, R363, R364). -/
def Hive.recInvalid (h : Hive) (r : Nat) : Hive :=
  if r < 4 then h.kput (0x4104 + 288 * r) (setBit (h.kget (0x4104 + 288 * r)).toNat 2 true)
  else if r < 148 then h.kput (laneRec (r - 4) 4) (setBit (h.kget (laneRec (r - 4) 4)).toNat 8 true)
  else if r < 388 then h.kput (recAt (r - 148) + 4) (setBit (h.kget (recAt (r - 148) + 4)).toNat 12 true)
  else h

/-- The fault record notes whether the error was found by the scrubber (R30); R374 shows no bit for it. -/
def Hive.noteScrub (h : Hive) (cls cause source : Nat) (scrub : Bool) : Hive :=
  match h.fltFind cls cause source with
  | some i => { h with faults := Tbl.put (fun _ => FaultRec.free) h.faults i { h.flt i with byScrub := scrub } }
  | none => h

/-- A fault of a memory error: raised, with the note of R30. -/
def Hive.eccRaise (h : Hive) (cls cause source level arg : Nat) (scrub : Bool) : Hive :=
  (h.raise cls cause source level arg).noteScrub cls cause source scrub

/-- The worker is reset and its kernel restarts cold; a second error at the address within a scrub pass marks it failing (R30). -/
def Hive.eccWorker (h : Hive) (w kind word : Nat) (scrub bad : Bool) : Hive :=
  let key := (kind, w, word)
  let again := h.eccSeen.contains key
  let h := (h.workerReset w bad).eccRaise 0x06 (kind + 1) (srcNoWorker w) 2 0 scrub
  if again then h.markFailing w else { h with eccSeen := key :: h.eccSeen }

/-- A comb reset on account of a fault: its kernels stop and restart cold, and its DMA state clears (R20, R30). -/
def Hive.combReset (h : Hive) (c : Nat) (bad : List Nat) : Hive :=
  ((h.kernelsDown (combWorkers c)).wr (R.wrkDmaStat c) 0).kernelsCold (combWorkers c) bad

/-- The owner's action on the block (R30). -/
def Hive.eccAct (h : Hive) (o : EccOwner) (word : Nat) (scrub : Bool) (bad : List Nat) : Hive :=
  match o with
  | .workerData w => h.eccWorker w.val 0 word scrub (bad.contains w.val)
  | .kernelStore w => h.eccWorker w.val 1 word scrub (bad.contains w.val)
  | .combMem c => (h.combReset c.val bad).eccRaise 0x06 0x03 (srcNoComb c.val) 2 0 scrub
  | .store _ n => h.eccRaise 0x06 0x04 (srcNoStream n.val) 2 n.val scrub
  | .activeBank s p =>
    let h := match h.halfStream s.val p.val with
      | some n => h.eccMute n
      | none => h
    h.eccRaise 0x03 0x01 (srcNoSlice s.val) 3 0 scrub
  | .inactiveBank s p =>
    (h.setFlag (bankFlag s.val p.val (!h.flag (F.strFirCtl_bank s.val p.val))) false).eccRaise 0x03 0x02 (srcNoSlice s.val) 1 0 scrub
  | .streamTable n => (h.eccMute n.val).eccRaise 0x02 0x09 (srcNoStream n.val) 3 n.val scrub
  | .sieveBank b => (h.bankRestart b.val).eccRaise 0x04 0x01 (srcNoBank b.val) 2 0 scrub
  | .keeperSram r => (h.recInvalid r).eccRaise 0x06 0x05 0x1 1 0 scrub

/-- The owner's action on the byte memories: a reset clears them, and a store's code word is read as zero samples (R20, R30). -/
def Mem.eccAct (m : Mem) (h : Hive) (o : EccOwner) (word : Nat) : Mem :=
  match o with
  | .workerData w => (m.clearWorker w.val).codeLoad h [w.val]
  | .kernelStore w => (m.clearWorker w.val).codeLoad h [w.val]
  | .combMem c => (m.clearComb c.val).codeLoad h (combWorkers c.val)
  | .store d _ => m.storePut (0x1000000 * (1 + d.val) + 8 * word) (List.replicate 8 0)
  | _ => m

/-- UNCORRECTABLE_ECC_ERROR: `bad` names the workers whose code fails its check when they restart (R223). -/
def execUncorrectableEccError (o : EccOwner) (word : Fin 2097152) (scrub : Bool) (bad : List WorkerId) (s : State) :
    Host.Outcome State Fault Refusal :=
  .next { s with
    hive := (s.hive.eccNote o word.val scrub).eccAct o word.val scrub (bad.map (fun w => w.val))
    mem := s.mem.eccAct s.hive o word.val }

/-- A write to HIVE.ECC_LAST_WHERE: 1 in valid clears it and HIVE.ECC_LAST_WORD (R31). -/
def Hive.wEccLast (h : Hive) (w : RegWrite) : Hive :=
  h.hostWrite w (fun _ _ => stOk) (fun h v =>
    if h.w1cTakes F.eccLastWhere_valid v then (h.wr R.eccLastWhere 0).wr R.eccLastWord 0 else h)

/-- ECC_RECORD_CLEAR. -/
def execEccRecordClear (w : RegWrite) (s : State) : Host.Outcome State Fault Refusal := s.upd (fun h => h.wEccLast w)

end Sys2Proof.Machine
end

