-- ==== Sys2Proof/Machine/Sections.lean ====
section
/-! DEFINITION. Writing the sections of a file into the hive: register words, coefficient sets, kernels, loops and streams
(R261, R265, R271). -/

namespace Sys2Proof.Machine

/-- One word of a file: a register's implemented bits (R8), or four bytes of an envelope record; nothing at an unimplemented
address. -/
def Hive.putWord (h : Hive) (p : Nat × Nat) : Hive :=
  if 0x810000 ≤ p.1 ∧ p.1 < 0x811000 then
    let t := (p.1 - 0x810000) / 0x100
    let o := (p.1 - 0x810000) % 0x100
    (List.range 4).foldl (fun (h : Hive) i =>
      let b := bitsOf p.2 (8 * i) 8
      if o + i < 176 then
        { h with
          envT := Tbl.put (fun _ => 0) h.envT (t * 176 + o + i) b
          envC := Tbl.put (fun _ => 255) h.envC (t * 176 + o + i) (255 - b) }
      else h) h
  else
    match Regs.find p.1 with
    | some d => (h.wr p.1 (BitVec.ofNat 32 (Nat.land p.2 d.bits))).mismClear p.1
    | none => h

/-- The tenants whose envelope a file replaces. -/
def bodyTenants (b : FileBody) : List Nat :=
  (List.range 16).filter (fun t => b.words.any (fun p => decide (0x810000 + t * 0x100 ≤ p.1) && decide (p.1 < 0x810000 + t * 0x100 + 176)))

/-- The envelope hash over the 16 records (R295). -/
def Hive.envDigest (h : Hive) : Nat :=
  Config.sha384 ((List.range 16).flatMap (fun t => (List.range 176).map (fun o => h.envByte t o))) % 2 ^ 384

/-- What the files loaded so far say of registers and coefficient sets: the queen rewrites a die from it after its reset (R253). -/
def Hive.cfgNote (h : Hive) (b : FileBody) : Hive :=
  { h with
    cfgWords := b.words.foldl (fun t p => Tbl.put (fun _ => 0) t p.1 p.2) h.cfgWords
    cfgSets := h.cfgSets ++ [(b.banks, b.swaps)]
    cfgSpares := b.spares.foldl (fun t p => Tbl.put (fun _ => none) t p.1 (some p.2)) h.cfgSpares
    cfgLinks := b.links.foldl (fun t p => Tbl.put (fun _ => []) t p.1 p.2) h.cfgLinks
    cfgLoops := b.initHeld.foldl (fun t s => Tbl.put (fun _ => lpOpen) t s lpHeld)
      (b.initClosed.foldl (fun t s => Tbl.put (fun _ => lpOpen) t s lpClosed) h.cfgLoops) }

/-- The sections that both kinds of file carry, but for coefficient sets, channel maps and loops. -/
def Hive.loadBody (h : Hive) (b : FileBody) : Hive :=
  let h := b.words.foldl (fun h p => h.putWord p) (h.cfgNote b)
  let h : Hive := { h with
    kdecl := b.kerns.foldl (fun t p => Tbl.put (fun _ => none) t p.1 (some p.2)) h.kdecl
    inband := b.inband.foldl (fun t p => Tbl.put (fun _ => []) t p.1 p.2) h.inband
    gbands := b.guards.foldl (fun t p => Tbl.put (fun _ => []) t p.1 p.2) h.gbands
    spares := b.spares.foldl (fun t p => Tbl.put (fun _ => none) t p.1 (some p.2)) h.spares
    links := b.links.foldl (fun t p => Tbl.put (fun _ => []) t p.1 p.2) h.links
    carry := b.spares.foldl (fun t p => Tbl.put (fun _ => 0) t p.2 0) h.carry
    fellBack := b.links.foldl (fun t p => Tbl.put (fun _ => false) t p.1 false) h.fellBack
    convs := b.convs.foldl (fun t p => Tbl.put (fun _ => ConvLink.none) t p.1 p.2) h.convs
    rclk := b.rclk.foldl (fun t p => Tbl.put (fun _ => none) t p.1 (some p.2)) h.rclk
    fallbacks := b.fallbacks.foldl (fun t p => Tbl.put (fun _ => 0) t p.1 p.2) h.fallbacks
    linkProp := b.props.foldl (fun t p => Tbl.put (fun _ => 0) t p.1 p.2) h.linkProp
    eth := b.eth.foldl (fun t p => Tbl.put (fun _ => EthSt.init) t p.1 { EthSt.init with depth := p.2.1, spm := p.2.2 }) h.eth
    maps := b.maps.foldl (fun t p => Tbl.put (fun _ => []) t p.1 p.2) h.maps
    lineBase := b.lines.foldl (fun t p => Tbl.put (fun _ => 0) t p.1 p.2) h.lineBase
    gmap := b.gmaps.foldl (fun t p => Tbl.put (fun _ => []) t p.1 p.2) h.gmap
    shapes := b.shapes.foldl (fun t p => Tbl.put (fun _ => []) t p.1 p.2) h.shapes
    range := b.ranges.foldl (fun t p => Tbl.put (fun _ => 0) t p.1 p.2) h.range
    kpar := b.kpar.foldl (fun t p => Tbl.put (fun _ => 0) t p.1 p.2) h.kpar
    trkWorker := b.trkWorkers.foldl (fun t p => Tbl.put (fun _ => 0) t p.1 p.2) h.trkWorker
    trk := b.trkParams.foldl (fun t p => Tbl.put (fun _ => TrkSt.init) t p.1
      { Tbl.get (fun _ => TrkSt.init) t p.1 with
        detect := (p.2.1 : Int), acquire := p.2.2.1, release := p.2.2.2.1, wake := p.2.2.2.2 }) h.trk }
  let h := (bodyTenants b).foldl (fun h t => h.wcLoad t) h
  if (bodyTenants b).isEmpty then h else { h with envHash := h.envDigest }

/-- Coefficients that a half stores per bank: 256, or 128 when the slice is time-shared (R99). -/
def Hive.bankRoom (h : Hive) (i : Nat) : Nat := if h.get (F.strCfg_use (i / 2)) = 2 then 128 else 256

/-- A coefficient set written into bank B (`true`) or A of a half, as far as the bank has entries (R99). -/
def Hive.bankPut (h : Hive) (i : Nat) (b : Bool) (c : CoefSet) : Hive :=
  let st := h.hget i
  let c := { c with coefs := c.coefs.take (h.bankRoom i) }
  h.hset i (if b then { st with bankB := c } else { st with bankA := c })

/-- A bank's set becomes valid (R100). -/
def Hive.bankValid (h : Hive) (i : Nat) (b : Bool) : Hive := h.setFlag (bankFlag (i / 2) (i % 2) b) true

/-- The coefficient sets of the image go to bank A, which is active (R100, R265). -/
def Hive.imageSets (h : Hive) (banks : List (Nat × CoefSet)) : Hive :=
  banks.foldl (fun h p => ((h.bankPut p.1 false p.2).bankValid p.1 false).setFlag (F.strFirCtl_bank (p.1 / 2) (p.1 % 2)) false) h

/-- The bank of a half that is not active. -/
def Hive.spareBank (h : Hive) (i : Nat) : Bool := !h.flag (F.strFirCtl_bank (i / 2) (i % 2))

/-- The sets of a replayed patch go to the inactive banks, and the halves that it names swap (R100, R101, R265). -/
def Hive.patchSets (h : Hive) (banks : List (Nat × CoefSet)) (swaps : List Nat) : Hive :=
  let h := banks.foldl (fun h p => (h.bankPut p.1 (h.spareBank p.1) p.2).bankValid p.1 (h.spareBank p.1)) h
  swaps.foldl (fun h i => h.setFlag (F.strFirCtl_bank (i / 2) (i % 2)) (h.spareBank i)) h

/-- The kernel of a worker starts (R151, R168, R216, R363). -/
def Hive.kernelStart (h : Hive) (w : Nat) : Hive :=
  let h := h.setWrkSt w 2
  if h.get (F.wrkDesc0_pos (w / 8) (w % 8)) ≠ 0 then h
  else
    match h.kid w with
    | 1 => h.fbCold (h.instOf w)
    | 2 => h.ugtCold (h.instOf w)
    | 3 => (h.slotsOfWorker w).foldl (fun h t => h.trkCold t) h
    | 7 => h.mstatCold w
    | _ => h

/-- The streams that MSTAT instances cover (R363). -/
def Hive.mstatCover (h : Hive) : List Nat :=
  ((List.range 512).filter (fun w => h.kvalid w && h.kid w == 7)).flatMap (fun w => h.mstatStreams w)

/-- Stream records follow the coverage: one no longer covered is freed, a new one takes the lowest free and starts empty. -/
def Hive.mstatRecords (h : Hive) : Hive :=
  let cov := h.mstatCover
  let h := (List.range 240).foldl (fun h r =>
    let w := (h.kget (recAt r + 4)).toNat
    if bitOf w 11 && !cov.contains (bitsOf w 0 11) then h.kput (recAt r + 4) 0 else h) h
  cov.foldl (fun h n =>
    match h.recOf n with
    | some _ => h
    | none =>
      match (List.range 240).find? (fun r => !bitOf (h.kget (recAt r + 4)).toNat 11) with
      | some r => ((List.range 119).foldl (fun h i => h.kput (recAt r + 4 + 4 * i) 0) h).kput (recAt r + 4) (n + 2 ^ 11)
      | none => h) h

/-- A loop slot in the state that the image gives it: OPEN unless the file lists it, a THERMAL loop dormant (R177, R180). -/
def Hive.loopInit (h : Hive) (s : Nat) : Hive :=
  let run := h.st (h.get (F.gceLoopCfg_stream s)) == stRampUp || h.st (h.get (F.gceLoopCfg_stream s)) == stLive
  let h := (h.loopSet s { LoopSt.init with since := if run then some h.ticks else none }).set (F.gceLoopState_state s) (Tbl.get (fun _ => lpOpen) h.cfgLoops s)
  h.setFlag (F.gceLoopState_dormant s) (decide (h.get (F.gceLoopCfg_type s) = 4))

/-- A stream that a file makes valid: IDLE, with nothing in its hidden state. -/
def Hive.streamInit (h : Hive) (n : Nat) : Hive :=
  -- the image's ingress delays stand until both lanes have measured (R54)
  (h.sset n { StreamSt.init with inWant := (h.get (F.steInDly_in_pri n), h.get (F.steInDly_in_alt n)) }).setSt n stIdle

end Sys2Proof.Machine
end

