-- ==== Sys2Proof/Machine/Resets.lean ====
section
/-! DEFINITION. Resets of workers, combs, frames and dies (R20, R252, R253). -/

namespace Sys2Proof.Machine

/-! Levels: 0 worker, 1 comb, 2 frame, 3 die (R385). -/

/-- The units of a level. -/
def resetUnits (level : Nat) : Nat := match level with | 0 => 512 | 1 => 64 | 2 => 8 | _ => 4

/-- The workers in the scope of a reset (R15, R20). -/
def resetWorkers (level unit : Nat) : List Nat :=
  match level with
  | 0 => [unit]
  | 1 => combWorkers unit
  | 2 => frameWorkers unit
  | _ => if unit < 2 then [] else dieWorkers unit

/-- The combs whose memory a reset clears. -/
def resetCombs (level unit : Nat) : List Nat :=
  match level with
  | 0 => []
  | 1 => [unit]
  | 2 => (List.range 8).map (fun k => 8 * unit + k)
  | _ => if unit < 2 then [] else (List.range 32).map (fun k => 32 * (unit - 2) + k)

/-- True when the reset `r` covers a unit. -/
def ResetSt.covers (r : ResetSt) (level unit : Nat) : Bool :=
  (r.level == level && r.unit == unit) ||
    (decide (level < r.level) && !(resetWorkers level unit).isEmpty &&
      (resetWorkers level unit).all (fun w => (resetWorkers r.level r.unit).contains w))

/-! ## Begin -/

/-- The registers of lanes, slices, sieve banks, combine groups, meters, loops and contests that lie on brood die `d` (R12,
R20). What the smoker, the stream table and the fault map hold is the streams', which are hive-wide (R12, R202). -/
def Hive.dieAddr (h : Hive) (d a : Nat) : Bool :=
  if a < 0x100000 then false
  else if a < 0x200000 then laneDie ((a - 0x100000) / 0x1000) == d
  else if 0x224000 ≤ a ∧ a < 0x225000 then (a - 0x224000) / 0x10 / 128 == d
  else if a < 0x300000 then false
  else if a < 0x400000 then (a - 0x300000) / 0x400 / 512 == d
  else if a < 0x480000 then (a - 0x400000) / 0x20 / 256 == d
  else if a < 0x490000 then h.home ((a - 0x480000) / 0x20) == d
  else if 0x500000 ≤ a ∧ a < 0x510000 then (a - 0x500000) / 0x20 / 1024 == d
  else if 0x510000 ≤ a ∧ a < 0x520000 then h.home ((a - 0x510000) / 0x20) == d
  else false

/-- A brood die's hidden state clears, with its coefficient banks; so do its registers (R20). -/
def Hive.broodClear (h : Hive) (d : Nat) : Hive :=
  let keep := fun (p : Nat → Nat) (i : Nat) => p i != d
  let h : Hive := { h with
    sieve := h.sieve.filter (fun e => keep (fun b => b / 256) e.1)
    half := h.half.filter (fun e => keep (fun i => i / 1024) e.1)
    grp := h.grp.filter (fun e => keep (fun g => g / 128) e.1)
    loops := h.loops.filter (fun e => keep (fun s => s / 1024) e.1)
    cons := h.cons.filter (fun e => keep h.home e.1)
    lanes := h.lanes.filter (fun e => keep laneDie e.1)
    txq := h.txq.filter (fun e => keep (fun k => if k < 0x100000 then laneDie (k / 4096) else h.linkDie ((k - 0x100000) / 4096)) e.1)
    eth := h.eth.map (fun e => if laneDie (e.1 / 4096) = d then (e.1, { EthSt.init with depth := e.2.depth, spm := e.2.spm }) else e)
    regs := h.regs.filter (fun e => !h.dieAddr d e.1) }
  (h.image.filter (fun n => h.home n == d)).foldl (fun h n =>
    let st := h.sget n
    (h.sset n { st with wr := 0, blk := [], inPri := [], inAlt := [], inWr := (0, 0), inBlk := ([], []), tb := [], k6 := [], pkN := 0, pk := [], env := 0, fade := 0, fadeLen := 0, same := 0, differed := false }).npmSet n
      NpmSt.init) h

/-- A brood die goes into reset: its streams lose their slices, its lanes drop, its banks and its memories clear (R20, R200). -/
def Hive.broodDown (h : Hive) (d : Nat) : Hive :=
  let h := h.setDieSt d 1
  let own := h.image.filter (fun n => h.home n == d)
  let h := (own.foldl (fun h n => h.toFaulted n) h).zeroOut own
  let h := ((List.range 72).map (fun k => 72 * d + k)).foldl (fun h l => if h.lmode l = 0 then h else h.laneGo l lnDown false) h
  (h.broodClear d).bridgeEval.srcEvalAll (fun w => h.endDie w == some d)

/-- A super goes into reset: its frames stop and its PLL with them. -/
def Hive.superDown (h : Hive) (d : Nat) : Hive :=
  let h := (h.setDieSt d 1).kernelsDown (dieWorkers d)
  ((List.range 4).foldl (fun h f => h.setFrameSt (4 * (d - 2) + f) 0) h).structEval.bridgeEval

/-- Workers in the scope load anew (R232). -/
def Hive.workersLoading (h : Hive) (ws : List Nat) : Hive :=
  ws.foldl (fun h w => if h.kvalid w && decide (h.wrkSt w < 5) then h.setWrkSt w 1 else h) h

/-- The reset begins (R20, R252). -/
def Hive.resetStart (h : Hive) (level unit : Nat) : Hive :=
  let ws := resetWorkers level unit
  let h :=
    if level = 3 then (if unit < 2 then h.broodDown unit else h.superDown unit) else h.kernelsDown ws
  -- the DMA state of the combs in the scope clears (R20)
  let h := (resetCombs level unit).foldl (fun h c => (h.wr (R.wrkDmaStat c) 0).scrubAnew c) h
  (h.workersLoading ws).humStop

/-- What the reset clears in the byte memories (R20). -/
def Mem.resetClear (m : Mem) (level unit : Nat) : Mem :=
  if level = 0 then m.clearWorker unit
  else if level = 3 ∧ unit < 2 then
    { m with store := cellsClear (0x1000000 * (1 + unit)) (0x1000000 * (2 + unit)) m.store }
  else (resetCombs level unit).foldl (fun m c => m.clearComb c) m

/-- A reset may begin: its T has come, or its streams' ramps have ended or 16 ms have passed since the request (R252). -/
def Hive.resetDue (h : Hive) (r : ResetSt) : Bool :=
  if r.timed then
    -- a patch of the same instant with the unit in its scope goes first (R249)
    h.due (.reset r.level r.unit) && !(if r.level = 0 then [r.unit / 8] else resetCombs r.level r.unit).any (fun c => h.combPatchFirst c)
  else
    decide (h.ticks ≥ r.reqAt + 16 * Config.msTicks) ||
      (if r.level = 3 ∧ r.unit < 2 then h.image.all (fun n => !h.onDie n r.unit || h.st n != stRampDown)
      else (resetWorkers r.level r.unit).all (fun w => (h.pathStreams w).all (fun n => h.st n != stRampDown)))

/-- RESET_BEGIN. -/
def execResetBegin (level : Fin 4) (unit : Fin 512) (s : State) : Host.Outcome State Fault Refusal :=
  let h := s.hive
  match h.sys.resets.find? (fun r => r.level == level.val && r.unit == unit.val && !r.begun) with
  | none => .next s
  | some r =>
    if h.resetDue r then
      let h : Hive := { h with sys.resets := h.sys.resets.map (fun x => if x == r then { x with begun := true } else x) }
      .next { s with
        hive := (h.unsched (.reset r.level r.unit)).resetStart r.level r.unit
        mem := s.mem.resetClear r.level r.unit }
    else .next s

/-! ## End (R200, R253) -/

/-- The queen writes a brood die's part of the running configuration again: registers, coefficient sets as bank A, loops in
their initial states, banks that start to fill (R253, R265). -/
def Hive.broodLoad (h : Hive) (d : Nat) : Hive :=
  let h := (h.cfgWords.filter (fun e => h.dieAddr d e.1)).foldl (fun h e => h.putWord e) h
  let mine := fun (i : Nat) => decide (i / 1024 = d)
  let h : Hive := match h.cfgSets.map (fun f => (f.1.filter (fun e => mine e.1), f.2.filter mine)) with
    | f :: fs => fs.foldl (fun (h : Hive) f => h.patchSets f.1 f.2) (h.imageSets f.1)
    | [] => h
  let h := (h.image.filter (fun n => h.home n == d)).foldl (fun h n => (h.slotsOf n).foldl (fun h s => h.loopInit s) (h.showGds n)) h
  -- lanes and links of the die take the roles of the image again (R86, R87)
  let back := fun (k : Nat) => (Tbl.get (fun _ => []) h.cfgLinks k).any (fun l => laneDie l == d)
  let h : Hive := { h with
    carry := h.carry.filter (fun e => laneDie e.1 != d)
    spares := (h.cfgSpares.filter (fun e => laneDie e.1 == d)).foldl (fun t e => Tbl.put (fun _ => none) t e.1 e.2)
      (h.spares.filter (fun e => laneDie e.1 != d))
    links := h.links.map (fun e => if back e.1 then (e.1, Tbl.get (fun _ => []) h.cfgLinks e.1) else e)
    fellBack := h.fellBack.filter (fun e => !back e.1) }
  let h := h.linkPos
  ((List.range 256).map (fun k => 256 * d + k)).foldl (fun h b => if h.flag (F.sivCtl_en b) then h.sieveStart b 1 else h) h

/-- A brood die runs again: its lanes train, and its streams in FAULTED go to MUTED. -/
def Hive.broodUp (h : Hive) (d : Nat) : Hive :=
  let h : Hive := { h with smkLost := setBit h.smkLost d false, dieBad := setBit h.dieBad d false }
  let h := (h.setDieSt d 2).broodLoad d
  let h := ((List.range 72).map (fun k => 72 * d + k)).foldl (fun h l => if h.lmode l = 0 then h else (h.set (F.laneStat_state l) lnDown).retrainStart l 0) h
  let h := (h.image.filter (fun n => h.home n == d && h.st n == stFaulted)).foldl (fun h n => h.fromFaulted n) h
  (h.bridgeEval.srcEvalAll (fun w => h.endDie w == some d)).dieCauseEnd h.image

/-- A super runs again. -/
def Hive.superUpAgain (h : Hive) (d : Nat) : Hive :=
  let h : Hive := { h with dieBad := setBit h.dieBad d false }
  let h := (List.range 4).foldl (fun h f => h.setFrameSt (4 * (d - 2) + f) 0) (h.setDieSt d 2)
  h.bridgeEval

/-- The unit runs: its kernels restart cold, but for those whose code fails its check (R223). -/
def Hive.resetDone (h : Hive) (level unit : Nat) (bad : List Nat) : Hive :=
  let ws := resetWorkers level unit
  let h := if level = 3 then (if unit < 2 then h.broodUp unit else h.superUpAgain unit) else h
  let h := (resetCombs level unit).foldl (fun h c =>
    (h.set (F.wrkCombStat_power c) 0).combSet c { h.combGet c with scrub := false, waking := false, fromOff := false, idleAt := none }) h
  let h := ws.foldl (fun h w => if h.wrkSt w = 1 then h.setWrkSt w 2 else h) h
  ((h.kernelsCold ws bad).structEval).settle

/-- RESET_UNIT_RUNNING: the command that asked for the reset completes (R385). `bad` names the workers whose code fails its
check (R223). -/
def execResetUnitRunning (level : Fin 4) (unit : Fin 512) (bad : List WorkerId) (s : State) : Host.Outcome State Fault Refusal :=
  match s.hive.sys.resets.find? (fun r => r.level == level.val && r.unit == unit.val && r.begun) with
  | none => .next s
  | some r =>
    let h : Hive := { s.hive with sys.resets := s.hive.sys.resets.filter (fun x => x != r) }
    .next { s with
      hive := (h.resetDone r.level r.unit (bad.map (fun w => w.val))).finish r.tok stOk 0
      mem := s.mem.codeLoad s.hive (resetWorkers r.level r.unit) }

/-! ## The command (opcode 0x0B) -/

/-- A reset command at a level: BAD_ARG for a unit that is not there or a T that is too near, WRONG_STATE for a unit that is
resetting already; without T cause 1 of R53, or the ramps of R18, apply at once (R252, R253). -/
def Hive.resetCmd (h : Hive) (c : CmdEntry) (level : Nat) : Hive :=
  let unit := argBits c.a0 2 11
  let form : CmdForm := ⟨0x0B, 0x1FFF, 0, 0, if level = 3 then .never else .optional, .timed⟩
  let range := argBits c.a0 0 2 == level && decide (unit < resetUnits level) && (!c.timed || h.leadOk c.t.toNat false)
  let chk := if h.sys.resets.any (fun r => r.covers level unit) then stWrong else if c.timed then h.schedStatus else stOk
  (h.countRefused (h.cmdStatus c form range chk)).command c form range chk (fun h k =>
    let h : Hive := { h with sys.resets := h.sys.resets ++ [⟨level, unit, k, c.timed, false, h.ticks⟩] }
    if c.timed then (h.schedule c.t.toNat (.reset level unit), none)
    else if level = 3 ∧ unit < 2 then ((h.triggerAll 2 true (h.image.filter (fun n => h.onDie n unit))).settle, none)
    else (h.kernelsDown (resetWorkers level unit), none))

/-- RESET_WORKER. -/
def execResetWorker (c : CmdEntry) (s : State) : Host.Outcome State Fault Refusal := s.upd (fun h => h.resetCmd c 0)
/-- RESET_COMB. -/
def execResetComb (c : CmdEntry) (s : State) : Host.Outcome State Fault Refusal := s.upd (fun h => h.resetCmd c 1)
/-- RESET_FRAME. -/
def execResetFrame (c : CmdEntry) (s : State) : Host.Outcome State Fault Refusal := s.upd (fun h => h.resetCmd c 2)
/-- RESET_DIE. -/
def execResetDie (c : CmdEntry) (s : State) : Host.Outcome State Fault Refusal := s.upd (fun h => h.resetCmd c 3)

end Sys2Proof.Machine
end

