-- ==== Sys2Proof/Machine/Scope.lean ====
section
/-! DEFINITION. The scope of a patch: which streams use each item, what a patch may write, the space its shadow takes and the licence
envelopes it is held to (R266 to R270, R273). -/

namespace Sys2Proof.Machine

/-! ## The streams that use an item (R267) -/

/-- The block with a file's sections written: what the patch's items look like after T. -/
def Hive.bodyPreview (h : Hive) (b : FileBody) : Hive :=
  let h := h.loadBody b
  { h with streams := (List.range 2048).filter (fun n => h.isStream n) }

/-- The sources and destinations of a stream. -/
def Hive.ends (h : Hive) (n : Nat) : List Nat :=
  [h.srcWord n false, h.srcWord n true] ++ (List.range 4).map (fun d => h.dest n d)

def Hive.laneUsers (h : Hive) (l : Nat) : List Nat := h.image.filter (fun n => (h.ends n).any (fun w => h.reads l w))

def Hive.linkUsers (h : Hive) (k : Nat) : List Nat :=
  h.image.filter (fun n => (h.ends n).any (fun w => srcKind w == 4 && srcA w == k)) ++ (h.linkLanes k).flatMap (fun l => h.laneUsers l)

def Hive.halfUsers (h : Hive) (s p : Nat) : List Nat :=
  h.image.filter (fun n => (h.get (F.steSlice_slice0 n) == s && h.get (F.steSlice_phase0 n) == p) ||
    (h.flag (F.steSlice_slice1_en n) && h.get (F.steSlice_slice1 n) == s && h.get (F.steSlice_phase1 n) == p))

def Hive.sieveUsers (h : Hive) (b : Nat) : List Nat :=
  h.image.filter (fun n => (h.ends n).any (fun w => srcKind w == 2 && srcB w == b) || h.get (F.mtrCtl_spec_bank n) == b ||
    (h.flag (F.sivCtl_en b) && !h.flag (F.sivCtl_mode b) && h.get (F.sivCtl_stream b) == n))

/-- Every input stream and every reader of a combine group. -/
def Hive.groupUsers (h : Hive) (g : Nat) : List Nat :=
  h.image.filter (fun n =>
    (List.range 4).any (fun d => srcKind (h.dest n d) == 3 && srcA (h.dest n d) == g) ||
      [false, true].any (fun alt => h.groupBehind (h.srcWord n alt) == some g && srcKind (h.srcWord n alt) != 0))

def Hive.cancUsers (h : Hive) (c : Nat) : List Nat := if h.flag (F.fbcCtl_en c) then [h.get (F.fbcCtl_stream c)] else []

def Hive.trkUsers (h : Hive) (t : Nat) : List Nat := if h.flag (F.trkStat_valid t) then [h.get (F.trkStat_stream t)] else []

def Hive.loopUsers (h : Hive) (s : Nat) : List Nat := h.image.filter (fun n => (h.slotsOf n).contains s)

def Hive.rowUsers (h : Hive) (r : Nat) : List Nat := h.image.filter (fun n => h.get (F.steCfg_fmap_row n) == r)

/-- The streams that a worker's kernel serves (R211, R214 to R220). -/
def Hive.kernelUsers (h : Hive) (w : Nat) : List Nat :=
  if !h.kvalid w then []
  else match h.kid w with
    | 2 => h.groupUsers (h.instOf w)
    | 3 => (h.slotsOfWorker w).flatMap (fun t => h.trkUsers t)
    | 5 => [bitsOf (h.par w 0) 0 11, bitsOf (h.par w 0) 11 11]
    | 6 => [bitsOf (h.par w 0) 0 11]
    | 7 => h.mstatStreams w
    | _ => h.get (F.wrkDesc1_stream (w / 8) (w % 8)) :: h.pathStreams w

/-! ## What a patch may write (R267, R268) -/

/-- Before and after T, every stream that uses the item is in the set. -/
def Hive.owned (h after : Hive) (b : FileBody) (users : Hive → List Nat) : Bool :=
  (users h ++ users after).all (fun n => b.streams.contains n)

/-- A worker's frame is in the set, or its kernels serve only streams in the set. -/
def Hive.workerOwned (h after : Hive) (b : FileBody) (w : Nat) : Bool :=
  bitOf b.frames (w / 64) || h.owned after b (fun x => x.kernelUsers w)

/-- kern_worker of a stream outside the set moves between frames in scope to a worker with the same kid and version. -/
def Hive.kernMoveOwned (h after : Hive) (b : FileBody) (n : Nat) : Bool :=
  let v := h.get (F.steKern_kern_worker n)
  let w := after.get (F.steKern_kern_worker n)
  h.flag (F.steKern_kern_en n) == after.flag (F.steKern_kern_en n) && bitOf b.frames (v / 64) && bitOf b.frames (w / 64) &&
    h.kid v == after.kid w && h.get (F.wrkDesc0_ver (v / 8) (v % 8)) == after.get (F.wrkDesc0_ver (w / 8) (w % 8))

/-- The scope owns the register word at `a`. -/
def Hive.wordOwned (h after : Hive) (b : FileBody) (a : Nat) : Bool :=
  let own := h.owned after b
  let mine := fun (n : Nat) => b.streams.contains n
  if 0x100000 ≤ a ∧ a < 0x200000 then own (fun x => x.laneUsers ((a - 0x100000) / 0x1000))
  else if 0x200000 ≤ a ∧ a < 0x220000 then
    let n := (a - 0x200000) / 0x40
    mine n || (a == R.steKern n && h.kernMoveOwned after b n)
  else if 0x222000 ≤ a ∧ a < 0x224000 then own (fun x => x.rowUsers ((a - 0x222000) / 4))
  else if 0x224000 ≤ a ∧ a < 0x225000 then own (fun x => x.groupUsers ((a - 0x224000) / 0x10))
  else if 0x300000 ≤ a ∧ a < 0x400000 then
    let s := (a - 0x300000) / 0x400
    let o := (a - 0x300000) % 0x400
    if o < 0x100 then own (fun x => x.halfUsers s 0 ++ x.halfUsers s 1) else own (fun x => x.halfUsers s ((o - 0x100) / 0x100))
  else if 0x400000 ≤ a ∧ a < 0x480000 then own (fun x => x.sieveUsers ((a - 0x400000) / 0x20))
  else if 0x480000 ≤ a ∧ a < 0x490000 then mine ((a - 0x480000) / 0x20)
  else if 0x490000 ≤ a ∧ a < 0x4A0000 then mine ((a - 0x490000) / 0x20)
  else if 0x4B0000 ≤ a ∧ a < 0x4C0000 then own (fun x => x.trkUsers ((a - 0x4B0000) / 0x100))
  else if 0x4C0000 ≤ a ∧ a < 0x4D0000 then own (fun x => x.cancUsers ((a - 0x4C0000) / 0x40))
  else if 0x4D0000 ≤ a ∧ a < 0x500000 then own (fun x => x.groupUsers ((a - 0x4D0000) / 0x200))
  else if 0x500000 ≤ a ∧ a < 0x510000 then own (fun x => x.loopUsers ((a - 0x500000) / 0x20))
  else if 0x510000 ≤ a ∧ a < 0x520000 then mine ((a - 0x510000) / 0x20)
  else if 0x580000 ≤ a ∧ a < 0x588000 then mine ((a - 0x580000) / 0x10)
  else if 0x600000 ≤ a ∧ a < 0x700000 then
    let c := (a - 0x600000) / 0x4000
    let o := (a - 0x600000) % 0x4000
    if 0x2000 ≤ o then h.workerOwned after b (8 * c + (o - 0x2000) / 0x400) else bitOf b.frames (c / 8)
  else if 0x810000 ≤ a ∧ a < 0x811000 then own (fun x => x.tenantStreams ((a - 0x810000) / 0x100))
  else a == R.fltHumMap && b.hum

/-- A worker that runs a kernel keeps the kernel's code: a kernel that changes worker, kid or version goes to an idle one (R268). -/
def Hive.storeKept (h after : Hive) (b : FileBody) : Bool :=
  (List.range 512).all (fun w =>
    !(h.kvalid w && after.kvalid w) ||
      (h.get (F.wrkDesc0_kid (w / 8) (w % 8)) == after.get (F.wrkDesc0_kid (w / 8) (w % 8)) &&
        h.get (F.wrkDesc0_ver (w / 8) (w % 8)) == after.get (F.wrkDesc0_ver (w / 8) (w % 8)) &&
        !(b.kerns.any (fun k => k.1 == h.get (F.wrkDesc0_kid (w / 8) (w % 8))))))

/-- The workers whose kernel's parameter block, before or after, holds the byte at `k` (comb x 524,288 + offset). -/
def Hive.parWorkers (h : Hive) (k : Nat) : List Nat :=
  (combWorkers (k / 524288)).filter (fun w =>
    let base := h.get (F.wrkDesc2_par_base (w / 8) (w % 8))
    h.kvalid w && decide (base ≤ k % 524288) && decide (k % 524288 < base + h.get (F.wrkDesc2_par_len (w / 8) (w % 8))))

/-- Every item of the body lies in the scope: a stream set, a frame set, or both, and nothing outside them (R266, R267, R268). -/
def Hive.scopeOk (h : Hive) (b : FileBody) : Bool :=
  let x := h.bodyPreview b
  let own := h.owned x b
  let mine := fun (n : Nat) => b.streams.contains n
  !(b.frames == 0 && b.streams.isEmpty) && h.storeKept x b && b.rclk.isEmpty && b.words.all (fun p => h.wordOwned x b p.1) &&
    b.banks.all (fun p => own (fun y => y.halfUsers (p.1 / 2) (p.1 % 2))) &&
    b.swaps.all (fun i => own (fun y => y.halfUsers (i / 2) (i % 2))) &&
    b.maps.all (fun p => own (fun y => y.laneUsers (p.1 / 4))) &&
    b.inband.all (fun p => mine p.1) && b.guards.all (fun p => mine p.1) && b.ranges.all (fun p => mine p.1) &&
    b.spares.all (fun p => own (fun y => y.laneUsers p.1 ++ (if p.2 < 256 then y.laneUsers p.2 else y.linkUsers (p.2 - 256)))) &&
    b.links.all (fun p => own (fun y => y.linkUsers p.1)) && b.fallbacks.all (fun p => own (fun y => y.linkUsers p.1)) &&
    b.props.all (fun p => own (fun y => y.linkUsers p.1)) && b.eth.all (fun p => own (fun y => y.laneUsers (p.1 / 4096))) &&
    b.convs.all (fun p => own (fun y => p.2.lanes.flatMap (fun l => y.laneUsers l))) &&
    b.lines.all (fun p => own (fun y => y.sieveUsers p.1)) && b.gmaps.all (fun p => own (fun y => y.groupUsers p.1)) &&
    b.shapes.all (fun p => own (fun y => y.cancUsers p.1)) &&
    (b.initClosed ++ b.initHeld).all (fun s => own (fun y => y.loopUsers s)) &&
    b.trkParams.all (fun p => own (fun y => y.trkUsers p.1)) && b.trkWorkers.all (fun p => own (fun y => y.trkUsers p.1)) &&
    b.kpar.all (fun p => (h.parWorkers p.1 ++ x.parWorkers p.1).all (fun w => h.workerOwned x b w))

/-! ## Space for the shadow (R267, R270, R273) -/

/-- The byte ranges of a store that a stream's buffers take. -/
def Hive.bufRanges (h : Hive) (n : Nat) : List (Nat × Nat) :=
  [(h.bufAddr n, h.unitBytes n * h.get (F.steBufUnits_buf_units n))] ++
    (if h.dualHomed n then [(h.inAddr n false, 2 * h.inUnits n * h.unitBytes n)] else [])

/-- Two ranges of bytes meet. -/
def rangesMeet (a b : Nat × Nat) : Bool := decide (a.1 < b.1 + b.2) && decide (b.1 < a.1 + a.2)

/-- A range lies in its store of 16 MiB (R27). -/
def inStore (r : Nat × Nat) : Bool := r.2 == 0 || r.1 / 0x1000000 == (r.1 + r.2 - 1) / 0x1000000

/-- The delay buffer of a stream that goes on moves. -/
def Hive.bufMoves (h after : Hive) (n : Nat) : Bool :=
  h.image.contains n && (h.bufAddr n != after.bufAddr n || h.bufLen n != after.bufLen n)

/-- Store space is free or held by a stream in the set, and a buffer that is filled before T meets none in use (R267, R273). -/
def Hive.storeFree (h after : Hive) (b : FileBody) : Bool :=
  (after.image.filter (fun n => b.streams.contains n)).all (fun n =>
    (after.bufRanges n).all (fun r => inStore r &&
      after.image.all (fun k => k == n || !(after.bufRanges k).any (fun q => rangesMeet r q))) &&
      (!h.bufMoves after n || h.image.all (fun k => !(h.bufRanges k).any (fun q => rangesMeet ((after.bufRanges n).headD (0, 0)) q))))

/-- A kernel that is new on a worker finds it idle, and parameter words go to comb memory that no kernel uses (R268, R270). -/
def Hive.workersFree (h after : Hive) (b : FileBody) : Bool :=
  (List.range 512).all (fun w => h.kvalid w || !after.kvalid w || h.wrkSt w == 0) &&
    b.kpar.all (fun p => (h.parWorkers p.1).isEmpty)

/-- The shadow finds its space. -/
def Hive.shadowOk (h : Hive) (b : FileBody) : Bool :=
  let x := h.bodyPreview b
  h.storeFree x b && h.workersFree x b

/-! ## The licence envelopes in force after T (R269, R275, R296) -/

/-- The register at `a` holds a runtime value outside its tenant's envelope: a deadline, a contest's limit, or the set-point of a
FIXED or OUTPUT_POWER loop. -/
def Hive.wordOutside (h : Hive) (a : Nat) : Bool :=
  let out := fun (t : Nat) (v : Int) => h.envUsed t && (decide (v < h.wcS t 0) || decide (v > h.wcS t 1))
  if 0x580000 ≤ a ∧ a < 0x588000 ∧ a % 0x10 = 4 then
    let t := h.tenant ((a - 0x580000) / 0x10)
    h.envUsed t && decide (h.rwc a > h.wcVal t 4)
  else if 0x510000 ≤ a ∧ a < 0x520000 ∧ (a % 0x20 = 0xC ∨ a % 0x20 = 0x10) then
    let v := h.rwcS a
    v != 32767 && v != -32768 && out (h.tenant ((a - 0x510000) / 0x20)) v
  else if 0x500000 ≤ a ∧ a < 0x510000 ∧ a % 0x20 = 0x14 then
    let s := (a - 0x500000) / 0x20
    let t := h.tenant (h.get (F.gceLoopCfg_stream s))
    match h.get (F.gceLoopCfg_type s) with
    | 1 => h.envUsed t && decide (h.rwcS a > h.wcS t 2)
    | 6 => out t (h.rwcS a)
    | _ => false
  else false

/-- Every value in the patch lies within the envelopes that will be in force after T. -/
def Hive.envOk (h : Hive) (b : FileBody) : Bool :=
  let x := h.bodyPreview b
  b.words.all (fun p => !x.wordOutside p.1)

end Sys2Proof.Machine
end

