-- ==== Sys2Proof/Machine/Thermal.lean ====
section
/-! DEFINITION. Housekeeping, thermal thresholds, the throttle ladder and the fans (R333 to R351, R158, R364). -/

namespace Sys2Proof.Machine

/-! ## Sensors (R336, R337) -/

/-- A sensor's state, by channel. -/
def Hive.senGet (h : Hive) (i : Nat) : SensSt := Tbl.get (fun _ => SensSt.init) h.sys.sens i
/-- The block with a sensor's state replaced. -/
def Hive.senSet (h : Hive) (i : Nat) (v : SensSt) : Hive := { h with sys.sens := Tbl.put (fun _ => SensSt.init) h.sys.sens i v }

/-- The neighbours of sensor `i` in the 4 x 4 grid (R336). -/
def sensNear (i : Nat) : List Nat :=
  (if i ≥ 4 then [i - 4] else []) ++ (if i < 12 then [i + 4] else []) ++ (if i % 4 ≠ 0 then [i - 1] else []) ++
    (if i % 4 ≠ 3 then [i + 1] else [])

/-- A value placed in a rising list. -/
def insInt (v : Int) : List Int → List Int
  | [] => [v]
  | x :: xs => if v ≤ x then v :: x :: xs else x :: insInt v xs

/-- The median: of an even number, the mean of the middle two (R337). -/
def median (xs : List Int) : Option Int :=
  let s := xs.foldr insInt []
  match s.length with
  | 0 => none
  | n + 1 => if n % 2 = 0 then s[n / 2]? else some (roundEven (s.getD (n / 2) 0 + s.getD (n / 2 + 1) 0) 2)

/-- A reading that breaks its sensor at once: below -55 or above 150 degrees, or the converter at a rail. -/
def sensBad (t : Int) (rail : Bool) : Bool := rail || decide (t < -14080) || decide (t > 38400)

/-- The median of a sensor's unbroken neighbours. -/
def sensMed (ts : List Int) (broken : List Bool) (i : Nat) : Option Int :=
  median ((sensNear i).filterMap (fun k => if broken.getD k false then none else some (ts.getD k 0)))

/-- One sensor's tests at a round end (R337). -/
def SensSt.next (s : SensSt) (t : Int) (bad : Bool) (med : Option Int) : SensSt :=
  let off := match med with
    | some m => decide ((t - m).natAbs > 2560)
    | none => false
  if s.broken then
    let near := if !bad && med.isSome && !off then s.near + 1 else 0
    if !s.held && decide (near ≥ 250) then SensSt.init else { s with near := near }
  else if bad then ⟨0, 0, true, false⟩
  else
    let far := if off then s.far + 1 else 0
    if far ≥ 3 then ⟨0, 0, true, false⟩ else { s with far := far }

/-- The sensors of a die after a round: each newly broken one raises THERMAL cause 0x06 at L1, which clears itself once none
is broken (R337). -/
def Hive.sensRound (h : Hive) (d : Nat) (ts : List Int) (rail : List Bool) : Hive :=
  let old := (List.range 16).map (fun i => h.senGet (16 * d + i))
  let bad := (List.range 16).map (fun i => sensBad (ts.getD i 0) (rail.getD i false))
  let brk := (List.range 16).map (fun i => (old.getD i SensSt.init).broken || bad.getD i false)
  let h := (List.range 16).foldl (fun h i =>
    let o := old.getD i SensSt.init
    let v := o.next (ts.getD i 0) (bad.getD i false) (sensMed ts brk i)
    let h := (h.senSet (16 * d + i) v).setFlag (F.hskCh_broken (16 * d + i)) v.broken
    if v.broken && !o.broken then h.raiseSC 0x0A 0x06 (srcNoDie d) 1 i else h) h
  if (List.range 16).all (fun i => !(h.senGet (16 * d + i)).broken) then h.condEnd 0x0A 0x06 (srcNoDie d) else h

/-- T_die of R338 with the adjacent and blind marks: the throttle threshold when blind, the hottest unbroken sensor plus 5
degrees when two neighbours are broken, else the hottest value with medians for broken sensors. -/
def dieTemp (ts : List Int) (broken : List Bool) (throttle : Int) : Int × Bool × Bool :=
  let unb := (List.range 16).filter (fun i => !broken.getD i false)
  let adj := (List.range 16).any (fun i => broken.getD i false && (sensNear i).any (fun k => broken.getD k false))
  let blind := decide (unb.length < 4)
  let top := fun (xs : List Int) => xs.foldl max (-14080)
  let t :=
    if blind then throttle
    else if adj then top (unb.map (fun i => ts.getD i 0)) + 1280
    else top ((List.range 16).map (fun i =>
      if broken.getD i false then (sensMed ts broken i).getD (-14080) else ts.getD i 0))
  (t, adj, blind)

/-! ## Channels (R333 to R335) -/

/-- Nominal millivolts of a supervised voltage channel (R309, R334). -/
def chNominal (n : Nat) : Nat :=
  if 64 ≤ n ∧ n ≤ 67 then 750
  else if n = 68 then 800
  else if n = 69 then 900
  else if n = 70 then 1200
  else if n = 71 ∨ n = 72 then 1800
  else if 81 ≤ n ∧ n ≤ 84 then 750
  else 0

/-- The die whose channel it is: its sensors and the voltage at its centre (R335). -/
def chDie (n : Nat) : Option Nat := if n < 64 then some (n / 16) else if 81 ≤ n ∧ n ≤ 84 then some (n - 81) else none

/-- True when a channel's die is OFF. -/
def Hive.chOff (h : Hive) (n : Nat) : Bool :=
  match chDie n with
  | some d => h.dieSt d == 0
  | none => false

/-- A value outside its window (R334). -/
def Hive.chOut (h : Hive) (n : Nat) (v : Int) : Bool :=
  if chNominal n ≠ 0 then decide ((v - chNominal n).natAbs * 20 > chNominal n)
  else if 92 ≤ n then
    decide (v < h.get (F.hskExtLim_lo (n - 92))) || decide (v > h.get (F.hskExtLim_hi (n - 92)))
  else false

/-- The class and cause of a channel outside its window. -/
def chFault (n : Nat) : Nat × Nat := if 92 ≤ n then (0x0A, 0x08) else (0x0C, 0x01)

/-- The backup current in 0.1 mA: the voltage across the shunt, of at most 60 mV, over its resistance (R319). -/
def Hive.shuntCur (h : Hive) : Int := roundEven (100 * max (-60000) (min 60000 h.sys.isns)) (max 1 (h.get F.pwrBakCfg_shunt))

/-- The backup current lies within 5 mA (R320). -/
def Hive.calm (h : Hive) : Bool := decide (h.shuntCur.natAbs ≤ 50)

/-- The charge that a voltage implies, in uC: C in uF times millivolts above 2.5 V, over 1,000 (R320). -/
def qvOf (c vbak : Nat) : Int := roundEven ((c : Int) * ((vbak : Int) - 2500)) 1000

/-- PWR.BAK_QV: Q_v, 0 while the capacity was never learned (R331). -/
def Hive.qvShow (h : Hive) : Hive :=
  let c := h.get F.pwrBakCap_c_uf
  if c = 0 then h.wr R.pwrBakQv 0 else h.setFit ⟨R.pwrBakQv, 0, 32⟩ (qvOf c (h.get F.pwrBakStat_vbak_mv))

/-- V_BAK and the voltage across ISNS_P and ISNS_N are measured: PWR.BAK_STAT, PWR.I_BAK and PWR.BAK_QV follow (R319, R331). -/
def Hive.bakMeasure (h : Hive) (vbak isns : Int) : Hive :=
  let h : Hive := { h with sys.isns := isns }
  let h : Hive := if h.calm then h else { h with sys.calmAt := h.ticks }
  ((h.set F.pwrBakStat_vbak_mv vbak.toNat).setFit F.pwrIBak_i h.shuntCur).qvShow

/-- The coulomb counter samples 1,024 times a second, in rung 0 once: Q_c counts the charge. While the capacity was never learned
a learn is offered (R319, R320). -/
def Hive.coulomb (h : Hive) : Hive :=
  if h.ticks % (if h.sys.rung0 then Config.secTicks else Config.secTicks / 1024) ≠ 0 then h
  else
    let h : Hive := { h with sys.qAcc := h.sys.qAcc + 100 * h.shuntCur * (if h.sys.rung0 then 1024 else 1) }
    let h := h.setFit ⟨R.pwrBakQ, 0, 32⟩ (roundEven h.sys.qAcc 1024)
    if h.get F.pwrBakCap_c_uf = 0 ∧ h.get F.pwrBakStat_cap ≠ 3 then
      (h.set F.pwrBakStat_cap 2).setFlag F.pwrBakStat_learn_offer true
    else h

/-- One channel published at the round end; channel 89 by the shunt's resistance (R333). -/
def Hive.chPut (h : Hive) (n : Nat) (v : Int) : Hive :=
  if h.chOff n then (h.setFlag (F.hskCh_valid n) false).setFlag (F.hskCh_out_win n) false
  else
    let was := h.flag (F.hskCh_out_win n)
    let out := h.chOut n v
    let h := if n = 89 then h.setFit (F.hskCh_value n) h.shuntCur else h.set (F.hskCh_value n) (twos 16 v)
    let h := (h.setFlag (F.hskCh_valid n) true).setFlag (F.hskCh_out_win n) out
    if out && !was then h.raiseSC (chFault n).1 (chFault n).2 0x3 1 (if 92 ≤ n then n - 92 else 0) else h

/-- The window faults clear themselves when no channel is outside (R334). -/
def Hive.chEnd (h : Hive) : Hive :=
  let none? := fun (ns : List Nat) => ns.all (fun n => !h.flag (F.hskCh_out_win n))
  let h := if none? ((List.range 96).filter (fun n => chNominal n != 0)) then h.condEnd 0x0C 0x01 0x3 else h
  if none? [92, 93, 94, 95] then h.condEnd 0x0A 0x08 0x3 else h

/-! ## The throttle ladder (R342, R343) -/

/-- Ladder level. -/
def Hive.ladLevel (h : Hive) : Nat := h.get F.hskThrStat_level

/-- Threshold `k` in Q8.8 (0 warning, 1 throttle, 2 shutdown) and its hysteresis (R340). -/
def Hive.thrVal (h : Hive) (k : Nat) : Int := h.rwcS (R.hskThr k)
def Hive.thrHyst (h : Hive) (k : Nat) : Int :=
  256 * (match k with | 0 => h.get F.hskHyst_warn | 1 => h.get F.hskHyst_throt | _ => h.get F.hskHyst_shut : Nat)

/-- Die `d` is in level `k`. -/
def Hive.dieIn (h : Hive) (d k : Nat) : Bool := bitOf h.sys.ladder.above (3 * d + k)
/-- Some die is in level `k`. -/
def Hive.anyIn (h : Hive) (k : Nat) : Bool := (List.range 4).any (fun d => h.dieIn d k)

/-- T_die of the dies with a reading. -/
def Hive.dieTs (h : Hive) : List (Nat × Int) :=
  ((List.range 4).filter (fun d => h.flag (F.hskDieT_valid d))).map (fun d => (d, h.getS (F.hskDieT_t d)))

/-- The hottest T_die. -/
def Hive.hottest (h : Hive) : Option (Nat × Int) :=
  h.dieTs.foldl (fun a p =>
    match a with
    | some b => if p.2 > b.2 then some p else some b
    | none => some p) none

/-- Some die is at or above the throttle threshold. -/
def Hive.hot (h : Hive) : Bool := h.dieTs.any (fun p => decide (p.2 ≥ h.thrVal 1))

/-- The q of R158: the smallest that fits the canceller's workers at the WCLK step in force, one more from ladder level 4. -/
def Hive.fbQ (h : Hive) (c : Nat) : Nat :=
  let l := 9 + h.get (F.fbcCtl_blk c)
  let p := h.get (F.fbcCtl_parts c)
  let cf := 2 * p + 4 * l + h.get (F.fbcDet_k_taps c)
  let cu := 2 * p + 3 * l + 24
  let t := h.tOut (h.get (F.fbcCtl_stream c))
  -- capacity in MAC/s: 24 G, 19.2 G, 14.4 G, 9.6 G per worker
  let cap := (h.get (F.fbcCtl_nwk c) + 1) * 4800000000 * (5 - h.get F.pwrClkStat_wclk_step)
  let q := ((List.range 8).find? (fun q => decide ((cf * 2 ^ q + cu) * 983040000 * t.2 ≤ cap * 2 ^ q * t.1))).getD 7
  min 7 (q + if h.ladLevel ≥ 4 then 1 else 0)

/-- Every canceller's q follows the WCLK step and the ladder. -/
def Hive.fbQAll (h : Hive) : Hive :=
  (List.range 256).foldl (fun h c => if h.flag (F.fbcCtl_en c) then h.set (F.fbcAdapt_q c) (h.fbQ c) else h) h

/-- The tenants of R342 in shed order: ascending priority, among equals the higher number first. -/
def Hive.shedOrder (h : Hive) : List Nat :=
  let prio := fun (t : Nat) => bitsOf (h.rd (R.hskPrio (t / 8))).toNat (4 * (t % 8)) 4
  (List.range 16).flatMap (fun p => ((List.range 16).filter (fun t => h.envUsed t && prio t == p)).reverse)

/-- Levels of the ladder: 4 + 2n (R342). -/
def Hive.ladTop (h : Hive) : Nat := 4 + 2 * h.shedOrder.length

/-- The level in force changes: the WCLK step and the cancellers' q follow, and the counts start again. -/
def Hive.ladSet (h : Hive) (v : Nat) : Hive :=
  let h := (h.set F.hskThrStat_level v).set F.pwrClkStat_wclk_step (min v 3)
  let l := h.sys.ladder
  let h : Hive := { h with sys.ladder := { l with step := 0, out := if h.anyIn 1 then none else some 0 } }
  h.fbQAll

/-- One level up: from 5 on the first tenant in shed order that no level in force has acted on in the same way (R342, R343). -/
def Hive.ladUp (h : Hive) : Hive :=
  let v := h.ladLevel + 1
  let h := h.ladSet v
  if v ≤ 4 then h
  else
    let mute := decide (v > 4 + h.shedOrder.length)
    let l := h.sys.ladder
    match h.shedOrder.find? (fun t => !l.acts.any (fun a => a.2.1 == mute && a.2.2 == t)) with
    | none => h
    | some t =>
      let h : Hive := { h with sys.ladder := { l with acts := (v, mute, t) :: l.acts } }
      if mute then
        let d := match h.hottest with | some p => p.1 | none => 0
        (h.triggerAll 1 false (h.tenantStreams t)).raise 0x0A 0x03 (srcNoDie d) 3 t
      else h.armThermal t true

/-- One level down, undoing what the level left acted on; cause 1 stays while a shutdown holds it (R342). -/
def Hive.ladDown (h : Hive) : Hive :=
  let v := h.ladLevel
  let l := h.sys.ladder
  let acts := l.acts.filter (fun a => a.1 == v)
  let h : Hive := { h with sys.ladder := { l with acts := l.acts.filter (fun a => a.1 != v) } }
  let h := acts.foldl (fun h a =>
    if a.2.1 then (if l.shut then h else (h.tenantStreams a.2.2).foldl (fun h n => h.uncause 1 n) h)
    else h.armThermal a.2.2 false) h
  h.ladSet (v - 1)

/-- The throttle request and its records end (R341, R343). -/
def Hive.throttleEnd (h : Hive) : Hive :=
  let h : Hive := { h with sys.ladder := { h.sys.ladder with request := false, grace := 0 } }
  [0, 1, 2, 3].foldl (fun h d => h.condEnd 0x0A 0x02 (srcNoDie d)) (h.setFlag F.hskThrStat_grace_run false)

/-- Whole rounds of 24 ms in a time, rounded up (R343). -/
def Hive.graceRounds (h : Hive) : Nat := (100 * h.get F.hskThrCtl_grace + 23) / 24
def Hive.stepRounds (h : Hive) : Nat := (1000 * h.get F.hskThrCtl_step_s + 23) / 24

/-- It is the cycle of a round end, where the ladder's conditions are tested (R343). -/
def Hive.atRound (h : Hive) : Bool := h.sys.roundAt == some h.ticks

/-- THROTTLE_GRACE_END: grace has ended with a die still in throttle; level 1 (R343). -/
def execThrottleGraceEnd (s : State) : Host.Outcome State Fault Refusal :=
  s.upd (fun h =>
    if h.atRound ∧ h.flag F.hskThrStat_grace_run ∧ h.graceRounds ≤ h.sys.ladder.grace ∧ h.ladLevel = 0 ∧ h.anyIn 1 then
      (h.setFlag F.hskThrStat_grace_run false).ladUp
    else h)

/-- LADDER_STEP: an advance or a retreat that is due (R343). -/
def execLadderStep (s : State) : Host.Outcome State Fault Refusal :=
  s.upd (fun h =>
    let l := h.sys.ladder
    if !h.atRound || h.ladLevel == 0 then h
    else if h.hot then (if h.stepRounds ≤ l.step ∧ h.ladLevel < h.ladTop then h.ladUp else h)
    else
      match l.out with
      | some k =>
        if h.stepRounds ≤ k then
          let h := h.ladDown
          if h.ladLevel = 0 then h.throttleEnd else h
        else h
      | none => h)

/-- The ladder's counts at a round end: grace, the step count with its hold, and the time out of throttle (R343). -/
def Hive.ladCount (h : Hive) : Hive :=
  let l := h.sys.ladder
  let some_in := h.anyIn 1
  { h with sys.ladder := { l with
    grace := if h.flag F.hskThrStat_grace_run then l.grace + 1 else 0
    step := if h.ladLevel = 0 then 0 else if some_in && !h.hot then 0 else l.step + 1
    out := if some_in then none else some (match l.out with | some k => k + 1 | none => 0) } }

/-! ## Thresholds (R340, R343) -/

/-- A thermal shutdown: cause 1 on every stream, THERMAL at L4, SAFE, and the ladder at 4 or above at once. -/
def Hive.shutdown (h : Hive) (d : Nat) : Hive :=
  let h : Hive := { h with sys.ladder := { h.sys.ladder with shut := true } }
  let h := (h.triggerAll 1 true h.image).raise 0x0A 0x04 (srcNoDie d) 4 0
  let h := h.safeOn 1
  if h.ladLevel < 4 then (h.setFlag F.hskThrStat_grace_run false).ladSet 4 else h

/-- A shutdown is over: cause 1 clears but for the tenants that the ladder mutes, and the rule that names SAFE ends. -/
def Hive.shutdownOver (h : Hive) : Hive :=
  let l := h.sys.ladder
  let h : Hive := { h with sys.ladder := { l with shut := false } }
  let held := fun (n : Nat) => l.acts.any (fun a => a.2.1 && a.2.2 == h.tenant n)
  ((h.image.filter (fun n => !held n)).foldl (fun h n => h.uncause 1 n) h).safeOff 1

/-- A trip: cause 1 on every stream, THERMAL at L5, both WCLK PLLs stopped and every comb off (R343). -/
def Hive.trip (h : Hive) (d : Nat) : Hive :=
  let h := (h.setFlag F.hskThrStat_trip true).triggerAll 1 true h.image
  let h := h.raise 0x0A 0x05 (srcNoDie d) 5 0
  ((List.range 64).foldl (fun h c => h.set (F.wrkCombStat_power c) 2) h).structEval

/-- A die that enters level `k`. -/
def Hive.dieEnters (h : Hive) (d k : Nat) : Hive :=
  match k with
  | 0 => h.raiseSC 0x0A 0x01 (srcNoDie d) 1 0
  | 1 =>
    if h.ladLevel ≠ 0 then h
    else
      let h := h.raiseSC 0x0A 0x02 (srcNoDie d) 2 0
      if h.sys.ladder.request then h
      else ({ h with sys.ladder := { h.sys.ladder with request := true, grace := 0 } } : Hive).setFlag F.hskThrStat_grace_run true
  | _ => h.shutdown d

/-- A die against its three thresholds and the trip at 125 degrees. -/
def Hive.dieLevels (h : Hive) (d : Nat) : Hive :=
  if !h.flag (F.hskDieT_valid d) then
    { h with sys.ladder := { h.sys.ladder with above := (List.range 3).foldl (fun m k => setBit m (3 * d + k) false) h.sys.ladder.above } }
  else
    let t := h.getS (F.hskDieT_t d)
    let h := (List.range 3).foldl (fun h k =>
      let was := h.dieIn d k
      let now := if was then decide (t ≥ h.thrVal k - h.thrHyst k) else decide (t ≥ h.thrVal k)
      let h : Hive := { h with sys.ladder := { h.sys.ladder with above := setBit h.sys.ladder.above (3 * d + k) now } }
      if now && !was then h.dieEnters d k else h) h
    let lv := if h.dieIn d 2 then 3 else if h.dieIn d 1 then 2 else if h.dieIn d 0 then 1 else 0
    let h := h.set (F.hskDieT_level d) lv
    if t ≥ 32000 ∧ !h.flag F.hskThrStat_trip then h.trip d else h

/-! ## The recorder's die records (R364) -/

/-- A die record after a round: its bin and its extremes. -/
def Hive.dieRecord (h : Hive) (d : Nat) (t : Int) : Hive :=
  let b := 0x4100 + 288 * d
  let fresh := (List.range 64).all (fun i => h.kget (b + 8 + 4 * i) == 0)
  let k := (max 0 (min 63 ((t + 10240) / 640))).toNat
  let h := (h.kput (b + 4) ((h.kget (b + 4)).toNat / 4 * 4 + d)).kput (b + 8 + 4 * k) (min (2 ^ 32 - 1) ((h.kget (b + 8 + 4 * k)).toNat + 1))
  let x := b + 0x108
  let w := (h.kget x).toNat
  let lo := fresh || decide (t < sext 16 w)
  let hi := fresh || decide (t > sext 16 (w / 65536))
  let h := h.kput x ((if lo then twos 16 t else w % 65536) + 65536 * (if hi then twos 16 t else w / 65536))
  let h := if lo then (h.kput (x + 8) h.gtc).kput (x + 12) (h.gtc / 2 ^ 32) else h
  let h := if hi then (h.kput (x + 16) h.gtc).kput (x + 20) (h.gtc / 2 ^ 32) else h
  h.kgen b

/-! ## Fans (R344 to R349) -/

/-- A fan's state. -/
def Hive.fanGet (h : Hive) (f : Nat) : FanSt := Tbl.get (fun _ => FanSt.init) h.sys.fans f
/-- The block with a fan's state replaced. -/
def Hive.fanSet (h : Hive) (f : Nat) (v : FanSt) : Hive := { h with sys.fans := Tbl.put (fun _ => FanSt.init) h.sys.fans f v }

/-- State code of FAN.STAT: 0 off, 1 spin-up, 2 running, 3 stalled at start, 4 pulses lost, 5 slow. -/
def Hive.fanSt (h : Hive) (f : Nat) : Nat := h.get (F.fanStat_state f)
/-- A stall of either kind is uncleared (R348). -/
def Hive.fanStalled (h : Hive) (f : Nat) : Bool := (h.fanGet f).stall != 0

/-- T_hot in Q8.8; 0 before the first round. -/
def Hive.tHotNow (h : Hive) : Int := match h.hottest with | some p => p.2 | none => 0

/-- The automatic duty of R344. -/
def Hive.fanAuto (h : Hive) (f : Nat) : Nat :=
  let lo := h.get (F.fanCtl_duty_min f)
  let a : Int := 256 * h.get F.fanCurve_t_lo
  let b : Int := 256 * h.get F.fanCurve_t_hi
  if h.anyIn 0 then 256
  else (max (lo : Int) (min 256 (roundEven (lo * (b - a) + (256 - lo) * (h.tHotNow - a)) (b - a).toNat))).toNat

/-- The computed duty: a fan learn's, 100 % while another fan is stalled, manual or automatic. -/
def Hive.fanDuty (h : Hive) (f : Nat) : Nat :=
  match (h.fanGet f).learn with
  | some d => d
  | none =>
    if [0, 1, 2, 3].any (fun g => g != f && h.fanStalled g) then 256
    else if h.flag (F.fanCtl_mode f) then min 256 (h.get (F.fanCtl_duty_man f)) else h.fanAuto f

/-- A spin-up starts: 100 % (R345). -/
def Hive.spinUp (h : Hive) (f : Nat) : Hive :=
  ((h.set (F.fanStat_state f) 1).set (F.fanStat_duty f) 256).fanSet f { h.fanGet f with since := h.ticks }

/-- A fan that is not in use is off. -/
def Hive.fanOff (h : Hive) (f : Nat) : Hive :=
  if h.flag (F.fanCtl_en f) then h
  else ((h.set (F.fanStat_state f) 0).set (F.fanStat_duty f) 0).fanSet f { h.fanGet f with stall := 0, slowAt := none }

/-- A fan follows its computed duty: a fan that is off spins up, and one commanded to 0 is off. -/
def Hive.fanApply (h : Hive) (f : Nat) : Hive :=
  if !h.flag (F.fanCtl_en f) then h.fanOff f
  else
    let st := h.fanSt f
    let d := h.fanDuty f
    if st = 1 ∨ st = 3 ∨ st = 4 then h
    else if d = 0 then (h.set (F.fanStat_state f) 0).set (F.fanStat_duty f) 0
    else if st = 0 then (h.set (F.fanStat_attempts f) 0).spinUp f
    else h.set (F.fanStat_duty f) d

/-- The FAN records end when no fan is in their condition; a record is shared by the four fans. -/
def Hive.fanCondEnd (h : Hive) : Hive :=
  let none? := fun (k : Nat) => [0, 1, 2, 3].all (fun f => (h.fanGet f).stall != k)
  let h := if none? 1 then h.condEnd 0x0B 0x01 0x4 else h
  let h := if none? 2 then h.condEnd 0x0B 0x02 0x4 else h
  if [0, 1, 2, 3].all (fun f => h.fanSt f != 5) then h.condEnd 0x0B 0x03 0x4 else h

/-- Every fan follows, and conditions that no fan is in end. -/
def Hive.fanAll (h : Hive) : Hive :=
  let h := [0, 1, 2, 3].foldl (fun h f => h.fanOff f) h
  ([0, 1, 2, 3].foldl (fun h f => h.fanApply f) h).fanCondEnd

/-- The time in which a fan has been in its present state is at least `secs` seconds. -/
def Hive.fanFor (h : Hive) (f secs : Nat) : Bool := decide ((h.fanGet f).since + secs * Config.secTicks ≤ h.ticks)

/-- FAN_SPINUP_END: after 2 s at 100 % the fan goes to its computed duty; with a tach pulse seen the spin-up is complete (R345 to
R347). -/
def execFanSpinupEnd (f : FanId) (pulse : Bool) (s : State) : Host.Outcome State Fault Refusal :=
  s.upd (fun h =>
    let f := f.val
    if h.fanSt f = 1 ∧ h.get (F.fanStat_duty f) ≠ 0 ∧ h.fanFor f 2 then
      if pulse then
        ((((h.set (F.fanStat_state f) 2).set (F.fanStat_attempts f) 0).fanSet f { h.fanGet f with since := h.ticks })).fanApply f
      else if h.fanDuty f = 0 then (h.set (F.fanStat_state f) 0).set (F.fanStat_duty f) 0
      else h.set (F.fanStat_duty f) (h.fanDuty f)
    else h)

/-- A running fan learn ends with `result`; its fans return to their computed duties. -/
def Hive.fanLearnEnd (h : Hive) (result : Nat) : Hive :=
  match h.maintOfAct 5 with
  | none => h
  | some i =>
    let h := [0, 1, 2, 3].foldl (fun h f => h.fanSet f { h.fanGet f with learn := none }) h
    (h.maintEnd i result 0 stOk).fanAll

/-- A fan learn is aborted when a die enters warning or a fan stalls (R349). -/
def Hive.fanLearnCheck (h : Hive) : Hive :=
  if h.anyIn 0 || [0, 1, 2, 3].any (fun f => h.fanStalled f) then h.fanLearnEnd 2 else h

/-- FAN_SPINUP_FAIL: no pulse within 3 s; at the third failure the fan is STALLED, FAN cause 0x01 at L2 (R346). -/
def execFanSpinupFail (f : FanId) (s : State) : Host.Outcome State Fault Refusal :=
  s.upd (fun h =>
    let f := f.val
    if h.fanSt f = 1 ∧ h.get (F.fanStat_duty f) ≠ 0 ∧ h.fanFor f 3 then
      let n := h.get (F.fanStat_attempts f) + 1
      let h := (h.set (F.fanStat_attempts f) n).set (F.fanStat_duty f) 0
      if n ≥ 3 then
        let h := (h.set (F.fanStat_state f) 3).fanSet f { h.fanGet f with stall := 1, since := h.ticks }
        (h.raiseSC 0x0B 0x01 0x4 2 f).fanLearnCheck.fanAll
      else h
    else h)

/-- FAN_RETRY: 10 s after the failed spin-up began, a fresh one begins (R346). -/
def execFanRetry (f : FanId) (s : State) : Host.Outcome State Fault Refusal :=
  s.upd (fun h => if h.fanSt f.val = 1 ∧ h.get (F.fanStat_duty f.val) = 0 ∧ h.fanFor f.val 10 then h.spinUp f.val else h)

/-- T_hot 60 s ago, or as far back as rounds go. -/
def Hive.tHotAgo (h : Hive) : Int := h.sys.tHot.getLast?.getD h.tHotNow

/-- FAN_PULSE_LOSS: FAN cause 0x02 at L2, the fan and every other one at 100 %, and the trend before (R347). -/
def execFanPulseLoss (f : FanId) (s : State) : Host.Outcome State Fault Refusal :=
  s.upd (fun h =>
    let f := f.val
    if (h.fanSt f = 2 ∨ h.fanSt f = 5) ∧ h.get (F.fanStat_duty f) ≠ 0 ∧ h.fanFor f 1 then
      let h := (h.set (F.fanStat_state f) 4).set (F.fanStat_duty f) 256
      let h := (h.setFit (F.fanTrend_t_det f) h.tHotNow).setFit (F.fanTrend_d_before f) (h.tHotNow - h.tHotAgo)
      let h := (h.wr (R.fanTrend2 f) 0).fanSet f
        { h.fanGet f with trend := some (h.tHotNow, h.ticks), stall := 2, since := h.ticks, slowAt := none }
      (h.raiseSC 0x0B 0x02 0x4 2 f).fanLearnCheck.fanAll
    else h)

/-- FAN_TREND_COMPLETE: the change over the 60 s after (R347). -/
def execFanTrendComplete (f : FanId) (s : State) : Host.Outcome State Fault Refusal :=
  s.upd (fun h =>
    match (h.fanGet f.val).trend with
    | none => h
    | some (t, k) =>
      if h.ticks < k + 60 * Config.secTicks then h
      else
        let h := (h.setFit (F.fanTrend2_d_after f.val) (h.tHotNow - t)).setFlag (F.fanTrend2_valid f.val) true
        h.fanSet f.val { h.fanGet f.val with trend := none })

/-- FAN_STALL_CLEAR: pulses in 3 consecutive seconds end a stall; the fans return to their computed duties (R348). -/
def execFanStallClear (f : FanId) (s : State) : Host.Outcome State Fault Refusal :=
  s.upd (fun h =>
    if h.fanStalled f.val && h.fanFor f.val 3 then
      let h := h.fanSet f.val { h.fanGet f.val with stall := 0, since := h.ticks }
      ((h.set (F.fanStat_state f.val) 2).set (F.fanStat_attempts f.val) 0).fanAll
    else h)

/-- The fan of an address of its block. -/
def fanOfAddr (a : Nat) : Nat := (a - 0x788000) / 0x20

/-- The fields of FAN.CTL in range: duty_man 0-256 (R351). -/
def fanCtlChk (_ : Hive) (v : Nat) : Nat := if bitsOf v 12 9 ≤ 256 then stOk else stBadArg

/-- A write to FAN.CTL: restart begins a new set of spin-ups and reads 1 until it starts (R346, R351). -/
def Hive.fanCtlApp (a : Nat) (h : Hive) (v : Nat) : Hive :=
  let f := fanOfAddr a
  let h := h.applyTypes a v
  let h :=
    if bitOf v 21 then
      let h := h.setFlag (F.fanCtl_restart f) false
      if h.flag (F.fanCtl_en f) then (h.set (F.fanStat_attempts f) 0).spinUp f else h
    else h
  h.fanAll

/-- FAN_RESTART. -/
def execFanRestart (w : RegWrite) (s : State) : Host.Outcome State Fault Refusal :=
  s.upd (fun h => h.hostWrite w fanCtlChk (Hive.fanCtlApp (wKey w)))

/-- The fans in use, from `f` on. -/
def Hive.fanNext (h : Hive) (f : Nat) : Option Nat := [0, 1, 2, 3].find? (fun g => decide (f ≤ g) && h.flag (F.fanCtl_en g))

/-- The learn of fan `f` starts: 100 % for 10 s, with a new set of attempts for a fan that does not run (R346, R349). -/
def Hive.fanLearnFrom (h : Hive) (i f : Nat) : Hive :=
  match h.fanNext f with
  | none => h.fanLearnEnd 0
  | some g =>
    let h := h.fanSet g { h.fanGet g with learn := some 256 }
    let h := match h.mget i with
      | some m => h.mset i (some { m with cnt := 2 * g, since := h.ticks })
      | none => h
    h.fanApply g

/-- The status of a fan learn: WRONG_STATE while a die is in warning or a fan is STALLED (R349). -/
def Hive.fanLearnChk (h : Hive) : Nat :=
  if h.anyIn 0 || [0, 1, 2, 3].any (fun f => h.fanStalled f) then stWrong else stOk

/-- The learn starts with the first enabled fan. -/
def Hive.fanLearnStart (h : Hive) (i : Nat) : Hive := h.fanLearnFrom i 0

/-- FAN_LEARN: maintenance activity 0x5. -/
def execFanLearn (c : CmdEntry) (s : State) : Host.Outcome State Fault Refusal :=
  s.upd (fun h => h.maintStart c 5 none (argBits c.a0 4 12 == 0) h.fanLearnChk Hive.fanLearnStart)

/-- A phase of the learn of fan `f` ends: the speed is recorded, first at 100 %, then at duty_min; then the next fan (R349). -/
def Hive.fanPhase (h : Hive) (i f : Nat) (m : MaintSt) : Hive :=
  let rpm := h.get (F.fanStat_rpm f)
  if m.cnt % 2 = 0 then
    let h := (h.set (F.fanLearn_rpm_max f) rpm).mset i (some { m with cnt := m.cnt + 1, since := h.ticks })
    (h.fanSet f { h.fanGet f with learn := some (h.get (F.fanCtl_duty_min f)) }).fanApply f
  else
    let h := (h.set (F.fanLearn_rpm_min f) rpm).fanSet f { h.fanGet f with learn := none, learnedAt := h.get (F.fanCtl_duty_min f) }
    (h.fanApply f).fanLearnFrom i (f + 1)

/-- FAN_LEARN_PHASE_END: 10 s at one duty have passed. -/
def execFanLearnPhaseEnd (f : FanId) (s : State) : Host.Outcome State Fault Refusal :=
  s.upd (fun h =>
    match h.maintOfAct 5 with
    | none => h
    | some i =>
      match h.mget i with
      | none => h
      | some m => if m.cnt / 2 = f.val ∧ m.since + 10 * Config.secTicks ≤ h.ticks then h.fanPhase i f.val m else h)

/-- The speed lies below half of the learned one, interpolated linearly in duty between the two learned points (R349). -/
def Hive.fanLow (h : Hive) (f : Nat) : Bool :=
  let a : Int := (h.fanGet f).learnedAt
  let lo : Int := h.get (F.fanLearn_rpm_min f)
  let hi : Int := h.get (F.fanLearn_rpm_max f)
  decide (2 * (h.get (F.fanStat_rpm f) : Int) * (256 - a) < lo * (256 - a) + (hi - lo) * max 0 ((h.get (F.fanStat_duty f) : Int) - a))

/-- FAN.STAT.rpm: 60 x pulses per second / ppr from the `t` ticks of the last eight pulse periods, 0 without them; and how long
the fan has been slow. A slow fan whose speed returns is running (R344, R349). -/
def Hive.fanSpeed (h : Hive) (f t : Nat) : Hive :=
  let rpm := if t = 0 then 0 else roundEvenN (480 * Config.secTicks) (t * (h.get (F.fanCtl_ppr f) + 1))
  let (w, hd) := h.draw
  let h := if rpm < 65536 then h.set (F.fanStat_rpm f) rpm else hd.set (F.fanStat_rpm f) (w % 65536)
  let runs := h.fanSt f == 2 || h.fanSt f == 5
  let low := runs && h.get (F.fanLearn_rpm_max f) != 0 && h.fanLow f
  let x := h.fanGet f
  let h := h.fanSet f { x with slowAt := if low then some (x.slowAt.getD h.ticks) else none }
  if h.fanSt f = 5 ∧ !low then h.set (F.fanStat_state f) 2 else h

/-- FAN_SLOW: 10 s below half of the learned speed; FAN cause 0x03 at L1, which clears itself (R349). -/
def execFanSlow (f : FanId) (s : State) : Host.Outcome State Fault Refusal :=
  s.upd (fun h =>
    match (h.fanGet f.val).slowAt with
    | some k =>
      if h.fanSt f.val = 2 ∧ k + 10 * Config.secTicks ≤ h.ticks then
        (h.set (F.fanStat_state f.val) 5).raiseSC 0x0B 0x03 0x4 1 f.val
      else h
    | none => h)

/-! ## The round end (R333) -/

/-- The die temperatures of a round (R338), read by the THERMAL loops (R177). -/
def Hive.dieRound (h : Hive) (d : Nat) (ts : List Int) (rail : List Bool) : Hive :=
  if h.dieSt d = 0 then h.wr (R.hskDieT d) 0
  else
    let h := h.sensRound d ts rail
    let brk := (List.range 16).map (fun i => (h.senGet (16 * d + i)).broken)
    let (t, adj, blind) := dieTemp ts brk (h.thrVal 1)
    let was := h.flag (F.hskDieT_adjacent d) || h.flag (F.hskDieT_blind d)
    let h := (h.setFit (F.hskDieT_t d) t).set (F.hskDieT_broken d) (brk.filter id).length
    let h := ((h.setFlag (F.hskDieT_adjacent d) adj).setFlag (F.hskDieT_blind d) blind).setFlag (F.hskDieT_valid d) true
    let h := if (adj || blind) && !was then h.raiseSC 0x0A 0x07 (srcNoDie d) 2 0
      else if !adj && !blind then h.condEnd 0x0A 0x07 (srcNoDie d) else h
    let h := (h.image.filter (fun n => h.home n == d)).foldl (fun h n => h.freshen n 4) h
    if h.areasFrozen then h else h.dieRecord d t

/-- The end of a round: channels, sensors, thresholds, ladder counts and fans. `raw` holds a value for each channel, in uV across the
shunt for channel 89; `tach` the ticks of each fan's last eight pulse periods. -/
def Hive.roundEnd (h : Hive) (raw : List Int) (rail : List Bool) (tach : List Nat) : Hive :=
  let h : Hive := { h with sys.roundAt := some h.ticks }
  let h := h.bakMeasure (raw.getD 88 0) (raw.getD 89 0)
  let h := ((List.range 96).foldl (fun h n => h.chPut n (raw.getD n 0)) h).chEnd
  let h := [0, 1, 2].foldl (fun h k => h.useReg (R.hskThr k) 0x3 []) h
  let h := [0, 1, 2, 3].foldl (fun h d => h.dieRound d ((raw.drop (16 * d)).take 16) ((rail.drop (16 * d)).take 16)) h
  let h := [0, 1, 2, 3].foldl (fun h d => h.dieLevels d) h
  let h := if h.anyIn 0 then h else [0, 1, 2, 3].foldl (fun h d => h.condEnd 0x0A 0x01 (srcNoDie d)) h
  let h := if h.flag F.hskThrStat_grace_run && !h.anyIn 1 then h.throttleEnd else h
  let h := if h.sys.ladder.shut && !h.anyIn 2 then h.shutdownOver else h
  let h := h.ladCount
  let h : Hive := { h with sys.tHot := (h.tHotNow :: h.sys.tHot).take 2500 }
  ([0, 1, 2, 3].foldl (fun h f => h.fanSpeed f (tach.getD f 0)) h).fanLearnCheck.fanAll

/-- HOUSEKEEPING_ROUND_END: at GTC mod 23,592,960 = 0, with the system island supplied; a trip loses the combs' memories. -/
def execHousekeepingRoundEnd (raw : List Int) (rail : List Bool) (tach : List Nat) (s : State) : Host.Outcome State Fault Refusal :=
  if s.hive.mode != .cold && decide (s.hive.gtc % 23592960 = 0) && decide (s.hive.gtc ≠ 0) && !s.hive.atRound then
    let h := s.hive.roundEnd raw rail tach
    .next { s with
      hive := h
      mem := if h.flag F.hskThrStat_trip && !s.hive.flag F.hskThrStat_trip then
        { s.mem with comb := [], wdata := [], kstore := [] } else s.mem }
  else .next s

/-! ## Sensor self-test (R339) -/

/-- The self-test starts. -/
def Hive.selfTestStart (h : Hive) (_ : Nat) : Hive := h.set F.hskThrStat_selftest 1

/-- SENSOR_SELF_TEST: maintenance activity 0x4. -/
def execSensorSelfTest (c : CmdEntry) (s : State) : Host.Outcome State Fault Refusal :=
  s.upd (fun h => h.maintStart c 4 none (argBits c.a0 4 12 == 0) stOk Hive.selfTestStart)

/-- SELF_TEST_COMPLETE, 384 ms after the start: a sensor that fails is broken until a later test passes; a broken one that passes is
unbroken (R338, R339). -/
def execSelfTestComplete (fail : List Bool) (s : State) : Host.Outcome State Fault Refusal :=
  s.upd (fun h =>
    match h.maintOfAct 4 with
    | none => h
    | some i =>
      if h.ticks < (h.mget i).elim 0 (fun m => m.since) + 384 * Config.msTicks then h
      else
      let h := (List.range 64).foldl (fun h n =>
        let o := h.senGet n
        let d := n / 16
        if fail.getD n false then
          let h := (h.senSet n ⟨0, 0, true, true⟩).setFlag (F.hskCh_broken n) true
          if o.broken then h else h.raiseSC 0x0A 0x06 (srcNoDie d) 1 (n % 16)
        else if o.broken then
          let h := (h.senSet n SensSt.init).setFlag (F.hskCh_broken n) false
          if (List.range 16).all (fun k => !(h.senGet (16 * d + k)).broken) then h.condEnd 0x0A 0x06 (srcNoDie d) else h
        else h) h
      (h.set F.hskThrStat_selftest (if fail.any id then 3 else 2)).maintEnd i 0 0 stOk)

/-! ## Writes (R340, R350) -/

/-- Ranges and order of the thresholds: warning <= throttle < shutdown (R340). -/
def Hive.thrChk (a : Nat) (h : Hive) (v : Nat) : Nat :=
  let k := (a - 0x780210) / 4
  let t := sext 16 v
  let at_ := fun (j : Nat) => if j = k then t else h.thrVal j
  if t < (if k = 2 then 17920 else 15360) ∨ 30720 < t then stBadArg
  else if at_ 1 < at_ 0 ∨ at_ 2 ≤ at_ 1 then stBadArg
  else stOk

/-- The effect of a threshold write; a mismatch that was outstanding ends. -/
def Hive.thrApp (a : Nat) (h : Hive) (v : Nat) : Hive := (h.applyTypes a v).mismClear a

/-- THRESHOLD_WRITE. -/
def execThresholdWrite (w : RegWrite) (s : State) : Host.Outcome State Fault Refusal :=
  s.upd (fun h => h.hostWrite w (Hive.thrChk (wKey w)) (Hive.thrApp (wKey w)))

/-- Ranges of HSK.HYST (1-31 each), HSK.THR_CTL (1-100, 1-60) and FAN.CURVE (t_hi above t_lo). -/
def hystChk (_ : Hive) (v : Nat) : Nat :=
  if bitsOf v 0 5 = 0 ∨ bitsOf v 5 5 = 0 ∨ bitsOf v 10 5 = 0 then stBadArg else stOk
def thrCtlChk (_ : Hive) (v : Nat) : Nat :=
  if 1 ≤ bitsOf v 0 7 ∧ bitsOf v 0 7 ≤ 100 ∧ 1 ≤ bitsOf v 7 6 ∧ bitsOf v 7 6 ≤ 60 then stOk else stBadArg
def curveChk (_ : Hive) (v : Nat) : Nat := if bitsOf v 0 8 < bitsOf v 8 8 then stOk else stBadArg

end Sys2Proof.Machine
end

