-- ==== Sys2Proof/Machine/Images.lean ====
section
/-! DEFINITION. Tolnor images and patches: the boot flash and its directory, the checks of a file, boot, load, activation,
rebase, and the boot SPI commands (R257 to R281, R385, R406). -/

namespace Sys2Proof.Machine

/-! ## The boot flash (R257) -/

/-- A byte of the boot flash. -/
def Mem.fl (m : Mem) (a : Nat) : Nat := (Tbl.get Mem.flashByte m.flash a).toNat

/-- A little-endian number of `n` bytes. -/
def Mem.flNat (m : Mem) (a n : Nat) : Nat := leNat ((Tbl.getList Mem.flashByte m.flash a n).map (fun b => b.toNat))

/-- Bytes stored in the boot flash as the queen rewrites them after an erase. -/
def Mem.flPut (m : Mem) (a : Nat) (bytes : List Nat) : Mem :=
  { m with flash := Tbl.putList Mem.flashByte m.flash a (bytes.map (fun b => BitVec.ofNat 8 b)) }

/-- Bytes programmed: bits go from 1 to 0 only. -/
def Mem.flProgram (m : Mem) (a : Nat) (bytes : List Nat) : Mem :=
  m.flPut a (((List.range bytes.length).zip bytes).map (fun p => Nat.land (m.fl (a + p.1)) (p.2 % 256)))

/-- The bytes that a directory copy's CRC covers, each flags byte read as 0xFF. -/
def Mem.dirBytes (m : Mem) (b : Nat) : List Nat :=
  ((List.range 0xFFC).zip (Tbl.getList Mem.flashByte m.flash b 0xFFC)).map (fun p =>
    if 0x40 ≤ p.1 ∧ p.1 < 0x430 ∧ (p.1 - 0x40) % 16 = 8 then 0xFF else p.2.toNat)

/-- A directory copy with its magic and a valid CRC-32. -/
def Mem.dirGood (m : Mem) (b : Nat) : Bool := m.flNat b 4 == 0x52444C54 && m.flNat (b + 0xFFC) 4 == crc32 (m.dirBytes b)

/-- The directory copy in use: valid, with the higher sequence number. -/
def Mem.dir (m : Mem) : Option Nat :=
  match m.dirGood 0, m.dirGood 0x1000 with
  | true, true => some (if m.flNat 4 4 < m.flNat 0x1004 4 then 0x1000 else 0)
  | true, false => some 0
  | false, true => some 0x1000
  | false, false => none

/-- The preferred slot: A when no copy is valid. -/
def Mem.dirPref (m : Mem) : Nat :=
  match m.dir with
  | some b => if m.fl (b + 8) = 1 then 1 else 0
  | none => 0

/-- Offset and length of slot `s`. -/
def Mem.slotRange (m : Mem) (s : Nat) : Nat × Nat :=
  match m.dir with
  | some b => (m.flNat (b + 0x10 + 8 * s) 4, m.flNat (b + 0x14 + 8 * s) 4)
  | none => (0, 0)

/-- Where chain entry `i` lies. -/
def chainAt (b i : Nat) : Nat := b + 0x40 + 16 * i

/-- The flags byte of a chain entry: bit 0 clear loaded, bit 1 clear activated, bit 2 clear abandoned. -/
def Mem.chainFlags (m : Mem) (b i : Nat) : Nat := m.fl (chainAt b i + 8)

/-- An entry that has been written. -/
def Mem.chainUsed (m : Mem) (b i : Nat) : Bool := m.flNat (chainAt b i) 8 != 2 ^ 64 - 1

/-- The first erased chain entry. -/
def Mem.chainFree (m : Mem) : Option Nat :=
  match m.dir with
  | some b => (List.range 63).find? (fun i => !m.chainUsed b i)
  | none => none

/-- A flag bit of a chain entry is programmed. -/
def Mem.chainMark (m : Mem) (i bit : Nat) : Mem :=
  match m.dir with
  | some b => m.flProgram (chainAt b i + 8) [255 - 2 ^ bit]
  | none => m

/-- A loaded chain entry is appended: offset, length and flags (R257, R270). -/
def Mem.chainAppend (m : Mem) (i off len : Nat) : Mem :=
  match m.dir with
  | some b => m.flProgram (chainAt b i) (leBytes off 4 ++ leBytes len 4 ++ [0xFE])
  | none => m

/-- Entries loaded and not activated are discarded at boot: abandoned (R265). -/
def Mem.chainDiscard (m : Mem) : Mem :=
  match m.dir with
  | some b =>
    (List.range 63).foldl (fun m i =>
      let f := m.chainFlags b i
      if m.chainUsed b i && !bitOf f 0 && bitOf f 1 then m.chainMark i 2 else m) m
  | none => m

/-- How many entries a boot replays: activated and not abandoned (R265). -/
def Mem.chainReplay (m : Mem) : Nat :=
  match m.dir with
  | some b => ((List.range 63).filter (fun i => !bitOf (m.chainFlags b i) 1 && bitOf (m.chainFlags b i) 2)).length
  | none => 0

/-- The directory rewritten for a rebase: the older copy, with the next sequence number, the slot that did not boot
preferred, and the chain emptied (R257, R279). -/
def Mem.dirRewrite (m : Mem) (pref : Nat) : Mem :=
  match m.dir with
  | none => m
  | some b =>
    let dst := 0x1000 - b
    let body := [0x54, 0x4C, 0x44, 0x52] ++ leBytes (m.flNat (b + 4) 4 + 1) 4 ++ [pref] ++
      ((List.range 0x37).map (fun i => m.fl (b + 9 + i))) ++ List.replicate 0xFBC 0xFF
    m.flPut dst (body ++ leBytes (crc32 body) 4)

/-! ## The checks of a file (R264, R277) -/

/-- Owner key slots provisioned with a good copy, and revoked (R282, R284). -/
def Hive.keysUsable (h : Hive) (s : Nat) : Bool :=
  bitOf h.sys.otpProv s && !bitOf h.sys.keysBad s && !bitOf h.sys.otpRev s

/-- Section types of an image, with those it needs, and of a patch (R261). -/
def sectionsOk (patch encrypted : Bool) (secs : List Nat) : Bool :=
  let need := (if patch then [0x10] else [0x01, 0x02, 0x04, 0x07, 0x09, 0x0A, 0x0B, 0x0C, 0x0E]) ++ (if encrypted then [0x0F] else [])
  let may := [0x01, 0x02, 0x03, 0x04, 0x05, 0x06, 0x07, 0x08, 0x09, 0x0A, 0x0B, 0x0C, 0x0D] ++ (if patch then [] else [0x0E])
  need.all (fun t => secs.contains t) && secs.all (fun t => need.contains t || may.contains t)

/-- Steps 1 to 4 and 6 of R264 for a file of one of these kinds: the first reason of R277, 0 for none. -/
def Hive.fileReason (h : Hive) (f : FileHdr) (kinds : List Nat) : Nat :=
  if !f.magicOk || !kinds.contains f.kind then 0x01
  else if f.part ≠ 0x5144 ∨ h.get F.hiveIdent_rev < f.revMin then 0x02
  else if !h.keysUsable f.key.val || h.sys.otpLife == 0 then 0x03
  else if f.version < h.sys.otpRoll then 0x04
  else if !f.sigOk then 0x05
  else if !f.digestsOk then 0x07
  else 0

/-- Every step of R264, with decryption in its place: no unwrapping without a PUF secret, nor in RMA (R283, R287). -/
def Hive.bootReason (h : Hive) (f : FileHdr) (kinds : List Nat) (patch : Bool) : Nat :=
  let r := h.fileReason { f with digestsOk := true } kinds
  if r ≠ 0 then r
  else if f.encrypted && (!f.unwrapOk || !h.flag F.queLife_puf_ok || h.sys.otpLife == 3) then 0x06
  else if !f.digestsOk then 0x07
  else if !sectionsOk patch f.encrypted f.secs then 0x08
  else 0

/-- The status of a reason (R277). -/
def reasonStatus (r : Nat) : Nat :=
  match r with
  | 0x03 | 0x04 | 0x05 | 0x06 => stNotAuth
  | 0x07 => stInteg
  | 0x09 | 0x0B => stWrong
  | 0x0C | 0x0D => stNoRes
  | 0x0E => stDenied
  | 0x0F => stBusy
  | 0x13 => stOk
  | _ => stBadArg

/-- An image or patch event in the journal: its reason in arg. -/
def Hive.jImage (h : Hive) (target reason : Nat) : Hive := h.journal 0x2 5 3 0 (decide (reason = 0)) target 0 0 reason

/-- A 48-byte value shown in twelve registers (R280, R307). -/
def Hive.putHash (h : Hive) (r : Nat → Nat) (v : Nat) : Hive :=
  (List.range 12).foldl (fun h i => h.wr (r i) (BitVec.ofNat 32 (v / 2 ^ (32 * i)))) h

/-- The value that twelve registers show. -/
def Hive.getHash (h : Hive) (r : Nat → Nat) : Nat := (List.range 12).foldl (fun v i => v + (h.rd (r i)).toNat * 2 ^ (32 * i)) 0

/-- The chain head (R263). -/
def Hive.chainHead (h : Hive) : Nat := h.getHash R.imgChain

/-! ## Boot (R264) -/

/-- The slot that the queen tries: the preferred one, then the other. -/
def Hive.trySlot (h : Hive) (m : Mem) : Nat :=
  match h.sys.boot.failed with
  | some s => 1 - s
  | none => m.dirPref

/-- IMAGE_VERIFY: the slot's image is checked, but not while TEST_EN reads high (R425); when both slots fail, TRUST cause 0x01
at L5 and HALT. -/
def execImageVerify (slot : Fin 2) (f : TolFile) (s : State) : Host.Outcome State Fault Refusal :=
  s.upd (fun h =>
    let b := h.sys.boot
    if !(h.mode == .boot || h.mode == .verify) || !h.queenUp || b.verified.isSome || h.sys.bootStop || h.sys.testEn || slot.val ≠ h.trySlot s.mem then h
    else
      let h : Hive := { h with mode := .verify }
      let r := h.bootReason f.hdr [0x01, 0x03] false
      if r = 0 then
        ({ h with sys.boot := { b with verified := some (slot.val, f.hdr.hash) } } : Hive).set F.imgStat_slot slot.val
      else
        let h := (h.set F.imgStat_boot_reason r).jImage R.imgStat r
        match b.failed with
        | none => ({ h with sys.boot := { b with failed := some slot.val } } : Hive).setFlag F.imgStat_fallback true
        | some _ => ((h.record 0x0F 0x01 0x2 5 0 false).enterHalt).humStop)

/-! ## Writing a whole file into the hive (R261, R265, R271) -/

/-- The hive enters RUN and follows its records (R265, R359). -/
def Hive.enterRun (h : Hive) : Hive := ({ h with mode := .run, seenRun := true } : Hive).settle

/-- An image's sections, with its coefficient sets in bank A and the apiary (R265). -/
def Hive.imageBody (h : Hive) (f : TolFile) : Hive :=
  let b := f.body
  let h := h.loadBody b
  let h : Hive := { h with
    storeReads := f.hdr.storeReads, apiaryMask := b.apiaryMask, subMask := b.subMask, treeDown := b.treeDown }
  let h := (h.set F.topo_hive_id f.hdr.hiveId.val).set F.topo_apiary_hives (popCount b.apiaryMask 16)
  h.imageSets b.banks

/-- A replayed patch: its values, its sets and its swaps at once (R265, R271). -/
def Hive.patchBody (h : Hive) (f : TolFile) : Hive :=
  let b := f.body
  (h.loadBody b).patchSets b.banks b.swaps

/-- A patch enters the chain: head, length, signer and version (R263). -/
def Hive.chainAdd (h : Hive) (f : TolFile) : Hive :=
  let h := h.putHash R.imgChain (Config.sha384 (leBytes h.chainHead 48 ++ leBytes f.hdr.hash 48) % 2 ^ 384)
  let b := h.sys.boot
  ({ h with sys.boot := { b with signers := f.hdr.key.val :: b.signers, topVersion := max b.topVersion f.hdr.version } } : Hive).bump
    F.imgStat_chain_len 1

/-- The replay of the chain: each entry is checked, and its base must be the head reached; the first failure stops it. `n` is
how many entries the directory names; one that the reading does not give fails as R277 says of a failed read. -/
def Hive.replay (h : Hive) : Nat → List TolFile → Hive × Nat
  | 0, _ => (h, 0)
  | _ + 1, [] => (h, 0x05)
  | n + 1, f :: fs =>
    let r := h.bootReason f.hdr [0x02] true
    let r := if r = 0 && f.hdr.hiveId.val != h.get F.topo_hive_id then 0x02 else r
    let r := if r = 0 && f.hdr.base != h.chainHead then 0x09 else r
    if r ≠ 0 then (h, r) else Hive.replay ((h.patchBody f).chainAdd f) n fs

/-- After every section stands: the dies run with their bridges up, but for those found faulted before (R26); every stream is
IDLE and placed on its bridges (R14), loops are in their image states, kernels and sieve banks start, lanes wait for a signal,
and cause 0 is set if PWR_FAIL_N was low at the release (R318). -/
def Hive.startUnits (h : Hive) : Hive :=
  let h := [0, 1, 2, 3].foldl (fun h d => h.setDieSt d 2) h
  let h := h.structEval.bridgeEval
  let h : Hive := { h with streams := (List.range 2048).filter (fun n => h.isStream n) }
  let h := h.image.foldl (fun h n => (h.slotsOf n).foldl (fun h s => h.loopInit s) ((h.streamInit n).showGds n)) h
  let h := (List.range 512).foldl (fun h w => if h.kvalid w then h.kernelStart w else h) h
  let h := (List.range 64).foldl (fun h c => if h.flag (F.wrkCombStat_spare c) then h.setWrkSt (8 * c + h.get (F.wrkCombStat_spare_idx c)) 7 else h) h
  let h := (List.range 512).foldl (fun h b => if h.flag (F.sivCtl_en b) then h.sieveStart b 1 else h) h
  let h := (List.range 144).foldl (fun h l => if h.lmode l = 0 then h else h.set (F.laneStat_state l) lnDown) h
  let h := h.linkPos.fbQAll.mstatRecords.ugtPut
  let h := (h.placeAll h.image).storeUse
  let h := (h.image.foldl (fun h n => h.latChanged n) h).srcEvalAll (fun _ => true)
  let h := [0, 1].foldl (fun h d => if bitOf h.dieBad d then h.broodFault d (bitOf h.smkLost d) else h) h
  let h := [2, 3].foldl (fun h d => if bitOf h.dieBad d then h.superFault d else h) h
  if bitOf h.safeBy 0 then h.triggerAll 0 true h.image else h

/-- IMAGE_LOAD_COMPLETE: every section is written, the chain replayed, and the hive enters RUN, or DEGRADED with TRUST cause
0x02 at L3 when the replay stopped (R265, R280). -/
def Hive.imageLoaded (h : Hive) (m : Mem) (f : TolFile) (files : List TolFile) : Hive :=
  let h := (h.imageBody f).putHash R.imgHash f.hdr.hash
  let h := (h.putHash R.imgChain f.hdr.hash).setFlag F.imgStat_loaded true
  let h := h.set F.imgVersion_version f.hdr.version
  let h : Hive := { h with sys.boot := { h.sys.boot with signers := [f.hdr.key.val], topVersion := f.hdr.version } }
  let (h, r) := h.replay m.chainReplay files
  let h := h.startUnits.enterRun
  let h := if r ≠ 0 then (h.jImage (R.imgChain 0) r).raise 0x0F 0x02 0x2 3 0 else h
  if h.sys.seqDue then ({ h with sys.seqDue := false } : Hive).raise 0x0C 0x02 0x1 1 0 else h

/-- IMAGE_LOAD_COMPLETE, for the image that VERIFY passed; not while TEST_EN reads high (R425). -/
def execImageLoadComplete (f : TolFile) (replay : List TolFile) (s : State) : Host.Outcome State Fault Refusal :=
  let b := s.hive.sys.boot
  match b.verified with
  | none => .next s
  | some v =>
    if s.hive.mode == .verify && v.2 == f.hdr.hash && !s.hive.sys.bootStop && !s.hive.sys.testEn && !s.hive.flag F.imgStat_loaded then
      let h := s.hive.imageLoaded s.mem f replay
      .next { s with hive := h, mem := s.mem.chainDiscard.codeLoad h (List.range 512) }
    else .next s

/-! ## Patch load (R266 to R270) -/

/-- A pending patch. -/
def Hive.pget (h : Hive) (p : Nat) : Option PatchSt := Tbl.get (fun _ => none) h.sys.patches p
/-- The block with a pending patch replaced. -/
def Hive.pset (h : Hive) (p : Nat) (v : Option PatchSt) : Hive := { h with sys.patches := Tbl.put (fun _ => none) h.sys.patches p v }

/-- A slot's state code (R281). -/
def Hive.pSt (h : Hive) (p : Nat) : Nat := h.get (F.imgPatchStat_state p)

/-- A patch that is loading, in shadow or READY. -/
def Hive.pPending (h : Hive) (p : Nat) : Bool := h.pSt p == 1 || h.pSt p == 2 || h.pSt p == 3

/-- Scopes of two patches overlap (R270). -/
def scopesMeet (a b : FileBody) : Bool :=
  Nat.land a.frames b.frames != 0 || a.streams.any (fun n => b.streams.contains n) || (a.hum && b.hum)

/-- The lead of R25 with TIM.LEAD for a hive that is not the root (R270). -/
def Hive.patchLead (h : Hive) (t : Nat) : Bool :=
  decide (h.gtc + Config.leadTicks 0 + (if h.flag F.topo_root then 0 else h.get F.timLead_xs) ≤ t)

/-- The first reason for which a load is refused, after the slot is found (R264 to R270, R277). -/
def Hive.patchReason (h : Hive) (f : TolFile) : Nat :=
  let r := h.bootReason f.hdr [0x02] true
  if r ≠ 0 then r
  else if f.hdr.hiveId.val ≠ h.get F.topo_hive_id then 0x02
  else if f.hdr.base ≠ h.chainHead then 0x09
  else if !h.scopeOk f.body then 0x0A
  else if [0, 1, 2, 3].any (fun p =>
      match h.pget p with
      | some q => h.pPending p && scopesMeet q.file.body f.body
      | none => false) then 0x0B
  else if !h.shadowOk f.body then 0x0D
  else if !h.envOk f.body then 0x0E
  else 0

/-- A patch slot ends: its state and reason, done, and nothing scheduled. -/
def Hive.patchEnd (h : Hive) (p state reason : Nat) : Hive :=
  let h := (((h.set (F.imgPatchStat_state p) state).set (F.imgPatchStat_reason p) reason).hwSet (F.imgPatchStat_done p)).setIrq 3
  ((h.unsched (.patchAct p)).pset p none).jImage (R.imgPatchStat p) reason

/-- The shadow of a patch is written: the inactive banks, with pending swaps on them cancelled, and sleeping combs in its
frames wake (R22, R102, R270). -/
def Hive.patchShadow (h : Hive) (b : FileBody) : Hive :=
  let h := b.banks.foldl (fun h p =>
    let s := p.1 / 2
    let q := p.1 % 2
    let k := !h.flag (F.strFirCtl_bank s q)
    ((h.swapDrop s q 3).bankPut p.1 k p.2).setFlag (bankFlag s q k) false) h
  let combs := (List.range 64).filter (fun c => bitOf b.frames (c / 8) && h.get (F.wrkCombStat_power c) != 0)
  (combs.foldl (fun h c => h.combWake c) h).structEval

/-- A load starts under handle `i`: the lowest free slot, the checks, then shadow state (R270, R281). -/
def Hive.patchStart (m : Mem) (f : TolFile) (h : Hive) (i : Nat) : Hive :=
  match [0, 1, 2, 3].find? (fun p => h.pSt p == 0), m.chainFree with
  | some p, some e =>
    let (off, len) := match h.mget i with | some x => (x.a1, x.a2) | none => (0, 0)
    let h := ((h.set (F.imgPatchStat_entry p) e).setPair (R.imgPatchTLo p) (R.imgPatchTHi p) f.body.t)
    let h := ((h.set (F.imgPatchScope_frames p) f.body.frames).set (F.imgPatchScope_n_streams p) f.body.streams.length).setFlag
      (F.imgPatchScope_hum p) f.body.hum
    let r := h.patchReason f
    if r ≠ 0 then (h.patchEnd p 6 r).maintEnd i 3 r (reasonStatus r)
    else if !h.patchLead f.body.t then (h.patchEnd p 6 0).maintEnd i 3 0 stBadArg
    else if h.schedStatus ≠ stOk then ((h.countRefused h.schedStatus).patchEnd p 6 0).maintEnd i 3 0 h.schedStatus
    else
      let h := (h.pset p (some ⟨f, off, len, some i, false⟩)).set (F.imgPatchStat_state p) 2
      (h.schedule f.body.t (.patchAct p)).patchShadow f.body
  | _, _ => (h.jImage (R.imgChain 0) 0x0C).maintEnd i 3 0x0C stNoRes

/-- PATCH_LOAD: maintenance activity 0x8. -/
def execPatchLoad (c : CmdEntry) (f : TolFile) (s : State) : Host.Outcome State Fault Refusal :=
  s.upd (fun h =>
    h.maintStart c 8 (some f) (argBits c.a0 4 12 == 0) stOk (Hive.patchStart s.mem f))

/-- PATCH_READY: the chain entry is appended with its loaded bit, the command completes, buffers that move start to fill, and
barriers that wait for shadow loads are looked at again (R245, R270, R273). -/
def execPatchReady (p : PatchId) (s : State) : Host.Outcome State Fault Refusal :=
  let h := s.hive
  match h.pget p.val, s.mem.chainFree with
  | some q, some e =>
    if h.pSt p.val = 2 then
      let h := (h.set (F.imgPatchStat_state p.val) 3).set (F.imgPatchStat_entry p.val) e
      let h := h.pset p.val (some { q with handle := none })
      let h := q.file.body.streams.foldl (fun h n => h.sset n { h.sget n with primed := 0 }) h
      let h := match q.handle with | some i => h.maintEnd i 0 0 stOk | none => h
      .next { s with hive := h.structEval.barCheckAll, mem := s.mem.chainAppend e q.off q.len }
    else .next s
  | _, _ => .next s

/-! ## Activation (R271 to R275, R278) -/

/-- A fault has taken a die or frame that holds the patch's shadow (R278). -/
def Hive.shadowLost (h : Hive) (b : FileBody) : Bool :=
  (List.range 8).any (fun f => bitOf b.frames f && h.frameSt f == 3) ||
    b.banks.any (fun p => h.dieSt (p.1 / 1024) != 2)

/-- The block in which the patch's words stand, for the conditions on what it removes. -/
def Hive.removed (h : Hive) (f : TolFile) : List Nat :=
  let h' := f.body.words.foldl (fun h p => h.putWord p) h
  h.image.filter (fun n => f.body.streams.contains n && !h'.isStream n)

/-- Each buffer that moves holds the samples of its new delay; a stream that is IDLE, ARMED or FAULTED has none to keep (R273). -/
def Hive.primed (h : Hive) (b : FileBody) : Bool :=
  (h.image.filter (fun n => b.streams.contains n && !(h.st n == stIdle || h.st n == stArmed || h.st n == stFaulted))).all (fun n =>
    match h.bufNext n with
    | some g => decide (g.get (F.steDelay_delay n) ≤ (h.sget n).primed)
    | none => true)

/-- The first condition of R272 that fails at T, 0 for none. -/
def Hive.actReason (h : Hive) (p : Nat) (f : TolFile) : Nat :=
  if h.pSt p ≠ 3 ∨ h.shadowLost f.body then 0x10
  else if f.hdr.base ≠ h.chainHead then 0x09
  else if !h.primed f.body then 0x11
  else if (h.removed f).any (fun n => h.st n != stIdle && h.st n != stArmed) then 0x12
  else 0

/-- Loop slots of a stream before and after: one whose type changes, or that is new, starts as a close or as the image
says; the others keep their integrator and state (R271). -/
def Hive.loopsPatch (h old : Hive) (n : Nat) : Hive :=
  let had := if old.isStream n then old.slotsOf n else []
  (h.slotsOf n).foldl (fun h s =>
    if !had.contains s then h.loopInit s
    else if h.get (F.gceLoopCfg_type s) ≠ old.get (F.gceLoopCfg_type s) then
      let h := (h.loopSet s { LoopSt.init with since := (h.loopGet s).since.map (fun _ => h.ticks) }).set (F.gceLoopState_state s) lpClosed
      h.setFlag (F.gceLoopState_dormant s) (decide (h.get (F.gceLoopCfg_type s) = 4))
    else h) h

/-- The lanes whose maps a patch carries change at the first multiframe boundary at or after T, to the last map listed (R76). -/
def Hive.mapsPatch (h : Hive) (b : FileBody) : Hive :=
  b.maps.foldl (fun h p =>
    let l := p.1 / 4
    let st := h.lget l
    ((h.lset l { st with mapNext := p.1 % 4 }).unsched (.mapChange l)).schedule h.gtc (.mapChange l)) h

/-- The worker from which worker `w` takes over a kernel at T: its descriptor is new there, and the same kernel and instance ran
elsewhere (R271). -/
def Hive.takenFrom (h old : Hive) (w : Nat) : Option Nat :=
  let key := fun (x : Hive) (v : Nat) => (x.kid v, x.instOf v, x.get (F.wrkDesc0_pos (v / 8) (v % 8)))
  if (h.desc w = old.desc w ∧ h.kvalid w = old.kvalid w) ∨ !h.kvalid w then none
  else (List.range 512).find? (fun v => old.kvalid v && key old v == key h w)

/-- Workers whose descriptor changes: a kernel that is new starts, one that moves is taken over, a worker left idle has none. -/
def Hive.workersPatch (h old : Hive) : Hive :=
  (List.range 512).foldl (fun h w =>
    if h.desc w = old.desc w ∧ h.kvalid w = old.kvalid w then h
    else if !h.kvalid w then h.setWrkSt w 0
    else
      match h.takenFrom old w with
      | some v =>
        -- what the kernel was at moves with it; a lost one returns with its first step on the new worker
        let k := old.wget v
        (h.setWrkSt w 2).wset w { WorkSt.init with missRun := k.missRun, lost := k.lost, lostAt := k.lostAt, zero := k.zero, meas := k.meas, path := k.path }
      | none => (h.wset w WorkSt.init).kernelStart w) h

/-- The envelope in force after T: values outside it set cause 4 on their streams (R275). -/
def Hive.envPatch (h : Hive) (b : FileBody) : Hive :=
  let h := (bodyTenants b).foldl (fun h t =>
    (h.tenantStreams t).foldl (fun h n => if h.envOutside n then h.trigger 4 false n else h) h) h
  h.image.foldl (fun h n => h.envEval n) h

/-- A stream that goes on under its patched entry: a detour removed by bypass is restored (R222); a delay written anew is the
one in force (R46); ingress delays of unchanged sources stay as the hive maintains them, and others start from the file's
values (R36, R54). -/
def Hive.streamPatch (h old : Hive) (n : Nat) : Hive :=
  let st := { h.sget n with bypass := false, byp := none }
  let h := h.sset n (if h.rd (R.steDelay n) = old.rd (R.steDelay n) then st else { st with dNow := none, eqDiff := 0 })
  if h.srcWord n false = old.srcWord n false ∧ h.srcWord n true = old.srcWord n true then
    h.wr (R.steInDly n) (old.rd (R.steInDly n))
  else
    h.sset n { h.sget n with
      inWant := (h.get (F.steInDly_in_pri n), h.get (F.steInDly_in_alt n)), inDiff := 0, same := 0, differed := false
      inPri := [], inAlt := [], inWr := (0, 0), inBlk := ([], []) }

/-- Everything in the patch's scope becomes live (R271). -/
def Hive.patchApply (old : Hive) (f : TolFile) : Hive :=
  let b := f.body
  let h := ((old.loadBody b).linkPos).lanesPatch old
  let h : Hive := { h with streams := (List.range 2048).filter (fun n => h.isStream n) }
  let h := (h.image.filter (fun n => !old.streams.contains n)).foldl (fun h n => h.streamInit n) h
  let h := (h.image.filter (fun n => old.streams.contains n && b.streams.contains n)).foldl (fun h n => h.streamPatch old n) h
  let h := b.banks.foldl (fun h p => h.bankValid p.1 (h.spareBank p.1)) h
  let h := b.swaps.foldl (fun h i => h.swapNow (i / 2) (i % 2)) h
  let h := (h.image.filter (fun n => b.streams.contains n)).foldl (fun h n => h.loopsPatch old n) h
  let h := ((h.mapsPatch b).workersPatch old).gateMarks.ugtPut
  let h := h.fbPatch old
  let h := h.placeAll ((List.range 2048).filter (fun n => b.streams.contains n && h.image.contains n))
  let h := (b.streams.filter (fun n => !h.image.contains n)).foldl (fun h n => h.unplace n) h
  let h := h.storeUse
  let h := (List.range 512).foldl (fun h k =>
    if h.flag (F.sivCtl_en k) == old.flag (F.sivCtl_en k) then h
    else if h.flag (F.sivCtl_en k) then (h.sieveSet k BankSt.init).sieveStart k 1 else h.set (F.sivStat_state k) 0) h
  -- a pending switch of an entry that has lost its alternate (R57)
  let h := (b.streams.filter (fun n => srcKind (h.get (F.steAlt_alt n)) == 0 &&
      h.sched.any (fun o => o.kind == SchedKind.streamSwitch n && decide (o.t ≤ h.gtc)))).foldl (fun h n => h.switchAt n) h
  let h := (h.envPatch b).fbQAll
  let h := if h.areasFrozen then h else h.mstatRecords
  let h := (h.image.filter (fun n => b.streams.contains n)).foldl (fun h n => ((h.showGds n).latChanged n).srcEval n) h
  (h.dieCauseEnd b.streams).structEval.settle

/-- A patch is abandoned at T: CONFIG at L1 with the reason (R272). -/
def Hive.patchDrop (h : Hive) (p reason : Nat) (q : PatchSt) : Hive :=
  let h := (h.patchEnd p 5 reason).raise 0x10 0x01 0x2 1 reason
  match q.handle with
  | some i => h.maintEnd i 1 reason stWrong
  | none => h

/-- Another patch is due whose base is the present head, and this one's is not: it applies first (R278). -/
def Hive.patchWaits (h : Hive) (p : Nat) (f : TolFile) : Bool :=
  f.hdr.base != h.chainHead && [0, 1, 2, 3].any (fun k =>
    match h.pget k with
    | some q => k != p && h.pSt k == 3 && h.due (.patchAct k) && q.file.hdr.base == h.chainHead
    | none => false)

/-- The data memories of kernels that move at T are copied as in sparing (R230, R271). -/
def Mem.kernelsCopy (m : Mem) (old h : Hive) : Mem :=
  (List.range 512).foldl (fun m w =>
    match h.takenFrom old w with
    | some v => m.copyWorker v w (old.get (F.wrkDesc5_wd_len (v / 8) (v % 8)))
    | none => m) m

/-- Bytes of the quote before its signature (R304), with journal head `j` of `n` entries. -/
def Hive.quoteBytes (h : Hive) (j n : Nat) : List Nat :=
  [0x54, 0x4C, 0x51, 0x54] ++ leBytes 1 2 ++ [h.get F.queLife_life, h.get F.queLife_debug] ++
    leBytes (h.rd R.hiveIdent).toNat 4 ++
    [h.get F.topo_hive_id, h.get F.imgVersion_version, h.get F.queLife_rollback, h.get F.imgStat_chain_len] ++
    (List.range 8).flatMap (fun i => leBytes (h.rd (R.queNonce i)).toNat 4) ++
    leBytes h.gtc 8 ++ leBytes h.epoch 2 ++ [h.get F.queLife_revoked + 16 * h.get F.queLife_provisioned, 0] ++ leBytes 0 4 ++
    leBytes (h.getHash R.imgHash) 48 ++ leBytes h.chainHead 48 ++ leBytes h.envHash 48 ++ leBytes j 48 ++
    leBytes ((n + 2 ^ 64 - 1) % 2 ^ 64) 8 ++ leBytes 0 8

/-- A quote captured in this cycle includes a patch that activates in it (R305). -/
def Hive.quoteAgain (h : Hive) : Hive :=
  match h.sys.qjob with
  | some j => if j.cmd = 3 && j.since == h.ticks then { h with sys.qjob := some { j with quote := h.quoteBytes j.head j.headSeq } } else h
  | none => h

/-- PATCH_ACTIVATION: in cycle T the patch becomes live, or is abandoned whole. -/
def execPatchActivation (p : PatchId) (s : State) : Host.Outcome State Fault Refusal :=
  let h := s.hive
  let p := p.val
  match h.pget p with
  | none => .next s
  | some q =>
    if !h.pPending p || !h.due (.patchAct p) || h.patchWaits p q.file then .next s
    else
      let r := h.actReason p q.file
      if r ≠ 0 then
        .next { s with
          hive := h.patchDrop p r q
          mem := if h.pSt p = 3 then s.mem.chainMark (h.get (F.imgPatchStat_entry p)) 2 else s.mem }
      else
        let h := ((h.unsched (.patchAct p)).patchApply q.file).chainAdd q.file
        let h := (h.set (F.imgPatchStat_state p) 4).pset p (some { q with programDue := true })
        .next { s with
          hive := (h.jImage (R.imgPatchStat p) 0).quoteAgain
          mem := (s.mem.kernelsCopy s.hive h).codeLoad h ((List.range 512).filter (fun w => bitOf q.file.body.frames (w / 64))) }

/-- ACTIVATED_BIT_PROGRAMMED: the chain entry's activated bit is 0, and the slot is done (R271). -/
def execActivatedBitProgrammed (p : PatchId) (s : State) : Host.Outcome State Fault Refusal :=
  let p := p.val
  match s.hive.pget p with
  | none => .next s
  | some q =>
    if q.programDue then
      .next { s with
        hive := ((s.hive.pset p none).hwSet (F.imgPatchStat_done p)).setIrq 3
        mem := s.mem.chainMark (s.hive.get (F.imgPatchStat_entry p)) 1 }
    else .next s

/-- A pending patch is dropped before its T, with its load's command completed (R276, R289, R392). -/
def Hive.patchStop (h : Hive) (p reason result status : Nat) : Hive :=
  match h.pget p with
  | none => h
  | some q =>
    if h.pPending p then
      let h := h.patchEnd p 5 reason
      (match q.handle with | some i => h.maintEnd i result reason status | none => h).structEval
    else h

/-- Its chain entry, when it has one, is marked abandoned. -/
def Mem.patchStop (m : Mem) (h : Hive) (p : Nat) : Mem :=
  if h.pSt p = 3 then m.chainMark (h.get (F.imgPatchStat_entry p)) 2 else m

/-- PATCH_CANCEL, opcode 0x0F: a READY or loading patch whose T is not nearer than the lead of R25 (R276). -/
def execPatchCancel (c : CmdEntry) (s : State) : Host.Outcome State Fault Refusal :=
  let p := argBits c.a0 0 2
  let h := s.hive
  let t := h.getPair (R.imgPatchTLo p) (R.imgPatchTHi p)
  let chk := if h.pPending p && h.leadOk t false then stOk else stWrong
  let form : CmdForm := ⟨0x0F, 0x3, 0, 0, .never, .patch⟩
  .next { s with
    hive := h.command c form true chk (fun h _ => (h.patchStop p 0x13 2 stOk, some 0))
    mem := if h.cmdStatus c form true chk = stOk then s.mem.patchStop h p else s.mem }

/-- The slot of an IMG.PATCH_STAT address. -/
def patchOfAddr (a : Nat) : Nat := (a - 0x840100) / 0x10

/-- A write to IMG.PATCH_STAT: 1 in done frees the slot (R281). -/
def Hive.patchFreeApp (a : Nat) (h : Hive) (v : Nat) : Hive :=
  let p := patchOfAddr a
  if h.w1cTakes (F.imgPatchStat_done p) v && h.flag (F.imgPatchStat_done p) then
    ((h.wr (R.imgPatchStat p) 0).setPair (R.imgPatchTLo p) (R.imgPatchTHi p) 0).wr (R.imgPatchScope p) 0
  else h

/-- PATCH_SLOT_FREE. -/
def execPatchSlotFree (w : RegWrite) (s : State) : Host.Outcome State Fault Refusal :=
  s.upd (fun h => h.hostWrite w (fun _ _ => stOk) (Hive.patchFreeApp (wKey w)))

/-! ## Rebase (R279) -/

/-- The status of a rebase: the checks of R264, then its base, pending patches and running digests. -/
def Hive.rebaseChk (h : Hive) (f : TolFile) : Nat :=
  let r := h.bootReason f.hdr [0x03] false
  if r ≠ 0 then reasonStatus r
  else if f.hdr.base ≠ h.chainHead ∨ [0, 1, 2, 3].any (fun p => h.pPending p) ∨ !f.hdr.digestsRunning then stWrong
  else stOk

/-- REBASE, opcode 0x10: the directory names the rebase image with an empty chain, and its hash is the chain head. -/
def execRebase (c : CmdEntry) (f : TolFile) (s : State) : Host.Outcome State Fault Refusal :=
  let h := s.hive
  let chk := h.rebaseChk f
  let form : CmdForm := ⟨0x10, 0, 0, 0, .never, .patch⟩
  let ok := decide (h.cmdStatus c form true chk = stOk)
  let h := h.command c form true chk (fun h _ =>
    let b := h.sys.boot
    let h : Hive := { h with sys.boot := { b with signers := f.hdr.key.val :: b.signers } }
    (((h.putHash R.imgChain f.hdr.hash).set F.imgStat_chain_len 0).jImage (R.imgChain 0) 0, some 0))
  .next { s with hive := h, mem := if ok then s.mem.dirRewrite (1 - h.get F.imgStat_slot) else s.mem }

/-! ## Boot SPI commands (R258, R385, R406) -/

/-- The capacity of the flash: 16 to 256 MiB, as the board fits it. -/
def flashBytes : Nat := max 0x1000000 (min 0x10000000 Config.flashSize)

/-- A range touches what R258 protects: the directory copies, the slot that booted, and the patches of loaded or activated
entries. -/
def Hive.flashGuarded (h : Hive) (m : Mem) (r : Nat × Nat) : Bool :=
  rangesMeet r (0, 0x2000) || (h.flag F.imgStat_loaded && rangesMeet r (m.slotRange (h.get F.imgStat_slot))) ||
    (match m.dir with
      | some b => (List.range 63).any (fun i =>
          let f := m.chainFlags b i
          m.chainUsed b i && (!bitOf f 0 || !bitOf f 1) &&
            rangesMeet r (m.flNat (chainAt b i) 4, m.flNat (chainAt b i + 4) 4))
      | none => false)

/-- The data buffer takes bytes from its offset 0 on. -/
def Hive.bufPut (h : Hive) (bytes : List Nat) : Hive :=
  (List.range ((bytes.length + 3) / 4)).foldl (fun h i =>
    let part := (bytes.drop (4 * i)).take 4
    let a := 0x10010000 + 4 * i
    let old := (h.rd a).toNat
    h.wr a (BitVec.ofNat 32 (leNat part + old / 2 ^ (8 * part.length) * 2 ^ (8 * part.length)))) h

/-- The form of a boot SPI command. -/
def spiForm (op : Nat) : CmdForm := ⟨op, 2 ^ 32 - 1, 2 ^ 32 - 1, 0, .never, .spi⟩

/-- A range of 1 to 65,536 bytes within the flash. -/
def spiRange (c : CmdEntry) : Bool :=
  decide (1 ≤ c.a1.toNat) && decide (c.a1.toNat ≤ 65536) && decide (c.a0.toNat + c.a1.toNat ≤ flashBytes)

/-- SPI_READ, opcode 0x11: the bytes go to the data buffer. -/
def execSpiRead (c : CmdEntry) (s : State) : Host.Outcome State Fault Refusal :=
  s.upd (fun h => h.command c (spiForm 0x11) (spiRange c) stOk (fun h _ =>
    (h.bufPut ((Tbl.getList Mem.flashByte s.mem.flash c.a0.toNat c.a1.toNat).map (fun b => b.toNat)), some c.a1.toNat)))

/-- SPI_PROGRAM, opcode 0x12: NOT_AUTH where R258 protects; else the buffer's bytes are programmed. -/
def execSpiProgram (c : CmdEntry) (s : State) : Host.Outcome State Fault Refusal :=
  let h := s.hive
  let chk := if h.flashGuarded s.mem (c.a0.toNat, c.a1.toNat) then stNotAuth else stOk
  .next { s with
    hive := h.command c (spiForm 0x12) (spiRange c) chk (fun h _ => (h, some c.a1.toNat))
    mem := if h.cmdStatus c (spiForm 0x12) (spiRange c) chk = stOk then
      s.mem.flProgram c.a0.toNat (h.bufBytes 0 c.a1.toNat) else s.mem }

/-- SPI_ERASE, opcode 0x13: whole sectors of 4,096 bytes. -/
def execSpiErase (c : CmdEntry) (s : State) : Host.Outcome State Fault Refusal :=
  let h := s.hive
  let o := c.a0.toNat
  let n := c.a1.toNat
  let range := decide (o % 4096 = 0) && decide (n % 4096 = 0) && decide (0 < n) && decide (o + n ≤ flashBytes)
  let chk := if h.flashGuarded s.mem (o, n) then stNotAuth else stOk
  .next { s with
    hive := h.command c (spiForm 0x13) range chk (fun h _ => (h, some n))
    mem := if h.cmdStatus c (spiForm 0x13) range chk = stOk then
      { s.mem with flash := cellsClear o (o + n) s.mem.flash } else s.mem }

end Sys2Proof.Machine
end

