-- ==== Sys2Proof/Machine/Power.lean ====
section
/-! DEFINITION. Supplies, power fail, the backup and its coulomb counter, and the references of SCLK (R309 to R332). -/

namespace Sys2Proof.Machine

/-! ## Ends of maintenance activities before their time (R321, R349, R392) -/

/-- The backup learn's load is removed: the capacity code stands as before, with the learn's result and duration. -/
def Hive.bakLearnOver (h : Hive) (m : MaintSt) (result : Nat) : Hive :=
  let h := (h.set F.pwrBakStat_cap m.a1).set F.pwrBakLearn_result result
  h.set F.pwrBakLearn_secs (min 65535 ((h.ticks - m.since) / Config.secTicks))

/-- What an activity leaves when it stops before its end. -/
def Hive.activityStop (h : Hive) (m : MaintSt) : Hive :=
  match m.act with
  | 1 => h.setFlag (F.laneEyeCtl_busy m.unit) false
  | 4 => h.set F.hskThrStat_selftest 0
  | 5 => [0, 1, 2, 3].foldl (fun h f => h.fanSet f { h.fanGet f with learn := none }) h
  | 6 => h.bakLearnOver m 3
  | _ => h

/-- A running activity is aborted: it stops, and its start completes with OK (R392). A patch load's slot is abandoned. -/
def Hive.activityAbort (h : Hive) (i : Nat) : Hive :=
  match h.mget i with
  | none => h
  | some m =>
    if m.act = 8 then
      match [0, 1, 2, 3].find? (fun p => match h.pget p with | some q => q.handle == some i | none => false) with
      | some p => h.patchStop p 0x10 2 stOk
      | none => h.maintEnd i 2 0 stOk
    else
      let h := (h.activityStop m).maintEnd i 2 0 stOk
      if m.act = 5 then h.fanAll else h

/-- A power fail aborts what runs; waiting requests complete with WRONG_STATE (R392). -/
def Hive.maintAbortAll (h : Hive) : Hive :=
  (List.range 16).foldl (fun h i =>
    if h.mState i = 2 then h.activityAbort i
    else if h.mState i = 1 then h.maintEnd i 3 0 stWrong else h) h

/-! ## Power fail (R315 to R318) -/

/-- Operations whose T falls after the trigger do not take effect; a snapshot shows missed, a swap is no longer pending (R315). -/
def Hive.schedCut (h : Hive) : Hive :=
  let late := h.sched.filter (fun o => decide (o.t > h.gtc))
  let h : Hive := { h with sched := h.sched.filter (fun o => !decide (o.t > h.gtc)) }
  late.foldl (fun h o =>
    match o.kind with
    | .snapshot => h.snapMiss
    | .bankSwap i => h.setFlag (F.strFirCtl_swap_pend (i / 2) (i % 2)) false
    | _ => h) h

/-- The flush of a power fail takes the POWER fault's own flush into it: reason bits 0 and 1. -/
def Hive.flushJoin (h : Hive) : Hive :=
  let h : Hive := { h with flushNext := none }
  let h := h.setFlag F.evrStat_pending false
  match h.flush with
  | none => h
  | some (slot, _) =>
    let st := Tbl.get (fun _ => SlotSt.empty) h.slots slot
    { h with flush := some (slot, 3), slots := Tbl.put (fun _ => SlotSt.empty) h.slots slot { st with reason := 3 } }

/-- A power fail is registered: cause 0, usage closed, recorder frozen and flushed, keeper on VBAK when it is ready,
activities aborted, later operations dropped, SAFE, and POWER at L3, or at L5 without a warning. -/
def Hive.powerFail (h : Hive) (warned : Bool) : Hive :=
  let h := h.triggerAll 0 true h.image
  let h := h.usageStop.flushPf
  let h := (h.setFlag F.pwrStat_pf true).setFlag F.pwrStat_pf_unwarned (!warned)
  let h := if h.flag F.pwrBakStat_ready then h.setFlag F.pwrStat_keep_src true else h
  let h := h.maintAbortAll.schedCut.safeOn 0
  let h := if warned then h.raise 0x0C 0x03 0x0 3 0 else h.raise 0x0C 0x04 0x0 5 0
  h.flushJoin

/-- A power fail in the present hive state: one is registered once in a power-up; in BOOT or VERIFY the queen writes no
further section; before the main domains leave reset the level of PWR_FAIL_N is seen when they do (R318). -/
def Hive.powerFailIn (h : Hive) (warned : Bool) : Hive :=
  if bitOf h.safeBy 0 then h
  else if h.mode == .cold || (h.mode == .boot && !h.queenUp) then (if warned then { h with sys.pfPin := true } else h)
  else
    let h : Hive := if h.mode == .boot || h.mode == .verify then { h with sys.bootStop := true } else h
    h.powerFail warned

/-- POWER_FAIL: PWR_FAIL_N low for 1,024 ticks. -/
def execPowerFail (s : State) : Host.Outcome State Fault Refusal := s.upd (fun h => h.powerFailIn true)

/-- RAIL_POWER_FAIL_TRIGGER: a main rail below its trigger threshold; without a warning before it, an unwarned power fail. -/
def execRailPowerFailTrigger (_rail : Fin 8) (s : State) : Host.Outcome State Fault Refusal :=
  s.upd (fun h => h.powerFailIn false)

/-! ## The keeper supply and the backup (R313, R314, R319 to R321) -/

/-- VDD_KEEP_LOSS: the keeper switches to VBAK; POWER at L1 while the main rails stay good (R312, R313). -/
def execVddKeepLoss (s : State) : Host.Outcome State Fault Refusal :=
  s.upd (fun h =>
    let h := h.setFlag F.pwrStat_keep_src true
    if h.flag F.pwrStat_main_good then h.raise 0x0C 0x05 0x1 1 0 else h)

/-- VDD_KEEP_RETURN: good for 10 ms; the keeper returns to it, and rung 0 is left (R313, R329). -/
def execVddKeepReturn (s : State) : Host.Outcome State Fault Refusal :=
  s.upd (fun h =>
    ({ h with sys.rung0 := false } : Hive).setFlag F.pwrStat_keep_src false |>.setFlag F.pwrClkStat_rc_on true)

/-- BACKUP_READY: VBAK at or above ready_mv for 1 s (R314). -/
def execBackupReady (s : State) : Host.Outcome State Fault Refusal :=
  s.upd (fun h => (h.setFlag F.pwrBakStat_ready true).condEnd 0x0D 0x01 0x1)

/-- BACKUP_NOT_READY: BACKUP at L2, an alert when it is configured, and the end of a learn (R314, R321, R403). -/
def execBackupNotReady (s : State) : Host.Outcome State Fault Refusal :=
  s.upd (fun h =>
    let h := (h.setFlag F.pwrBakStat_ready false).raiseSC 0x0D 0x01 0x1 2 0
    let h : Hive := if h.flag F.smbAlertCfg_bak then { h with alBak := true } else h
    match h.maintOfAct 6 with
    | some i => h.activityAbort i
    | none => h)

/-- CAPACITY_CHECK: Q_c against Q_v at the end of 10 s in which the current stayed within 5 mA; more than 20 % apart, the capacity
is unknown (R320). With a Q_v that is not positive the quotient has no stated value: the disagreement is free. -/
def Hive.capCheck (h : Hive) : Hive :=
  let c := h.get F.pwrBakCap_c_uf
  if h.get F.pwrBakStat_cap = 3 then h
  else if c = 0 then (h.set F.pwrBakStat_cap 2).setFlag F.pwrBakStat_learn_offer true
  else
    let h := h.qvShow
    let q : Int := (c : Int) * ((h.get F.pwrBakStat_vbak_mv : Int) - 2500)
    let (w, hd) := h.draw
    let d := if 0 < q then min 255 (roundEvenN (100 * (1000 * h.sys.qAcc - 1024 * q).natAbs) (1024 * q.toNat)) else w % 256
    let h := (if 0 < q then h else hd).set F.pwrBakStat_disagree d
    if d > 20 then
      ((h.set F.pwrBakStat_cap 1).setFlag F.pwrBakStat_learn_offer true).raise 0x0D 0x02 0x1 1 0
    else h

/-- CAPACITY_CHECK. -/
def execCapacityCheck (s : State) : Host.Outcome State Fault Refusal :=
  s.upd (fun h =>
    if h.calm && decide (h.sys.calmAt + 10 * Config.secTicks ≤ h.ticks) then
      ({ h with sys.calmAt := h.ticks } : Hive).capCheck
    else h)

/-- The status of a capacity learn: VBAK at least ready_mv + 350 mV (R321). -/
def Hive.bakLearnChk (h : Hive) : Nat :=
  if h.get F.pwrBakCfg_ready_mv + 350 ≤ h.get F.pwrBakStat_vbak_mv then stOk else stWrong

/-- The learn starts: the record keeps the capacity code and V_BAK, and Q_c is noted. -/
def Hive.bakLearnStart (h : Hive) (i : Nat) : Hive :=
  match h.mget i with
  | some m =>
    let h : Hive := { h with sys.learnQ := h.sys.qAcc }
    (h.mset i (some { m with a1 := h.get F.pwrBakStat_cap, a2 := h.get F.pwrBakStat_vbak_mv })).set F.pwrBakStat_cap 3
  | none => h

/-- BACKUP_CAPACITY_LEARN: maintenance activity 0x6. -/
def execBackupCapacityLearn (c : CmdEntry) (s : State) : Host.Outcome State Fault Refusal :=
  s.upd (fun h => h.maintStart c 6 none (argBits c.a0 4 12 == 0) h.bakLearnChk Hive.bakLearnStart)

/-- The learn's result: C_nom in uF is four times the net charge counted in uC, and Q_c is set to Q_v (R321). -/
def Hive.bakLearned (h : Hive) (m : MaintSt) : Hive :=
  let (w, hd) := h.draw
  let c := roundEvenN (4 * (h.sys.learnQ - h.sys.qAcc).natAbs) 1024
  let fits := decide (c < 2 ^ 24)
  let h := ((if fits then h else hd).set F.pwrBakCap_c_uf (if fits then c else w % 2 ^ 24)).qvShow
  let h : Hive := { h with sys.qAcc := 1024 * qvOf (h.get F.pwrBakCap_c_uf) (h.get F.pwrBakStat_vbak_mv) }
  let h := h.wr R.pwrBakQ (h.rd R.pwrBakQv)
  let h := (h.set F.pwrBakStat_cap 0).setFlag F.pwrBakStat_learn_offer false
  (h.set F.pwrBakLearn_result 1).set F.pwrBakLearn_secs (min 65535 ((h.ticks - m.since) / Config.secTicks))

/-- BACKUP_LEARN_COMPLETE: V_BAK has fallen by 0.25 V (R321). -/
def execBackupLearnComplete (s : State) : Host.Outcome State Fault Refusal :=
  s.upd (fun h =>
    match h.maintOfAct 6 with
    | none => h
    | some i =>
      match h.mget i with
      | none => h
      | some m => if h.get F.pwrBakStat_vbak_mv + 250 ≤ m.a2 then (h.bakLearned m).maintEnd i 0 0 stOk else h)

/-- BACKUP_LEARN_TIMEOUT: the fall is not reached within 120 s; BACKUP at L1, capacity unchanged (R321). -/
def execBackupLearnTimeout (s : State) : Host.Outcome State Fault Refusal :=
  s.upd (fun h =>
    match h.maintOfAct 6 with
    | none => h
    | some i =>
      match h.mget i with
      | none => h
      | some m =>
        if h.ticks < m.since + 120 * Config.secTicks then h
        else (((h.bakLearnOver m 2).set F.pwrBakLearn_secs 120).raise 0x0D 0x03 0x1 1 0).maintEnd i 1 0 stOk)

/-- Keeper SRAM loses its supply in rung 0: the recorder's region is then the last complete flush's (R328, R399). -/
def Hive.sramOff (h : Hive) : Hive :=
  let st := Tbl.get (fun _ => SlotSt.empty) h.slots (h.get F.evrStat_last)
  if st.complete then { h with faults := st.faults, keeper := st.words, usage := st.usage, uring := st.ring }
  else { h with faults := [], keeper := [], usage := [], uring := [] }

/-- KEEPER_RUNG_DOWN: rails absent, the flush complete, no learn running, no keeper transaction for 100 ms: rung 0 (R328). -/
def execKeeperRungDown (s : State) : Host.Outcome State Fault Refusal :=
  s.upd (fun h =>
    if h.sys.railsGood = 0 && h.mode == .cold && h.flush.isNone && h.flushNext.isNone && (h.maintOfAct 6).isNone &&
        !h.sys.rung0 && decide (h.sys.smbAt + 100 * Config.msTicks ≤ h.ticks) then
      ({ h.sramOff with sys.rung0 := true } : Hive).setFlag F.pwrClkStat_rc_on false
    else h)

/-! ## References (R324 to R327) -/

/-- The qualified and rate bits of an input: 0 REFA, 1 REFB. -/
def refQual (b : Nat) : RF := if b = 0 then F.pwrRefStat_a_qual else F.pwrRefStat_b_qual
def refRate (b : Nat) : RF := if b = 0 then F.pwrRefStat_a_rate else F.pwrRefStat_b_rate

/-- The preferred input. -/
def Hive.refPref (h : Hive) : Nat := h.get F.pwrRefCtl_pref

/-- Wait-to-restore runs while revert is set and the preferred input is qualified and another is active; it counts from the tick
at which that came to hold (R326). -/
def Hive.refWait (h : Hive) : Hive :=
  let run := h.flag F.pwrRefCtl_revert && h.flag (refQual h.refPref) &&
    h.get F.pwrRefStat_active != 0 && h.get F.pwrRefStat_active != h.refPref + 1
  let h : Hive := if run && !h.flag F.pwrRefStat_wtr_run then { h with sys.wtrAt := h.ticks } else h
  h.setFlag F.pwrRefStat_wtr_run run

/-- The standby's frequency against the active one, in 0.001 ppm, measured once SCLK is locked (R324, R332). -/
def Hive.refOffset (h : Hive) (b : Nat) (ofs : BitVec 16) : Hive :=
  if h.flag F.pwrClkStat_sclk_lock && h.get F.pwrRefStat_active != b + 1 then h.set F.pwrRefStat_offset ofs.toNat else h

/-- SCLK starts with every main rail good and a qualified input, the preferred one first; the GTC starts from 0 (R234, R322). -/
def Hive.sclkTry (h : Hive) : Hive :=
  let q := fun (b : Nat) => h.flag (refQual b)
  if h.flag F.pwrClkStat_sclk_lock || !h.flag F.pwrStat_main_good || !(q 0 || q 1) then h
  else
    let b := if q h.refPref then h.refPref else 1 - h.refPref
    let h := ({ h with gtc := 0 } : Hive).setFlag F.pwrClkStat_sclk_lock true
    (h.set F.pwrRefStat_active (b + 1)).refWait

/-- The PLL changes to input `b`: counted, and TIME at L1, which clears itself (R325). -/
def Hive.refSwitch (h : Hive) (b : Nat) : Hive :=
  let h := ((h.set F.pwrRefStat_active (b + 1)).bump F.pwrRefStat_switches 1).setFlag F.pwrRefStat_holdover false
  ((h.raiseSC 0x0E 0x05 0x5 1 0).condEnd 0x0E 0x05 0x5).refWait

/-- REFERENCE_QUALIFIED: ends holdover, or starts SCLK, or the wait to restore (R324 to R327). -/
def execReferenceQualified (b : Fin 2) (rate : Bool) (ofs : BitVec 16) (s : State) : Host.Outcome State Fault Refusal :=
  s.upd (fun h =>
    let h := ((h.setFlag (refQual b.val) true).setFlag (refRate b.val) rate).refOffset b.val ofs
    if h.flag F.pwrRefStat_holdover then h.refSwitch b.val
    else if h.flag F.pwrClkStat_sclk_lock then (if h.flag F.pwrRefStat_wtr_run then h else h.refWait)
    else h.sclkTry)

/-- REFERENCE_DISQUALIFIED: the standby moves away; a wait to restore it starts again (R324, R326). -/
def execReferenceDisqualified (b : Fin 2) (ofs : BitVec 16) (s : State) : Host.Outcome State Fault Refusal :=
  s.upd (fun h =>
    if h.get F.pwrRefStat_active = b.val + 1 then h else ((h.setFlag (refQual b.val) false).refOffset b.val ofs).refWait)

/-- REFERENCE_LOSS: the active input is lost; the other, if qualified, takes over at once, else holdover with TIME at L2
(R325, R327). -/
def execReferenceLoss (s : State) : Host.Outcome State Fault Refusal :=
  s.upd (fun h =>
    let a := h.get F.pwrRefStat_active
    if a ≠ 1 ∧ a ≠ 2 then h
    else
      let b := a - 1
      let h := h.setFlag (refQual b) false
      if h.flag (refQual (1 - b)) then h.refSwitch (1 - b)
      else
        let h := ((h.set F.pwrRefStat_active 0).setFlag F.pwrRefStat_holdover true).setFlag F.pwrRefStat_wtr_run false
        h.raise 0x0E 0x05 0x5 2 0)

/-- REFERENCE_REVERT: wtr seconds have passed with the preferred input qualified (R326). -/
def execReferenceRevert (s : State) : Host.Outcome State Fault Refusal :=
  s.upd (fun h =>
    if h.flag F.pwrRefStat_wtr_run && h.flag F.pwrRefCtl_revert && h.flag (refQual h.refPref) &&
        decide (h.sys.wtrAt + max 1 (h.get F.pwrRefCtl_wtr) * Config.secTicks ≤ h.ticks) then h.refSwitch h.refPref else h)

/-- The checks of a write to PWR.REF_CTL: force 0b11 is refused, and force to an input that is not qualified (R326, R332). -/
def Hive.refCtlChk (h : Hive) (v : Nat) : Nat :=
  let f := bitsOf v 10 2
  if f = 3 then stBadArg
  else if f ≠ 0 && !h.flag (refQual (f - 1)) then stWrong else stOk

/-- Its effect: a force changes to the named input at once. -/
def Hive.refCtlApp (h : Hive) (v : Nat) : Hive :=
  let f := bitsOf v 10 2
  let h := h.applyTypes R.pwrRefCtl v
  if f ≠ 0 ∧ h.flag F.pwrClkStat_sclk_lock ∧ h.get F.pwrRefStat_active ≠ f then h.refSwitch (f - 1) else h.refWait

/-- REFERENCE_FORCE. -/
def execReferenceForce (w : RegWrite) (s : State) : Host.Outcome State Fault Refusal :=
  s.upd (fun h => h.hostWrite w Hive.refCtlChk Hive.refCtlApp)

/-- CRYSTAL_STOP: TIME at L1 from the keeper (R323). -/
def execCrystalStop (s : State) : Host.Outcome State Fault Refusal :=
  s.upd (fun h =>
    if h.flag F.pwrClkStat_xtal_ok then (h.setFlag F.pwrClkStat_xtal_ok false).raise 0x0E 0x06 0x1 1 0 else h)

/-- CRYSTAL_START (R322, R323). -/
def execCrystalStart (s : State) : Host.Outcome State Fault Refusal := s.upd (fun h => h.setFlag F.pwrClkStat_xtal_ok true)

/-- The range of PWR.BAK_CFG: ready_mv 2,600-5,400, shunt at least 1 (R331). -/
def bakCfgChk (_ : Hive) (v : Nat) : Nat :=
  let r := bitsOf v 0 13
  if 2600 ≤ r ∧ r ≤ 5400 ∧ bitsOf v 13 16 ≠ 0 then stOk else stBadArg

end Sys2Proof.Machine
end

