-- ==== Sys2Proof/Machine/Queen.lean ====
section
/-! DEFINITION. The queen: lifecycle, tokens, quotes, one-time fuses, the scan of critical values, envelope copies, journal
appends and JTAG (R282 to R308, R407). -/

namespace Sys2Proof.Machine

/-- The slots that count as provisioned: those whose fuse is programmed and whose key copy in MRAM matches (R284). -/
def Sys.provNow (s : Sys) : Nat := Nat.land s.otpProv (15 - Nat.land s.keysBad 15)

/-- QUE.LIFE follows the one-time memory and the owner key copies; debug is open outside DEPLOYED (R284, R307). -/
def Hive.lifeShow (h : Hive) : Hive :=
  let s := h.sys
  let h := (h.set F.queLife_life s.otpLife).set F.queLife_provisioned s.provNow
  let h := (h.set F.queLife_revoked s.otpRev).set F.queLife_rollback s.otpRoll
  if s.otpLife ≠ 2 then h.set F.queLife_debug 3
  else if h.get F.queLife_debug = 3 then h.set F.queLife_debug 0 else h

/-- A journal entry of the queen (R300): kind 4 lifecycle, 5 OTP or key, 6 token or debug. -/
def Hive.jQueen (h : Hive) (kind old new arg : Nat) : Hive := h.journal 0x2 5 kind 0 true R.queCmd old new arg

/-- The identity and wrap keys shown from the PUF secret; no wrap key in RMA (R283, R289). -/
def Hive.keysShow (h : Hive) : Hive :=
  (List.range 24).foldl (fun h i =>
    let x := Config.pufSecret h.sys.pufHelper
    (h.wr (R.queIdPub i) (Config.pubKey 0 x 0 i)).wr (R.queWrapPub i)
      (if h.sys.otpLife = 3 then 0 else Config.pubKey 1 x h.sys.wrapSeed i)) h

/-- Every live stream ramps with the power-fail ramp, and a ramp under way is shortened, for a rule that names SAFE (R293, R407). -/
def Hive.safeRamp (h : Hive) : Hive :=
  h.image.foldl (fun h n =>
    let h := h.cmdUndo n
    let st := h.st n
    if st = stRampUp ∨ st = stLive then h.rampBegin n 10 true false
    else if st = stRampDown then (h.deadlineUse n).rampStart n true false (h.sget n).ms else h) h

/-! ## Tokens (R290 to R293) -/

/-- A byte of QUE.TOKEN. -/
def Hive.tokByte (h : Hive) (i : Nat) : Nat := bitsOf (h.rd (R.queToken (i / 4))).toNat (8 * (i % 4)) 8

/-- The purpose, signing slot and argument of the token. -/
def Hive.tokPurpose (h : Hive) : Nat := h.tokByte 4
def Hive.tokKey (h : Hive) : Nat := h.tokByte 5
def Hive.tokArg (h : Hive) : Nat := h.tokByte 6

/-- The token's layout: magic, purpose, argument, reserved byte, and a payload of zeros but for purpose 0x04. -/
def Hive.tokFormed (h : Hive) : Bool :=
  let p := h.tokPurpose
  let a := h.tokArg
  (List.range 4).map (fun i => h.tokByte i) == [0x54, 0x4C, 0x54, 0x4B] && h.tokByte 7 == 0 &&
    (if p = 1 then a == 1 || a == 2 else if p = 2 then a == 0 else (p == 3 || p == 4) && decide (a < 4)) &&
    (p == 4 || (List.range 96).all (fun i => h.tokByte (0x58 + i) == 0))

/-- The token names the outstanding challenge. -/
def Hive.tokChal (h : Hive) : Bool :=
  h.sys.chalOn && (List.range 32).all (fun i =>
    h.tokByte (0x38 + i) == bitsOf (h.rd (R.queChal (i / 4))).toNat (8 * (i % 4)) 8)

/-- Slots whose key signed a patch that loads or waits. -/
def Hive.pendingSigners (h : Hive) : List Nat :=
  [0, 1, 2, 3].filterMap (fun p => match h.pget p with | some q => if h.pPending p then some q.file.hdr.key.val else none | none => none)

/-- The status of an authentic token by its purpose (R288, R292, R293). -/
def Hive.tokState (h : Hive) : Nat :=
  let a := h.tokArg
  match h.tokPurpose with
  | 1 => if a = 1 ∧ h.mode ≠ .safe ∧ h.mode ≠ .halt then stWrong else stOk
  | 2 => if h.sys.otpLife = 1 ∨ h.sys.otpLife = 2 then stOk else stWrong
  | 3 =>
    if a = h.tokKey || h.sys.boot.signers.contains a || h.pendingSigners.contains a ||
      ((List.range 4).all (fun k => k == a || !bitOf h.sys.provNow k || bitOf h.sys.otpRev k)) then stWrong else stOk
  | _ => if h.sys.otpLife ≠ 2 || bitOf h.sys.provNow a then stWrong else stOk

/-- The token's id_hash is SHA-384 of QUE.ID_PUB (R290). -/
def Hive.tokId (h : Hive) : Bool :=
  Config.sha384 ((List.range 24).flatMap (fun i => leBytes (h.rd (R.queIdPub i)).toNat 4)) % 2 ^ 384 ==
    leNat ((List.range 48).map (fun i => h.tokByte (8 + i)))

/-- The hash of 96 bytes of QUE.TOKEN from byte `o` on: of a new owner key. -/
def Hive.tokKeyHash (h : Hive) (o : Nat) : Nat := Config.sha384 ((List.range 96).map (fun i => h.tokByte (o + i))) % 2 ^ 384

/-- The status of a submitted token; `sigOk` tells whether its signature verifies (R291). -/
def Hive.tokStatus (h : Hive) (sigOk : Bool) : Nat :=
  if !(decide (h.tokKey < 4) && h.keysUsable h.tokKey && h.tokId && h.tokChal && sigOk) then stNotAuth else h.tokState

/-! ## Commands of QUE.CMD (R286 to R288, R291, R305) -/

/-- A command of the queen with nothing to program. -/
def QueJob.init : QueJob := ⟨0, 0, none, 0, 0, 0, none, 0, false, [], 0, 0⟩

/-- A quote is captured, with every journal entry queued before it (R305). -/
def Hive.quoteTake (h : Hive) : Hive :=
  let hh := h.jq.foldl (fun h _ => h.jAppend) h
  { h with
    sys.qjob := some { QueJob.init with cmd := 3, since := h.ticks, quote := h.quoteBytes hh.jhead hh.jseq, head := hh.jhead, headSeq := hh.jseq }
    sys.quoteOk := false }

/-- Codes and arguments of QUE.CMD that are BAD_ARG. -/
def Hive.queArgs (h : Hive) (v : Nat) : Nat :=
  let c := bitsOf v 0 4
  let a := bitsOf v 8 8
  if c = 0 ∨ 7 < c then stBadArg
  else if c = 2 ∧ !h.tokFormed then stBadArg
  else if c = 4 ∧ 3 < a then stBadArg
  else if c = 6 ∧ 64 < a then stBadArg
  else stOk

/-- A command is in progress, or the queen does not run (R306, R393). -/
def Hive.queBusy (h : Hive) : Bool := !h.queenUp || h.sys.qjob.isSome

/-- The status of a command by the lifecycle and the hive's state. -/
def Hive.queState (h : Hive) (sigOk : Bool) (v : Nat) : Nat :=
  let s := h.sys
  let a := bitsOf v 8 8
  let ok := fun (b : Bool) => if b then stOk else stWrong
  match bitsOf v 0 4 with
  | 1 => stOk
  | 2 => h.tokStatus sigOk
  | 3 => if s.otpLife = 0 then stWrong else if h.flag F.queLife_puf_ok then stOk else stInteg
  | 4 => ok (s.otpLife == 0 || (s.otpLife == 1 && !bitOf s.provNow a))
  | 5 => ok (s.otpLife == 1 && h.flag F.imgStat_loaded && (List.range 4).any (fun k => bitOf s.provNow k && !bitOf s.otpRev k))
  | 6 => ok (decide (s.otpRoll < a) && h.flag F.imgStat_loaded && decide (a ≤ s.boot.topVersion))
  | _ => ok (s.otpLife == 0)

/-- The status of a write to QUE.CMD: arguments, then BUSY, then state (R297). -/
def Hive.queChk (sigOk : Bool) (h : Hive) (v : Nat) : Nat :=
  let r := h.queArgs v
  if r ≠ stOk then r else if h.queBusy then stWrong else h.queState sigOk v

/-- A new challenge in QUE.CHAL (R291). -/
def Hive.chalDraw (h : Hive) : Hive :=
  let h : Hive := (List.range 8).foldl (fun (h : Hive) i =>
    ({ h with free := h.free + 1 } : Hive).wr (R.queChal i) (Config.random h.free)) h
  { h with sys.chalOn := true, sys.chalAt := h.ticks }

/-- The challenge is destroyed. -/
def Hive.chalDrop (h : Hive) : Hive :=
  let h := (List.range 8).foldl (fun h i => h.wr (R.queChal i) 0) h
  { h with sys.chalOn := false }

/-! ## Fuses (R282, R288, R289, R306) -/

/-- The lowest fuse that `want` sets and `cur` has not, of `n` fuses. -/
def fuseNext (want cur n : Nat) : Option Nat :=
  if want = 0 then none else (List.range n).find? (fun i => bitOf want i && !bitOf cur i)

/-- The number of fuses that `want` sets and `cur` has not. -/
def fuseCount (want cur n : Nat) : Nat :=
  if want = 0 then 0 else ((List.range n).filter (fun i => bitOf want i && !bitOf cur i)).length

/-- The slot whose key a job programs, and the one it revokes. -/
def QueJob.keySlot (j : QueJob) : Option Nat := if j.cmd = 4 ∨ (j.cmd = 2 ∧ j.arg = 4) then j.slot else none
def QueJob.revSlot (j : QueJob) : Option Nat := if j.cmd = 2 ∧ j.arg = 3 then j.slot else none

/-- The key hash in a slot's fuses. -/
def Sys.hashOf (s : Sys) (k : Nat) : Nat := Tbl.get (fun _ => 0) s.otpHash k

/-- Fuses that a job has still to program. -/
def Sys.fusesLeft (s : Sys) (j : QueJob) : Nat :=
  (if j.cmd = 6 then j.arg - s.otpRoll else 0) + fuseCount j.helper s.pufHelper 8192 + fuseCount j.seed s.wrapSeed 256 +
    (match j.keySlot with
      | some k => fuseCount j.hash (s.hashOf k) 384 + (if bitOf s.otpProv k then 0 else 1)
      | none => 0) +
    (match j.revSlot with | some k => if bitOf s.otpRev k then 0 else 1 | none => 0) +
    (match j.life with | some l => l - s.otpLife | none => 0)

/-- A lifecycle fuse is programmed. -/
def Sys.lifeFuse (s : Sys) (j : QueJob) : Sys :=
  match j.life with
  | some l => { s with otpLife := min l (s.otpLife + 1) }
  | none => s

/-- A job's next fuse from the slot's on: the key hash, its provisioned or revoked fuse, then the lifecycle's. -/
def Sys.slotFuse (s : Sys) (j : QueJob) : Sys :=
  match j.keySlot, j.revSlot with
  | some k, _ =>
    match fuseNext j.hash (s.hashOf k) 384 with
    | some i => { s with otpHash := Tbl.put (fun _ => 0) s.otpHash k (setBit (s.hashOf k) i true) }
    | none => if bitOf s.otpProv k then s.lifeFuse j else { s with otpProv := setBit s.otpProv k true }
  | none, some k => if bitOf s.otpRev k then s.lifeFuse j else { s with otpRev := setBit s.otpRev k true }
  | none, none => s.lifeFuse j

/-- The fuse in progress is programmed: the counter's, else puf_helper's, wrap_seed's, the slot's, and the lifecycle's last. -/
def Sys.fuseStep (s : Sys) (j : QueJob) : Sys :=
  if j.cmd = 6 then { s with otpRoll := if s.otpRoll < j.arg then s.otpRoll + 1 else s.otpRoll }
  else
    match fuseNext j.helper s.pufHelper 8192 with
    | some i => { s with pufHelper := setBit s.pufHelper i true }
    | none =>
      match fuseNext j.seed s.wrapSeed 256 with
      | some i => { s with wrapSeed := setBit s.wrapSeed i true }
      | none => s.slotFuse j

/-- Entry to RMA: the wrap key is no longer derived, pending patches are abandoned (R289). -/
def Hive.rmaEnter (h : Hive) : Hive :=
  let h := (List.range 24).foldl (fun h i => h.wr (R.queWrapPub i) 0) h
  [0, 1, 2, 3].foldl (fun h p => h.patchStop p 0x06 1 stNotAuth) h

/-- A new owner key stands in its slot: its copy in MRAM is the one given, which counts when it has the hash in the fuses. -/
def Hive.keyDone (h : Hive) (j : QueJob) : Hive :=
  match j.keySlot with
  | some k =>
    let h : Hive := { h with sys.keysBad := setBit h.sys.keysBad k (h.sys.hashOf k != j.hash) }
    (h.putHash (R.queKeyHash k) (h.sys.hashOf k)).jQueen 5 0 4 k
  | none => match j.revSlot with | some k => h.jQueen 5 0 3 k | none => h

/-- A job's last fuse is programmed: its key and its lifecycle, which was `old`, take effect, and the command is done. -/
def Hive.jobDone (h : Hive) (old : Nat) (j : QueJob) : Hive :=
  let h := ({ h with sys.qjob := none } : Hive).keyDone j
  let h :=
    match j.life with
    | some l =>
      let h := h.jQueen 4 old l 0
      if l = 3 then h.rmaEnter else if old = 0 then (h.setFlag F.queLife_puf_ok true).keysShow else h
    | none => h
  (h.setFlag F.queCmdStat_busy false).hwSet F.queCmdStat_done

/-- The fuse in progress is programmed, each one of the counter journaled. The last one ends the command; so does the one that
a reset interrupted, with what follows it left undone (R306). -/
def Hive.fuseDone (h : Hive) (j : QueJob) : Hive :=
  let s := h.sys
  let h : Hive := { h with sys := s.fuseStep j }
  let h := if j.cmd = 6 then h.jQueen 5 s.otpRoll h.sys.otpRoll 0 else h
  let h :=
    if h.sys.fusesLeft j = 0 then h.jobDone s.otpLife j
    else if j.retry then ({ h with sys.qjob := none } : Hive).setFlag F.queCmdStat_busy false
    else { h with sys.qjob := some { j with since := h.ticks } }
  h.lifeShow

/-- One-time programming begins; with every fuse programmed already it is done. -/
def Hive.fuseStart (h : Hive) (j : QueJob) : Hive :=
  if h.sys.fusesLeft j = 0 then (h.jobDone h.sys.otpLife j).lifeShow else { h with sys.qjob := some { j with since := h.ticks } }

/-- An accepted token takes effect, or its fuses begin. -/
def Hive.tokTake (h : Hive) : Hive :=
  let p := h.tokPurpose
  let a := h.tokArg
  let h := h.jQueen 6 0 p a
  match p with
  | 1 =>
    let h := if h.sys.otpLife = 2 then h.set F.queLife_debug a else h
    if a = 2 then (h.safeRamp.safeOn 2).raise 0x0F 0x05 0x2 1 a else h.raise 0x0F 0x05 0x2 1 a
  | 2 => h.fuseStart { QueJob.init with cmd := 2, arg := p, seed := 2 ^ 256 - 1, life := some 3 }
  | 3 => h.fuseStart { QueJob.init with cmd := 2, arg := p, slot := some a }
  | _ => h.fuseStart { QueJob.init with cmd := 2, arg := p, slot := some a, hash := h.tokKeyHash 0x58 }

/-- puf_helper from an enrolment and wrap_seed from the queen's random source (R288). -/
def Hive.enrol (h : Hive) (j : QueJob) : Hive × QueJob :=
  let x := Config.pufEnrol h.free % 2 ^ 8192
  let y := leNat ((List.range 8).flatMap (fun i => leBytes (Config.random (h.free + 1 + i)).toNat 4))
  ({ h with free := h.free + 9 }, { j with helper := x, seed := y, life := some 1 })

/-- The effect of an accepted command. The key of `provision` is in QUE.TOKEN words 0-23. -/
def Hive.queTake (h : Hive) (v : Nat) : Hive :=
  let a := bitsOf v 8 8
  match bitsOf v 0 4 with
  | 1 => h.chalDraw
  | 2 => h.tokTake
  | 3 => h.quoteTake
  | 4 =>
    let j := { QueJob.init with cmd := 4, arg := a, slot := some a, hash := h.tokKeyHash 0 }
    if h.sys.otpLife = 0 then (h.enrol j).1.fuseStart (h.enrol j).2 else h.fuseStart j
  | 5 => h.fuseStart { QueJob.init with cmd := 5, life := some 2 }
  | 6 => h.fuseStart { QueJob.init with cmd := 6, arg := a }
  | _ => h.fuseStart { QueJob.init with cmd := 7, seed := 2 ^ 256 - 1, life := some 3 }

/-- QUE.CMD_STAT after a command was considered: its code and status, done unless it is in progress (R307). -/
def Hive.queShow (h : Hive) (c status : Nat) : Hive :=
  let h := (h.set F.queCmdStat_last c).set F.queCmdStat_status status
  let run := h.sys.qjob.isSome
  let h := h.setFlag F.queCmdStat_busy run
  if run then h.setFlag F.queCmdStat_done false else h.hwSet F.queCmdStat_done

/-- A write to QUE.CMD. A token destroys the challenge whether or not it is accepted (R291). -/
def Hive.wQueCmd (h : Hive) (w : RegWrite) (sigOk : Bool) : Hive :=
  let v := w.value.toNat
  let c := bitsOf v 0 4
  let seen := wFull w && !h.queBusy && decide (1 ≤ c) && decide (c ≤ 7)
  let st := h.queChk sigOk v
  let h := h.hostWrite w (Hive.queChk sigOk) Hive.queTake
  if seen then
    let h := if c = 2 then h.chalDrop else h
    h.queShow c st
  else h

/-- A write to QUE.CMD that no token row carries: whether a submitted token's signature verifies is free. -/
def Hive.wQueCmdAny (h : Hive) (w : RegWrite) : Hive :=
  if bitsOf w.value.toNat 0 4 = 2 then
    let (f, h) := h.draw
    h.wQueCmd w (bitOf f 0)
  else h.wQueCmd w false

/-- CHALLENGE: QUE.CMD 0x1. Each row of QUE.CMD follows the value written. -/
def execChallenge (w : RegWrite) (s : State) : Host.Outcome State Fault Refusal := s.upd (fun h => h.wQueCmdAny w)

/-- CHALLENGE_EXPIRY: 600 s after issue. -/
def execChallengeExpiry (s : State) : Host.Outcome State Fault Refusal :=
  s.upd (fun h => if h.sys.chalOn && decide (h.sys.chalAt + 600 * Config.secTicks ≤ h.ticks) then h.chalDrop else h)

/-- TOKEN_DEBUG_UNLOCK: purpose 0x01. -/
def execTokenDebugUnlock (w : RegWrite) (sigOk : Bool) (s : State) : Host.Outcome State Fault Refusal := s.upd (fun h => h.wQueCmd w sigOk)
/-- TOKEN_ENTER_RMA: purpose 0x02; the transition takes effect at its last fuse. -/
def execTokenEnterRma (w : RegWrite) (sigOk : Bool) (s : State) : Host.Outcome State Fault Refusal := s.upd (fun h => h.wQueCmd w sigOk)
/-- TOKEN_REVOKE_SLOT: purpose 0x03. -/
def execTokenRevokeSlot (w : RegWrite) (sigOk : Bool) (s : State) : Host.Outcome State Fault Refusal := s.upd (fun h => h.wQueCmd w sigOk)
/-- TOKEN_ADD_SLOT: purpose 0x04. -/
def execTokenAddSlot (w : RegWrite) (sigOk : Bool) (s : State) : Host.Outcome State Fault Refusal := s.upd (fun h => h.wQueCmd w sigOk)

/-- QUOTE: QUE.CMD 0x3. -/
def execQuote (w : RegWrite) (s : State) : Host.Outcome State Fault Refusal := s.upd (fun h => h.wQueCmdAny w)

/-- QUOTE_READY: the quote with its signature stands in QUE.QUOTE, done is set and the alert is due (R305, R403). -/
def execQuoteReady (s : State) : Host.Outcome State Fault Refusal :=
  s.upd (fun h =>
    match h.sys.qjob with
    | none => h
    | some j =>
      if j.cmd ≠ 3 then h
      else
        let d := Config.sha384 j.quote % 2 ^ 384
        let h := (List.range 68).foldl (fun h i => h.wr (R.queQuote i) (BitVec.ofNat 32 (leNat ((j.quote.drop (4 * i)).take 4)))) h
        let h := (List.range 24).foldl (fun h i => h.wr (R.queQuote (68 + i)) (Config.sign d i)) h
        let h : Hive := { h with sys.qjob := none, sys.quoteOk := true }
        let h := (h.setFlag F.queCmdStat_busy false).hwSet F.queCmdStat_done
        if h.flag F.smbAlertCfg_quote then { h with alQuote := true } else h)

/-- PROVISION: QUE.CMD 0x4. -/
def execProvision (w : RegWrite) (s : State) : Host.Outcome State Fault Refusal := s.upd (fun h => h.wQueCmdAny w)

/-- DEPLOY: QUE.CMD 0x5. -/
def execDeploy (w : RegWrite) (s : State) : Host.Outcome State Fault Refusal := s.upd (fun h => h.wQueCmdAny w)

/-- ROLLBACK_COMMIT: QUE.CMD 0x6. -/
def execRollbackCommit (w : RegWrite) (s : State) : Host.Outcome State Fault Refusal := s.upd (fun h => h.wQueCmdAny w)

/-- RMA_FROM_BLANK: QUE.CMD 0x7. -/
def execRmaFromBlank (w : RegWrite) (s : State) : Host.Outcome State Fault Refusal := s.upd (fun h => h.wQueCmdAny w)

/-- FUSE_PROGRAM_COMPLETE: 1 ms per fuse. At entry to RMA, chain entries of pending patches are marked abandoned. -/
def execFuseProgramComplete (s : State) : Host.Outcome State Fault Refusal :=
  match s.hive.sys.qjob with
  | none => .next s
  | some j =>
    if j.cmd = 3 || !s.hive.queenUp || decide (s.hive.ticks < j.since + Config.msTicks) then .next s
    else
      let h := s.hive.fuseDone j
      .next { s with
        hive := h
        mem := if h.sys.otpLife = 3 ∧ s.hive.sys.otpLife ≠ 3 then [0, 1, 2, 3].foldl (fun m p => m.patchStop s.hive p) s.mem else s.mem }

/-! ## Critical values (R298, R299) -/

/-- The streams that use an RWC register, and whether they mute with the power-fail ramp. -/
def Hive.rwcUsers (h : Hive) (a : Nat) : List Nat × Bool :=
  if 0x490000 ≤ a ∧ a < 0x4A0000 then ([(a - 0x490000) / 0x20], false)
  else if a = R.npmBackoff then (h.image.filter (fun k => h.get (F.npmCtl_crit_en k) % 8 != 0), false)
  else if a = R.npmDonor then (h.image.filter (fun k => bitOf (h.get (F.npmCtl_crit_en k)) 3), false)
  else if 0x4C0000 ≤ a ∧ a < 0x4D0000 then ([h.get (F.fbcCtl_stream ((a - 0x4C0000) / 0x40))], false)
  else if 0x500000 ≤ a ∧ a < 0x520000 then ([h.gceStream a], false)
  else if 0x520000 ≤ a ∧ a < 0x530000 then (h.pinStreams (pinOf a), false)
  else if 0x580000 ≤ a ∧ a < 0x588000 then ([smkStreamOf a], true)
  else ([], false)

/-- The offset of the field of an envelope record that byte `o` belongs to (R294). -/
def envField (o : Nat) : Nat :=
  if o < 4 then o
  else if o < 0x10 then o - o % 2
  else if o < 0x50 then o - o % 4
  else
    let k := (o - 0x50) % 12
    if k < 8 then o - k % 4 else o - k % 2

/-- A mismatch found by the queen, unless one is outstanding for the value. -/
def Hive.scanHit (h : Hive) (a : Nat) (pf : Bool) (ns : List Nat) : Hive :=
  if h.mism.any (fun p => p.1 == a) then h else h.mismatch 0x2 a pf ns

/-- Bytes of the queen's copy whose complement is wrong: tenant times 176 plus offset. -/
def Hive.envBad (h : Hive) : List Nat :=
  ((h.envT.map (fun p => p.1)) ++ (h.envC.map (fun p => p.1))).filter (fun k =>
    Tbl.get (fun _ => 0) h.envT k + Tbl.get (fun _ => 255) h.envC k != 255)

/-- The address of the field that byte `k` of the queen's copy belongs to. -/
def envKeyAddr (k : Nat) : Nat := 0x810000 + k / 176 * 0x100 + envField (k % 176)

/-- A register holds a critical value. -/
def isRwc (a : Nat) : Bool := match Regs.find a with | some d => d.rwc | none => false

/-- A pass of the queen over every critical value. -/
def Hive.scanPass (h : Hive) : Hive :=
  let h := ((h.regs.filter (fun p => isRwc p.1 && !rwcOk p.2)).map (fun p => p.1)).foldl (fun h a =>
    h.scanHit a (h.rwcUsers a).2 (h.rwcUsers a).1) h
  let h := [0, 1, 2, 3].foldl (fun h p => h.usePin p 0x2) h
  let h := h.envBad.foldl (fun h k => h.scanHit (envKeyAddr k) false (h.tenantStreams (k / 176))) h
  ((h.wcopy.filter (fun p => !rwcOk p.2)).map (fun p => p.1)).foldl (fun h k =>
    h.scanHit (envAddr (k / 32) (k % 32)) false (h.tenantStreams (k / 32))) h

/-- INTEGRITY_SCAN: while the queen runs. -/
def execIntegrityScan (s : State) : Host.Outcome State Fault Refusal :=
  s.upd (fun h => if h.queenUp then h.scanPass else h)

/-- Of tenant `t`'s record, the fields found wrong have their complement rewritten from the true value, and the working copies
found wrong are taken from it. -/
def Hive.envRestore (h : Hive) (t : Nat) : Hive :=
  let seen := fun (a : Nat) => h.mism.any (fun p => p.1 == a)
  let bad := (h.wcopy.filter (fun p => p.1 / 32 == t && !rwcOk p.2 && seen (envAddr (p.1 / 32) (p.1 % 32)))).map (fun p => p.1 % 32)
  let h : Hive := ((List.range 176).filter (fun o => seen (envKeyAddr (t * 176 + o)))).foldl (fun (h : Hive) o =>
    { h with envC := Tbl.put (fun _ => 255) h.envC (t * 176 + o) (255 - h.envByte t o) }) h
  let h : Hive := { h with wcopy := bad.foldl (fun w f =>
    Tbl.put (fun _ => rwcWord 0) w (t * 32 + f) (rwcWord (h.envNat t (wcOff f) 2))) h.wcopy }
  let as := (h.mism.map (fun p => p.1)).filter (fun a => decide (0x810000 + t * 0x100 ≤ a) && decide (a < 0x810000 + t * 0x100 + 0x100))
  as.foldl (fun h a => h.mismClear a) h

/-- ENVELOPE_COPY_RESTORE: the queen's copy passes its hash check and restores; else TRUST cause 0x07 at L4 (R299). -/
def execEnvelopeCopyRestore (t : TenantId) (s : State) : Host.Outcome State Fault Refusal :=
  s.upd (fun h =>
    let a := 0x810000 + t.val * 0x100
    if !h.mism.any (fun p => decide (a ≤ p.1) && decide (p.1 < a + 0x100)) then h
    else if h.envDigest = h.envHash then h.envRestore t.val
    else h.raise 0x0F 0x07 0x2 4 t.val)

/-! ## Journal and JTAG (R300, R308, R407) -/

/-- JOURNAL_APPEND: while the queen runs. -/
def execJournalAppend (s : State) : Host.Outcome State Fault Refusal :=
  s.upd (fun h => if h.queenUp then h.jAppend else h)

/-- JOURNAL_RING_WRITE: refused with NOT_AUTH. -/
def execJournalRingWrite (w : RegWrite) (s : State) : Host.Outcome State Fault Refusal := s.upd (fun h => h.wRefused w stNotAuth)

/-- The IDCODE that the TAP shifts out: version 0x2, part 0x5144, manufacturer 0x4A3 and a 1 (R407). -/
def jtagIdcode : Nat := 0x25144947

/-- JTAG_EXTEST_SELECT: in RUN or DEGRADED, outside DEPLOYED or with debug unlocked, SAFE after the power-fail ramp. -/
def execJtagExtestSelect (s : State) : Host.Outcome State Fault Refusal :=
  s.upd (fun h =>
    if h.running? && h.get F.queLife_debug != 0 then h.safeRamp.safeOn 3 else h)

end Sys2Proof.Machine
end

