-- ==== Sys2Proof/Machine/MaintOps.lean ====
section
/-! DEFINITION. Maintenance aborts, waiting requests that start, and the firmware A/B switch (R391 to R393). -/

namespace Sys2Proof.Machine

/-- The status of an abort: activities that cannot be aborted (R388, R392). -/
def Hive.abortChk (h : Hive) (i : Nat) : Nat :=
  match h.mget i with
  | some m => if h.mState i = 2 && [2, 4, 8, 9].contains m.act then stWrong else stOk
  | none => stOk

/-- An abort takes effect: a waiting request is removed, a sweep stops after the canceller in progress, another activity at
once. -/
def Hive.abortTake (h : Hive) (i : Nat) (k : CmdTok) : Hive × Option Nat :=
  match h.mget i with
  | none => (h, some 0)
  | some m =>
    if h.mState i = 1 then (h.maintEnd i 3 0 stBusy, some 0)
    else if m.act = 3 then (h.mset i (some { m with stop := m.stop ++ [k] }), none)
    else (h.activityAbort i, some 0)

/-- MAINTENANCE_ABORT, opcode 0x0E. -/
def execMaintenanceAbort (c : CmdEntry) (s : State) : Host.Outcome State Fault Refusal :=
  s.upd (fun h =>
    let i := argBits c.a0 0 4
    h.command c ⟨0x0E, 0xF, 0, 0, .never, .maintAbort⟩ (h.mget i).isSome (h.abortChk i) (fun h k => h.abortTake i k))

/-- The first reason of a firmware file, for unit 0 keeper or 1 queen; its one section holds the code (R277, R393). -/
def Hive.fwReason (h : Hive) (unit : Nat) (f : FileHdr) : Nat :=
  let r := h.fileReason f [4 + unit]
  if r ≠ 0 then r else if f.secs ≠ [0x11] then 0x08 else 0

/-- The processor restarts from its inactive slot; the outgoing queen completes a scan first. -/
def Hive.fwStart (f : TolFile) (unit : Nat) (h : Hive) (i : Nat) : Hive :=
  let r := h.fwReason unit f.hdr
  if r ≠ 0 then (h.jImage R.imgStat r).maintEnd i 3 r (reasonStatus r)
  else
    let h := h.jImage R.imgStat 0
    let h : Hive := if unit = 0 then { h with keeperAlive := false } else { h.scanPass with queenUp := false }
    ({ h with fwTarget := some unit } : Hive).humStop

/-- FIRMWARE_AB_SWITCH: maintenance activity 0x9. -/
def execFirmwareAbSwitch (c : CmdEntry) (f : TolFile) (s : State) : Host.Outcome State Fault Refusal :=
  s.upd (fun h =>
    let u := argBits c.a0 4 12
    h.maintStart c 9 (some f) (decide (u < 2)) stOk (Hive.fwStart f u))

/-- FIRMWARE_RESTART_END: the preference moves when the new firmware runs; else the old slot runs and the activity ends
failed. The incoming queen makes a scan first. -/
def execFirmwareRestartEnd (queen : Bool) (running : Bool) (s : State) : Host.Outcome State Fault Refusal :=
  s.upd (fun h =>
    let u := if queen then 1 else 0
    if h.fwTarget ≠ some u then h
    else
      let h : Hive := { h with fwTarget := none }
      let h : Hive :=
        if running then
          { h with fwSlot := if queen then (h.fwSlot.1, 1 - h.fwSlot.2) else (1 - h.fwSlot.1, h.fwSlot.2) }
        else h
      let h := if queen then ({ h with queenUp := true } : Hive).scanPass else { h with keeperAlive := true }
      match h.maintOf 9 u with
      | some i => h.maintEnd i (if running then 0 else 1) 0 stOk
      | none => h)

/-- The checks of an activity's own rule, made again when a waiting request starts (R391). -/
def Hive.maintChk (h : Hive) (m : MaintSt) : Nat :=
  if !maintAdmits h.mode m.act then stWrong
  else
    match m.act with
    | 1 => h.eyeChk m.unit
    | 2 => h.retrainChk m.unit
    | 5 => h.fanLearnChk
    | 6 => h.bakLearnChk
    | 7 => h.bistChk m.unit
    | _ => stOk

/-- What an activity begins with, under handle `i`. -/
def Hive.maintBegin (mem : Mem) (m : MaintSt) (h : Hive) (i : Nat) : Hive :=
  match m.act with
  | 1 => h.eyeStart m.unit i
  | 2 => h.retrainStart m.unit i
  | 3 => h.sweepStart i
  | 4 => h.selfTestStart i
  | 5 => h.fanLearnStart i
  | 6 => h.bakLearnStart i
  | 7 => h.bistStart i
  | 8 => match m.file with | some f => Hive.patchStart mem f h i | none => h
  | _ => match m.file with | some f => Hive.fwStart f m.unit h i | none => h

/-- MAINTENANCE_QUEUED_START: a waiting request that conflicts with nothing starts, or completes with its failing check. -/
def execMaintenanceQueuedStart (i : HandleId) (s : State) : Host.Outcome State Fault Refusal :=
  s.upd (fun h =>
    match h.mget i.val with
    | none => h
    | some m =>
      if h.mState i.val ≠ 1 || h.maintBlocked m.act m.unit m.file m.seq then h
      else
        let st := h.maintChk m
        if st ≠ stOk then h.maintEnd i.val 3 0 st
        else Hive.maintBegin s.mem m ((h.set (F.cmdMaint_state i.val) 2).mset i.val (some { m with since := h.ticks })) i.val)

end Sys2Proof.Machine
end

