-- ==== Sys2Proof/Machine/Boot.lean ====
section
/-! DEFINITION. Hive and cold resets, the release of the main domains, rails, and the loss of the keeper's supply (R20, R253,
R283, R284, R306, R309 to R311, R318, R356, R367, R372). -/

namespace Sys2Proof.Machine

/-- Registers that a hive reset keeps: the lost aggregate, recorder, usage, supply, clock and address settings, and TIM.EPOCH
(R20, R331, R375, R376, R405). -/
def hiveKept : List Nat :=
  [R.hiveIdent, R.timEpoch, R.pwrStat, R.pwrBakCfg, R.pwrBakStat, R.pwrBakQ, R.pwrBakQv, R.pwrBakCap, R.pwrBakLearn, R.pwrIBak, R.pwrRefStat,
    R.pwrClkStat, R.fltLost, R.evrStat] ++ (List.range 16).map R.useTCtl ++ (List.range 16).map R.useWeight ++
    [R.useRingSeq, R.smbAddrCfg, R.smbAlertCfg]

/-- Registers that a cold reset keeps in MRAM, or that show what the reset does not change. -/
def coldKept : List Nat :=
  [R.hiveIdent, R.timEpoch, R.pwrStat, R.pwrBakCfg, R.pwrBakCap, R.evrStat, R.useRingSeq, R.smbAddrCfg, R.smbAlertCfg]

/-- The register table with only the listed registers. -/
def Hive.keepRegs (h : Hive) (ks : List Nat) : Tbl Word := ks.foldl (fun t a => Tbl.put Regs.resetOf t a (h.rd a)) []

/-- The fault table at a hive reset: no fault is active, sc is set on those that clear themselves, and acknowledged records
are freed (R356). -/
def Hive.faultsEnd (h : Hive) : Hive :=
  (h.faults.map (fun p => p.1)).foldl (fun h i =>
    let r := h.flt i
    if r.valid && r.active then
      h.setFlt i (if r.acked then { FaultRec.free with gen := r.gen } else { r with active := false, sc := r.sc || r.selfc })
    else h) h

/-- The capacity code once a learn under way is discarded (R321). -/
def Hive.capCode (h : Hive) : Nat :=
  match h.maintOfAct 6 with
  | some i => (match h.mget i with | some m => m.a1 | none => h.get F.pwrBakStat_cap)
  | none => h.get F.pwrBakStat_cap

/-- The keeper, MRAM and one-time memory as a reset of the main domains leaves them; a quote in progress is discarded. -/
def Sys.kept (s : Sys) : Sys :=
  { Sys.init with
    railsGood := s.railsGood, seqDue := s.seqDue, pfPin := s.pfPin, rung0 := s.rung0, testEn := s.testEn, sclkStop := s.sclkStop
    mainAt := s.mainAt, smbAt := s.smbAt, wtrAt := s.wtrAt, isns := s.isns, qAcc := s.qAcc, calmAt := s.calmAt, learnQ := s.learnQ
    otpLife := s.otpLife, otpProv := s.otpProv, otpRev := s.otpRev, otpRoll := s.otpRoll, otpHash := s.otpHash
    pufHelper := s.pufHelper, wrapSeed := s.wrapSeed, keysBad := s.keysBad
    qjob := (match s.qjob with | some j => if j.cmd = 3 then none else some { j with retry := true } | none => none)
    kStatus := s.kStatus, quotePtr := s.quotePtr, smbAddr := s.smbAddr }

/-- The reset values of the thresholds follow the fused grade: those of the KP5144-C (R340, R350). -/
def Hive.gradeReset (h : Hive) : Hive :=
  if h.get F.hiveIdent_grade = 2 then
    ((h.wr (R.hskThr 0) 0xA5FF5A00).wr (R.hskThr 1) 0xA0FF5F00).wr (R.hskThr 2) 0x96FF6900
  else h

/-- The block after a reset of the main domains: all four dies and the system island cleared, the keeper, its SRAM, MRAM and
OTP kept; open usage intervals closed, interrupted (R20, R372). The model's counters go on. -/
def Hive.mainClear (h : Hive) : Hive :=
  let h := h.usageStop.faultsEnd
  let h := h.set F.pwrBakStat_cap h.capCode
  let n : Hive := { Hive.reset with
    ticks := h.ticks, free := h.free, mode := .boot, regs := h.keepRegs hiveKept, faults := h.faults
    keeperAlive := h.keeperAlive, jq := h.jq, jring := h.jring, jseq := h.jseq, jold := h.jold, jhead := h.jhead
    jSince := h.jSince, alFaults := h.alFaults, alBak := h.alBak, alWake := h.alWake, wakeReq := h.wakeReq
    keeper := h.keeper, flush := h.flush, flushNext := h.flushNext, flushSeq := h.flushSeq, flushAt := h.flushAt
    usage := h.usage, uring := h.uring, slots := h.slots, fwSlot := h.fwSlot, sys := h.sys.kept }
  let n := ((n.set F.pwrClkStat_wclk_s0 0).set F.pwrClkStat_wclk_s1 0).set F.pwrClkStat_wclk_step 0
  ((n.set F.evrStat_state (if n.flush.isSome then 1 else 0)).set F.pwrRefStat_switches 0).gradeReset

/-- The byte memories after it: the boot flash alone is kept. -/
def Mem.mainClear (m : Mem) : Mem := { Mem.reset with flash := m.flash }

/-- The hive state that follows a reset: BOOT while the main rails are good and SCLK runs, else COLD. -/
def Hive.bootOrCold (h : Hive) : Hive :=
  { h with mode := if h.flag F.pwrStat_main_good && h.flag F.pwrClkStat_sclk_lock then .boot else .cold }

/-- SYS_RST_N low for 1 us: a hive reset. -/
def execSysRstN (s : State) : Host.Outcome State Fault Refusal :=
  .next { s with hive := s.hive.mainClear.bootOrCold, mem := s.mem.mainClear }

/-! ## Cold reset (R20, R367) -/

/-- The slots, 0 to 3. -/
def Hive.slotAt (h : Hive) (k : Nat) : SlotSt := Tbl.get (fun _ => SlotSt.empty) h.slots k

/-- A slot that a cold start can restore; `good` holds the verdicts of the CRC checks. -/
def Hive.slotUsable (h : Hive) (good k : Nat) : Bool :=
  (h.slotAt k).magic && (h.slotAt k).complete && (h.slotAt k).crcGood && bitOf good k

/-- The usable slot with the highest sequence number. -/
def Hive.slotBest (h : Hive) (good : Nat) : Option Nat :=
  [0, 1, 2, 3].foldl (fun b k =>
    if h.slotUsable good k then
      match b with
      | some j => if (h.slotAt j).seq < (h.slotAt k).seq then some k else b
      | none => some k
    else b) none

/-- The region taken from a slot: its areas, records, ring and the settings of its header; every condition and interval of the
time before has ended. -/
def Hive.slotTake (h : Hive) (k : Nat) : Hive :=
  let st := h.slotAt k
  let h : Hive := { h with
    keeper := st.words, faults := st.faults, uring := st.ring
    usage := st.usage.foldl (fun t p => Tbl.put (fun _ => UsageSt.init) t p.1 { p.2 with opened := false }) [] }
  let h := (List.range 16).foldl (fun h t =>
    let h := h.wr (R.useWeight t) (BitVec.ofNat 32 (st.ctl.getD t 0x1000100))
    h.wr (R.useTCtl t) (BitVec.ofNat 32 (st.ctl.getD (32 + t) 0 % 128 + st.ctl.getD (16 + t) 0 * 2 ^ 16))) h
  h.faultsEnd

/-- The restore of a cold start: the best slot, with BACKUP cause 0x04 for a newer one that is incomplete and MEMORY cause
0x06 for each complete one whose CRC fails. -/
def Hive.restore (h : Hive) (good : Nat) : Hive :=
  let best := h.slotBest good
  let h := match best with | some k => h.slotTake k | none => h
  let older := match best with
    | some k => [0, 1, 2, 3].any (fun j => (h.slotAt j).magic && !(h.slotAt j).complete && decide ((h.slotAt k).seq < (h.slotAt j).seq))
    | none => false
  let h := (h.set F.evrStat_restored (match best with | some k => 4 + k | none => 0)).setFlag F.evrStat_older older
  let h := if older then h.raise 0x0D 0x04 0x1 1 0 else h
  [0, 1, 2, 3].foldl (fun h k =>
    if (h.slotAt k).magic && (h.slotAt k).complete && !h.slotUsable good k then h.raise 0x06 0x06 0x1 1 k else h) h

/-- The keeper cleared as well: SRAM, logic and journal queue; a flush that ran stays incomplete. -/
def Hive.keeperClear (h : Hive) : Hive :=
  let cap := if h.get F.pwrBakCap_c_uf = 0 then 2 else 0
  let h : Hive := { h with
    regs := h.keepRegs coldKept, faults := [], jq := [], alFaults := [], alBak := false, alWake := false, wakeReq := false
    keeper := [], flush := none, flushNext := none, usage := [], uring := [], keeperAlive := true
    flushSeq := [0, 1, 2, 3].foldl (fun m k => max m (h.slotAt k).seq) 0
    sys := { h.sys with rung0 := false, kStatus := 0, quotePtr := 0, seqDue := false, sclkStop := h.ticks, qAcc := 0 } }
  let h := (h.gradeReset.set F.pwrBakStat_cap cap).setFlag F.pwrClkStat_rc_on true
  let h := ((h.setFlag F.pwrStat_pf false).setFlag F.pwrStat_seq_err false).set F.evrStat_state 0
  (h.setFlag F.evrStat_pending false).set F.evrStat_flushes 0

/-- POR_N low: a cold reset, whose scope includes the hive reset; `slotsGood` has a bit for each flush slot whose CRC is good. -/
def execPorN (slotsGood : Fin 16) (s : State) : Host.Outcome State Fault Refusal :=
  .next { s with hive := (s.hive.mainClear.keeperClear.restore slotsGood.val).bootOrCold, mem := s.mem.mainClear }

/-! ## The release of the main domains (R283, R284, R306, R311, R318) -/

/-- The fuse that a reset interrupted is programmed anew; what was to follow it is dropped (R306). -/
def Hive.fuseRetry (h : Hive) : Hive :=
  match h.sys.qjob with
  | some j => ({ h with sys.qjob := some { j with since := h.ticks } } : Hive).setFlag F.queCmdStat_busy true
  | none => h

/-- The queen starts: the PUF secret and the owner key copies are checked (R283, R284). -/
def Hive.queenStart (h : Hive) (pufOk : Bool) (keysOk : Nat) : Hive :=
  let bad := Nat.land h.sys.otpProv (15 - keysOk % 16)
  let h : Hive := { h with queenUp := true, sys := { h.sys with keysBad := bad } }
  let h := (List.range 4).foldl (fun h k =>
    if bitOf h.sys.otpProv k then h.putHash (R.queKeyHash k) (Tbl.get (fun _ => 0) h.sys.otpHash k) else h) h
  let h := h.fuseRetry.setFlag F.queLife_puf_ok pufOk
  let h := (if pufOk then h.keysShow else h).lifeShow
  let h := if pufOk then h else h.raise 0x0F 0x03 0x2 3 0
  (List.range 4).foldl (fun h k => if bitOf bad k then h.raise 0x0F 0x04 0x2 2 k else h) h

/-- MAIN_RESET_RELEASE: every main rail good for 2 ms and SCLK locked: BOOT, with the dies in RESET and the wake request
cleared. PWR_FAIL_N low at this instant is a power fail that takes hold when streams exist (R26, R311, R318, R400). -/
def execMainResetRelease (pufOk : Bool) (keysOk : Fin 16) (s : State) : Host.Outcome State Fault Refusal :=
  s.upd (fun h =>
    if !h.flag F.pwrStat_main_good || decide (h.ticks < h.sys.mainAt + 2 * Config.msTicks) || !h.flag F.pwrClkStat_sclk_lock || h.queenUp || !(h.mode == .cold || h.mode == .boot) then h
    else
      let h : Hive := { h with mode := .boot, wakeReq := false, alWake := false, sys := { h.sys with rung0 := false } }
      let h := [0, 1, 2, 3].foldl (fun h d => h.setDieSt d 1) h
      let h := h.queenStart pufOk keysOk.val
      if h.sys.pfPin then
        ((({ h with sys := { h.sys with pfPin := false } } : Hive).safeOn 0).setFlag F.pwrStat_pf true).raise 0x0C 0x03 0x0 3 0
      else h)

/-! ## Rails and the keeper's supply (R309 to R312) -/

/-- Rails by bit: 0-3 cores and 4 SRAM, group 2; 5 SD and 6 SDH, group 3; 7 IO, group 4. The rails of the group before. -/
def railsBefore (r : Nat) : List Nat := if r < 5 then [] else if r < 7 then [0, 1, 2, 3, 4] else [5, 6]

/-- The main rails are gone: COLD, SCLK stopped with its last count kept for the keeper's stamps, and the dies OFF. -/
def Hive.railsGone (h : Hive) : Hive :=
  let g := h.gtc
  let h := h.mainClear
  let h : Hive := { h with mode := .cold, gtc := g, sys := { h.sys with sclkStop := h.ticks } }
  let h := (h.setFlag F.pwrClkStat_sclk_lock false).set F.pwrRefStat_active 0
  let h := (h.setFlag F.pwrRefStat_holdover false).setFlag F.pwrRefStat_wtr_run false
  [0, 1, 2, 3].foldl (fun h d => h.setDieSt d 0) h

/-- RAIL_GOOD_CHANGE: a main rail crosses its good level. -/
def execRailGoodChange (rail : Fin 8) (good : Bool) (s : State) : Host.Outcome State Fault Refusal :=
  let h := s.hive
  let r := rail.val
  let m := setBit h.sys.railsGood r good
  let early := good && h.mode == .cold && (railsBefore r).any (fun k => !bitOf h.sys.railsGood k)
  let h : Hive := { h with sys := { h.sys with railsGood := m, seqDue := h.sys.seqDue || early } }
  let h := h.set F.pwrStat_rail_bad (setBit (h.get F.pwrStat_rail_bad) r (!good))
  let h : Hive := if m = 255 && !h.flag F.pwrStat_main_good then { h with sys.mainAt := h.ticks } else h
  let h := h.setFlag F.pwrStat_main_good (decide (m = 255))
  -- a new power-up
  let h := if good && s.hive.sys.railsGood == 0 then h.setFlag F.pwrStat_pf false else h
  let h := if early then h.hwSet F.pwrStat_seq_err else h
  if m = 0 && h.mode != .cold then .next { s with hive := h.railsGone, mem := s.mem.mainClear }
  else .next { s with hive := if good then h.sclkTry else h }

/-- KEEPER_SUPPLY_LOST: VBAK below 2.5 V while the keeper runs from it: keeper SRAM is lost, and a flush stays incomplete. -/
def execKeeperSupplyLost (s : State) : Host.Outcome State Fault Refusal :=
  s.upd (fun h =>
    if !h.flag F.pwrStat_keep_src then h
    else
      let h : Hive := { h with
        faults := [], keeper := [], usage := [], uring := [], flush := none, flushNext := none, keeperAlive := false
        alFaults := [], alBak := false, alWake := false, wakeReq := false }
      let h := ((h.wr R.fltLost 0).setFlag F.pwrClkStat_rc_on false).setFlag F.pwrClkStat_xtal_ok false
      let h := (h.set F.evrStat_state 0).setFlag F.evrStat_pending false
      (h.setFlag F.pwrBakStat_ready false).humStop)

end Sys2Proof.Machine
end

