-- ==== Sys2Proof/Machine/Reads.lean ====
section
/-! DEFINITION. What a read of a register or a window returns: the registers that show other state, the windows of R50, R226
and R375, the journal ring of R303, and the captures of R10. -/

namespace Sys2Proof.Machine

/-! ## Fault registers and records (R373, R374) -/

/-- Bits packed from a predicate over 32 slots. -/
def maskOf (n : Nat) (p : Nat → Bool) : Nat := (List.range n).foldl (fun m i => if p i then m + 2 ^ i else m) 0

/-- FLT.SUM. -/
def Hive.fltSumWord (h : Hive) : Nat :=
  h.ownMax + (if h.fltActive.isEmpty then 0 else 8) + h.shownMax * 16 + (if h.rfsafeLow then 128 else 0) +
    (if h.haltLow then 256 else 0) + h.fltValidRecs.length * 512

/-- FLT.HUM_STAT. -/
def Hive.humStatWord (h : Hive) : Nat :=
  h.hum % 256 + 256 * maskOf 8 (fun i => h.humAlive i && h.humFault i)

/-- Word `i` of a fault record (R374); FLT.REC_ACK reads 0. -/
def FaultRec.word (r : FaultRec) (i : Nat) : Nat :=
  let b := fun (x : Bool) (k : Nat) => if x then 2 ^ k else 0
  match i with
  | 0 => r.gen
  | 1 => r.cls + 2 ^ 8 * r.cause + 2 ^ 16 * r.source
  | 2 =>
    r.level + 8 * r.shown + b r.active 6 + b r.sc 7 + b r.acked 8 + b r.remote 9 + b r.ktimed 10 + 2 ^ 11 * r.origin + b r.valid 31
  | 3 => r.argFirst
  | 4 => r.argLast
  | 5 => r.count
  | 6 => r.first
  | 7 => r.first / 2 ^ 32
  | 8 => r.last
  | 9 => r.last / 2 ^ 32
  | 10 => r.epFirst + 2 ^ 16 * r.epLast
  | _ => 0

/-! ## The recorder's region (R362, R367, R376) -/

/-- Words of a list of bytes. -/
def byteWord (l : List Nat) (i : Nat) : Nat := leNat ((l.drop (4 * i)).take 4)

/-- The usage settings of a header as bytes from 0x40 to 0xAF. -/
def ctlBytes (ctl : List Nat) : List Nat :=
  ((List.range 16).flatMap (fun t => leBytes (ctl.getD t 0) 4)) ++
    ((List.range 16).flatMap (fun t => leBytes (ctl.getD (16 + t) 0) 2)) ++ (List.range 16).map (fun t => ctl.getD (32 + t) 0 % 256)

/-- Word `i` of an open interval's record: its generation word, flags bit 7 while it is open (R376). -/
def UsageSt.word (u : UsageSt) (t ep i : Nat) : Nat :=
  let f := (if u.short then 32 else 0) + (if u.wchg then 64 else 0) + (if u.opened then 128 else 0)
  match i with
  | 0 => u.gen
  | 1 => t + f + 2 ^ 16 * ep
  | 2 => u.start
  | 3 => u.start / 2 ^ 32
  | 4 => u.last
  | 5 => u.last / 2 ^ 32
  | 6 => u.bwRaw
  | 7 => u.bwRaw / 2 ^ 32
  | 8 => u.bwWt
  | 9 => u.bwWt / 2 ^ 32
  | 10 => u.eRaw
  | 11 => u.eRaw / 2 ^ 32
  | 12 => u.eWt
  | 13 => u.eWt / 2 ^ 32
  | 14 => u.ms
  | _ => u.unmet

/-- Word `i` of a usage ring entry (R376). -/
def UsageEnt.word (u : UsageEnt) (i : Nat) : Nat :=
  match i with
  | 0 => u.seq
  | 1 => u.tenant + 16 * u.flags + 2 ^ 16 * u.epoch
  | 2 => u.start
  | 3 => u.start / 2 ^ 32
  | 4 => u.last
  | 5 => u.last / 2 ^ 32
  | 6 => u.bwRaw
  | 7 => u.bwRaw / 2 ^ 32
  | 8 => u.bwWt
  | 9 => u.bwWt / 2 ^ 32
  | 10 => u.eRaw
  | 11 => u.eRaw / 2 ^ 32
  | 12 => u.eWt
  | 13 => u.eWt / 2 ^ 32
  | 14 => u.ms
  | _ => u.unmet

/-- The word at byte offset `o` of a region from 0x40 on: usage settings, records, ring, and the words of the other areas. -/
def SlotSt.areaWord (st : SlotSt) (o : Nat) : Nat :=
  if o < 0x100 then byteWord (ctlBytes st.ctl) ((o - 0x40) / 4)
  else if o < 0x4100 then (Tbl.get (fun _ => FaultRec.free) st.faults ((o - 0x100) / 64)).word (o % 64 / 4) % 2 ^ 32
  else if o < 0x5780 then (Tbl.get (fun _ => (0 : Word)) st.words o).toNat
  else if o < 0x5B80 then
    let t := (o - 0x5780) / 64
    (Tbl.get (fun _ => UsageSt.init) st.usage t).word t (st.ctl.getD (16 + t) 0) ((o - 0x5780) % 64 / 4) % 2 ^ 32
  else if o < 0x6B80 then
    match Tbl.get (fun _ => (none : Option UsageEnt)) st.ring ((o - 0x5B80) / 64) with
    | some e => e.word ((o - 0x5B80) % 64 / 4) % 2 ^ 32
    | none => 0
  else (Tbl.get (fun _ => (0 : Word)) st.words o).toNat

/-- The CRC of the header: over bytes 0x40 to 0x22FFF (R367). -/
def SlotSt.crc (st : SlotSt) : Nat :=
  crc32 ((List.range ((0x23000 - 0x40) / 4)).flatMap (fun i => leBytes (st.areaWord (0x40 + 4 * i)) 4))

/-- The first 64 bytes of the header as words (R367). What the CRC word of a slot whose CRC is not good holds is a free value. -/
def SlotSt.headWord (st : SlotSt) (fv : Nat) (i : Nat) : Nat :=
  if !st.magic then 0
  else
    match i with
    | 0 => 0x53525645
    | 1 => 1 + 2 ^ 16 * st.reason + (if st.complete then 2 ^ 24 else 0) + (if st.ktimed then 2 ^ 25 else 0)
    | 2 => st.seq
    | 3 => st.epoch
    | 4 => st.gtcTrig
    | 5 => st.gtcTrig / 2 ^ 32
    | 6 => st.gtcDone
    | 7 => st.gtcDone / 2 ^ 32
    | 8 => if st.crcGood then st.crc else fv
    | _ => 0

/-- The word at byte offset `o` of a slot; 0 beyond 143,360 bytes (R375). -/
def SlotSt.word (st : SlotSt) (fv o : Nat) : Nat :=
  if o < 0x40 then st.headWord fv (o / 4) % 2 ^ 32 else if o < 143360 then st.areaWord o else 0

/-- The live region: the last flush's header fields with the settings in force, the fault table, and the other areas, which
stand as they were copied while they are frozen (R366, R367). -/
def Hive.liveRegion (h : Hive) : SlotSt :=
  let at_ := fun (k : Nat) => Tbl.get (fun _ => SlotSt.empty) h.slots k
  let last := at_ (h.get F.evrStat_last)
  let froz : SlotSt :=
    match h.flush with
    | some (k, _) => at_ k
    | none => last
  let head := if last.complete then last else SlotSt.empty
  if h.areasFrozen then
    { head with words := froz.words, faults := h.faults, usage := froz.usage, ring := froz.ring, ctl := h.usageCtl }
  else { head with words := h.keeper, faults := h.faults, usage := h.usage, ring := h.uring, ctl := h.usageCtl }

/-- The word the window shows at byte `o` of its page (R375). -/
def Hive.evrWindow (h : Hive) (o : Nat) : Nat :=
  let src := h.get F.evrWinSel_src
  let a := h.get F.evrWinSel_page * 65536 + o
  let fv := (Config.freeWord h.free).toNat
  if src = 0 then (h.liveRegion.word fv a) else (Tbl.get (fun _ => SlotSt.empty) h.slots (src - 1)).word fv a

/-! ## The journal (R301, R303, R308) -/

/-- Word `i` of the ring's place `k`. -/
def Hive.jrnWord (h : Hive) (k i : Nat) : Nat :=
  match Tbl.get (fun _ => (none : Option JRing)) h.jring k with
  | some e => byteWord (jBytes e.seq e.e ++ leBytes e.link 24) i
  | none => 0

/-! ## Registers by block -/

/-- A register of the hive, LANE or RTE blocks. -/
def Hive.readRte (h : Hive) (a : Nat) : Word :=
  if 0x224000 ≤ a ∧ a < 0x225000 then h.snapWord a else h.rd a

/-- A register of a slice; those of an unused half read as their reset values (R115). -/
def Hive.readStr (h : Hive) (a : Nat) : Word :=
  let s := (a - 0x300000) / 0x400
  let o := (a - 0x300000) % 0x400
  if 0x100 ≤ o ∧ o < 0x300 ∧ (h.halfStream s ((o - 0x100) / 0x100)).isNone then Regs.resetOf a else h.rd a

/-- True when the word at offset `o` of a comb's memory lies within some kernel's result region (R226). -/
def Hive.inResult (h : Hive) (c o : Nat) : Bool :=
  (List.range 8).any (fun k =>
    let b := h.get (F.wrkDesc6_res_base c k)
    h.flag (F.wrkDesc7_valid c k) && decide (b ≤ o) && decide (o + 4 ≤ b + 64 * h.get (F.wrkDesc6_res_len c k)))

/-- Four bytes of a byte memory as a word. -/
def cellWord (d : Nat → Byte) (m : List Host.Cell) (k : Nat) : Word :=
  BitVec.ofNat 32 (leNat ((Tbl.getList d m k 4).map (fun b => b.toNat)))

/-- A word of a comb's result window: comb memory where the page lies within a result region, zero elsewhere (R226). -/
def Hive.readComb (h : Hive) (m : Mem) (a : Nat) : Word :=
  let c := (a - 0x600000) / 0x4000
  let o := h.get (F.wrkCmWin_page c) * 4096 + ((a - 0x600000) % 0x4000 - 0x1000)
  if h.inResult c o then cellWord Mem.ramByte m.comb (c * 524288 + o) else 0

/-- A register of the TIM block (R255, R256). -/
def Hive.readTim (h : Hive) (a : Nat) : Word :=
  if a = R.timGtcLo then BitVec.ofNat 32 h.gtc
  else if a = R.timGtcHi then BitVec.ofNat 32 (h.gtc / 2 ^ 32)
  else if a = R.timStat then
    if h.get F.timStat_state = 3 then
      BitVec.ofNat 32 (insField F.timStat_holdover_s (h.rd a).toNat (min 65535 ((h.ticks - h.holdAt) / Config.secTicks)))
    else h.rd a
  else if a = R.timSched then BitVec.ofNat 32 (insField F.timSched_pending (h.rd a).toNat h.sched.length)
  else if a = R.timSnapRd then
    Tbl.get (fun _ => (0x8000 : Word)) h.snap
      (h.get F.timSnapSel_kind * 65536 + h.get F.timSnapSel_unit * 16 + h.get F.timSnapSel_item)
  else h.rd a

/-- A register of the FLT, EVR or USE blocks (R373 to R376). -/
def Hive.readFlt (h : Hive) (a : Nat) : Word :=
  BitVec.ofNat 32
    (if a = R.fltSum then h.fltSumWord
    else if a = R.fltHumStat then h.humStatWord
    else if 0x7C0010 ≤ a ∧ a < 0x7C0030 then maskOf 32 (fun n => (h.flt (8 * (a - 0x7C0010) + n)).valid)
    else if 0x7C0030 ≤ a ∧ a < 0x7C0050 then
      maskOf 32 (fun n => let r := h.flt (8 * (a - 0x7C0030) + n); r.valid && !r.acked)
    else if 0x7C1000 ≤ a ∧ a < 0x7C5000 then (h.flt ((a - 0x7C1000) / 64)).word (a % 64 / 4)
    else if 0x7F0000 ≤ a ∧ a < 0x800000 then h.evrWindow (a - 0x7F0000)
    else (h.rd a).toNat)

/-- A register of the QUE or IMG blocks. -/
def Hive.readQue (h : Hive) (a : Nat) : Word :=
  if a = R.queJrnSeqLo then BitVec.ofNat 32 h.jseq
  else if a = R.queJrnSeqHi then BitVec.ofNat 32 (h.jseq / 2 ^ 32)
  else if a = R.queJrnOldLo then BitVec.ofNat 32 h.jold
  else if a = R.queJrnOldHi then BitVec.ofNat 32 (h.jold / 2 ^ 32)
  else if 0x800710 ≤ a ∧ a < 0x800740 then BitVec.ofNat 32 (h.jhead / 2 ^ (8 * (a - 0x800710)))
  else if a = R.queJrnStat then BitVec.ofNat 32 (insField F.queJrnStat_queued (h.rd a).toNat h.jq.length)
  else if 0x810000 ≤ a ∧ a < 0x811000 then
    let o := a % 0x100
    if o < 0xB0 then BitVec.ofNat 32 (h.envNat ((a - 0x810000) / 0x100) o 4) else 0
  else if 0x820000 ≤ a ∧ a < 0x840000 then BitVec.ofNat 32 (h.jrnWord ((a - 0x820000) / 64) (a % 64 / 4))
  else h.rd a

/-- A word of BAR2 (R381, R396). -/
def Hive.readBar2 (h : Hive) (a : Nat) : Word :=
  if a = R.cmdSqHead then BitVec.ofNat 32 (insField F.cmdSqHead_outstanding (h.rd a).toNat h.outstandingEntries.length)
  else if a = R.cmdMaintQ then BitVec.ofNat 32 (h.maintWaiting + 256 * h.maintRunning)
  else h.rd a

/-- Streams with any smoker cause active (R206). -/
def Hive.mutingCount (h : Hive) : Nat :=
  ((List.range 2048).filter (fun n => h.get (F.smkCause_active n) != 0)).length

/-- What a read of the word at `a` returns (R6 to R8): unimplemented BAR0 addresses and BAR2 addresses outside the layout
read as 0. -/
def Hive.readReg (h : Hive) (m : Mem) (a : Nat) : Word :=
  if a ≥ 0x10000000 then h.readBar2 a
  else if a ≥ 0x1000000 then
    if a < 0x3000000 ∧ h.flag F.storeWin_rd_en then cellWord Mem.ramByte m.store a else 0
  else if a < 0x300000 then h.readRte a
  else if a < 0x400000 then h.readStr a
  else if a < 0x600000 then
    if a = R.smkPin then BitVec.ofNat 32 (insField F.smkPin_muting (h.rd a).toNat h.mutingCount) else h.rd a
  else if a < 0x700000 then
    let o := (a - 0x600000) % 0x4000
    if 0x1000 ≤ o ∧ o < 0x2000 then h.readComb m a
    else if 0x2000 ≤ o ∧ o % 0x400 = 0x20 then BitVec.ofNat 32 (h.wrkStatWord a)
    else h.rd a
  else if a < 0x780000 then h.readTim a
  else if a < 0x7C0000 then h.rd a
  else if a < 0x800000 then h.readFlt a
  else if a < 0x900000 then h.readQue a
  else h.rd a

/-! ## 64-bit pairs (R10) -/

/-- True when the word at `a` is the low word of a 64-bit pair. -/
def pairLow (a : Nat) : Bool :=
  a == 0x14 || (decide (0x224000 ≤ a) && decide (a < 0x225000) && a % 16 == 4) ||
    (decide (0x300000 ≤ a) && decide (a < 0x400000) &&
      [0x10C, 0x20C, 0x11C, 0x21C].contains ((a - 0x300000) % 0x400)) ||
    (decide (0x4C0000 ≤ a) && decide (a < 0x4C4000) && a % 0x40 == 0x38) ||
    [0x700000, 0x700014, 0x700020, 0x700028, 0x700044, 0x800700, 0x800708].contains a ||
    (decide (0x840100 ≤ a) && decide (a < 0x840140) && a % 16 == 4)

/-- The key of a requester's capture of the pair whose low word is at `a`. -/
def capKey (r : Req) (a : Nat) : Nat := reqKey r * 2 ^ 32 + a

/-- The block with a capture replaced. -/
def Hive.capPut (h : Hive) (k : Nat) (v : Option Word) : Hive := { h with caps := Tbl.put (fun _ => none) h.caps k v }

/-- A read of one word by a requester: a low word captures the high word; a high word is the captured one if it is the first
such read since, and live otherwise. -/
def Hive.readBy (h : Hive) (m : Mem) (r : Req) (a : Nat) : Word × Hive :=
  if pairLow a then (h.readReg m a, h.capPut (capKey r a) (some (h.readReg m (a + 4))))
  else if 4 ≤ a ∧ pairLow (a - 4) then
    match Tbl.get (fun _ => (none : Option Word)) h.caps (capKey r (a - 4)) with
    | some v => (v, h.capPut (capKey r (a - 4)) none)
    | none => (h.readReg m a, h)
  else (h.readReg m a, h)

/-- One part of a read: the addressed bytes of the word at offset `o` join the bytes returned to the requester (R6). -/
def Hive.readPart (m : Mem) (r : HostRead) (h : Hive) (o : Nat) : Hive :=
  let (v, h) := h.readBy m r.req ((if r.bar2 then 0x10000000 else 0) + o)
  { h with resp := h.resp ++ ((List.range 4).filter (fun i => hrAddressed r (o + i))).map (fun i => bitsOf v.toNat (8 * i) 8) }

/-- A read: one access to each word that it addresses bytes of, in ascending order (R6). -/
def Hive.readOut (h : Hive) (m : Mem) (r : HostRead) : Hive := (hrWords r).foldl (Hive.readPart m r) { h with resp := [] }

/-- LOW_WORD_READ: a read of bytes of a low word captures the high word for the requester. -/
def execLowWordRead (r : HostRead) (s : State) : Host.Outcome State Fault Refusal := s.upd (fun h => h.readOut s.mem r)

/-- HIGH_WORD_READ: a read of bytes of a high word. -/
def execHighWordRead (r : HostRead) (s : State) : Host.Outcome State Fault Refusal := s.upd (fun h => h.readOut s.mem r)

end Sys2Proof.Machine
end

