-- ==== Sys2Proof/Machine/Recorder.lean ====
section
/-! DEFINITION. Acknowledgement of fault records, the lost aggregate, flushes of the event recorder and HUM edges (R356,
R357, R360, R366). -/

namespace Sys2Proof.Machine

/-- The record slot that an FLT.REC_ACK address belongs to. -/
def ackSlot (a : Nat) : Nat := (a - 0x7C1000) / 0x40

/-- The checks of an acknowledgement (R356). -/
def Hive.ackChk (i : Nat) (h : Hive) (v : Nat) : Nat :=
  let r := h.flt i
  if !r.valid then stBadArg
  else if r.level = 5 ∧ h.mode = .halt then stWrong
  else if r.count ≠ v then stWrong else stOk

/-- The record is acknowledged: a fault that does not clear itself clears; acknowledged and inactive, it is freed. -/
def Hive.ackApp (i : Nat) (h : Hive) (_ : Nat) : Hive :=
  let r := h.flt i
  let h := h.fltMark i r (some (0x7C102C + 0x40 * i))
  let r := { r with acked := true, active := r.active && r.selfc }
  (if r.active then h.setFlt i r else h.fltFree i).settle

/-- A write to FLT.REC_ACK. -/
def Hive.wFaultAck (h : Hive) (w : RegWrite) : Hive :=
  h.hostWrite w (Hive.ackChk (ackSlot (wKey w))) (Hive.ackApp (ackSlot (wKey w)))

/-- FAULT_ACK. -/
def execFaultAck (w : RegWrite) (s : State) : Host.Outcome State Fault Refusal := s.upd (fun h => h.wFaultAck w)

/-- A write to FLT.LOST: writing 1 to valid clears bits [30:16] with it (R357, R373). -/
def Hive.wLost (h : Hive) (w : RegWrite) : Hive :=
  h.hostWrite w (fun _ _ => stOk) (fun h v =>
    if h.w1cTakes F.fltLost_valid v then (h.wr R.fltLost (BitVec.ofNat 32 (h.get F.fltLost_count))).settle else h)

/-- LOST_AGGREGATE_CLEAR. -/
def execLostAggregateClear (w : RegWrite) (s : State) : Host.Outcome State Fault Refusal := s.upd (fun h => h.wLost w)

/-- A write to EVR.CMD: a flush, unless the areas are frozen by a power fail (R366, R368). -/
def Hive.wEvrCmd (h : Hive) (w : RegWrite) : Hive :=
  h.hostWrite w (fun h _ => if h.pfFrozen then stWrong else stOk) (fun h v => if bitOf v 0 then h.flushStart 4 else h)

/-- EVR_FLUSH_COMMAND. -/
def execEvrFlushCommand (w : RegWrite) (s : State) : Host.Outcome State Fault Refusal := s.upd (fun h => h.wEvrCmd w)

/-- A flush ends: the fault table as it stands and the header are written, the slot is complete, and a waiting flush
follows at once (R366 to R368). -/
def Hive.flushDone (h : Hive) : Hive :=
  match h.flush with
  | none => h
  | some (slot, _) =>
    let st := Tbl.get (fun _ => SlotSt.empty) h.slots slot
    let st := { st with complete := true, crcGood := true, gtcDone := h.stamp, faults := h.faults }
    let h : Hive := { h with flush := none, slots := Tbl.put (fun _ => SlotSt.empty) h.slots slot st }
    let h := (h.set F.evrStat_last slot).bump F.evrStat_flushes 1
    let h := h.set F.evrStat_state (if h.pfFrozen then 2 else 0)
    match h.flushNext with
    | some why => (({ h with flushNext := none } : Hive).setFlag F.evrStat_pending false).flushInto ((slot + 1) % 4) why
    | none => h

/-- The ticks of a flush: 143,360 bytes at 4 MB/s (R366). -/
def flushTicks : Nat := (143360 * Config.secTicks + 3999999) / 4000000

/-- FLUSH_COMPLETE. -/
def execFlushComplete (s : State) : Host.Outcome State Fault Refusal :=
  s.upd (fun h => if h.ticks < h.flushAt + flushTicks then h else h.flushDone)

/-- HUM_EDGE: at GTC mod 491,520 = 0 every pin whose conditions hold toggles, and the others are low (R360). -/
def Hive.humEdge (h : Hive) : Hive :=
  if h.gtc % 491520 = 0 then { h with hum := (List.range 8).foldl (fun m i => setBit m i (h.humOk i)) 0 } else h

/-- HUM_EDGE. -/
def execHumEdge (s : State) : Host.Outcome State Fault Refusal := s.upd (fun h => h.humEdge)

/-- The level of a HUM pin: high while GTC div 491,520 is even and the pin toggles (R360). -/
def Hive.humLevel (h : Hive) (i : Nat) : Bool := bitOf h.hum i && decide (h.gtc / 491520 % 2 = 0)

/-- KEEPER_HEARTBEAT_LOSS: the HUM6 domain is no longer alive (R360). -/
def execKeeperHeartbeatLoss (s : State) : Host.Outcome State Fault Refusal :=
  s.upd (fun h => ({ h with keeperAlive := false } : Hive).humStop)

/-- RECORDER_WINDOW_WRITE: refused with NOT_AUTH (R375). -/
def execRecorderWindowWrite (w : RegWrite) (s : State) : Host.Outcome State Fault Refusal :=
  s.upd (fun h => h.wRefused w stNotAuth)

end Sys2Proof.Machine
end

