-- ==== Sys2Proof/Machine/Writes.lean ====
section
/-! DEFINITION. A host write to any address: windows, BAR2 memory, the registers with checks or effects of their own, and
all others by their access types (R6 to R11, R297). -/

namespace Sys2Proof.Machine

/-! ## Registers' own checks and effects -/

/-- The range check of an RWC register, in Q8.8. -/
def rwcRange (lo hi : Int) (_ : Hive) (v : Nat) : Nat := if lo ≤ sext 16 v ∧ sext 16 v ≤ hi then stOk else stBadArg

/-- The plain effect on an RWC register: a good write ends a mismatch at its address (R299). -/
def Hive.rwcApp (a : Nat) (h : Hive) (v : Nat) : Hive := (h.applyTypes a v).mismClear a

/-- No check of its own. -/
def noChk (_ : Hive) (_ : Nat) : Nat := stOk

/-- HIVE.WR_REFUSE: writing 1 to valid clears the record, unless the refusal came in the same cycle (R7, R11). -/
def Hive.wrRefuseApp (h : Hive) (v : Nat) : Hive := if h.w1cTakes F.wrRefuse_valid v then h.wr R.wrRefuse 0 else h

/-- EVR.WIN_SEL: src 0-4, page 0-2 (R375). -/
def winSelChk (_ : Hive) (v : Nat) : Nat := if bitsOf v 0 3 ≤ 4 ∧ bitsOf v 3 2 ≤ 2 then stOk else stBadArg

/-- SMB.ADDR_CFG: hive_hi 0x0, 0x1, 0xB and 0xF are refused (R405). -/
def addrCfgChk (_ : Hive) (v : Nat) : Nat := if [0x0, 0x1, 0xB, 0xF].contains (bitsOf v 3 4) then stBadArg else stOk

/-- SMB.ALERT_CFG: lvl 0-5 (R405). -/
def alertCfgChk (_ : Hive) (v : Nat) : Nat := if bitsOf v 0 3 ≤ 5 then stOk else stBadArg

/-- FBC.DET: the taps the workers keep follow at once (R158, R160). -/
def Hive.fbcDetApp (a : Nat) (h : Hive) (v : Nat) : Hive := (h.applyTypes a v).fbQAll

/-- Protection registers: OSC_LIM, MARGIN_LIM and RISE_LIM of a stream, then BACKOFF and DONOR (R139). -/
def npmLimChk (o : Nat) : Hive → Nat → Nat :=
  match o with
  | 0x04 => npmRwcChk 1536 10240
  | 0x08 => npmRwcChk 0 5120
  | _ => npmRwcChk 128 5120

/-- The check and the effect of a register of the LANE, RTE, STR, SIV or MTR and NPM blocks. -/
def ruleLow (a : Nat) : (Hive → Nat → Nat) × (Hive → Nat → Hive) :=
  let o := a % 0x1000
  if a = R.wrRefuse then (noChk, Hive.wrRefuseApp)
  else if a < 0x100000 then (noChk, Hive.applyTypes a)
  else if a < 0x200000 then
    if o = 0x1C ∨ o = 0x20 ∨ o = 0x28 then (Hive.laneCtlChk a, Hive.applyTypes a) else (noChk, Hive.applyTypes a)
  else if a < 0x300000 then (noChk, Hive.applyTypes a)
  else if a < 0x400000 then
    let u := (a - 0x300000) % 0x400
    if u = 0x100 ∨ u = 0x200 then (noChk, Hive.dcCtlApp a) else (noChk, Hive.applyTypes a)
  else if 0x480000 ≤ a ∧ a < 0x490000 ∧ a % 0x20 = 0 then (mtrCtlChk, Hive.mtrCtlApp a)
  else if 0x490000 ≤ a ∧ a < 0x4A0000 then
    if a % 0x20 = 0x04 ∨ a % 0x20 = 0x08 ∨ a % 0x20 = 0x0C then (npmLimChk (a % 0x20), Hive.rwcApp a)
    else (noChk, Hive.applyTypes a)
  else if a = R.npmBackoff then (npmRwcChk 256 5120, Hive.rwcApp a)
  else if a = R.npmDonor then (npmRwcChk (-28160) (-5120), Hive.rwcApp a)
  else (noChk, Hive.applyTypes a)

/-- The check and the effect of a register of the FBC and UGT blocks. -/
def ruleFbc (a : Nat) : (Hive → Nat → Nat) × (Hive → Nat → Hive) :=
  if a < 0x4D0000 then
    match a % 0x40 with
    | 0x08 => (fbcAdaptChk, Hive.applyTypes a)
    | 0x0C => (fbcProbeChk, Hive.applyTypes a)
    | 0x10 => (fbcDetChk, Hive.fbcDetApp a)
    | 0x14 => (rwcRange 256 5120, Hive.rwcApp a)
    | 0x18 => (rwcRange (-15360) 25600, Hive.rwcApp a)
    | _ => (noChk, Hive.applyTypes a)
  else
    match a % 0x200 with
    | 0x04 => (ugtThrChk, Hive.rwcApp a)
    | 0x0C => (ugtLearnChk, Hive.applyTypes a)
    | _ => (noChk, Hive.applyTypes a)

/-- The check and the effect of a register of the GCE block. -/
def ruleGce (a : Nat) : (Hive → Nat → Nat) × (Hive → Nat → Hive) :=
  if a < 0x510000 then
    match a % 0x20 with
    | 0x08 => (Hive.loopCtlChk a, Hive.loopCtlApp a)
    | 0x0C => (Hive.kpChk a, Hive.gceApp a)
    | 0x10 => (Hive.kpChk a, Hive.gceApp a)
    | 0x14 => (Hive.setpChk a, Hive.gceApp a)
    | _ => (noChk, Hive.applyTypes a)
  else if a < 0x520000 then
    match a % 0x20 with
    | 0x04 => (slewChk, Hive.gceApp a)
    | 0x08 => (slewChk, Hive.gceApp a)
    | 0x0C => (Hive.limChk a, Hive.gceApp a)
    | 0x10 => (Hive.limChk a, Hive.gceApp a)
    | _ => (noChk, Hive.applyTypes a)
  else
    match a % 0x10 with
    | 0x04 => (Hive.setpRangeChk a, Hive.rwcApp a)
    | 0x08 => (Hive.setpRangeChk a, Hive.rwcApp a)
    | _ => (noChk, Hive.applyTypes a)

/-- The check and the effect of a register of the SMK and WRK blocks. -/
def ruleSmk (a : Nat) : (Hive → Nat → Nat) × (Hive → Nat → Hive) :=
  if a = R.smkPfRamp then (pfRampChk, Hive.applyTypes a)
  else if a < 0x588000 then
    if a % 0x10 = 0 then (smkCfgChk, Hive.applyTypes a)
    else if a % 0x10 = 4 then (Hive.deadlineChk a, Hive.deadlineApp a)
    else (noChk, Hive.applyTypes a)
  else if a < 0x600000 then (noChk, Hive.applyTypes a)
  else
    let o := (a - 0x600000) % 0x4000
    if o = 0x04 then (Hive.sleepCtlChk a, Hive.sleepCtlApp a)
    else if o = 0x08 then (Hive.watchChk a, Hive.applyTypes a)
    else if 0x2000 ≤ o ∧ o % 0x400 = 0x24 then (Hive.wrkCtlChk a, Hive.wrkCtlApp a)
    else (noChk, Hive.applyTypes a)

/-- The check and the effect of a register of the HSK, FAN and PWR blocks. -/
def ruleHsk (a : Nat) : (Hive → Nat → Nat) × (Hive → Nat → Hive) :=
  if 0x780210 ≤ a ∧ a < 0x78021C then (Hive.thrChk a, Hive.thrApp a)
  else if a = R.hskHyst then (hystChk, Hive.applyTypes a)
  else if a = R.hskThrCtl then (thrCtlChk, Hive.applyTypes a)
  else if a = R.fanCurve then (curveChk, Hive.applyTypes a)
  else if 0x788000 ≤ a ∧ a < 0x788080 ∧ a % 0x20 = 0 then (fanCtlChk, Hive.fanCtlApp a)
  else if a = R.pwrBakCfg then (bakCfgChk, Hive.applyTypes a)
  else if a = R.pwrRefCtl then (Hive.refCtlChk, Hive.refCtlApp)
  else (noChk, Hive.applyTypes a)

/-- The check and the effect of a register of the EVR, IMG and SMB blocks. -/
def ruleHigh (a : Nat) : (Hive → Nat → Nat) × (Hive → Nat → Hive) :=
  if a = R.evrWinSel then (winSelChk, Hive.applyTypes a)
  else if 0x840100 ≤ a ∧ a < 0x840140 ∧ a % 0x10 = 0 then (noChk, Hive.patchFreeApp a)
  else if a = R.smbAddrCfg then (addrCfgChk, Hive.applyTypes a)
  else if a = R.smbAlertCfg then (alertCfgChk, Hive.applyTypes a)
  else (noChk, Hive.applyTypes a)

/-- The check and the effect of the register at `a`. -/
def ruleOf (a : Nat) : (Hive → Nat → Nat) × (Hive → Nat → Hive) :=
  if a < 0x4C0000 then ruleLow a
  else if a < 0x500000 then ruleFbc a
  else if a < 0x580000 then ruleGce a
  else if a < 0x700000 then ruleSmk a
  else if a < 0x780000 then (noChk, Hive.applyTypes a)
  else if a < 0x7C0000 then ruleHsk a
  else ruleHigh a

/-! ## Writes to any address -/

/-- The windows whose writes are refused with NOT_AUTH: the stores (R50), a comb's result window (R226), the journal ring
(R308) and the recorder window (R375). -/
def roWindow (a : Nat) : Bool :=
  (decide (0x1000000 ≤ a) && decide (a < 0x3000000)) ||
    (decide (0x600000 ≤ a) && decide (a < 0x700000) && decide (0x1000 ≤ (a - 0x600000) % 0x4000) &&
      decide ((a - 0x600000) % 0x4000 < 0x2000)) ||
    (decide (0x820000 ≤ a) && decide (a < 0x840000)) || (decide (0x7F0000 ≤ a) && decide (a < 0x800000))

/-- A write to BAR2: its memory, its registers, and nothing elsewhere (R381, R396). -/
def Hive.writeBar2 (h : Hive) (w : RegWrite) : Hive :=
  let a := wKey w
  if bar2Mem w.off then (h.memWrite w).msixDrain
  else if a = R.cmdSqTail then h.wSqTail w
  else if a = R.cmdCqHead then h.wCqHead w
  else if a = R.cmdIrqMask then h.wIrqMask w
  else if (Regs.find a).isNone then h
  else h.hostWrite w noChk (Hive.applyTypes a)

/-- A write to a BAR0 register whose effect reaches beyond its own word. -/
def Hive.writeSpecial (h : Hive) (w : RegWrite) : Option Hive :=
  let a := wKey w
  if a = R.eccLastWhere then some (h.wEccLast w)
  else if a = R.swLast then some (h.wSwLast w)
  else if a = R.storeWin then some (h.wStoreWin w)
  else if 0x300000 ≤ a ∧ a < 0x400000 ∧ ((a - 0x300000) % 0x400 = 0x114 ∨ (a - 0x300000) % 0x400 = 0x214) then some (h.wRsPhase w)
  else if 0x300000 ≤ a ∧ a < 0x400000 ∧ ((a - 0x300000) % 0x400 = 0x12C ∨ (a - 0x300000) % 0x400 = 0x22C) then some (h.wMaLen w)
  else if a = R.timCmd then some (h.wTimCmd w)
  else if a = R.timTodOfsHi then some (h.wTodHi w)
  else if a = R.timWagArrive then some (h.wWagArrive w)
  else if a = R.fltLost then some (h.wLost w)
  else if 0x7C1000 ≤ a ∧ a < 0x7C5000 ∧ a % 0x40 = 0x2C then some (h.wFaultAck w)
  else if a = R.evrCmd then some (h.wEvrCmd w)
  else if 0x7E8000 ≤ a ∧ a < 0x7E8040 then some (h.wUsageCtl w)
  else if a = R.queCmd then some (h.wQueCmdAny w)
  else none

/-- Any host write. -/
def Hive.writeAny (h : Hive) (w : RegWrite) : Hive :=
  let a := wKey w
  if w.bar2 then h.writeBar2 w
  else if roWindow a then h.wRefused w stNotAuth
  else (h.writeSpecial w).getD (h.hostWrite w (ruleOf a).1 (ruleOf a).2)

/-- The part of a write that falls in the word at offset `o` (R6). BAR2 memory, which is no register, takes each byte. -/
def Hive.writePart (w : HostWrite) (h : Hive) (o : Nat) : Hive :=
  if w.bar2 && bar2Mem o then (hwBytes w o).foldl (fun h p => h.writeAny p) h
  else match hwPart w o with
    | some p => h.writeAny p
    | none => h

/-- A write by any bytes: one access to each word it touches, in ascending order, each under the rules on its own (R6). -/
def Hive.writeBytes (h : Hive) (w : HostWrite) : Hive := (spanWords w.off w.bytes.length).foldl (Hive.writePart w) h

/-- REGISTER_WRITE: a write to registers that have no row of their own; where one has, its own rule applies. -/
def execRegisterWrite (w : HostWrite) (s : State) : Host.Outcome State Fault Refusal := s.upd (fun h => h.writeBytes w)

/-- WR_REFUSE_CLEAR: writing 1 to HIVE.WR_REFUSE.valid (R11). -/
def execWrRefuseClear (w : RegWrite) (s : State) : Host.Outcome State Fault Refusal :=
  s.upd (fun h => h.hostWrite w noChk Hive.wrRefuseApp)

end Sys2Proof.Machine
end

