-- ==== Sys2Proof/Machine/Smbus.lean ====
section
/-! DEFINITION. The SMBus target: keeper-class and hive-class commands, mailboxes, alerts and line faults (R397 to R405). -/

namespace Sys2Proof.Machine

/-! ## The interface -/

/-- The STOP that ends a transaction: a fault of an SCL timeout clears itself (R404). -/
def Hive.smbStop (h : Hive) : Hive := h.condEnd 0x12 0x01 0x7

/-- A keeper-class address match: the keeper is on rung 1 at least, with its RC running (R323, R329, R399). -/
def Hive.keeperUp (h : Hive) : Hive :=
  let h : Hive := { h with sys.smbAt := h.ticks }
  if h.sys.rung0 then ({ h with sys.rung0 := false } : Hive).setFlag F.pwrClkStat_rc_on true else h

/-- The wake request is set, which alerts (R400, R403). -/
def Hive.wakeSet (h : Hive) : Hive :=
  let h := h.keeperUp
  if h.wakeReq then h else { h with wakeReq := true, alWake := true }

/-- A keeper-class command with its status and the bytes it returns (R399). -/
def Hive.kDone (h : Hive) (st : Nat) (out : List Nat) : Hive :=
  ({ h with resp := out, sys.kStatus := st } : Hive).smbStop

/-- A transaction that carries a wrong PEC is ignored: SMBUS cause 0x04 at L1 (R397, R404). -/
def Hive.pecBad (h : Hive) : Hive := (h.raise 0x12 0x04 0x7 1 0).smbStop

/-! ## Keeper class (R399) -/

/-- A transaction at the keeper-class address: while the keeper restarts it is not acknowledged (R393); one that carries a wrong PEC
is ignored (R397). -/
def Hive.keeperClass (h : Hive) (pecOk : Bool) (act : Hive → Hive) : Hive :=
  if h.fwTarget = some 0 then { h with resp := [] }
  else if pecOk then act h.keeperUp else h.keeperUp.pecBad

/-- Code of the hive state. -/
def Mode.code : Mode → Nat
  | .cold => 0
  | .boot => 1
  | .verify => 2
  | .run => 3
  | .degraded => 4
  | .safe => 5
  | .halt => 6

/-- The rung (R328): 0 and 1 in COLD, 2 in BOOT and VERIFY; with an image, 3 while every comb is retained and no stream is LIVE.
Which of 4 and 5 any other condition is, the spec does not say: a free value. -/
def Hive.rung (h : Hive) : Nat × Hive :=
  match h.mode with
  | .cold => (if h.sys.rung0 then 0 else 1, h)
  | .boot | .verify => (2, h)
  | _ =>
    if h.rd R.combAwakeLo == 0 && h.rd R.combAwakeHi == 0 && !h.image.any (fun n => h.st n == stLive) then (3, h)
    else
      let (w, h) := h.draw
      (4 + w % 2, h)

/-- HEALTH. -/
def execHealth (s : State) : Host.Outcome State Fault Refusal :=
  s.upd (fun h => h.keeperClass true (fun h =>
    let (r, h) := h.rung
    let f := maskOf 7 (fun i =>
      match i with
      | 0 => h.flag F.pwrStat_main_good
      | 1 => h.flag F.pwrStat_keep_src
      | 2 => h.flag F.pwrBakStat_ready
      | 3 => h.wakeReq
      | 4 => h.rfsafeLow
      | 5 => h.haltLow
      | _ => h.sys.quoteOk)
    h.kDone stOk ([h.mode.code, r, h.ownMax, h.shownMax, f, 0] ++ leBytes h.fltValidRecs.length 2)))

/-- FAULT_SUMMARY. -/
def execFaultSummary (s : State) : Host.Outcome State Fault Refusal :=
  s.upd (fun h => h.keeperClass true (fun h =>
    h.kDone stOk (leBytes h.fltSumWord 4 ++ leBytes (h.rd R.fltLost).toNat 4)))

/-- POWER. -/
def execPower (s : State) : Host.Outcome State Fault Refusal :=
  s.upd (fun h => h.keeperClass true (fun h =>
    h.kDone stOk ([R.pwrStat, R.pwrBakStat, R.pwrBakCap].flatMap (fun a => leBytes (h.rd a).toNat 4))))

/-- The status of a quote request: BUSY or a queen that does not run gives WRONG_STATE, and so the lifecycle (R305, R399). -/
def Hive.quoteChk (h : Hive) : Nat := h.queChk false 3

/-- QUOTE_NONCE: 32 bytes into QUE.NONCE and a quote request, journaled with iface 0x2. -/
def execQuoteNonce (bytes : List Byte) (pecOk : Bool) (s : State) : Host.Outcome State Fault Refusal :=
  s.upd (fun h => h.keeperClass pecOk (fun h =>
    let b := bytes.map (fun x => x.toNat)
    let st := if bytes.length = 32 then h.quoteChk else stBadArg
    let jr := fun (h : Hive) => h.journal 0x2 2 2 st (decide (st = 0)) 0x04 0 0 0
    if st ≠ 0 then (jr h).kDone st []
    else
      let h := (List.range 8).foldl (fun h i => h.wr (R.queNonce i) (BitVec.ofNat 32 (byteWord b i))) h
      ((jr h.quoteTake).queShow 3 stOk).kDone stOk []))

/-- QUOTE_PTR: 0-367. -/
def execQuotePtr (off : Fin 65536) (pecOk : Bool) (s : State) : Host.Outcome State Fault Refusal :=
  s.upd (fun h => h.keeperClass pecOk (fun h =>
    if off.val ≤ 367 then ({ h with sys.quotePtr := off.val } : Hive).kDone stOk [] else h.kDone stBadArg []))

/-- A byte of the quote; beyond 367 it reads 0. -/
def Hive.quoteByte (h : Hive) (o : Nat) : Nat :=
  if o ≤ 367 then bitsOf (h.rd (R.queQuote (o / 4))).toNat (8 * (o % 4)) 8 else 0

/-- QUOTE_DATA: 32 bytes from the pointer, which advances by 32. -/
def execQuoteData (s : State) : Host.Outcome State Fault Refusal :=
  s.upd (fun h => h.keeperClass true (fun h =>
    let p := h.sys.quotePtr
    ({ h with sys.quotePtr := p + 32 } : Hive).kDone stOk ((List.range 32).map (fun i => h.quoteByte (p + i)))))

/-- WAKE: 1 sets and 0 withdraws the wake request. -/
def execWake (v : Byte) (pecOk : Bool) (s : State) : Host.Outcome State Fault Refusal :=
  s.upd (fun h => h.keeperClass pecOk (fun h =>
    if v = 1 then h.wakeSet.kDone stOk []
    else if v = 0 then ({ h with wakeReq := false, alWake := false } : Hive).kDone stOk []
    else h.kDone stBadArg []))

/-- STATUS of the keeper class: the status of the last keeper-class command, which this read does not change. -/
def execKeeperStatus (s : State) : Host.Outcome State Fault Refusal :=
  s.upd (fun h => h.keeperClass true (fun h => h.kDone h.sys.kStatus [h.sys.kStatus]))

/-! ## Hive class (R400 to R402) -/

/-- The hive-class address is not acknowledged: SMBUS cause 0x03 at L0, counted; with the main rails absent the wake request
is set (R400). -/
def Hive.hiveNack (h : Hive) : Hive :=
  let h := (h.bump F.smbStat_nacks 1).raise 0x12 0x03 0x7 0 0
  (if h.sys.railsGood = 0 then h.wakeSet else h).smbStop

/-- HIVE_CLASS_NACK. -/
def execHiveClassNack (s : State) : Host.Outcome State Fault Refusal :=
  s.upd (fun h => if h.mode = .cold then h.hiveNack else h)

/-- True when context `j` is an address of the hive-class block: its bits lie within SMB.ADDR_CFG.mask (R398). -/
def Hive.ctxOn (h : Hive) (j : CtxId) : Bool := Nat.land j.val (h.get F.smbAddrCfg_mask) == j.val

/-- A hive-class transaction of context `j`: served from BOOT to HALT, else not acknowledged (R400). -/
def Hive.hiveClass (h : Hive) (j : CtxId) (act : Hive → Hive) : Hive :=
  if !h.ctxOn j then h else if h.mode = .cold then h.hiveNack else (act h).smbStop

/-- A context's window pointer and the status of its last window access or submission. -/
def Hive.winPtr (h : Hive) (j : Nat) : Nat := Tbl.get (fun _ => 0) h.sys.winPtr j
def Hive.winStatus (h : Hive) (j : Nat) : Nat := Tbl.get (fun _ => 0) h.sys.winStatus j
/-- The block with them written. -/
def Hive.setPtr (h : Hive) (j p : Nat) : Hive := { h with sys.winPtr := Tbl.put (fun _ => 0) h.sys.winPtr j p }
def Hive.setWin (h : Hive) (j st : Nat) : Hive := { h with sys.winStatus := Tbl.put (fun _ => 0) h.sys.winStatus j st }

/-- ADDR: a BAR0 byte address, a multiple of 4 below 0x0400_0000. -/
def execAddr (j : CtxId) (bytes : List Byte) (pecOk : Bool) (s : State) : Host.Outcome State Fault Refusal :=
  s.upd (fun h => h.hiveClass j (fun h =>
    let p := leNat (bytes.map (fun b => b.toNat))
    if !pecOk then h.pecBad
    else if bytes.length = 4 ∧ p % 4 = 0 ∧ p < 0x4000000 then (h.setPtr j.val p).setWin j.val stOk
    else h.setWin j.val stBadArg))

/-- The words that a DATA read returns, each by the capture rule of R10. A pointer that has advanced past the window reads 0. -/
def Hive.readWords (m : Mem) (r : Req) : Nat → Nat → Hive → List Nat × Hive
  | 0, _, h => ([], h)
  | k + 1, a, h =>
    let (v, h) := if a < 0x4000000 then h.readBy m r a else (0, h)
    let (l, h) := Hive.readWords m r k (a + 4) h
    (leBytes v.toNat 4 ++ l, h)

/-- DATA_READ: k registers from the pointer, which advances by 4k. -/
def execDataRead (j : CtxId) (k : Nat) (s : State) : Host.Outcome State Fault Refusal :=
  s.upd (fun h => h.hiveClass j (fun h =>
    if 1 ≤ k ∧ k ≤ 16 then
      let p := h.winPtr j.val
      let (l, h) := Hive.readWords s.mem (.smbus j) k p h
      (({ h with resp := l } : Hive).setPtr j.val (p + 4 * k)).setWin j.val stOk
    else h.setWin j.val stBadArg))

/-- The status that the journal holds for the latest register write. -/
def Hive.lastWrite (h : Hive) : Nat :=
  match (h.jq.filter (fun e => e.kind == 1)).getLast? with
  | some e => e.status
  | none => stOk

/-- The words of a DATA block are written in order; the first refusal is the block's status (R401). -/
def Hive.writeWords (j : CtxId) : List Nat → Nat → Nat → Hive → Nat × Hive
  | [], _, st, h => (st, h)
  | v :: vs, a, st, h =>
    let h := h.writeAny ⟨.smbus j, false, min a 0x4000000, 4, BitVec.ofNat 32 v⟩
    Hive.writeWords j vs (a + 4) (if st = 0 then h.lastWrite else st) h

/-- DATA_WRITE: applied once the whole block has arrived with a good PEC (R401). -/
def execDataWrite (j : CtxId) (bytes : List Byte) (pecOk : Bool) (s : State) : Host.Outcome State Fault Refusal :=
  s.upd (fun h => h.hiveClass j (fun h =>
    if !pecOk then h.pecBad
    else if bytes.length % 4 ≠ 0 ∨ bytes.length = 0 ∨ 64 < bytes.length then h.setWin j.val stBadArg
    else
      let b := bytes.map (fun x => x.toNat)
      let p := h.winPtr j.val
      let (st, h) := Hive.writeWords j ((List.range (b.length / 4)).map (byteWord b)) p stOk h
      (h.setPtr j.val (p + b.length)).setWin j.val st))

/-- WINDOW_STATUS. -/
def execWindowStatus (j : CtxId) (s : State) : Host.Outcome State Fault Refusal :=
  s.upd (fun h => h.hiveClass j (fun h => { h with resp := [h.winStatus j.val] }))

/-- SUBMIT: a command entry into the mailbox, which is busy until it completes. An opcode that R385 does not list, or one of
0x11-0x14, completes with BAD_CMD (R402). -/
def execSubmit (j : CtxId) (bytes : List Byte) (pecOk : Bool) (s : State) : Host.Outcome State Fault Refusal :=
  s.upd (fun h => h.hiveClass j (fun h =>
    let b := bytes.map (fun x => x.toNat)
    if !pecOk then h.pecBad
    else if b.length ≠ 64 then h.setWin j.val stBadArg
    else if bitOf (h.get F.smbMbStat_busy) j.val || bitOf (h.get F.smbMbStat_done) j.val then h.setWin j.val stWrong
    else
      let h := ({ h with sys.mbIn := Tbl.put (fun _ => []) h.sys.mbIn j.val b } : Hive).setWin j.val stOk
      let h := h.set F.smbMbStat_busy (setBit (h.get F.smbMbStat_busy) j.val true)
      let op := b.headD 0
      if op = 0 ∨ 0x10 < op then
        (h.journal 0x6 3 2 stBadCmd false op 0 (byteWord b 1) (byteWord b 2)).complete
          ⟨.mailbox j, 0, bitOf (byteWord b 0) 8, byteWord b 0 / 2 ^ 16, op, h.gtc % 2 ^ 32⟩ stBadCmd 0
      else h))

/-- RESULT: the completion entry, which the read clears. With no completion waiting the bytes are free values. -/
def execResult (j : CtxId) (s : State) : Host.Outcome State Fault Refusal :=
  s.upd (fun h => h.hiveClass j (fun h =>
    if bitOf (h.get F.smbMbStat_done) j.val then
      let m := Tbl.get (fun _ => []) h.mbox j.val
      let h := h.set F.smbMbStat_done (setBit (h.get F.smbMbStat_done) j.val false)
      { h with
        resp := (List.range 4).flatMap (fun i => leBytes (m.getD i 0) 4)
        mbox := Tbl.put (fun _ => []) h.mbox j.val [], alMb := setBit h.alMb j.val false }
    else
      let (a, h) := h.draw
      let (b, h) := h.draw
      let (c, h) := h.draw
      let (d, h) := h.draw
      { h with resp := [a, b, c, d].flatMap (fun v => leBytes v 4) }))

/-! ## Alerts (R403) -/

/-- The keeper-class address K, and the address of hive-class context `j` (R398). -/
def Hive.keeperAddr (h : Hive) : Nat := 0x58 + h.sys.smbAddr % 8
def Hive.ctxAddr (h : Hive) (j : Nat) : Nat :=
  let base := h.get F.smbAddrCfg_hive_hi * 8 + h.sys.smbAddr % 8
  base - Nat.land base (h.get F.smbAddrCfg_mask) + j

/-- The unreported source that is answered first: of the keeper a fault's rank, the backup, the wake request or a quote,
highest rank level first; then the mailbox of the lowest address. -/
inductive AlertSrc where
  | fault (rank : Nat)
  | backup
  | wake
  | quote
  | mailbox (j : Nat)
deriving DecidableEq, Repr

/-- It, when any source is pending. -/
def Hive.alertTop (h : Hive) : Option AlertSrc :=
  let f := h.alFaults.foldl max 0
  if !h.alFaults.isEmpty && (decide (2 ≤ f) || (!h.alBak && (decide (1 ≤ f) || !h.alWake))) then some (.fault f)
  else if h.alBak then some .backup
  else if h.alWake then some .wake
  else if h.alQuote then some .quote
  else ((List.range 8).find? (fun j => bitOf h.alMb j)).map .mailbox

/-- SMB_ALERT_N is low. -/
def Hive.alertLow (h : Hive) : Bool := h.alertTop.isSome

/-- The block once a source has been reported. -/
def Hive.alertDrop (h : Hive) (x : AlertSrc) : Hive :=
  match x with
  | .fault r => { h with alFaults := h.alFaults.erase r }
  | .backup => { h with alBak := false }
  | .wake => { h with alWake := false }
  | .quote => { h with alQuote := false }
  | .mailbox j => { h with alMb := setBit h.alMb j false }

/-- ALERT_RESPONSE: the byte is address x 2; a source stays pending when arbitration is lost. -/
def execAlertResponse (won : Bool) (s : State) : Host.Outcome State Fault Refusal :=
  s.upd (fun h =>
    match h.alertTop with
    | none => h
    | some x =>
      if won then
        let a := match x with | .mailbox j => h.ctxAddr j | _ => h.keeperAddr
        ({ h.alertDrop x with resp := [2 * a] } : Hive).smbStop
      else h)

/-! ## Line faults (R404) -/

/-- SCL_TIMEOUT: the transaction is discarded; the fault clears itself at the next STOP. -/
def execSclTimeout (s : State) : Host.Outcome State Fault Refusal :=
  s.upd (fun h => (h.hwSet F.smbStat_scl_reset).raiseSC 0x12 0x01 0x7 1 0)

/-- SDA_STUCK. -/
def execSdaStuck (s : State) : Host.Outcome State Fault Refusal :=
  s.upd (fun h => (h.setFlag F.smbStat_sda_stuck true).raiseSC 0x12 0x02 0x7 1 0)

/-- SDA_RELEASED: SDA has been high for 1 ms. -/
def execSdaReleased (s : State) : Host.Outcome State Fault Refusal :=
  s.upd (fun h => (h.setFlag F.smbStat_sda_stuck false).condEnd 0x12 0x02 0x7)

end Sys2Proof.Machine
end

