-- ==== Sys2Proof/Machine/Dispatch.lean ====
section
/-! DEFINITION. The effect of each command: one arm per constructor of Instr, in the order of the opcode table. -/

namespace Sys2Proof.Machine

open Sys2Proof

def exec (i : Instr) (s : State) : Host.Outcome State Fault Refusal :=
  match i with
  | .registerWrite w => Sys2Proof.Machine.execRegisterWrite w s
  | .lowWordRead r => Sys2Proof.Machine.execLowWordRead r s
  | .highWordRead r => Sys2Proof.Machine.execHighWordRead r s
  | .wrRefuseClear w => Sys2Proof.Machine.execWrRefuseClear w s
  | .eccRecordClear w => Sys2Proof.Machine.execEccRecordClear w s
  | .wireGroupFail b => Sys2Proof.Machine.execWireGroupFail b s
  | .spareWireGroupSubstitute b => Sys2Proof.Machine.execSpareWireGroupSubstitute b s
  | .bridgeFail b => Sys2Proof.Machine.execBridgeFail b s
  | .bridgeTrafficMoved b => Sys2Proof.Machine.execBridgeTrafficMoved b s
  | .broodDieFault d smokerLost => Sys2Proof.Machine.execBroodDieFault d smokerLost s
  | .superDieFault d => Sys2Proof.Machine.execSuperDieFault d s
  | .correctableEccError o => Sys2Proof.Machine.execCorrectableEccError o s
  | .uncorrectableEccError o word scrub bad => Sys2Proof.Machine.execUncorrectableEccError o word scrub bad s
  | .scrubPassEnd unit => Sys2Proof.Machine.execScrubPassEnd unit s
  | .sleepScrubWake c => Sys2Proof.Machine.execSleepScrubWake c s
  | .combSleepStart c => Sys2Proof.Machine.execCombSleepStart c s
  | .combSleepEntered c => Sys2Proof.Machine.execCombSleepEntered c s
  | .combWakeComplete c bad => Sys2Proof.Machine.execCombWakeComplete c bad s
  | .eqDelayStep n => Sys2Proof.Machine.execEqDelayStep n s
  | .ingressDelayStep n alt => Sys2Proof.Machine.execIngressDelayStep n alt s
  | .switch c => Sys2Proof.Machine.execSwitch c s
  | .switchAtT n => Sys2Proof.Machine.execSwitchAtT n s
  | .swLastClear w => Sys2Proof.Machine.execSwLastClear w s
  | .storeWinWrite w => Sys2Proof.Machine.execStoreWinWrite w s
  | .storeWindowWrite w => Sys2Proof.Machine.execStoreWindowWrite w s
  | .laneSignalDetect l => Sys2Proof.Machine.execLaneSignalDetect l s
  | .laneTrainingComplete l => Sys2Proof.Machine.execLaneTrainingComplete l s
  | .laneTrainTimeout l => Sys2Proof.Machine.execLaneTrainTimeout l s
  | .laneLossOfSignal l => Sys2Proof.Machine.execLaneLossOfSignal l s
  | .rlfCodewordReceived l payload uncorr symErr => Sys2Proof.Machine.execRlfCodewordReceived l payload uncorr symErr s
  | .convSyncHeaderLock l => Sys2Proof.Machine.execConvSyncHeaderLock l s
  | .convMultiblockAligned l => Sys2Proof.Machine.execConvMultiblockAligned l s
  | .convSyncLoss l => Sys2Proof.Machine.execConvSyncLoss l s
  | .convCrc12Error l => Sys2Proof.Machine.execConvCrc12Error l s
  | .sysrefEdge => Sys2Proof.Machine.execSysrefEdge s
  | .ethLockAcquired l => Sys2Proof.Machine.execEthLockAcquired l s
  | .ethLockLoss l => Sys2Proof.Machine.execEthLockLoss l s
  | .ecpriIqMessageReceived l pcid seq samples => Sys2Proof.Machine.execEcpriIqMessageReceived l pcid seq samples s
  | .ecpriRtcMessageReceived l frame frac => Sys2Proof.Machine.execEcpriRtcMessageReceived l frame frac s
  | .ptpFrameReceived l frame frac => Sys2Proof.Machine.execPtpFrameReceived l frame frac s
  | .esmcFrameReceived l frame frac => Sys2Proof.Machine.execEsmcFrameReceived l frame frac s
  | .ethFrameDropped l => Sys2Proof.Machine.execEthFrameDropped l s
  | .ecpriPlayoutMissing l ch => Sys2Proof.Machine.execEcpriPlayoutMissing l ch s
  | .ecpriChannelTimeout l ch => Sys2Proof.Machine.execEcpriChannelTimeout l ch s
  | .ecpriMessageTransmit l ch => Sys2Proof.Machine.execEcpriMessageTransmit l ch s
  | .delayRequestSend l => Sys2Proof.Machine.execDelayRequestSend l s
  | .dlyReqReceived l seq => Sys2Proof.Machine.execDlyReqReceived l seq s
  | .delayResponseReceived l seq tTa asym => Sys2Proof.Machine.execDelayResponseReceived l seq tTa asym s
  | .delayResponseTimeout l => Sys2Proof.Machine.execDelayResponseTimeout l s
  | .managementMessageReceived l msg => Sys2Proof.Machine.execManagementMessageReceived l msg s
  | .berWindowEnd l => Sys2Proof.Machine.execBerWindowEnd l s
  | .channelMapChange l => Sys2Proof.Machine.execChannelMapChange l s
  | .spareTakeover l => Sys2Proof.Machine.execSpareTakeover l s
  | .linkFallbackMap k => Sys2Proof.Machine.execLinkFallbackMap k s
  | .laneRetrain c => Sys2Proof.Machine.execLaneRetrain c s
  | .retrainDeadline l => Sys2Proof.Machine.execRetrainDeadline l s
  | .laneEyeScan c => Sys2Proof.Machine.execLaneEyeScan c s
  | .eyeScanComplete l width height => Sys2Proof.Machine.execEyeScanComplete l width height s
  | .strainerSample sl hf x => Sys2Proof.Machine.execStrainerSample sl hf x s
  | .dcSettleEnd sl hf => Sys2Proof.Machine.execDcSettleEnd sl hf s
  | .taintEnd n => Sys2Proof.Machine.execTaintEnd n s
  | .rsPhaseWrite w => Sys2Proof.Machine.execRsPhaseWrite w s
  | .maLenWrite w => Sys2Proof.Machine.execMaLenWrite w s
  | .bankSwap c => Sys2Proof.Machine.execBankSwap c s
  | .bankSwapAtT sl hf => Sys2Proof.Machine.execBankSwapAtT sl hf s
  | .gdMeasurementComplete sl hf gd => Sys2Proof.Machine.execGdMeasurementComplete sl hf gd s
  | .sieveFillEnd b => Sys2Proof.Machine.execSieveFillEnd b s
  | .meterTick n => Sys2Proof.Machine.execMeterTick n s
  | .spectralWindowEnd n => Sys2Proof.Machine.execSpectralWindowEnd n s
  | .mtrCtlWrite w => Sys2Proof.Machine.execMtrCtlWrite w s
  | .ctrkWindowUpdate t => Sys2Proof.Machine.execCtrkWindowUpdate t s
  | .carrierRelease t e => Sys2Proof.Machine.execCarrierRelease t e s
  | .npmHoldExpiry n k => Sys2Proof.Machine.execNpmHoldExpiry n k s
  | .npmClearExpiry n k => Sys2Proof.Machine.execNpmClearExpiry n k s
  | .npmCeilingRemoved n => Sys2Proof.Machine.execNpmCeilingRemoved n s
  | .npmLearnComplete n => Sys2Proof.Machine.execNpmLearnComplete n s
  | .protectionRelearn c => Sys2Proof.Machine.execProtectionRelearn c s
  | .fbcBlock c => Sys2Proof.Machine.execFbcBlock c s
  | .fbcPublication c => Sys2Proof.Machine.execFbcPublication c s
  | .fbcConverged c => Sys2Proof.Machine.execFbcConverged c s
  | .fbcDetection c => Sys2Proof.Machine.execFbcDetection c s
  | .fbcReacquireEnd c => Sys2Proof.Machine.execFbcReacquireEnd c s
  | .cancellerReprobeSweep c => Sys2Proof.Machine.execCancellerReprobeSweep c s
  | .tileEnd g => Sys2Proof.Machine.execTileEnd g s
  | .ugtDecision g => Sys2Proof.Machine.execUgtDecision g s
  | .ugtDecisionLate g => Sys2Proof.Machine.execUgtDecisionLate g s
  | .ugtRelearn w => Sys2Proof.Machine.execUgtRelearn w s
  | .ugtLearnComplete g ix => Sys2Proof.Machine.execUgtLearnComplete g ix s
  | .ugtStuck g ix k => Sys2Proof.Machine.execUgtStuck g ix k s
  | .ugtReport g => Sys2Proof.Machine.execUgtReport g s
  | .loopBoundary n => Sys2Proof.Machine.execLoopBoundary n s
  | .loopOpen w => Sys2Proof.Machine.execLoopOpen w s
  | .loopClose w => Sys2Proof.Machine.execLoopClose w s
  | .loopHold w => Sys2Proof.Machine.execLoopHold w s
  | .loopRelease w => Sys2Proof.Machine.execLoopRelease w s
  | .kpKiWrite w => Sys2Proof.Machine.execKpKiWrite w s
  | .setpWrite w => Sys2Proof.Machine.execSetpWrite w s
  | .gceLimitWrite w => Sys2Proof.Machine.execGceLimitWrite w s
  | .slewWrite w => Sys2Proof.Machine.execSlewWrite w s
  | .setpRangeWrite w => Sys2Proof.Machine.execSetpRangeWrite w s
  | .loopStale sl => Sys2Proof.Machine.execLoopStale sl s
  | .pwmPeriodComplete p high period => Sys2Proof.Machine.execPwmPeriodComplete p high period s
  | .analogueConversion p code => Sys2Proof.Machine.execAnalogueConversion p code s
  | .setpPinLoss p => Sys2Proof.Machine.execSetpPinLoss p s
  | .setpPinRecovery p => Sys2Proof.Machine.execSetpPinRecovery p s
  | .rampDownEnd n => Sys2Proof.Machine.execRampDownEnd n s
  | .rampUpEnd n => Sys2Proof.Machine.execRampUpEnd n s
  | .muteNAssert => Sys2Proof.Machine.execMuteNAssert s
  | .muteNRelease => Sys2Proof.Machine.execMuteNRelease s
  | .streamStart c => Sys2Proof.Machine.execStreamStart c s
  | .streamStop c => Sys2Proof.Machine.execStreamStop c s
  | .mute c => Sys2Proof.Machine.execMute c s
  | .unmute c => Sys2Proof.Machine.execUnmute c s
  | .tenantBandUnmute c => Sys2Proof.Machine.execTenantBandUnmute c s
  | .sourceUpRampUp n => Sys2Proof.Machine.execSourceUpRampUp n s
  | .deadlineWrite w => Sys2Proof.Machine.execDeadlineWrite w s
  | .kernelDeadlineMiss w bad => Sys2Proof.Machine.execKernelDeadlineMiss w bad s
  | .kernelFirstStepOnTime w => Sys2Proof.Machine.execKernelFirstStepOnTime w s
  | .startMeasurement w => Sys2Proof.Machine.execStartMeasurement w s
  | .stopMeasurement w => Sys2Proof.Machine.execStopMeasurement w s
  | .moveToSpare w => Sys2Proof.Machine.execMoveToSpare w s
  | .probeComplete w iso lag taps snr => Sys2Proof.Machine.execProbeComplete w iso lag taps snr s
  | .dlycalComplete w delay peak used clear => Sys2Proof.Machine.execDlycalComplete w delay peak used clear s
  | .spectAverageComplete w bins used => Sys2Proof.Machine.execSpectAverageComplete w bins used s
  | .mstatSample w => Sys2Proof.Machine.execMstatSample w s
  | .dmaAccessBlocked w bad => Sys2Proof.Machine.execDmaAccessBlocked w bad s
  | .sparingAtT w => Sys2Proof.Machine.execSparingAtT w s
  | .spareStateCopyComplete w copyOk spareOk => Sys2Proof.Machine.execSpareStateCopyComplete w copyOk spareOk s
  | .workerSpareBist c => Sys2Proof.Machine.execWorkerSpareBist c s
  | .spareBistComplete c passed => Sys2Proof.Machine.execSpareBistComplete c passed s
  | .resultWindowWrite w => Sys2Proof.Machine.execResultWindowWrite w s
  | .sleepCtlWrite w => Sys2Proof.Machine.execSleepCtlWrite w s
  | .watchWrite w => Sys2Proof.Machine.execWatchWrite w s
  | .gtcLoadPps w => Sys2Proof.Machine.execGtcLoadPps w s
  | .gtcLoadNow w => Sys2Proof.Machine.execGtcLoadNow w s
  | .gtcLoadUpstream w => Sys2Proof.Machine.execGtcLoadUpstream w s
  | .ppsEdge frac => Sys2Proof.Machine.execPpsEdge frac s
  | .ppsLoss => Sys2Proof.Machine.execPpsLoss s
  | .todOfsHiWrite w => Sys2Proof.Machine.execTodOfsHiWrite w s
  | .ppsOutRise => Sys2Proof.Machine.execPpsOutRise s
  | .ppsOutFall => Sys2Proof.Machine.execPpsOutFall s
  | .timeMessageSend k => Sys2Proof.Machine.execTimeMessageSend k s
  | .timeMessageReceived k ts frac hops flags valid => Sys2Proof.Machine.execTimeMessageReceived k ts frac hops flags valid s
  | .timeHoldover => Sys2Proof.Machine.execTimeHoldover s
  | .waggle c => Sys2Proof.Machine.execWaggle c s
  | .waggleHostArrive w => Sys2Proof.Machine.execWaggleHostArrive w s
  | .waggleTokenReceived b release hive => Sys2Proof.Machine.execWaggleTokenReceived b release hive s
  | .waggleTimeout b => Sys2Proof.Machine.execWaggleTimeout b s
  | .bcastReceived op arg tLow => Sys2Proof.Machine.execBcastReceived op arg tLow s
  | .snapshot c => Sys2Proof.Machine.execSnapshot c s
  | .snapshotCapture => Sys2Proof.Machine.execSnapshotCapture s
  | .faultMessageReceived k origin cls cause level stamp => Sys2Proof.Machine.execFaultMessageReceived k origin cls cause level stamp s
  | .resetWorker c => Sys2Proof.Machine.execResetWorker c s
  | .resetComb c => Sys2Proof.Machine.execResetComb c s
  | .resetFrame c => Sys2Proof.Machine.execResetFrame c s
  | .resetDie c => Sys2Proof.Machine.execResetDie c s
  | .resetBegin level unit => Sys2Proof.Machine.execResetBegin level unit s
  | .resetUnitRunning level unit bad => Sys2Proof.Machine.execResetUnitRunning level unit bad s
  | .sysRstN => Sys2Proof.Machine.execSysRstN s
  | .porN slotsGood => Sys2Proof.Machine.execPorN slotsGood s
  | .mainResetRelease pufOk keysOk => Sys2Proof.Machine.execMainResetRelease pufOk keysOk s
  | .imageVerify slot f => Sys2Proof.Machine.execImageVerify slot f s
  | .imageLoadComplete f replay => Sys2Proof.Machine.execImageLoadComplete f replay s
  | .patchLoad c f => Sys2Proof.Machine.execPatchLoad c f s
  | .patchReady p => Sys2Proof.Machine.execPatchReady p s
  | .patchActivation p => Sys2Proof.Machine.execPatchActivation p s
  | .activatedBitProgrammed p => Sys2Proof.Machine.execActivatedBitProgrammed p s
  | .patchCancel c => Sys2Proof.Machine.execPatchCancel c s
  | .rebase c f => Sys2Proof.Machine.execRebase c f s
  | .spiRead c => Sys2Proof.Machine.execSpiRead c s
  | .spiProgram c => Sys2Proof.Machine.execSpiProgram c s
  | .spiErase c => Sys2Proof.Machine.execSpiErase c s
  | .patchSlotFree w => Sys2Proof.Machine.execPatchSlotFree w s
  | .challenge w => Sys2Proof.Machine.execChallenge w s
  | .challengeExpiry => Sys2Proof.Machine.execChallengeExpiry s
  | .tokenDebugUnlock w sigOk => Sys2Proof.Machine.execTokenDebugUnlock w sigOk s
  | .tokenEnterRma w sigOk => Sys2Proof.Machine.execTokenEnterRma w sigOk s
  | .tokenRevokeSlot w sigOk => Sys2Proof.Machine.execTokenRevokeSlot w sigOk s
  | .tokenAddSlot w sigOk => Sys2Proof.Machine.execTokenAddSlot w sigOk s
  | .quote w => Sys2Proof.Machine.execQuote w s
  | .quoteReady => Sys2Proof.Machine.execQuoteReady s
  | .provision w => Sys2Proof.Machine.execProvision w s
  | .deploy w => Sys2Proof.Machine.execDeploy w s
  | .rollbackCommit w => Sys2Proof.Machine.execRollbackCommit w s
  | .rmaFromBlank w => Sys2Proof.Machine.execRmaFromBlank w s
  | .fuseProgramComplete => Sys2Proof.Machine.execFuseProgramComplete s
  | .integrityScan => Sys2Proof.Machine.execIntegrityScan s
  | .envelopeCopyRestore t => Sys2Proof.Machine.execEnvelopeCopyRestore t s
  | .journalAppend => Sys2Proof.Machine.execJournalAppend s
  | .journalRingWrite w => Sys2Proof.Machine.execJournalRingWrite w s
  | .jtagExtestSelect => Sys2Proof.Machine.execJtagExtestSelect s
  | .powerFail => Sys2Proof.Machine.execPowerFail s
  | .railPowerFailTrigger rail => Sys2Proof.Machine.execRailPowerFailTrigger rail s
  | .vddKeepLoss => Sys2Proof.Machine.execVddKeepLoss s
  | .vddKeepReturn => Sys2Proof.Machine.execVddKeepReturn s
  | .backupReady => Sys2Proof.Machine.execBackupReady s
  | .backupNotReady => Sys2Proof.Machine.execBackupNotReady s
  | .capacityCheck => Sys2Proof.Machine.execCapacityCheck s
  | .backupCapacityLearn c => Sys2Proof.Machine.execBackupCapacityLearn c s
  | .backupLearnComplete => Sys2Proof.Machine.execBackupLearnComplete s
  | .backupLearnTimeout => Sys2Proof.Machine.execBackupLearnTimeout s
  | .referenceQualified b rate ofs => Sys2Proof.Machine.execReferenceQualified b rate ofs s
  | .referenceDisqualified b ofs => Sys2Proof.Machine.execReferenceDisqualified b ofs s
  | .referenceLoss => Sys2Proof.Machine.execReferenceLoss s
  | .referenceRevert => Sys2Proof.Machine.execReferenceRevert s
  | .referenceForce w => Sys2Proof.Machine.execReferenceForce w s
  | .crystalStop => Sys2Proof.Machine.execCrystalStop s
  | .keeperRungDown => Sys2Proof.Machine.execKeeperRungDown s
  | .housekeepingRoundEnd raw rail tach => Sys2Proof.Machine.execHousekeepingRoundEnd raw rail tach s
  | .throttleGraceEnd => Sys2Proof.Machine.execThrottleGraceEnd s
  | .ladderStep => Sys2Proof.Machine.execLadderStep s
  | .sensorSelfTest c => Sys2Proof.Machine.execSensorSelfTest c s
  | .selfTestComplete fail => Sys2Proof.Machine.execSelfTestComplete fail s
  | .thresholdWrite w => Sys2Proof.Machine.execThresholdWrite w s
  | .fanSpinupEnd f pulse => Sys2Proof.Machine.execFanSpinupEnd f pulse s
  | .fanSpinupFail f => Sys2Proof.Machine.execFanSpinupFail f s
  | .fanRetry f => Sys2Proof.Machine.execFanRetry f s
  | .fanPulseLoss f => Sys2Proof.Machine.execFanPulseLoss f s
  | .fanTrendComplete f => Sys2Proof.Machine.execFanTrendComplete f s
  | .fanStallClear f => Sys2Proof.Machine.execFanStallClear f s
  | .fanRestart w => Sys2Proof.Machine.execFanRestart w s
  | .fanLearn c => Sys2Proof.Machine.execFanLearn c s
  | .fanLearnPhaseEnd f => Sys2Proof.Machine.execFanLearnPhaseEnd f s
  | .fanSlow f => Sys2Proof.Machine.execFanSlow f s
  | .faultAck w => Sys2Proof.Machine.execFaultAck w s
  | .lostAggregateClear w => Sys2Proof.Machine.execLostAggregateClear w s
  | .evrFlushCommand w => Sys2Proof.Machine.execEvrFlushCommand w s
  | .flushComplete => Sys2Proof.Machine.execFlushComplete s
  | .recorderMstatCopy => Sys2Proof.Machine.execRecorderMstatCopy s
  | .usageMillisecond => Sys2Proof.Machine.execUsageMillisecond s
  | .usageIntervalEnd t => Sys2Proof.Machine.execUsageIntervalEnd t s
  | .rateEpoch c => Sys2Proof.Machine.execRateEpoch c s
  | .rateEpochAtT t => Sys2Proof.Machine.execRateEpochAtT t s
  | .usageControlWrite w => Sys2Proof.Machine.execUsageControlWrite w s
  | .pcieLinkDown => Sys2Proof.Machine.execPcieLinkDown s
  | .pcieLinkUp width rate => Sys2Proof.Machine.execPcieLinkUp width rate s
  | .pcieHotReset => Sys2Proof.Machine.execPcieHotReset s
  | .pcieMalformedRequest => Sys2Proof.Machine.execPcieMalformedRequest s
  | .sqTailWrite w => Sys2Proof.Machine.execSqTailWrite w s
  | .irqMaskWrite w => Sys2Proof.Machine.execIrqMaskWrite w s
  | .maintenanceAbort c => Sys2Proof.Machine.execMaintenanceAbort c s
  | .maintenanceQueuedStart hf => Sys2Proof.Machine.execMaintenanceQueuedStart hf s
  | .mgmtSendRlf c => Sys2Proof.Machine.execMgmtSendRlf c s
  | .mgmtSendRyg c => Sys2Proof.Machine.execMgmtSendRyg c s
  | .mgmtSendEth c => Sys2Proof.Machine.execMgmtSendEth c s
  | .firmwareAbSwitch c f => Sys2Proof.Machine.execFirmwareAbSwitch c f s
  | .firmwareRestartEnd queen running => Sys2Proof.Machine.execFirmwareRestartEnd queen running s
  | .health => Sys2Proof.Machine.execHealth s
  | .faultSummary => Sys2Proof.Machine.execFaultSummary s
  | .power => Sys2Proof.Machine.execPower s
  | .quoteNonce bytes pecOk => Sys2Proof.Machine.execQuoteNonce bytes pecOk s
  | .quotePtr off pecOk => Sys2Proof.Machine.execQuotePtr off pecOk s
  | .quoteData => Sys2Proof.Machine.execQuoteData s
  | .wake v pecOk => Sys2Proof.Machine.execWake v pecOk s
  | .keeperStatus => Sys2Proof.Machine.execKeeperStatus s
  | .addr j bytes pecOk => Sys2Proof.Machine.execAddr j bytes pecOk s
  | .dataRead j k => Sys2Proof.Machine.execDataRead j k s
  | .dataWrite j bytes pecOk => Sys2Proof.Machine.execDataWrite j bytes pecOk s
  | .windowStatus j => Sys2Proof.Machine.execWindowStatus j s
  | .submit j bytes pecOk => Sys2Proof.Machine.execSubmit j bytes pecOk s
  | .result j => Sys2Proof.Machine.execResult j s
  | .alertResponse won => Sys2Proof.Machine.execAlertResponse won s
  | .hiveClassNack => Sys2Proof.Machine.execHiveClassNack s
  | .sclTimeout => Sys2Proof.Machine.execSclTimeout s
  | .sdaStuck => Sys2Proof.Machine.execSdaStuck s
  | .humEdge => Sys2Proof.Machine.execHumEdge s
  | .keeperHeartbeatLoss => Sys2Proof.Machine.execKeeperHeartbeatLoss s
  | .recorderWindowWrite w => Sys2Proof.Machine.execRecorderWindowWrite w s
  | .msixUnmask w => Sys2Proof.Machine.execMsixUnmask w s
  | .railGoodChange rail good => Sys2Proof.Machine.execRailGoodChange rail good s
  | .keeperSupplyLost => Sys2Proof.Machine.execKeeperSupplyLost s
  | .crystalStart => Sys2Proof.Machine.execCrystalStart s
  | .sdaReleased => Sys2Proof.Machine.execSdaReleased s

end Sys2Proof.Machine
end

