-- ==== Sys2Proof/Machine/Codewords.lean ====
section
/-! DEFINITION. What RLF and Rygayth lanes send: headers, control fragments, slots, CRC-16, scrambler, RS(544,514) and PAM4
symbols, one codeword each 48 ticks (R72 to R77, R82, R83, R86). -/

namespace Sys2Proof.Machine

/-! ## The line code (R72, R73) -/

/-- A product in GF(2^10) with x^10 + x^3 + 1, the field of IEEE 802.3 clause 91. -/
def gfMul (a b : Nat) : Nat :=
  ((List.range 10).foldl (fun (p : Nat × Nat) i =>
    let acc := if bitOf b i then Nat.xor p.1 p.2 else p.1
    let d := 2 * p.2
    (acc, if d < 1024 then d else Nat.xor d 0x409)) (0, a)).1

/-- The generator of RS(544,514): the product of x + a^j for j = 0-29 with a = x, highest power first, its leading 1 left out. -/
def rsGen : List Nat :=
  (((List.range 30).foldl (fun (p : List Nat × Nat) _ =>
    let shifted := p.1 ++ [0]
    let scaled := 0 :: p.1.map (fun c => gfMul c p.2)
    ((shifted.zip scaled).map (fun (x : Nat × Nat) => Nat.xor x.1 x.2), gfMul p.2 2)) ([1], 1)).1).drop 1

/-- The 30 parity symbols of 514 message symbols, in transmit order. -/
def rsParity (msg : List Nat) : List Nat :=
  msg.foldl (fun r m =>
    let f := Nat.xor m (r.headD 0)
    ((r.drop 1 ++ [0]).zip rsGen).map (fun (x : Nat × Nat) => Nat.xor x.1 (gfMul f x.2))) (List.replicate 30 0)

/-- The self-synchronous scrambler x^58 + x^39 + 1 over `n` bits: the scrambled bits and the scrambler's next 58 bits, the latest
in bit 0. -/
def scramble (n s p : Nat) : Nat × Nat :=
  (List.range n).foldl (fun (a : Nat × Nat) i =>
    let b := (bitOf p i ^^ bitOf a.2 38) ^^ bitOf a.2 57
    (if b then a.1 + 2 ^ i else a.1, 2 * a.2 % 2 ^ 58 + (if b then 1 else 0))) (0, s)

/-- The PAM4 level of two line bits, the first sent in bit 0: 00, 01, 11 and 10 are levels 0 to 3. -/
def grayLevel (two : Nat) : Nat :=
  match two with
  | 0 => 0
  | 2 => 1
  | 3 => 2
  | _ => 3

/-- The 2,720 symbols of 5,440 line bits, two bits each. -/
def graySymbols (bits : Nat) : Nat :=
  (List.range 2720).foldl (fun a i => a + grayLevel (bitsOf bits (2 * i) 2) * 4 ^ i) 0

/-- A scrambled payload with its parity, as line bits in transmit order. -/
def rsEncode (p : Nat) : Nat :=
  let par := rsParity ((List.range 514).map (fun i => bitsOf p (10 * i) 10))
  p + ((List.range 30).zip par).foldl (fun a x => a + x.2 * 2 ^ (5140 + 10 * x.1)) 0

/-! ## Header (R74, R82, R83, R86) -/

/-- cw_index of the codeword that starts now. -/
def Hive.txIndex (h : Hive) : Nat := h.gtc % 6144 / 48

/-- A lane that sends codewords: RLF or RYG, its training done (R72, R80). -/
def Hive.sends (h : Hive) (l : Nat) : Bool := decide (3 ≤ h.lmode l) && decide (lnCw ≤ h.lstate l)

/-- The sender's receive state (R74): searching, locked, UP, or a spare that is idle. -/
def Hive.farCode (h : Hive) (l : Nat) : Nat :=
  if h.laneUp l then (if h.standsBy l then 3 else 2) else if lnMf ≤ h.lstate l then 1 else 0

/-- The lanes of the link that lane `l` belongs to or stands by for. -/
def Hive.lanesOf (h : Hive) (l : Nat) : List Nat :=
  match h.linkOf l, Tbl.get (fun _ => none) h.spares l with
  | some k, _ => h.linkLanes k
  | none, some w => if w < 256 then [l] else h.linkLanes (w - 256)
  | none, none => [l]

/-- The link whose lane_pos 0 lane `l` is. -/
def Hive.headOf (h : Hive) (l : Nat) : Option Nat :=
  match h.linkOf l with
  | some k => if (h.linkLanes k).head? = some l then some k else none
  | none => none

/-- The urgent byte that goes out now: the first waggle token that waits at lane_pos 0 of its link (R83). -/
def Hive.txUrgent (h : Hive) (l : Nat) : Nat :=
  match h.headOf l with
  | some k =>
    match Tbl.get (fun _ => []) h.outq (512 + k) with
    | [kind, b] :: _ => kind * 64 + b
    | _ => 0
  | none => 0

/-- The header of lane `l`'s next codeword. -/
def Hive.txHeader (h : Hive) (l : Nat) : Nat :=
  let ryg := h.lmode l == 4
  h.txIndex + (if h.laneUp l then 0 else 2 ^ 7) + 2 ^ 8 * ((h.lget l).txMap % 4) +
    (if ryg then 2 ^ 10 * h.get (F.laneStat_link_pos l) + 2 ^ 13 * ((h.lanesOf l).length - 1) else 0) +
    2 ^ 16 * h.farCode l + 2 ^ 20 * (if ryg then 2 else 1) + 2 ^ 24 * h.txUrgent l

/-- The token sent leaves the queue. -/
def Hive.urgentSent (h : Hive) (l : Nat) : Hive :=
  match h.headOf l with
  | some k => { h with outq := Tbl.put (fun _ => []) h.outq (512 + k) ((Tbl.get (fun _ => []) h.outq (512 + k)).drop 1) }
  | none => h

/-! ## Control fragments (R77, R83) -/

/-- Precedence of a message on the control channel: TIME, BCAST, FAULT, then delay measurement and management (R83). -/
def msgRank (m : List Nat) : Nat :=
  match m.headD 0 with
  | 0x40 => 0
  | 0x41 => 1
  | 0x42 => 2
  | _ => 3

/-- The ports whose messages lane `l` carries: its own, and its link's at lane_pos 0. -/
def Hive.txPorts (h : Hive) (l : Nat) : List Nat :=
  match h.headOf l with
  | some k => [k, 256 + l]
  | none => [256 + l]

/-- The next message to start, and its port: the first of those of the highest precedence. -/
def Hive.nextMsg (h : Hive) (l : Nat) : Option (Nat × List Nat) :=
  let all := (h.txPorts l).flatMap (fun k => (Tbl.get (fun _ => []) h.outq k).map (fun m => (k, m)))
  match [0, 1, 2, 3].find? (fun r => all.any (fun x => msgRank x.2 == r)) with
  | some r => all.find? (fun x => msgRank x.2 == r)
  | none => none

/-- A fragment of up to five bytes: start, end, count, bytes. -/
def fragmentBits (start : Bool) (rest : List Nat) : Nat :=
  let bs := rest.take 5
  (if start then 1 else 0) + (if rest.length ≤ 5 then 2 else 0) + 4 * bs.length + 2 ^ 8 * leNat bs

/-- The fragment of lane `l`'s next codeword, and the block with it sent: a message in progress goes on, else the next one
starts; t1 of a delay request is the tick of its start fragment (R77, R79). -/
def Hive.txFragment (h : Hive) (l : Nat) : Nat × Hive :=
  let st := h.lget l
  if st.cur ≠ [] then (fragmentBits false st.cur, h.lset l { st with cur := st.cur.drop 5 })
  else
    match h.nextMsg l with
    | none => (0, h)
    | some (k, m) =>
      let h : Hive := { h with outq := Tbl.put (fun _ => []) h.outq k ((Tbl.get (fun _ => []) h.outq k).erase m) }
      (fragmentBits true m, h.lset l { st with cur := m.drop 5, dlyT1 := if m.headD 0 = 1 then h.gtc else st.dlyT1 })

/-! ## Slots (R75, R82) -/

/-- Where the samples of a channel wait: a link's or the working lane's. -/
def Hive.txKey (h : Hive) (l ch : Nat) : Nat :=
  match h.linkOf l with
  | some k => 0x100000 + k * 4096 + ch
  | none => h.workingOf l * 4096 + ch

/-- The block in a slot: the next 16 samples of its channel in format B, or zeros for an idle slot, on a spare that stands by, and
while fewer than 16 samples wait. -/
def Hive.txBlock (h : Hive) (l b : Nat) : Nat × Hive :=
  let ch := (h.mapOf l (h.lget l).txMap).getD (h.slotOf l h.txIndex b) 4096
  let q := Tbl.get (fun _ => ([] : List Sample)) h.txq (h.txKey l ch)
  if h.standsBy l || decide (4096 ≤ ch) || decide (q.length < 16) then (0, h)
  else (fmtBPack (q.take 16), { h with txq := Tbl.put (fun _ => []) h.txq (h.txKey l ch) (q.drop 16) })

/-- The 13 blocks of a codeword, from p80 on. -/
def Hive.txBlocks (h : Hive) (l : Nat) : Nat × Hive :=
  (List.range 13).foldl (fun (a : Nat × Hive) b =>
    let r := a.2.txBlock l b
    (a.1 + r.1 * 2 ^ (80 + 388 * b), r.2)) (0, h)

/-! ## A codeword leaves (R72, R73) -/

/-- Lane `l` sends its codeword: header, fragment, blocks and CRC-16, scrambled, encoded and mapped to symbols. -/
def Hive.sendCodeword (h : Hive) (l : Nat) : Hive :=
  let head := h.txHeader l
  let (frag, h) := (h.urgentSent l).txFragment l
  let (blocks, h) := h.txBlocks l
  let p := head + frag * 2 ^ 32 + blocks
  let p := p + cwCrc p * 2 ^ 5124
  let st := h.lget l
  let (x, s) := scramble 5140 st.scr p
  h.lset l { st with txCw := p, scr := s, txLine := graySymbols (rsEncode x) }

/-- Every 48 ticks, from GTC mod 6,144 = 0 on, each lane that sends puts out a codeword (R72). -/
def Hive.txTick (h : Hive) : Hive :=
  if h.gtc % 48 = 0 then ((List.range 144).filter (fun l => h.sends l)).foldl (fun h l => h.sendCodeword l) h else h

/-! ## SyncE (R71) -/

/-- The lane whose recovered clock, divided to 25 MHz, pin GP12 or GP13 puts out: the one the image selects, while it is an ETH
lane that is UP. -/
def Hive.recoveredClock (h : Hive) (pin : Nat) : Option Nat :=
  match Tbl.get (fun _ => none) h.rclk pin with
  | some l => if h.lmode l = 2 ∧ h.laneUp l then some l else none
  | none => none

end Sys2Proof.Machine
end

