-- ==== Sys2Proof/Machine/Ticks.lean ====
section
/-! DEFINITION. What passes with an SCLK tick: the codewords that leave, time, and the watches that count it. -/

namespace Sys2Proof.Machine

/-- One SCLK tick of the block: what leaves in the cycle that ends, then the next cycle (R72, R227, R234, R235, R319, R360). -/
def Hive.advance (h : Hive) : Hive := h.txTick.tick.idleWatch.coulomb.humStop

end Sys2Proof.Machine
end

