-- ==== Sys2Proof/Machine/Step.lean ====
section
/-! DEFINITION. One step: the command at the front of the queue takes effect; with no command waiting one SCLK tick passes. -/

namespace Sys2Proof.Machine

/-- One SCLK tick with no command waiting: time passes, and the GTC counts while SCLK is locked (R234, R235). -/
def State.tick (s : State) : State := { s with hive := s.hive.advance }

/-- One step: the front command is taken from the queue and carried out on the rest of the machine. -/
def step (s : State) : Host.Outcome State Fault Refusal :=
  match s.pending with
  | [] => .next s.tick
  | c :: rest => exec c { s with pending := rest }

/-- The state with the command that a word spells put at the front of its queue. -/
def State.withFetchWord (s : State) (nbits w : Nat) : State :=
  match decodeTableWord nbits w with
  | some c => { s with pending := c :: s.pending }
  | none => s

end Sys2Proof.Machine
end

