-- ==== Sys2Proof/Safety.lean ====
section
/-! DEFINITION. The terms that claims use: what it is for a command to complete, what the shared bookkeeping and the fault
handling may touch, and when a fault is on. -/

namespace Sys2Proof.Machine

/-- A command completes at `s`: it answers a next state that differs from `s` in the block alone (the byte memories and the
waiting commands are as before), and the block satisfies `P`. -/
def Completes (i : Instr) (s : State) (P : Hive → Prop) : Prop := ∃ h', exec i s = .next { s with hive := h' } ∧ P h'

/-- A command answers a next state whose block satisfies `P`; it may write the byte memories. -/
def Answers (i : Instr) (s : State) (P : Hive → Prop) : Prop := ∃ t, exec i s = .next t ∧ P t.hive

/-- The commands that may write a byte memory: samples that come to a store or an ingress buffer (R47, R48, R54), resets and
losses of power (R20, R253, R311, R338), the end of a reset and of a wake, which load kernel code anew (R20, R223), off-mode sleep
(R227), memory errors (R30), blocked DMA (R225), a spare's copy (R230), a SPECT result (R219), and the files and fuses that change
the boot flash (R258, R270 to R279, R288). -/
def touchesMemory : Instr → Bool
  | .imageLoadComplete .. | .patchReady .. | .patchActivation .. | .activatedBitProgrammed .. | .patchCancel .. | .rebase ..
  | .spiProgram .. | .spiErase .. | .uncorrectableEccError .. | .resetBegin .. | .resetUnitRunning .. | .strainerSample ..
  | .housekeepingRoundEnd .. | .sysRstN | .porN .. | .railGoodChange .. | .spareStateCopyComplete .. | .spectAverageComplete ..
  | .dmaAccessBlocked .. | .combSleepEntered .. | .combWakeComplete .. | .fuseProgramComplete | .ecpriIqMessageReceived ..
  | .ecpriPlayoutMissing .. | .rlfCodewordReceived .. => true
  | _ => false

/-- `h'` differs from `h` only in what `p` erases and in the registers that `R` admits. -/
structure Only (p : Hive → Hive) (R : Nat → Bool) (h h' : Hive) : Prop where
  fields : p h' = p h
  regs : ∀ a, R a = false → h'.rd a = h.rd a

/-- The registers in which bookkeeping shows: HIVE.WR_REFUSE (R11), QUE.JRN_STAT (R308), SMB.MB_STAT (R402), CMD.SQ_HEAD,
CMD.IRQ_STAT, the completion ring and the MSI-X pending bits (R381, R382). -/
def logReg (a : Nat) : Bool :=
  a == R.wrRefuse || a == R.queJrnStat || a == R.smbMbStat || a == R.cmdSqHead || a == R.cmdIrqStat || a == 0x10005000 ||
    (decide (0x10002000 ≤ a) && decide (a < 0x10002400))

/-- The block without its registers, interrupt messages, marks of the bits set in this cycle, journal and completions. -/
def Hive.sansLog (h : Hive) : Hive :=
  { h with
    regs := [], msix := [], edges := [], edgeAt := 0, jq := [], jring := [], jseq := 0, jold := 0, jhead := 0, jSince := 0, running := []
    cqUnread := [], cqCount := 0, mbox := [], alMb := 0 }

/-- Only bookkeeping happened: the journal (R300), interrupts (R380), completions (R382) and the record of refused writes
(R11). -/
abbrev LogOnly : Hive → Hive → Prop := Only Hive.sansLog logReg

/-- The registers in which fault handling shows: those of bookkeeping, for a mismatch found at use (R299) and for what a fault or
a trigger of the same cycle takes back (R205, R358, R383); FLT.LOST (R354), EVR.STAT (R366), QUE.INTEG (R299); and, because triggers
and HALT mute the streams (R202, R359), their SMK registers, RTE.STATUS and STR.SMOKE, and UGT.IN of the slots they feed (R168). -/
def faultReg (a : Nat) : Bool :=
  logReg a || a == R.fltLost || a == R.evrStat || a == R.queInteg ||
    (decide (0x580000 ≤ a) && decide (a < 0x588000)) || (decide (0x220000 ≤ a) && decide (a < 0x222000)) ||
    (decide (0x300000 ≤ a) && decide (a < 0x400000) && a % 0x100 == R.strSmoke 0 0 % 0x100) ||
    (decide (0x4D0000 ≤ a) && decide (a < 0x4F0000) && decide (0x100 ≤ a % 0x200))

/-- The block without fault records and the marks of the cycle, hive state and pins, flushes, alerts, messages sent, mismatches
found at use, and what a ramp of a stream sets: its own state, its monitor's clear time, its PROBE measurement, its loops' time
without a reading and the gated slots it feeds. -/
def Hive.sansHandling (h : Hive) : Hive :=
  { h with
    faults := [], fltMarks := [], lostMarks := [], hum := 0, mode := .cold, seenRun := false, strm := [], work := [], free := 0
    tx := [], outq := [], alFaults := [], flush := none, flushNext := none, flushSeq := 0, flushAt := 0, slots := [], mism := []
    marks := [], npm := [], ugt := [], loops := [] }

/-- The block without what bookkeeping and fault handling touch. -/
def Hive.sansFault (h : Hive) : Hive := h.sansLog.sansHandling

/-- Only fault handling happened (R352 to R361). -/
abbrev FaultOnly : Hive → Hive → Prop := Only Hive.sansFault faultReg

/-- Registers of bookkeeping and fault handling, and RTE.SW_LAST (R58). -/
def routeReg (a : Nat) : Bool := faultReg a || a == R.swLast

/-- The block without what bookkeeping, fault handling, the fault map (R53) and switches of source (R55 to R58) touch. -/
def Hive.sansRoute (h : Hive) : Hive := { h.sansFault with sched := [], grp := [] }

/-- Only bookkeeping, fault handling and the fault map's actions happened. -/
abbrev RouteOnly : Hive → Hive → Prop := Only Hive.sansRoute routeReg

/-- GCE.LOOP_STATE of a loop slot, whose stale bit a reading clears (R181): a stream names up to 15 slots from one below 2,048. -/
def loopStateReg (a : Nat) : Bool := decide (0x500000 ≤ a) && decide (a < 0x5101C0) && a % 0x20 == 4

/-- UGT.IN of a gated group's slot, which is PAUSED while its stream carries nothing (R168). -/
def ugtInReg (a : Nat) : Bool := decide (0x4D0000 ≤ a) && decide (a < 0x4F0000) && decide (0x100 ≤ a % 0x200)

/-- No stop or unmute of the stream was taken in this cycle (R205). -/
abbrev Hive.unmarked (h : Hive) (n : Nat) : Prop := ∀ m ∈ h.marks, m.n = n → m.tick ≠ h.ticks

/-- Registers of `R` or of bookkeeping and fault handling. -/
def sideOr (R : Nat → Bool) (a : Nat) : Bool := faultReg a || R a

/-- A fault is on: an active record of its key has at least the level, or the aggregate of the lost faults is valid at at
least that level (R354, R357). -/
def Hive.faultOn (h : Hive) (cls cause source level : Nat) : Bool :=
  (List.range 256).any (fun i =>
      (h.flt i).hasKey cls cause source && (h.flt i).active && decide (level ≤ (h.flt i).level)) ||
    (h.flag F.fltLost_valid && decide (level ≤ h.get F.fltLost_level))

/-- A write that its register takes (R6, R8, R9): the whole word is written at the register's address, and an RWC
register's complement is right. -/
def goodWrite (w : RegWrite) (a : Nat) (rwc : Bool) : Bool :=
  !w.bar2 && w.off == a && w.size.val == 4 && (!rwc || rwcOk w.value)

/-- A write that falls in one word: the access to it (R6). -/
abbrev onlyPart (w : HostWrite) (p : RegWrite) : Prop :=
  spanWords w.off w.bytes.length = [p.off - p.off % 4] ∧ hwPart w (p.off - p.off % 4) = some p

/-- The bytes of the word at `a` that a read addresses, of the value `v` (R6). -/
def readBytes (r : HostRead) (a : Nat) (v : Word) : List Nat :=
  ((List.range 4).filter (fun i => hrAddressed r (a + i))).map (fun i => bitsOf v.toNat (8 * i) 8)

/-- The BAR0 registers that the host writes by their access types alone (R7): no rule checks the value or acts on it. HIVE.SCRUB_CTL,
RTE.STATUS and EQ_CTL; NPM.TIMES and TIMES2; UGT.CTL, HANG and FLOOR_SEL; GCE.SETP_VAL; WRK.CM_WIN; TIM.CTL, TOD_OFS_LO, SET_LO, SET_HI,
SNAP_SEL and WAG_CTL; HSK.PRIO and EXT_LIM; PWR.STAT; QUE.NONCE, CMD_STAT and TOKEN; SMB.STAT. -/
def plainReg (a : Nat) : Bool :=
  [R.scrubCtl, R.eqCtl, R.npmTimes, R.npmTimes2, R.timCtl, R.timTodOfsLo, R.timSetLo, R.timSetHi, R.timSnapSel, R.timWagCtl, R.hskPrio 0, R.hskPrio 1,
    R.hskPrio 2, R.hskExtLim 0, R.hskExtLim 1, R.hskExtLim 2, R.hskExtLim 3, R.pwrStat, R.queCmdStat, R.smbStat].contains a ||
    (decide (0x220000 ≤ a) && decide (a < 0x222000)) ||
    (decide (0x4D0000 ≤ a) && decide (a < 0x4F0000) && (a % 0x200 == 0 || a % 0x200 == 0x08 || a % 0x200 == 0x1C)) ||
    (decide (0x520000 ≤ a) && decide (a < 0x520040) && a % 0x10 == 0x0C) ||
    (decide (0x600000 ≤ a) && decide (a < 0x700000) && a % 0x4000 == 0x0C) ||
    (decide (0x800030 ≤ a) && decide (a < 0x800050)) || (decide (0x800100 ≤ a) && decide (a < 0x800700))

/-- Every register outside `R` reads as before. -/
def Kept (R : Nat → Bool) (h h' : Hive) : Prop := ∀ a, R a = false → h'.rd a = h.rd a

/-- TIM.WAG_ARRIVE and the barriers' registers (R256). -/
def wagReg (a : Nat) : Bool := a == R.timWagArrive || (decide (0x700100 ≤ a) && decide (a < 0x700300))

/-- CMD.MAINT of the handles (R396). -/
def maintReg (a : Nat) : Bool := decide (0x10000100 ≤ a) && decide (a < 0x10000140)

/-- Registers that a lane's change of state may reach: its own, those of barriers and maintenance handles, and what
bookkeeping, fault handling and the fault map show. -/
def laneSide (l a : Nat) : Bool :=
  routeReg a || wagReg a || maintReg a || (decide (0x100000 + l * 0x1000 ≤ a) && decide (a < 0x101000 + l * 0x1000))

/-- LANE.CTL and LANE.STAT of a lane, which show the spare of a repaired lane (R86, R89). -/
def spareReg (a : Nat) : Bool := decide (0x100000 ≤ a) && decide (a < 0x190000) && (a % 0x1000 == 0 || a % 0x1000 == 4)

/-- A command takes lane `l` to the state `st`, and reaches no register but those a lane's change of state may reach: on the
way to UP also those that show the spare of a repaired lane. -/
def LaneGoes (i : Instr) (s : State) (l : LaneId) (st : Nat) : Prop :=
  Answers i s (fun h' => h'.lstate l.val = st ∧ Kept (fun a => laneSide l.val a || (st == 7 && spareReg a)) s.hive h')

/-- An item has been put into the receive ring at its tail, or dropped and counted when 31 slots were unread (R395). -/
def RxTaken (lane kind len : Nat) (h h' : Hive) : Prop :=
  if 31 ≤ (h.get F.cmdRxStat_tail + 32 - h.get F.cmdRxHead_head) % 32 then
    h'.regs = (h.bump F.cmdRxStat_dropped 1).regs
  else h'.get F.cmdRxStat_tail = (h.get F.cmdRxStat_tail + 1) % 32 ∧
    h'.rd (0x10020004 + h.get F.cmdRxStat_tail * 2048) = BitVec.ofNat 32 (lane + 256 * kind + 65536 * len) ∧
    bitOf (h'.get F.cmdIrqStat_cause) 5 = true

/-- A write turned away with a status: only bookkeeping happens, HIVE.WR_REFUSE is valid, and it shows the status where it
held no refusal before (R11). -/
def TurnedAway (i : Instr) (s : State) (status : Nat) : Prop :=
  Completes i s (fun h' => LogOnly s.hive h' ∧ h'.flag F.wrRefuse_valid = true ∧
    (s.hive.flag F.wrRefuse_valid = false → h'.get F.wrRefuse_status = status))

/-- A command entry without reserved bits, with T or without, that its interface takes: a mailbox takes opcodes below 0x11
(R382, R384, R402). -/
def goodEntry (c : CmdEntry) (op : Nat) (timed : Bool) (a0 a1 a2 : Nat) : Bool :=
  (c.via == .queue || decide (op < 0x11)) && !c.resv && c.timed == timed && (timed || c.t == 0) && c.a0.toNat == a0 &&
    c.a1.toNat == a1 && c.a2.toNat == a2

/-- The address lies among the `n` bytes from `lo` on. -/
def inRange (lo n a : Nat) : Bool := decide (lo ≤ a) && decide (a < lo + n)

/-- A write that takes effect: the register at `a` reads `v`, and no other register changes but what bookkeeping and fault
handling show. -/
def Taken (i : Instr) (s : State) (a : Nat) (v : Word) : Prop :=
  Completes i s (fun h' => h'.rd a = v ∧ Kept (sideOr (fun x => x == a)) s.hive h')

/-- The completion of a command turned away shows its status (R382, R384): in its mailbox, or in the next slot of the
completion ring. A queue command's slot is stated while the next entry of the submission ring is a listed one. -/
def Answered (c : CmdEntry) (status : Nat) (h h' : Hive) : Prop :=
  match c.via with
  | .queue => h.ringBad ((h.get F.cmdSqHead_head + 1) % 64) = false →
      bitsOf (h'.rd (0x10002000 + 16 * (h.cqCount % 64))).toNat 24 4 = status
  | .mailbox j => bitsOf ((Tbl.get (fun _ => []) h'.mbox j.val).headD 0) 24 4 = status

/-- A command turned away with a status: only bookkeeping happened, and its completion shows the status. -/
def Refused (i : Instr) (c : CmdEntry) (s : State) (status : Nat) : Prop :=
  Completes i s (fun h' => LogOnly s.hive h' ∧ Answered c status s.hive h')

/-- A maintenance handle holds a running activity (R390, R396). -/
def Hive.actRuns (h : Hive) (hd act unit : Nat) : Prop :=
  h.mState hd = 2 ∧ ∃ x, h.mget hd = some x ∧ x.act = act ∧ x.unit = unit

/-- A maintenance handle shows an end with its result and reason, and is free (R390, R396). -/
def Hive.actEnded (h : Hive) (hd result reason : Nat) : Prop :=
  h.mState hd = 3 ∧ h.get (F.cmdMaint_result hd) = result ∧ h.get (F.cmdMaint_reason hd) = reason ∧ h.mget hd = none

/-- An activity's own rule for its start: a scan needs a lane that is UP (R88), a retrain one that is on (R85), a fan learn no
die in warning and no STALLED fan (R349), a capacity learn 0.35 V above ready (R321), a BIST a spare that is not in use
(R231). -/
def Hive.maintRule (h : Hive) (act unit : Nat) : Prop :=
  match act with
  | 1 => h.laneUp unit = true
  | 2 => h.lmode unit ≠ 0
  | 5 => h.anyIn 0 = false ∧ ∀ f, f < 4 → h.fanStalled f = false
  | 6 => h.get F.pwrBakCfg_ready_mv + 350 ≤ h.get F.pwrBakStat_vbak_mv
  | 7 => h.flag (F.wrkCombStat_spare unit) = true ∧ h.flag (F.wrkCombStat_spare_used unit) = false
  | _ => True

/-- The units of an activity (R388): a lane, a comb, keeper or queen, or none. -/
def maintUnit (act unit : Nat) : Bool :=
  match act with
  | 1 | 2 => decide (unit < 144)
  | 7 => decide (unit < 64)
  | 9 => decide (unit < 2)
  | _ => unit == 0

/-- Registers of bookkeeping, of the maintenance handles, and of `R`. -/
def maintOr (R : Nat → Bool) (a : Nat) : Bool := logReg a || maintReg a || R a

/-- Registers in which a keeper-class access and the STOP that ends it show, and those that `more` admits: fault handling, and PWR.CLK_STAT
when the access leaves rung 0 (R329, R404). -/
def stopReg (more : Nat → Bool) (a : Nat) : Bool := faultReg a || a == R.pwrClkStat || more a

/-- What an activity begins with under handle `hd` (R85, R88, R151, R231, R270, R321, R339, R349, R393), from `h` to `h'`. -/
def Begun (m : Mem) (act unit : Nat) (f : TolFile) (a1 a2 hd : Nat) (h h' : Hive) : Prop :=
  match act with
  | 1 => h'.actRuns hd act unit ∧ h'.flag (F.laneEyeCtl_busy unit) = true ∧
      Kept (maintOr (fun a => a == R.laneEyeCtl unit)) h h'
  | 2 => h'.actRuns hd act unit ∧ h'.lstate unit = (if h.lmode unit = 1 then lnDown else lnTrain) ∧ Kept (laneSide unit) h h'
  | 3 => (∀ k, h.fbNext 0 = some k → h'.actRuns hd act unit ∧ h'.get (F.fbcStat_state k) = fbReacquiring ∧
        (h'.cancGet k).upd = 0 ∧ Kept (maintOr (fun a => a == R.fbcStat k)) h h') ∧
      (h.fbNext 0 = none → h'.actEnded hd 0 0 ∧ Kept (maintOr (fun _ => false)) h h')
  | 4 => h'.actRuns hd act unit ∧ h'.get F.hskThrStat_selftest = 1 ∧ Kept (maintOr (fun a => a == R.hskThrStat)) h h'
  | 5 => (∀ g, h.fanNext 0 = some g → h'.actRuns hd act unit ∧ (h'.fanGet g).learn = some 256 ∧
        Kept (maintOr (fun a => a == R.fanStat g)) h h') ∧
      (h.fanNext 0 = none → h'.actEnded hd 0 0 ∧ Kept (sideOr (fun a => maintReg a || inRange (R.fanCtl 0) 0x80 a)) h h')
  | 6 => h'.actRuns hd act unit ∧ h'.get F.pwrBakStat_cap = 3 ∧ Kept (maintOr (fun a => a == R.pwrBakStat)) h h'
  | 7 => h'.actRuns hd act unit ∧ Kept (maintOr (fun _ => false)) h h'
  | 8 => (∀ p e, [0, 1, 2, 3].find? (fun p => h.pSt p == 0) = some p → m.chainFree = some e →
        (h.patchReason f ≠ 0 → h'.actEnded hd 3 (h.patchReason f) ∧ h'.pSt p = 6 ∧
          h'.get (F.imgPatchStat_reason p) = h.patchReason f ∧ h'.flag (F.imgPatchStat_done p) = true) ∧
        (h.patchReason f = 0 → h.patchLead f.body.t = false ∨ h.schedStatus ≠ stOk → h'.actEnded hd 3 0 ∧ h'.pSt p = 6) ∧
        (h.patchReason f = 0 → h.patchLead f.body.t = true → h.schedStatus = stOk →
          h'.actRuns hd act unit ∧ h'.pSt p = 2 ∧ h'.get (F.imgPatchStat_entry p) = e ∧
          h'.pget p = some ⟨f, a1, a2, some hd, false⟩ ∧ (⟨f.body.t, .patchAct p⟩ : SchedOp) ∈ h'.sched)) ∧
      ((∀ p, p < 4 → h.pSt p ≠ 0) ∨ m.chainFree = none →
        h'.actEnded hd 3 0x0C ∧ Kept (maintOr (fun _ => false)) h h')
  | _ => (h.fwReason unit f.hdr ≠ 0 → h'.actEnded hd 3 (h.fwReason unit f.hdr) ∧ Kept (maintOr (fun _ => false)) h h') ∧
      (h.fwReason unit f.hdr = 0 → h'.actRuns hd act unit ∧ h'.fwTarget = some unit ∧ h'.fwSlot = h.fwSlot ∧
        (unit = 0 → h'.keeperAlive = false ∧ bitOf h'.hum 6 = false ∧ Kept (maintOr (fun _ => false)) h h') ∧
        (unit = 1 → h'.queenUp = false ∧ bitOf h'.hum 7 = false))

end Sys2Proof.Machine
end

