-- ==== Sys2Proof/Certificates/Slice0/Obligations.lean ====
section
/-! DEFINITION. The statements for the provers: what the block does, rule by rule. -/

open Sys2Proof Sys2Proof.Machine

/-- A step with a command at the front of the queue is that command's effect on the machine with the queue's rest.
The model's choices in it: log entry 4. The model's choices in it: log entry 4. -/
def Obligations.StepTakesFrontCommand : Prop :=
  ∀ (c : Instr) (rest : List Instr) (s : State),
    step { s with pending := c :: rest } = exec c { s with pending := rest } ∧
      ∃ t, exec c { s with pending := rest } = .next t ∧ t.pending = rest

/-- Log entry 1 (DESIGN CHOICE): with no command waiting one SCLK tick passes. The GTC counts while SCLK is locked.
The model's choices in it: log entries 1, 218, 222. -/
def Obligations.IdleStepIsOneTick : Prop :=
  ∀ s : State, s.pending = [] →
    ∃ t, step s = .next t ∧ t.mem = s.mem ∧ t.pending = [] ∧ t.hive.ticks = s.hive.ticks + 1 ∧
      t.hive.gtc = (if s.hive.flag F.pwrClkStat_sclk_lock then (s.hive.gtc + 1) % 2 ^ 64 else s.hive.gtc) ∧
      Kept (fun a => a == R.pwrBakQ || a == R.pwrBakStat) s.hive t.hive ∧
      { t.hive with
        ticks := s.hive.ticks, gtc := s.hive.gtc, regs := s.hive.regs, lanes := s.hive.lanes, outq := s.hive.outq
        txq := s.hive.txq, combs := s.hive.combs, hum := s.hive.hum, free := s.hive.free
        sys := { t.hive.sys with qAcc := s.hive.sys.qAcc } } = s.hive

/-- HALT lasts until a hive reset (R343, R359); a cold reset and the absence of the main rails include one (R20, R311).
The model's choices in it: log entries 197, 198. -/
def Obligations.OnlyResetLeavesHalt : Prop :=
  ∀ (i : Instr) (s t : State), exec i s = .next t → s.hive.mode = .halt → t.hive.mode = .halt ∨ i = .sysRstN ∨
    (∃ g, i = .porN g) ∨ ∃ rail good, i = .railGoodChange rail good

/-- Commands that no rule lets write a memory leave all of them. The model's choices in it: log entries 90, 114. -/
def Obligations.MemoryFrame : Prop :=
  ∀ (i : Instr) (s t : State), touchesMemory i = false → exec i s = .next t → t.mem = s.mem

/-- The canonical form of the memories is kept by every step, whatever command runs. The model's choices in it: log
entry 199. The model's choices in it: log entry 199. -/
def Obligations.StepKeepsMemoriesCanonical : Prop :=
  ∀ s t : State, s.mem.wf = true → step s = .next t → t.mem.wf = true

/-- Right after reset: registers at the reset values of their field tables, streams IDLE, nothing recorded. The
model's choices in it: log entries 2, 3, 199, 201. The model's choices in it: log entries 2, 3, 199, 201. -/
def Obligations.ResetState : Prop :=
  State.reset.pending = [] ∧ State.reset.mem.wf = true ∧ (∀ a, State.reset.hive.rd a = Regs.resetOf a) ∧
    State.reset.hive.mode = .cold ∧ (∀ i, (State.reset.hive.flt i).valid = false) ∧
    (∀ n : StreamId, State.reset.hive.st n.val = stIdle ∧ (State.reset.hive.sget n.val).ms = 0) ∧
    State.reset.hive.jseq = 0 ∧ State.reset.hive.jq = [] ∧ State.reset.hive.sched = []

/-- Register accesses (R6 to R11), and the windows of R50, R226, R308 and R375. The model's choices in it: log
entries 39, 40, 75, 173, 174, 175, 200. The model's choices in it: log entries 39, 40, 75, 173, 174, 175, 200. -/
def Obligations.RegisterAccess : Prop := ∀ s : State,
  (∀ (q : Req) (b : Bool) (off : Nat) (xs ys : List (Option Byte)), (off + xs.length) % 4 = 0 →
    ∃ t u, exec (.registerWrite ⟨q, b, off, xs⟩) s = .next t ∧
      exec (.registerWrite ⟨q, b, off + xs.length, ys⟩) t = .next u ∧
      exec (.registerWrite ⟨q, b, off, xs ++ ys⟩) s = .next u) ∧
  (∀ (w : HostWrite) (p : RegWrite) (d : RegDesc), onlyPart w p → p.bar2 = false → wFull p = true → roWindow (wKey p) = false →
    Regs.find (wKey p) = some d → descWritable d = true → (d.rwc && !rwcOk p.value) = false → s.hive.writeSpecial p = none →
    (plainReg (wKey p) = true → Completes (.registerWrite w) s (fun h' =>
      h'.rd (wKey p) = applyMasks d (s.hive.edgeMask (wKey p)) (s.hive.rd (wKey p)) p.value ∧
      Kept (fun x => logReg x || x == wKey p) s.hive h')) ∧
    ((ruleOf (wKey p)).1 s.hive p.value.toNat = stOk → Completes (.registerWrite w) s (fun h' =>
      LogOnly ((ruleOf (wKey p)).2 s.hive p.value.toNat) h')) ∧
    (∀ st, (ruleOf (wKey p)).1 s.hive p.value.toNat = st → st ≠ stOk → st < 16 → TurnedAway (.registerWrite w) s st)) ∧
  (∀ (w : HostWrite) (p : RegWrite), onlyPart w p → p.bar2 = false → roWindow (wKey p) = false → s.hive.writeSpecial p = none →
    (wFull p = false ∨ Regs.find (wKey p) = none → TurnedAway (.registerWrite w) s stBadArg) ∧
    (∀ d : RegDesc, wFull p = true → Regs.find (wKey p) = some d →
      (descWritable d = false → Completes (.registerWrite w) s (fun h' => LogOnly s.hive h' ∧
        h'.rd R.wrRefuse = s.hive.rd R.wrRefuse)) ∧
      (d.rwc = true → rwcOk p.value = false → Completes (.registerWrite w) s (fun h' =>
        h'.faultOn 0x13 0x01 (srcOfAddr (wKey p)) 1 = true ∧ h'.flag F.wrRefuse_valid = true ∧
        Kept faultReg s.hive h')))) ∧
  (∀ (w : HostWrite) (p : RegWrite), onlyPart w p → p.bar2 = true → bar2Mem p.off = false → Regs.find (wKey p) = none →
    exec (.registerWrite w) s = .next s) ∧
  (∀ w : RegWrite, goodWrite w R.wrRefuse false = true → Completes (.wrRefuseClear w) s (fun h' => LogOnly s.hive h' ∧
    h'.rd R.wrRefuse = (if s.hive.w1cTakes F.wrRefuse_valid w.value.toNat then 0 else s.hive.rd R.wrRefuse))) ∧
  (∀ (q : Req) (b : Bool) (off : Nat) (xs ys : List Bool), (off + xs.length) % 4 = 0 →
    ∃ t u, exec (.lowWordRead ⟨q, b, off, xs⟩) s = .next t ∧ exec (.highWordRead ⟨q, b, off + xs.length, ys⟩) t = .next u ∧
      exec (.lowWordRead ⟨q, b, off, xs ++ ys⟩) s = .next { u with hive.resp := t.hive.resp ++ u.hive.resp }) ∧
  (∀ (r : HostRead) (a : Nat), pairLow a = true → r.bar2 = false →
    (hrWords r = [a] → Completes (.lowWordRead r) s (fun h' => h'.resp = readBytes r a (s.hive.readReg s.mem a) ∧
      { h' with resp := s.hive.resp, caps := s.hive.caps } = s.hive ∧
      ∀ (g : State) (k : HostRead), g.hive.caps = h'.caps → k.req = r.req → k.bar2 = false → hrWords k = [a + 4] →
        Completes (.highWordRead k) g (fun h₂ => h₂.resp = readBytes k (a + 4) (s.hive.readReg s.mem (a + 4)) ∧
          { h₂ with resp := g.hive.resp, caps := g.hive.caps } = g.hive ∧
          Tbl.get (fun _ => none) h₂.caps (capKey r.req a) = none))) ∧
    (hrWords r = [a + 4] → Tbl.get (fun _ => none) s.hive.caps (capKey r.req a) = none →
      Completes (.highWordRead r) s (fun h' =>
        h' = { s.hive with resp := readBytes r (a + 4) (s.hive.readReg s.mem (a + 4)) }))) ∧
  ∀ w : RegWrite, TurnedAway (.storeWindowWrite w) s stNotAuth ∧ TurnedAway (.resultWindowWrite w) s stNotAuth ∧
    TurnedAway (.journalRingWrite w) s stNotAuth ∧ TurnedAway (.recorderWindowWrite w) s stNotAuth ∧
    (goodWrite w R.storeWin false = true →
      (bitOf w.value.toNat 0 = false ∨ s.hive.storeReads = true → Completes (.storeWinWrite w) s (fun h' =>
        h'.flag F.storeWin_rd_en = bitOf w.value.toNat 0 ∧ Kept (fun a => logReg a || a == R.storeWin) s.hive h')) ∧
      (bitOf w.value.toNat 0 = true → s.hive.storeReads = false → TurnedAway (.storeWinWrite w) s stNotAuth)) ∧
    (s.hive.flag F.storeWin_rd_en = false → ∀ a, 0x1000000 ≤ a → a < 0x3000000 → s.hive.readReg s.mem a = 0)

/-- Delay steps and switches (R46, R54 to R58). The model's choices in it: log entries 5, 52, 177, 203, 204, 205,
220, 225. -/
def Obligations.SourceSwitching : Prop := ∀ (s : State) (n : StreamId),
  (s.hive.flag (F.steDelay_eq_auto n.val) = true → 2 ≤ (s.hive.sget n.val).eqDiff →
    ((s.hive.sget n.val).eqAt = 0 ∨ (s.hive.sget n.val).eqAt + s.hive.eqTicks ≤ s.hive.ticks) →
    Completes (.eqDelayStep n) s (fun h' => h'.delayNow n.val = towards (s.hive.delayNow n.val) (s.hive.sget n.val).eqWant ∧
      h'.regs = s.hive.regs)) ∧
  (s.hive.flag (F.steDelay_eq_auto n.val) = false ∨ s.hive.delayNow n.val = (s.hive.sget n.val).eqWant →
    exec (.eqDelayStep n) s = .next s) ∧
  (∀ (alt : Bool) (f : RF) (want : Nat), f = (if alt then F.steInDly_in_alt n.val else F.steInDly_in_pri n.val) →
    want = min (if alt then (s.hive.sget n.val).inWant.2 else (s.hive.sget n.val).inWant.1)
      (s.hive.get (F.steInMax_in_max n.val)) → 2 ≤ (s.hive.sget n.val).inDiff →
    ((s.hive.sget n.val).inAt = 0 ∨ (s.hive.sget n.val).inAt + s.hive.eqTicks ≤ s.hive.ticks) →
    Completes (.ingressDelayStep n alt) s (fun h' => h'.get f = towards (s.hive.get f) want ∧
      Kept (fun a => (decide (0x220000 ≤ a) && decide (a < 0x222000)) || a == R.steInDly n.val) s.hive h')) ∧
  (∀ c : CmdEntry, goodEntry c 0x06 true n.val 0 0 = true → admits s.hive.mode .timed = true →
    s.hive.leadOk c.t.toNat false = true → s.hive.isStream n.val = true →
    (s.hive.flag (F.rteStatus_standby_ready n.val) = true → s.hive.flag F.timStat_load_pend = false →
      s.hive.sched.length < 256 → Completes (.switch c) s (fun h' =>
        h'.sched = s.hive.sched.filter (fun o => o.kind != .streamSwitch n.val) ++ [⟨c.t.toNat, .streamSwitch n.val⟩] ∧
        Kept (fun a => logReg a || a == R.swLast) s.hive h')) ∧
    (s.hive.flag (F.rteStatus_standby_ready n.val) = false → Completes (.switch c) s (LogOnly s.hive))) ∧
  (s.hive.due (.streamSwitch n.val) = true → s.hive.patchFirst n.val = false → Completes (.switchAtT n) s (fun h' =>
    h'.sched = s.hive.sched.filter (fun o => o.kind != .streamSwitch n.val) ∧ h'.get F.swLast_stream = n.val ∧
    h'.flag F.swLast_valid = true ∧ Kept routeReg s.hive h' ∧
    (srcKind (s.hive.get (F.steAlt_alt n.val)) ≠ 0 → s.hive.flag (F.rteStatus_standby_ready n.val) = true →
      s.hive.srcUp (s.hive.srcStandby n.val) = true → h'.get F.swLast_result = 0 ∧ h'.flag F.swLast_auto = false ∧
      h'.flag (F.rteStatus_active n.val) = !s.hive.flag (F.rteStatus_active n.val)) ∧
    (srcKind (s.hive.get (F.steAlt_alt n.val)) ≠ 0 → s.hive.flag (F.rteStatus_standby_ready n.val) = false →
      h'.get F.swLast_result = s.hive.switchReason n.val ∧
      h'.flag (F.rteStatus_active n.val) = s.hive.flag (F.rteStatus_active n.val)) ∧
    (srcKind (s.hive.get (F.steAlt_alt n.val)) = 0 → h'.get F.swLast_result = 4))) ∧
  (∀ w : RegWrite, goodWrite w R.swLast false = true → Completes (.swLastClear w) s (fun h' => LogOnly
    (if s.hive.w1cTakes F.swLast_valid w.value.toNat then s.hive.wr R.swLast 0 else s.hive) h'))

/-- Bridges (R14): wire groups, the spare, the loss of a bridge, and traffic moved. The model's choices in it: log
entries 5, 94, 95, 96. -/
def Obligations.BridgeEvents : Prop := ∀ (s : State) (b : BridgeId),
  (s.hive.bridgeUp b.val = true → (s.hive.brGet b.val).wgFail = false → (s.hive.brGet b.val).spare = false →
    Completes (.wireGroupFail b) s (fun h' =>
      FaultOnly (s.hive.brSet b.val { s.hive.brGet b.val with wgFail := true }) h' ∧ h'.bridgeUp b.val = true ∧
        h'.faultOn 0x02 0x01 (0x10 + b.val) 1 = true)) ∧
  (∀ i : Instr, s.hive.bridgeUp b.val = true →
    (i = .bridgeFail b ∨ (i = .wireGroupFail b ∧ ((s.hive.brGet b.val).wgFail = true ∨ (s.hive.brGet b.val).spare = true))) →
    Completes i s (fun h' => h'.bridgeUp b.val = false ∧ h'.faultOn 0x02 0x02 (0x10 + b.val) 2 = true ∧
      (h'.brGet b.val).carry = [] ∧
      ∀ n ∈ s.hive.image, (n ∈ (s.hive.brGet b.val).carry ∨ n ∈ (s.hive.brGet b.val).det) →
        n ∈ h'.zeroed ∧ n ∈ (h'.brGet b.val).moving)) ∧
  (s.hive.bridgeUp b.val = false → exec (.wireGroupFail b) s = .next s ∧ exec (.bridgeFail b) s = .next s) ∧
  (s.hive.bridgeUp b.val = true → (s.hive.brGet b.val).wgFail = true →
    Completes (.spareWireGroupSubstitute b) s (fun h' =>
      h' = s.hive.brSet b.val { s.hive.brGet b.val with wgFail := false, spare := true })) ∧
  Completes (.bridgeTrafficMoved b) s (fun h' => (h'.brGet b.val).moving = [] ∧
    h' = (s.hive.image.filter (fun n => (s.hive.brGet b.val).moving.contains n)).foldl (fun h n => h.placeStream n)
      (s.hive.brSet b.val { s.hive.brGet b.val with moving := [] }) ∧
    ∀ n ∈ s.hive.image, n ∈ (s.hive.brGet b.val).moving → b.val ∈ s.hive.pairsOf n → h'.carried b.val n = true ∨ n ∈ h'.zeroed)

/-- Die faults (R17, R18, R26). The model's choices in it: log entries 5, 97, 98, 219. -/
def Obligations.DieFaults : Prop := ∀ (s : State) (d : Fin 2) (lost : Bool),
  (s.hive.dieSt d.val ≠ 0 → s.hive.dieSt d.val ≠ 4 → s.hive.preRun = false →
    Completes (.broodDieFault d lost) s (fun h' => h'.dieSt d.val = 4 ∧
      (∀ b : BridgeId, (bridgeEnds b.val).1 = d.val ∨ (bridgeEnds b.val).2 = d.val → h'.bridgeUp b.val = false) ∧
      (∀ n ∈ s.hive.image, s.hive.home n = d.val → h'.hasCause 2 n = true ∧
        (lost = true → h'.st n = stFaulted ∧ (h'.sget n).ms = 0)) ∧
      Kept (fun a => routeReg a || a == R.dieState) s.hive h')) ∧
  (s.hive.dieSt (2 + d.val) ≠ 0 → s.hive.dieSt (2 + d.val) ≠ 4 → s.hive.preRun = false →
    Completes (.superDieFault d) s (fun h' => h'.dieSt (2 + d.val) = 4 ∧
      (∀ b : BridgeId, (bridgeEnds b.val).1 = 2 + d.val ∨ (bridgeEnds b.val).2 = 2 + d.val → h'.bridgeUp b.val = false) ∧
      ∀ f : Fin 4, h'.frameSt (4 * d.val + f.val) = 3)) ∧
  (s.hive.dieSt d.val ≠ 0 → s.hive.dieSt d.val ≠ 4 → s.hive.preRun = true →
    Completes (.broodDieFault d lost) s (fun h' =>
      h' = { s.hive with dieBad := setBit s.hive.dieBad d.val true, smkLost := setBit s.hive.smkLost d.val lost })) ∧
  (s.hive.dieSt (2 + d.val) ≠ 0 → s.hive.dieSt (2 + d.val) ≠ 4 → s.hive.preRun = true →
    Completes (.superDieFault d) s (fun h' => h' = { s.hive with dieBad := setBit s.hive.dieBad (2 + d.val) true })) ∧
  ((s.hive.dieSt d.val = 0 ∨ s.hive.dieSt d.val = 4) → exec (.broodDieFault d lost) s = .next s) ∧
  ((s.hive.dieSt (2 + d.val) = 0 ∨ s.hive.dieSt (2 + d.val) = 4) → exec (.superDieFault d) s = .next s)

/-- Memory errors (R28, R30, R31). The model's choices in it: log entries 19, 20, 21, 99, 216. -/
def Obligations.MemoryErrors : Prop := ∀ (s : State) (word : Fin 2097152) (scrub : Bool) (bad : List WorkerId),
  (∀ o : EccOwner, Completes (.correctableEccError o) s (fun h' =>
    h' = s.hive.bump F.eccCe_count 1 ∧ h'.get F.eccCe_count = min (s.hive.get F.eccCe_count + 1) (2 ^ 32 - 1))) ∧
  (∀ (d : Fin 2) (n : StreamId), ∃ t, exec (.uncorrectableEccError (.store d n) word scrub bad) s = .next t ∧
    t.hive.faultOn 0x06 0x04 (0x1000 + n.val) 2 = true ∧
    Only Hive.sansFault (fun a => faultReg a || a == R.eccUe || a == R.eccLastWhere || a == R.eccLastWord) s.hive t.hive ∧
    t.hive.get F.eccUe_count = min (s.hive.get F.eccUe_count + 1) 65535 ∧
    (s.hive.flag F.eccLastWhere_valid = false → t.hive.flag F.eccLastWhere_valid = true ∧ t.hive.get F.eccLastWhere_kind = 3 ∧
      t.hive.get F.eccLastWhere_unit = d.val ∧ t.hive.get F.eccLastWord_word = word.val) ∧
    (∀ a, (a < 0x1000000 * (1 + d.val) + 8 * word.val ∨ 0x1000000 * (1 + d.val) + 8 * word.val + 8 ≤ a) →
      Tbl.get Mem.ramByte t.mem.store a = Tbl.get Mem.ramByte s.mem.store a) ∧
    (∀ a, 0x1000000 * (1 + d.val) + 8 * word.val ≤ a → a < 0x1000000 * (1 + d.val) + 8 * word.val + 8 →
      Tbl.get Mem.ramByte t.mem.store a = 0)) ∧
  (∀ w : WorkerId, (∃ t, exec (.uncorrectableEccError (.workerData w) word scrub bad) s = .next t ∧
      t.hive.faultOn 0x06 0x01 (0x400 + w.val) 2 = true ∧
      ∀ a, w.val * 65536 ≤ a → a < w.val * 65536 + 65536 → Tbl.get Mem.ramByte t.mem.wdata a = 0) ∧
    (∃ t, exec (.uncorrectableEccError (.kernelStore w) word scrub bad) s = .next t ∧
      t.hive.faultOn 0x06 0x02 (0x400 + w.val) 2 = true ∧
      ∀ a, w.val * 65536 ≤ a → a < w.val * 65536 + 65536 → Tbl.get Mem.ramByte t.mem.wdata a = 0)) ∧
  (∀ (b : BankId) (r : Nat) (n : StreamId) (sl : SliceId) (p : Fin 2) (c : CombId),
    (∃ t, exec (.uncorrectableEccError (.combMem c) word scrub bad) s = .next t ∧ t.hive.faultOn 0x06 0x03 (0x200 + c.val) 2 = true) ∧
    (∃ t, exec (.uncorrectableEccError (.streamTable n) word scrub bad) s = .next t ∧ t.hive.faultOn 0x02 0x09 (0x1000 + n.val) 3 = true) ∧
    (∃ t, exec (.uncorrectableEccError (.activeBank sl p) word scrub bad) s = .next t ∧ t.hive.faultOn 0x03 0x01 (0x800 + sl.val) 3 = true) ∧
    (∃ t, exec (.uncorrectableEccError (.inactiveBank sl p) word scrub bad) s = .next t ∧
      t.hive.faultOn 0x03 0x02 (0x800 + sl.val) 1 = true) ∧
    (∃ t, exec (.uncorrectableEccError (.sieveBank b) word scrub bad) s = .next t ∧ t.hive.faultOn 0x04 0x01 (0xC00 + b.val) 2 = true) ∧
    (∃ t, exec (.uncorrectableEccError (.keeperSram r) word scrub bad) s = .next t ∧ t.hive.faultOn 0x06 0x05 0x1 1 = true)) ∧
  (∀ w : RegWrite, goodWrite w R.eccLastWhere false = true →
    Completes (.eccRecordClear w) s (fun h' => LogOnly (if s.hive.w1cTakes F.eccLastWhere_valid w.value.toNat then
      (s.hive.wr R.eccLastWhere 0).wr R.eccLastWord 0 else s.hive) h'))

/-- Sleep, wake and scrub of the combs (R21, R29, R227 to R229). The model's choices in it: log entries 5, 9, 217,
218, 265. -/
def Obligations.CombSleepAndScrub : Prop := ∀ (s : State) (c : CombId),
  (s.hive.get (F.wrkCombStat_power c.val) = 0 → s.hive.combAwake c.val = true → (s.hive.combGet c.val).scrub = false →
    s.hive.sleepOk c.val = true → s.hive.idleLong c.val = true → (s.hive.combGet c.val).trigAt ≠ s.hive.ticks + 1 →
    Completes (.combSleepStart c) s (fun h' =>
      h' = s.hive.set (F.wrkCombStat_power c.val) 3 ∧ h'.get (F.wrkCombStat_power c.val) = 3)) ∧
  (s.hive.get (F.wrkCombStat_power c.val) = 3 → ∃ t, exec (.combSleepEntered c) s = .next t ∧
    t.hive.get (F.wrkCombStat_power c.val) = (if s.hive.get (F.wrkSleepCtl_mode c.val) = 2 then 2 else 1) ∧
    t.hive.get (F.wrkCombStat_sleeps c.val) = satInc (F.wrkCombStat_sleeps c.val).w (s.hive.get (F.wrkCombStat_sleeps c.val)) 1 ∧
    t.mem.store = s.mem.store ∧ t.mem.flash = s.mem.flash ∧
    (s.hive.get (F.wrkSleepCtl_mode c.val) ≠ 2 → t.mem = s.mem)) ∧
  ((s.hive.get (F.wrkCombStat_power c.val) = 1 ∨ s.hive.get (F.wrkCombStat_power c.val) = 2) →
    s.hive.get F.scrubCtl_sleep_scrub_min ≠ 0 → (s.hive.combGet c.val).waking = false →
    (s.hive.combGet c.val).sleptAt + s.hive.get F.scrubCtl_sleep_scrub_min * 60 * Config.secTicks ≤ s.hive.ticks →
    Completes (.sleepScrubWake c) s (fun h' => (h'.combGet c.val).waking = true ∧ (h'.combGet c.val).scrub = true ∧
      h'.regs = s.hive.regs ∧ { h' with combs := s.hive.combs } = s.hive)) ∧
  (∀ bad : List WorkerId, (s.hive.combGet c.val).waking = true → ∃ t, exec (.combWakeComplete c bad) s = .next t ∧
    (t.hive.combGet c.val).waking = false ∧ t.hive.get (F.wrkCombStat_power c.val) = 0) ∧
  (∀ d : Fin 2, Completes (.scrubPassEnd ⟨64 + d.val, by omega⟩) s (fun h' =>
    (∀ p ∈ h'.eccSeen, p.1 = 3 → p.2.1 ≠ d.val) ∧ ∀ p ∈ h'.eccSeen, p ∈ s.hive.eccSeen)) ∧
  (s.hive.get (F.wrkCombStat_power c.val) = 0 → s.hive.combAwake c.val = true → (s.hive.combGet c.val).scrub = true →
    Completes (.scrubPassEnd ⟨c.val, by omega⟩) s (fun h' => h'.get (F.wrkCombStat_power c.val) = 3)) ∧
  (∀ w : RegWrite, goodWrite w (R.wrkSleepCtl c.val) false = true →
    (w.value.toNat % 4 = 1 ∨ (w.value.toNat % 4 = 2 ∧ s.hive.combHasFbc c.val = false) →
      Completes (.sleepCtlWrite w) s (fun h' => LogOnly (s.hive.applyTypes (R.wrkSleepCtl c.val) w.value.toNat) h' ∧
        h'.get (F.wrkSleepCtl_mode c.val) = w.value.toNat % 4)) ∧
    (w.value.toNat % 4 = 0 → Completes (.sleepCtlWrite w) s (fun h' => h'.get (F.wrkSleepCtl_mode c.val) = 0 ∧
      ((s.hive.get (F.wrkCombStat_power c.val) = 1 ∨ s.hive.get (F.wrkCombStat_power c.val) = 2) →
        (h'.combGet c.val).waking = true))) ∧
    (w.value.toNat % 4 = 3 → TurnedAway (.sleepCtlWrite w) s stBadArg) ∧
    (w.value.toNat % 4 = 2 → s.hive.combHasFbc c.val = true → TurnedAway (.sleepCtlWrite w) s stWrong))

/-- Blocks and publications of a canceller (R147 to R152). The model's choices in it: log entries 5, 6, 77, 79,
247, 248, 249, 250, 251, 252, 253, 254. -/
def Obligations.CancellerBlocks : Prop := ∀ (s : State) (c : CancId) (n : Nat) (g : Int), s.hive.fbWorks c.val = true →
  n = s.hive.get (F.fbcCtl_stream c.val) → g = s.hive.getS (F.gceG_in_force n) →
  (s.hive.gtc % max 1 (s.hive.fbBlock c.val) ≠ 0 ∨
      (s.hive.cancGet c.val).e.ready (s.hive.gtc / max 1 (s.hive.fbBlock c.val)) = none → exec (.fbcBlock c) s = .next s) ∧
  (∀ j : Nat, s.hive.gtc % max 1 (s.hive.fbBlock c.val) = 0 → j = s.hive.gtc / max 1 (s.hive.fbBlock c.val) →
    ∀ (vs : List Sample) (refs : Nat), (s.hive.cancGet c.val).e.ready j = some (vs, refs) →
    Completes (.fbcBlock c) s (fun h' =>
      h'.flag (F.fbcStat_adapting c.val) = (decide (vs.length = s.hive.fbB c.val) && s.hive.st n == stLive &&
        !vs.any (fun x => x.ovr) && !s.hive.flag (F.fbcAdapt_freeze c.val)) ∧
      Kept (fun a => a == R.fbcStat c.val || a == R.fbcUpdLo c.val || a == R.fbcUpdHi c.val || a == R.rteStatus n) s.hive h' ∧
      (h'.flag (F.fbcStat_adapting c.val) = false ∨ (j - 1) % 2 ^ s.hive.get (F.fbcAdapt_q c.val) ≠ 0 →
        h'.fbUpdates c.val = s.hive.fbUpdates c.val ∧ (h'.cancGet c.val).est = (s.hive.cancGet c.val).est) ∧
      ((h'.cancGet c.val).est ≠ (s.hive.cancGet c.val).est →
        h'.fbUpdates c.val = (s.hive.fbUpdates c.val + 1) % 2 ^ 64))) ∧
  (∀ h₁ : Hive, h₁ = s.hive.fbDo c.val → s.hive.gtc % max 1 (64 * s.hive.fbBlock c.val) = 0 → s.hive.st n ≠ stMuted →
    ((h₁.cancGet c.val).adapt < 32 → exec (.fbcPublication c) s = .next { s with hive := h₁ }) ∧
    (∀ r : Hive × Nat × Int × Int, r = (h₁.fbMean c.val).fbWeakest c.val → 32 ≤ (h₁.cancGet c.val).adapt →
      (h₁.cancGet c.val).win.win + 1 = s.hive.gtc / max 1 (64 * s.hive.fbBlock c.val) →
      Completes (.fbcPublication c) s (fun h' =>
        h'.flag (F.fbcIso_valid c.val) = true ∧ h'.flag (F.fbcDepth_valid c.val) = true ∧
        h'.flag (F.fbcMargin_valid c.val) = true ∧ (h'.cancGet c.val).adapt = 0 ∧
        h'.flag (F.fbcMargin_design c.val) = decide (s.hive.get (F.fbcStat_state c.val) = fbAcquiring) ∧
        (∀ iso depth : Int,
          iso = (if s.hive.get (F.fbcStat_state c.val) = fbAcquiring then s.hive.rwcS (R.fbcIsoDesign c.val) else r.2.2.1) →
          depth = (if s.hive.get (F.fbcStat_state c.val) = fbAcquiring then 0 else r.2.2.2) →
          (s.hive.cancGet c.val).bound = none →
          (s.hive.get (F.fbcStat_state c.val) = fbAcquiring ∧ rwcOk (s.hive.rd (R.fbcIsoDesign c.val)) = true ∨
            s.hive.get (F.fbcStat_state c.val) = fbConverged) →
          clampS 16 iso = iso → clampS 16 depth = depth → clampS 16 (iso + depth - g) = iso + depth - g →
          h'.getS (F.fbcIso_value c.val) = iso ∧ h'.getS (F.fbcDepth_value c.val) = depth ∧
          h'.getS (F.fbcMargin_value c.val) = iso + depth - g))))

/-- States of a canceller and its collapse detector (R151, R154, R155). The model's choices in it: log entries 5,
6, 68, 72. The model's choices in it: log entries 5, 6, 68, 72, 253, 255, 256. -/
def Obligations.CancellerStates : Prop := ∀ (s : State) (c : CancId) (n : Nat), n = s.hive.get (F.fbcCtl_stream c.val) →
  (s.hive.get (F.fbcStat_state c.val) = fbAcquiring → s.hive.fbCount c.val ≤ (s.hive.cancGet c.val).upd → s.hive.st n ≠ stMuted →
    Completes (.fbcConverged c) s (fun h' => h'.get (F.fbcStat_state c.val) = fbConverged ∧
      Kept (fun a => a == R.fbcStat c.val) s.hive h')) ∧
  (s.hive.get (F.fbcStat_state c.val) = fbReacquiring → s.hive.fbCount c.val ≤ (s.hive.cancGet c.val).upd →
    s.hive.st n ≠ stMuted → s.hive.maintOfAct 3 = none → Completes (.fbcReacquireEnd c) s (fun h' =>
      h'.get (F.fbcStat_state c.val) = fbConverged ∧ Kept (fun a => a == R.fbcStat c.val) s.hive h')) ∧
  ((s.hive.cancGet c.val).res = none → exec (.fbcDetection c) s = .next s) ∧
  ∀ x : FbRes, (s.hive.cancGet c.val).res = some x →
    (s.hive.ticks < x.at_ + 1024 → exec (.fbcDetection c) s = .next s) ∧
    (x.at_ + 1024 ≤ s.hive.ticks → s.hive.st n = stMuted ∨ (s.hive.cancGet c.val).swapAt = x.at_ + 1 →
      Completes (.fbcDetection c) s (fun h' => h' = s.hive.cancSet c.val { s.hive.cancGet c.val with res := none })) ∧
    (∀ g iso dfast dres : Int, g = s.hive.getS (F.gceG_in_force n) → iso = s.hive.fbIso c.val → x.dfast = some dfast →
      x.dres = some dres → x.at_ + 1024 ≤ s.hive.ticks → s.hive.fbWorks c.val = true → s.hive.st n ≠ stMuted →
      (s.hive.cancGet c.val).swapAt ≠ x.at_ + 1 → rwcOk (s.hive.rd (R.fbcCollapse c.val)) = true →
      (dres < g - iso + x.tgt - x.col + 768 → Completes (.fbcDetection c) s (fun h' =>
        h'.flag (F.fbcStat_blind c.val) = true ∧ h'.get (F.fbcStat_state c.val) = s.hive.get (F.fbcStat_state c.val) ∧
        (s.hive.flag (F.fbcStat_blind c.val) = false → h'.faultOn 0x08 0x05 (0x2000 + c.val) 1 = true))) ∧
      (g - iso + x.tgt - x.col + 768 ≤ dres → iso + dfast - g < x.tgt - x.col →
        s.hive.gminOf n ≤ clampS 16 (min (s.hive.getS (F.fbcCeil_ceiling c.val)) (g - (x.tgt - (iso + dfast - g) + 1536))) →
        Completes (.fbcDetection c) s (fun h' =>
          h'.flag (F.fbcStat_blind c.val) = false ∧ h'.get (F.fbcStat_state c.val) = fbReacquiring ∧
          h'.getS (F.fbcCeil_ceiling c.val) =
            clampS 16 (min (s.hive.getS (F.fbcCeil_ceiling c.val)) (g - (x.tgt - (iso + dfast - g) + 1536))) ∧
          h'.get (F.fbcStat_collapses c.val) = satInc 16 (s.hive.get (F.fbcStat_collapses c.val)) 1 ∧
          h'.faultOn 0x08 0x06 (0x2000 + c.val) 2 = true)))

/-- Actions of the network protection monitor (R129 to R133). The model's choices in it: log entries 5, 67, 69, 71,
73. The model's choices in it: log entries 5, 67, 69, 71, 73, 240, 241. -/
def Obligations.ProtectionActions : Prop := ∀ (s : State) (n : StreamId) (k : Fin 10) (c : Nat) (mute : Bool),
  c = (if k.val ≤ 1 then 0 else if k.val ≤ 5 then 1 else if k.val ≤ 8 then 2 else 3) →
  mute = (if c = 1 then s.hive.holdDue n.val 4 || s.hive.holdDue n.val 5
    else if c = 2 then s.hive.holdDue n.val 7 || s.hive.holdDue n.val 8 else true) →
  s.hive.critOn n.val c = true → (s.hive.npmRuns n.val = true ∨ c = 3) → s.hive.holdDue n.val k.val = true →
  rwcOk (s.hive.rd R.npmBackoff) = true → s.hive.critSt n.val c < 2 →
  Completes (.npmHoldExpiry n k) s (fun h' =>
    Kept (sideOr (fun a => a == R.npmStat n.val || a == R.npmCnt n.val)) s.hive h' ∧
    (mute = true → 2 ≤ h'.critSt n.val c ∧ (n.val ∈ s.hive.image → h'.hasCause 5 n.val = true) ∧
      h'.faultOn 0x08 0x02 (0x1000 + n.val) 3 = true) ∧
    (mute = false → s.hive.critSt n.val c = 0 → ∀ v : Int,
      v = clampS 16 (min (s.hive.getS (F.npmStat_ceiling n.val))
        (s.hive.getS (F.gceG_in_force n.val) - s.hive.rwcS R.npmBackoff)) →
      h'.getS (F.npmStat_ceiling n.val) = v ∧ (s.hive.gminOf n.val ≤ v →
        h'.critSt n.val c = 1 ∧ h'.faultOn 0x08 0x01 (0x1000 + n.val) 2 = true)))

/-- Return to clear and learning (R131, R134). The model's choices in it: log entries 5, 73, 177. -/
def Obligations.ProtectionReturns : Prop := ∀ (s : State) (n : StreamId),
  (∀ c : Fin 4, s.hive.critSt n.val c.val ≠ 0 → (c.val ≠ 3 ∨ s.hive.srcUp (s.hive.srcNow n.val) = true) →
    (s.hive.clearConds n.val c.val).all (fun j => s.hive.clearDue n.val j
      (if c.val = 3 then msOf (s.hive.get F.npmTimes2_donor_ms) else secOf (s.hive.get F.npmTimes_clear))) = true →
    Completes (.npmClearExpiry n c) s (fun h' => h'.critSt n.val c.val = 0 ∧
      Kept (fun a => faultReg a || a == R.npmStat n.val) s.hive h' ∧
      (c.val ≠ 3 → (∀ d : Fin 4, d ≠ c → s.hive.critSt n.val d.val < 2) → s.hive.get (F.npmCtl_donor_grp n.val) = 0 →
        h'.hasCause 5 n.val = false))) ∧
  (s.hive.st n.val = stLive → (∀ c : Fin 4, s.hive.critSt n.val c.val = 0) →
    max ((s.hive.npmGet n.val).okAt.getD 0) (s.hive.sget n.val).liveAt + secOf (s.hive.get F.npmTimes_clear) ≤ s.hive.ticks →
    Completes (.npmCeilingRemoved n) s (fun h' => h'.get (F.npmStat_ceiling n.val) = 0x7FFF ∧
      h'.get (F.npmStat_crit n.val) = 0 ∧ Kept (fun a => a == R.npmStat n.val) s.hive h')) ∧
  (s.hive.flag (F.npmStat_learning n.val) = true → (s.hive.npmGet n.val).learnN ≠ 0 →
    secOf (s.hive.get F.npmTimes2_learn_s) * tick64 ≤ (s.hive.npmGet n.val).learnT →
    Completes (.npmLearnComplete n) s (fun h' => h'.flag (F.npmStat_learned n.val) = true ∧
      h'.flag (F.npmStat_learning n.val) = false ∧
      Kept (fun a => a == R.npmStat n.val || a == R.npmFloor n.val) s.hive h' ∧
      h'.get (F.npmFloor_floor n.val) = s.hive.get (F.npmFloor_floor n.val) ∧
      ∀ v : Int, v = roundEven (s.hive.npmGet n.val).learnSum (s.hive.npmGet n.val).learnN → clampS 16 v = v →
        h'.getS (F.npmFloor_ref n.val) = v)) ∧
  (∀ c : CmdEntry, goodEntry c 0x08 false n.val 0 0 = true → admits s.hive.mode .timed = true →
    s.hive.isStream n.val = true → Completes (.protectionRelearn c) s (fun h' =>
      h'.flag (F.npmStat_learned n.val) = false ∧ h'.get (F.npmFloor_ref n.val) = 0x8000 ∧
      h'.flag (F.npmStat_learning n.val) = decide (s.hive.st n.val = stLive) ∧
      Kept (fun a => logReg a || a == R.npmStat n.val || a == R.npmFloor n.val) s.hive h'))

/-- Meters and carrier tracking (R117 to R128, R137, R138). The model's choices in it: log entries 5, 6, 62, 63,
66, 213, 214, 235, 239, 240. -/
def Obligations.MeterResults : Prop := ∀ (s : State) (n : StreamId) (t : TrkId),
  (s.hive.gtc % 1024 ≠ 0 → exec (.meterTick n) s = .next s) ∧
  (s.hive.gtc % 1024 = 0 → s.hive.isStream n.val = true → Completes (.meterTick n) s (fun h' =>
    (∀ a : Nat × Nat, a = winSum (s.hive.hget (2 * s.hive.lastSlice n.val + s.hive.lastHalf n.val)).win
        (s.hive.get (F.strMaCtl_len (s.hive.lastSlice n.val) (s.hive.lastHalf n.val)) + 1) →
      h'.reading (F.mtrRms_level n.val) (F.mtrRms_valid n.val) = level a.1 (a.2 * fullSq)) ∧
    ((s.hive.sget n.val).ms = 0 → h'.reading (F.mtrOut_level n.val) (F.mtrOut_valid n.val) = some (-30720)) ∧
    Kept (sideOr (fun a => a == R.mtrPeak n.val || a == R.mtrRms n.val || a == R.mtrEnv n.val || a == R.mtrOut n.val ||
      a == R.npmStat n.val || a == R.npmCnt n.val || loopStateReg a)) s.hive h')) ∧
  (∀ b : BankSt, b = s.hive.sieveGet (s.hive.get (F.mtrCtl_spec_bank n.val)) →
    (s.hive.flag (F.mtrCtl_spec_en n.val) = false ∨ b.wmeter = false ∨ b.wdone = none → exec (.spectralWindowEnd n) s = .next s) ∧
    ∀ w : SpecWindow, s.hive.flag (F.mtrCtl_spec_en n.val) = true → b.wmeter = true → b.wdone = some w →
      Completes (.spectralWindowEnd n) s (fun h' =>
        Kept (sideOr (fun a => a == R.mtrLine n.val || a == R.mtrGuard n.val || a == R.mtrExcess n.val || a == R.npmFloor n.val ||
          a == R.npmStat n.val || a == R.npmCnt n.val || loopStateReg a)) s.hive h' ∧
        (w.valid = false → h'.flag (F.mtrLine_valid n.val) = false ∧ h'.get (F.mtrLine_level n.val) = 0x8000 ∧
          h'.flag (F.mtrGuard_valid n.val) = false ∧ h'.flag (F.mtrExcess_valid n.val) = false) ∧
        (w.valid = true → ∀ inb : List Nat, inb = s.hive.inbandOf n.val →
          (inb ≠ [] → h'.reading (F.mtrLine_level n.val) (F.mtrLine_valid n.val) = some (bandLevel w inb)) ∧
          ∀ f : Int, floorOf (((List.zip inb (inb.map (fun k => bandLevel w [k]))).filter
              (fun p => !(s.hive.carrierBands n.val).contains p.1)).map (fun p => p.2)) = some f →
            h'.getS (F.npmFloor_floor n.val) = f))) ∧
  (∀ (w : RegWrite) (v : Nat), v = w.value.toNat → goodWrite w (R.mtrCtl n.val) false = true →
    (bitsOf v 0 5 ≤ 20 → bitsOf v 5 5 ≤ 24 → bitsOf v 10 5 ≤ 24 → bitsOf v 15 4 ≤ 10 →
      Completes (.mtrCtlWrite w) s (fun h' => h'.get (F.mtrCtl_peak_k n.val) = bitsOf v 0 5 ∧
        h'.get (F.mtrCtl_env_ka n.val) = bitsOf v 5 5 ∧ h'.get (F.mtrCtl_env_kd n.val) = bitsOf v 10 5 ∧
        h'.get (F.mtrCtl_spec_w n.val) = bitsOf v 15 4 ∧
        h'.get (F.mtrCtl_spec_bank n.val) = s.hive.get (F.mtrCtl_spec_bank n.val) ∧
        Kept (fun a => logReg a || a == R.mtrCtl n.val || a == R.mtrExcess n.val) s.hive h')) ∧
    (20 < bitsOf v 0 5 ∨ 24 < bitsOf v 5 5 ∨ 24 < bitsOf v 10 5 ∨ 10 < bitsOf v 15 4 →
      TurnedAway (.mtrCtlWrite w) s stBadArg)) ∧
  (∀ (m : Nat) (b : BankSt) (x : TrkSt), m = s.hive.get (F.trkStat_stream t.val) →
    b = s.hive.sieveGet (s.hive.get (F.mtrCtl_spec_bank m)) → x = s.hive.trkGet t.val →
    (s.hive.flag (F.trkStat_valid t.val) = false ∨ s.hive.flag (F.mtrCtl_spec_en m) = false ∨ b.wtrk = false ∨ b.wdone = none →
      exec (.ctrkWindowUpdate t) s = .next s) ∧
    ∀ w : SpecWindow, s.hive.flag (F.trkStat_valid t.val) = true → s.hive.flag (F.mtrCtl_spec_en m) = true → b.wtrk = true →
      b.wdone = some w → Completes (.ctrkWindowUpdate t) s (fun h' =>
        (h'.sieveGet (s.hive.get (F.mtrCtl_spec_bank m))).wtrk = false ∧
        (x.skip = true ∨ w.valid = false → h'.regs = s.hive.regs) ∧
        (x.skip = false → w.valid = true → s.hive.get (F.npmFloor_floor m) ≠ 0x8000 →
          (∀ k : Fin 512, bandLevel w [k.val] < s.hive.getS (F.npmFloor_floor m) + x.detect) →
          (h'.trkGet t.val).res = [] ∧ h'.flag (F.trkStat_fold t.val) = false ∧
          h'.get (F.trkStat_tracked t.val) =
            ((List.range 16).filter (fun e => h'.get (F.trkCar_state t.val e) != 0)).length ∧
          ∀ e : Fin 16, h'.get (F.trkCar_state t.val e.val) =
            (if s.hive.get (F.trkCar_state t.val e.val) = 1 then 2
            else if s.hive.get (F.trkCar_state t.val e.val) = 2 ∧
              x.away.any (fun p => p.1 == e.val && decide (p.2 + msOf x.release ≤ s.hive.ticks)) = true then 0
            else s.hive.get (F.trkCar_state t.val e.val))))) ∧
  (∀ (e : Fin 16) (due : Bool), due = (s.hive.trkGet t.val).away.any
      (fun p => p.1 == e.val && decide (p.2 + msOf (s.hive.trkGet t.val).release ≤ s.hive.ticks)) →
    (s.hive.get (F.trkCar_state t.val e.val) = 2 → due = true →
      Completes (.carrierRelease t e) s (fun h' => h'.rd (R.trkCar t.val e.val) = 0 ∧
        h'.rd (R.trkPwr t.val e.val) = 0x8000 ∧
        Kept (fun a => a == R.trkCar t.val e.val || a == R.trkPwr t.val e.val || a == R.trkStat t.val) s.hive h')) ∧
    (s.hive.get (F.trkCar_state t.val e.val) ≠ 2 ∨ due = false → exec (.carrierRelease t e) s = .next s))

/-- Stream states (R200). The model's choices in it: log entries 5, 38, 177, 262. -/
def Obligations.StreamStates : Prop := ∀ (s : State) (n : StreamId),
  (∀ c : CmdEntry, goodEntry c 0x01 false n.val 0 0 = true → admits s.hive.mode .start = true →
    s.hive.isStream n.val = true →
    (s.hive.st n.val = stIdle → s.hive.flag F.timStat_load_pend = false → Completes (.streamStart c) s (fun h' =>
      h'.st n.val = (if s.hive.get (F.smkCause_active n.val) = 0 then stArmed else stMuted) ∧ (h'.sget n.val).ms = 0)) ∧
    (s.hive.st n.val ≠ stIdle → Completes (.streamStart c) s (LogOnly s.hive))) ∧
  (∀ c : CmdEntry, goodEntry c 0x02 false n.val 0 0 = true → admits s.hive.mode .stop = true →
    s.hive.isStream n.val = true →
    (s.hive.unmarked n.val → s.hive.st n.val = stArmed ∨ s.hive.st n.val = stMuted → Completes (.streamStop c) s (fun h' =>
      h'.st n.val = stIdle ∧ Kept (fun a => logReg a || a == R.rteStatus n.val || ugtInReg a) s.hive h')) ∧
    (s.hive.unmarked n.val → rwcOk (s.hive.rd (R.smkDeadline n.val)) = true → s.hive.ownMax < 5 →
      s.hive.st n.val = stRampUp ∨ s.hive.st n.val = stLive → Completes (.streamStop c) s (fun h' =>
      h'.st n.val = stRampDown ∧ (h'.sget n.val).toIdle = true)) ∧
    (s.hive.st n.val = stIdle ∨ s.hive.st n.val = stRampDown ∨ s.hive.st n.val = stFaulted →
      Completes (.streamStop c) s (LogOnly s.hive))) ∧
  (s.hive.st n.val = stArmed → s.hive.srcUp (s.hive.srcNow n.val) = true → s.hive.get (F.smkCause_active n.val) = 0 →
    (s.hive.sget n.val).sit = 0 → Completes (.sourceUpRampUp n) s (fun h' =>
      h'.st n.val = stRampUp ∧ (h'.sget n.val).ms = 0 ∧ h'.get (F.smkStat_ramp n.val) = 3)) ∧
  (s.hive.srcUp (s.hive.srcNow n.val) = false ∨ s.hive.st n.val ≠ stArmed → exec (.sourceUpRampUp n) s = .next s) ∧
  (∀ R' : Nat → Bool, R' = (fun a => a == R.rteStatus n.val || a == R.smkStat n.val ||
      a == R.strSmoke (s.hive.lastSlice n.val) (s.hive.lastHalf n.val) || ugtInReg a) →
    (s.hive.st n.val = stRampUp → (s.hive.sget n.val).ms = 131072 → Completes (.rampUpEnd n) s (fun h' =>
      h'.st n.val = stLive ∧ (h'.sget n.val).ms = 131072 ∧ h'.get (F.smkStat_ramp n.val) = 0 ∧ Kept R' s.hive h')) ∧
    (s.hive.st n.val = stRampDown → (s.hive.sget n.val).ms = 0 → Completes (.rampDownEnd n) s (fun h' =>
      h'.st n.val = (if (s.hive.sget n.val).toIdle then stIdle else stMuted) ∧ (h'.sget n.val).ms = 0 ∧
      h'.get (F.smkStat_ramp n.val) = 0 ∧ Kept R' s.hive h'))) ∧
  (s.hive.st n.val ≠ stRampUp ∨ (s.hive.sget n.val).ms ≠ 131072 → exec (.rampUpEnd n) s = .next s) ∧
  (s.hive.st n.val ≠ stRampDown ∨ (s.hive.sget n.val).ms ≠ 0 → exec (.rampDownEnd n) s = .next s)

/-- Mutes, unmutes and the deadline (R199, R202, R204). The model's choices in it: log entries 5, 37, 177, 261. -/
def Obligations.MuteCommands : Prop := ∀ (s : State) (n : StreamId),
  Completes .muteNAssert s (fun h' => h'.flag F.smkPin_mute_n = false ∧ h'.faultOn 0x09 0x02 0x24 1 = true ∧
    Kept (fun a => faultReg a || a == R.smkPin) s.hive h' ∧
    (n.val ∈ s.hive.image → s.hive.flag (F.smkCfg_pin_en n.val) = true → h'.hasCause 8 n.val = true ∧
      (s.hive.unmarked n.val → s.hive.st n.val = stRampUp ∨ s.hive.st n.val = stLive → h'.st n.val = stRampDown))) ∧
  Completes .muteNRelease s (fun h' => h'.flag F.smkPin_mute_n = true ∧ h'.st n.val = s.hive.st n.val ∧
    (n.val ∈ s.hive.image → h'.hasCause 8 n.val = false ∧ ∀ b, b ≠ 8 → h'.hasCause b n.val = s.hive.hasCause b n.val)) ∧
  (∀ (c : CmdEntry) (cnt : Nat), goodEntry c 0x03 false n.val cnt 0 = true → admits s.hive.mode .stop = true →
    1 ≤ cnt → n.val + cnt ≤ 2048 → Completes (.mute c) s (fun h' => ∀ m ∈ s.hive.image, n.val ≤ m → m < n.val + cnt →
      h'.hasCause 9 m = true ∧ (s.hive.unmarked m → (s.hive.st m = stRampUp ∨ s.hive.st m = stLive → h'.st m = stRampDown) ∧
        (s.hive.st m = stArmed → h'.st m = stMuted)))) ∧
  (∀ c : CmdEntry, goodEntry c 0x04 false n.val 0 0 = true → admits s.hive.mode .start = true →
    s.hive.isStream n.val = true →
    (s.hive.st n.val = stMuted → (∀ b, b < 9 → s.hive.hasCause b n.val = false) → Completes (.unmute c) s (fun h' =>
      h'.st n.val = stRampUp ∧ h'.get (F.smkCause_active n.val) = 0 ∧ (h'.sget n.val).ms = 0)) ∧
    ((s.hive.st n.val ≠ stMuted ∨ ∃ b, b < 9 ∧ s.hive.hasCause b n.val = true) →
      Completes (.unmute c) s (LogOnly s.hive))) ∧
  (∀ (c : CmdEntry) (t : Fin 16) (r : Fin 8), goodEntry c 0x05 false (t.val + 16 * r.val) 0 0 = true →
    admits s.hive.mode .start = true → s.hive.bandClear t.val r.val = true → Completes (.tenantBandUnmute c) s (fun h' =>
      h'.st n.val = s.hive.st n.val ∧
      (n.val ∈ s.hive.tenantStreams t.val → s.hive.rangeOf n.val = r.val → h'.hasCause 6 n.val = false))) ∧
  (∀ (w : RegWrite) (us : Nat), us = w.value.toNat % 65536 → goodWrite w (R.smkDeadline n.val) true = true →
    (16 ≤ us → us ≤ 16000 →
      (s.hive.envUsed (s.hive.tenant n.val) = true → us ≤ s.hive.wcVal (s.hive.tenant n.val) 4) →
      Completes (.deadlineWrite w) s (fun h' => h'.deadline n.val = us)) ∧
    (us < 16 ∨ 16000 < us → TurnedAway (.deadlineWrite w) s stBadArg) ∧
    (16 ≤ us → us ≤ 16000 → s.hive.envUsed (s.hive.tenant n.val) = true → s.hive.wcVal (s.hive.tenant n.val) 4 < us →
      TurnedAway (.deadlineWrite w) s stDenied))

/-- Lane states (R65, R80, R435). The model's choices in it: log entries 5, 41, 226, 229. -/
def Obligations.LaneStates : Prop := ∀ (s : State) (l : LaneId) (m st : Nat), m = s.hive.lmode l.val → st = s.hive.lstate l.val →
  (m ≠ 0 → st = lnDown → LaneGoes (.laneSignalDetect l) s l (if m = 1 then lnCw else lnTrain)) ∧
  (st ≠ lnDown → exec (.laneSignalDetect l) s = .next s) ∧
  (st = lnTrain → LaneGoes (.laneTrainingComplete l) s l lnCw ∧ LaneGoes (.laneTrainTimeout l) s l lnDown ∧
    Completes (.laneTrainTimeout l) s (fun h' => h'.faultOn 0x01 0x02 (0x100 + l.val) 2 = true)) ∧
  (st ≠ lnTrain → exec (.laneTrainingComplete l) s = .next s ∧ exec (.laneTrainTimeout l) s = .next s) ∧
  (m ≠ 0 → st ≠ lnOff → LaneGoes (.laneLossOfSignal l) s l lnDown) ∧
  (m ≠ 0 → st = lnUp → Completes (.laneLossOfSignal l) s (fun h' => h'.faultOn 0x01 0x03 (0x100 + l.val) 2 = true)) ∧
  (m = 1 → (st = lnCw → LaneGoes (.convSyncHeaderLock l) s l lnMf) ∧ (st = lnMf → LaneGoes (.convMultiblockAligned l) s l lnUp) ∧
    (st = lnMf → LaneGoes (.convSyncLoss l) s l lnCw) ∧ (st = lnUp → LaneGoes (.convSyncLoss l) s l lnDown ∧
      Completes (.convSyncLoss l) s (fun h' => h'.faultOn 0x01 0x03 (0x100 + l.val) 2 = true))) ∧
  (m ≠ 1 ∨ st ≠ lnCw → exec (.convSyncHeaderLock l) s = .next s) ∧
  (m ≠ 1 ∨ st ≠ lnMf → exec (.convMultiblockAligned l) s = .next s) ∧
  (m ≠ 1 ∨ (st ≠ lnMf ∧ st ≠ lnUp) → exec (.convSyncLoss l) s = .next s) ∧
  (m = 2 → (st = lnCw → LaneGoes (.ethLockAcquired l) s l lnUp) ∧ (st = lnUp → LaneGoes (.ethLockLoss l) s l lnCw ∧
    Completes (.ethLockLoss l) s (fun h' => h'.faultOn 0x01 0x03 (0x100 + l.val) 2 = true))) ∧
  (m ≠ 2 ∨ st ≠ lnCw → exec (.ethLockAcquired l) s = .next s) ∧ (m ≠ 2 ∨ st ≠ lnUp → exec (.ethLockLoss l) s = .next s)

/-- Codewords and errors of a lane (R63, R65, R73 to R81). The model's choices in it: log entries 5, 6, 42, 43, 57,
58. The model's choices in it: log entries 5, 6, 42, 43, 57, 58, 206, 221, 224, 225, 228. -/
def Obligations.LaneCodewords : Prop := ∀ (s : State) (l : LaneId),
  (∀ (p : Nat) (uncorr : Bool) (symErr : Nat), 3 ≤ s.hive.lmode l.val →
    (s.hive.lstate l.val = lnUp → Answers (.rlfCodewordReceived l p uncorr symErr) s (fun h' =>
      (s.hive.standsBy l.val = false → Kept (laneSide l.val) s.hive h') ∧
      ((cwGood p uncorr = false ∨ bitsOf p 0 7 ≠ (s.hive.lget l.val).idx) →
        h'.get (F.laneCwUncorr_count l.val) = satInc 32 (s.hive.get (F.laneCwUncorr_count l.val)) 1 ∧
        h'.lstate l.val = (if 7 ≤ (s.hive.lget l.val).fails then lnCw else lnUp) ∧
        (7 ≤ (s.hive.lget l.val).fails → h'.faultOn 0x01 0x03 (0x100 + l.val) 2 = true)) ∧
      (cwGood p uncorr = true → bitsOf p 0 7 = (s.hive.lget l.val).idx → h'.lstate l.val = lnUp ∧
        h'.flag (F.laneStat_rdi_rx l.val) = bitOf p 7 ∧ (h'.lget l.val).idx = (bitsOf p 0 7 + 1) % 128 ∧
        h'.get (F.laneSymErr_count l.val) = satInc 32 (s.hive.get (F.laneSymErr_count l.val)) symErr ∧
        h'.get (F.laneCwCorr_count l.val) =
          satInc 32 (s.hive.get (F.laneCwCorr_count l.val)) (if symErr > 0 then 1 else 0)))) ∧
    ((s.hive.lstate l.val = lnMf ∨ s.hive.lstate l.val = lnConfirm ∨ s.hive.lstate l.val = lnDeskew) →
      (cwGood p uncorr = false ∨ bitsOf p 0 7 ≠ (s.hive.lget l.val).idx) →
      LaneGoes (.rlfCodewordReceived l p uncorr symErr) s l lnCw) ∧
    (cwGood p uncorr = true → bitsOf p 0 7 = (s.hive.lget l.val).idx →
      (s.hive.lstate l.val = lnCw → 3 ≤ (s.hive.lget l.val).run →
        LaneGoes (.rlfCodewordReceived l p uncorr symErr) s l lnMf) ∧
      (s.hive.lstate l.val = lnConfirm → s.hive.lmode l.val = 3 → 127 ≤ (s.hive.lget l.val).clean →
        LaneGoes (.rlfCodewordReceived l p uncorr symErr) s l lnUp) ∧
      (s.hive.lstate l.val = lnMf → bitsOf p 0 7 = 0 → s.hive.mapHeld l.val (bitsOf p 8 2) = true →
        LaneGoes (.rlfCodewordReceived l p uncorr symErr) s l lnConfirm ∧
        Answers (.rlfCodewordReceived l p uncorr symErr) s (fun h' =>
          h'.get (F.laneStat_map_id l.val) = bitsOf p 8 2)))) ∧
  (∀ (p symErr : Nat), s.hive.lmode l.val = 2 → s.hive.lstate l.val = lnUp →
    Answers (.rlfCodewordReceived l p true symErr) s (fun h' =>
      h'.get (F.laneCwUncorr_count l.val) = satInc 32 (s.hive.get (F.laneCwUncorr_count l.val)) 1 ∧
      Kept (fun a => a == R.laneCwUncorr l.val) s.hive h') ∧
    (0 < symErr → Answers (.rlfCodewordReceived l p false symErr) s (fun h' =>
      h'.get (F.laneCwCorr_count l.val) = satInc 32 (s.hive.get (F.laneCwCorr_count l.val)) 1 ∧
      h'.get (F.laneSymErr_count l.val) = satInc 32 (s.hive.get (F.laneSymErr_count l.val)) symErr ∧
      Kept (fun a => a == R.laneCwCorr l.val || a == R.laneSymErr l.val) s.hive h'))) ∧
  (s.hive.lmode l.val = 1 → s.hive.lstate l.val = lnUp → Completes (.convCrc12Error l) s (fun h' =>
    h'.get (F.laneCwUncorr_count l.val) = satInc 32 (s.hive.get (F.laneCwUncorr_count l.val)) 1 ∧
    h'.faultOn 0x01 0x01 (0x100 + l.val) 1 = true ∧ Kept (fun a => faultReg a || a == R.laneCwUncorr l.val) s.hive h')) ∧
  (s.hive.lmode l.val ≠ 1 ∨ s.hive.lstate l.val ≠ lnUp → exec (.convCrc12Error l) s = .next s) ∧
  Completes (.berWindowEnd l) s (fun h' => (h'.lget l.val).sym = 0 ∧ (h'.lget l.val).unc = 0 ∧
    Kept (fun a => faultReg a || a == R.laneStat l.val) s.hive h' ∧
    (s.hive.get (F.laneBerCtl_threshold l.val) < (s.hive.lget l.val).sym →
      h'.flag (F.laneStat_degraded l.val) = true ∧ h'.faultOn 0x01 0x04 (0x100 + l.val) 1 = true) ∧
    ((s.hive.lget l.val).sym < s.hive.get (F.laneBerCtl_threshold l.val) → h'.flag (F.laneStat_degraded l.val) = false)) ∧
  Completes .sysrefEdge s (fun h' => h' = { s.hive with sysref := s.hive.ticks })

/-- Messages of a lane (R76 to R79, R395). The model's choices in it: log entries 5, 44, 45, 46, 206, 223. -/
def Obligations.LaneMessages : Prop := ∀ (s : State) (l : LaneId),
  (s.hive.laneUp l.val = true → 3 ≤ s.hive.lmode l.val → s.hive.get (F.laneDlyCtl_interval l.val) ≠ 0 →
    Completes (.delayRequestSend l) s (fun h' => h'.regs = s.hive.regs ∧ (h'.lget l.val).dlyWait = true ∧
      (h'.lget l.val).dlySeq = ((s.hive.lget l.val).dlySeq + 1) % 2 ^ 32 ∧ (h'.lget l.val).dlyT1 = s.hive.gtc ∧
      Tbl.get (fun _ => []) h'.tx (256 + l.val) = mgmtFrame 1 0 (leBytes (((s.hive.lget l.val).dlySeq + 1) % 2 ^ 32) 4))) ∧
  (∀ seq : Word, s.hive.lmode l.val = 4 → s.hive.laneUp l.val = true → Completes (.dlyReqReceived l seq) s (fun h' =>
    h'.regs = s.hive.regs ∧ ∃ t, Tbl.get (fun _ => []) h'.tx (256 + l.val) =
      mgmtFrame 2 0 (leBytes seq.toNat 4 ++ leBytes t 4 ++ leBytes 0 2))) ∧
  (∀ (seq tTa : Word) (asym rtt : Int), rtt = (s.hive.gtc : Int) - (s.hive.lget l.val).dlyT1 - tTa.toNat →
    ((s.hive.lget l.val).dlyWait = true → (s.hive.lget l.val).dlySeq = seq.toNat →
      s.hive.gtc ≤ (s.hive.lget l.val).dlyT1 + Config.msTicks → Completes (.delayResponseReceived l seq tTa asym) s (fun h' =>
        Kept (fun a => routeReg a || a == R.laneDlyUp l.val || a == R.laneDlyDn l.val) s.hive h' ∧
        h'.flag (F.laneDlyUp_valid l.val) = true ∧ h'.flag (F.laneDlyDn_valid l.val) = true ∧
        (0 ≤ roundEven (rtt + asym) 2 → roundEven (rtt + asym) 2 < 2 ^ 24 →
          (h'.get (F.laneDlyUp_ticks l.val) : Int) = roundEven (rtt + asym) 2) ∧
        (0 ≤ roundEven (rtt - asym) 2 → roundEven (rtt - asym) 2 < 2 ^ 24 →
          (h'.get (F.laneDlyDn_ticks l.val) : Int) = roundEven (rtt - asym) 2))) ∧
    ((s.hive.lget l.val).dlyWait = false ∨ (s.hive.lget l.val).dlySeq ≠ seq.toNat ∨
      (s.hive.lget l.val).dlyT1 + Config.msTicks < s.hive.gtc → exec (.delayResponseReceived l seq tTa asym) s = .next s)) ∧
  Completes (.delayResponseTimeout l) s (fun h' => h'.regs = s.hive.regs ∧ (h'.lget l.val).dlyWait = false) ∧
  (∀ (b : Byte) (rest : List Byte), s.hive.lmode l.val = 3 → s.hive.laneUp l.val = true → 0x10 ≤ b.toNat → b.toNat ≤ 0x3F →
    rest.length < 1024 → Completes (.managementMessageReceived l (b :: rest)) s
      (RxTaken l.val 1 (rest.length + 1) s.hive)) ∧
  (∀ (b : Byte) (rest : List Byte) (k : Nat), s.hive.lmode l.val = 4 → s.hive.laneUp l.val = true → s.hive.linkOf l.val = some k →
    0x10 ≤ b.toNat → b.toNat ≤ 0x3F → k < 18 → rest.length < 1024 →
    Completes (.managementMessageReceived l (b :: rest)) s (RxTaken k 2 (rest.length + 1) s.hive)) ∧
  (s.hive.due (.mapChange l.val) = true → s.hive.gtc % 6144 = 0 → Completes (.channelMapChange l) s (fun h' =>
    h'.regs = s.hive.regs ∧ (h'.lget (s.hive.carrier l.val)).txMap = (s.hive.lget l.val).mapNext ∧
    h'.sched = s.hive.sched.filter (fun o => o.kind != .mapChange l.val))) ∧
  (s.hive.gtc % 6144 ≠ 0 ∨ s.hive.due (.mapChange l.val) = false → exec (.channelMapChange l) s = .next s)

/-- Spares, fallback maps, retrains and scans (R85 to R89). The model's choices in it: log entries 5, 59, 227. -/
def Obligations.LaneRepairs : Prop := ∀ (s : State) (l : LaneId),
  (∀ w x : LaneId, s.hive.gtc % 6144 = 0 → Tbl.get (fun _ => none) s.hive.spares l.val = some w.val → s.hive.laneUp l.val = true →
    s.hive.carrier w.val = x.val → s.hive.laneUp x.val = false → Completes (.spareTakeover l) s
      (fun h' => h'.flag (F.laneStat_spare_active l.val) = true ∧ h'.carrier w.val = l.val ∧
        Tbl.get (fun _ => none) h'.spares x.val = some w.val ∧
        h'.get (F.laneStat_map_id l.val) = s.hive.get (F.laneStat_map_id x.val) ∧
        h'.faultOn 0x01 0x07 (0x100 + l.val) 2 = true ∧
        Kept (fun a => laneSide l.val a || a == R.laneStat x.val) s.hive h')) ∧
  (∀ (k : LinkId) (bad : LaneId), s.hive.gtc % 6144 = 0 → Tbl.get (fun _ => none) s.hive.spares l.val = some (256 + k.val) →
    s.hive.laneUp l.val = true → (s.hive.linkLanes k.val).find? (fun x => !s.hive.laneUp x) = some bad.val →
    Completes (.spareTakeover l) s (fun h' =>
      h'.linkLanes k.val = (s.hive.linkLanes k.val).map (fun x => if x = bad.val then l.val else x) ∧
      h'.get (F.laneStat_link_pos l.val) = s.hive.get (F.laneStat_link_pos bad.val) ∧
      h'.get (F.laneStat_map_id l.val) = s.hive.get (F.laneStat_map_id bad.val) ∧
      Tbl.get (fun _ => none) h'.spares bad.val = some (256 + k.val) ∧
      h'.faultOn 0x01 0x07 (0x100 + l.val) 2 = true ∧
      Kept (fun a => laneSide l.val a || a == R.laneStat bad.val) s.hive h')) ∧
  (∀ (k : LinkId) (left : List Nat), s.hive.gtc % 6144 = 0 → left = (s.hive.linkLanes k.val).filter (fun x => s.hive.laneUp x) →
    s.hive.canFallBack k.val = true → Tbl.get (fun _ => 0) s.hive.fallbacks k.val ≤ 4 →
    (s.hive.linkLanes k.val).length = left.length + 1 →
    Completes (.linkFallbackMap k) s (fun h' => h'.linkLanes k.val = left ∧ Tbl.get (fun _ => false) h'.fellBack k.val = true ∧
      ∀ x ∈ left, x < 144 → h'.get (F.laneStat_map_id x) = Tbl.get (fun _ => 0) s.hive.fallbacks k.val - 1)) ∧
  (∀ k : LinkId, s.hive.gtc % 6144 ≠ 0 → exec (.spareTakeover l) s = .next s ∧ exec (.linkFallbackMap k) s = .next s) ∧
  (∀ i, s.hive.maintOf 2 l.val = some i → s.hive.laneUp l.val = false → Completes (.retrainDeadline l) s (fun h' =>
    h'.mState i = 3 ∧ h'.get (F.cmdMaint_result i) = 1 ∧ h'.mget i = none ∧
    Kept (fun a => logReg a || maintReg a) s.hive h')) ∧
  (s.hive.laneUp l.val = true ∨ s.hive.maintOf 2 l.val = none → exec (.retrainDeadline l) s = .next s) ∧
  (∀ (i : Nat) (width : Fin 65) (height : Fin 129), s.hive.maintOf 1 l.val = some i →
    Completes (.eyeScanComplete l width height) s (fun h' => h'.get (F.laneEyeRes_width l.val) = width.val ∧
      h'.get (F.laneEyeRes_height l.val) = height.val ∧ h'.flag (F.laneEyeCtl_busy l.val) = false ∧
      h'.flag (F.laneEyeCtl_done l.val) = true ∧ h'.mState i = 3 ∧ h'.get (F.cmdMaint_result i) = 0 ∧ h'.mget i = none))

/-- eCPRI and frames of an ETH lane (R66 to R70). The model's choices in it: log entries 5, 48, 49. -/
def Obligations.EcpriMessages : Prop := ∀ (s : State) (l : LaneId) (ch : Fin 4096) (st : EthSt), st = s.hive.ethGet l.val ch.val →
  (∀ (pcid : Fin 65536) (seq : Fin 256) (xs : List (Int × Int)),
    (s.hive.lmode l.val ≠ 2 ∨ s.hive.laneUp l.val = false → s.hive.inNew = [] →
      exec (.ecpriIqMessageReceived l pcid seq xs) s = .next s) ∧
    (s.hive.lmode l.val = 2 → s.hive.laneUp l.val = true →
      ((4096 ≤ pcid.val ∨ (pcid.val = ch.val ∧ (st.spm = 0 ∨ xs.length ≠ st.spm))) →
        Answers (.ecpriIqMessageReceived l pcid seq xs) s (fun h' => h'.regs = s.hive.regs ∧
          (h'.lget l.val).drops = (s.hive.lget l.val).drops + 1)) ∧
      (pcid.val = ch.val → st.spm ≠ 0 → xs.length = st.spm → st.down = false →
        (st.on = false → Answers (.ecpriIqMessageReceived l pcid seq xs) s (fun h' => h'.regs = s.hive.regs ∧
          (h'.ethGet l.val ch.val).on = true ∧ (h'.ethGet l.val ch.val).want = (seq.val + 1) % 256 ∧
          (s.hive.inNew = [] → s.hive.image.Nodup → ∀ n ∈ s.hive.image, s.hive.dualHomed n = false →
            s.hive.srcWord n false = laneSrc l.val ch.val →
            (h'.sget n).inPri = (s.hive.sget n).inPri ++ xs.map ethSample))) ∧
        (st.on = true → s.hive.inNew = [] → seq.val ∉ st.seen → seq.val ∈ st.gone → Answers (.ecpriIqMessageReceived l pcid seq xs) s (fun h' =>
          h' = s.hive.bump (F.laneDrop_late l.val) 1))))) ∧
  (st.on = true → Answers (.ecpriPlayoutMissing l ch) s (fun h' =>
    h'.get (F.laneDrop_missing l.val) = satInc 16 (s.hive.get (F.laneDrop_missing l.val)) 1 ∧
    Kept (fun a => a == R.laneDrop l.val) s.hive h') ∧
    Completes (.ecpriChannelTimeout l ch) s (fun h' => (h'.ethGet l.val ch.val).down = true ∧ Kept routeReg s.hive h')) ∧
  (st.on = false → exec (.ecpriChannelTimeout l ch) s = .next s) ∧
  (∀ q : List Sample, q = Tbl.get (fun _ => []) s.hive.txq (l.val * 4096 + ch.val) → s.hive.lmode l.val = 2 → st.spm ≠ 0 →
    st.spm ≤ q.length → Completes (.ecpriMessageTransmit l ch) s (fun h' => h'.regs = s.hive.regs ∧
      Tbl.get (fun _ => []) h'.txq (l.val * 4096 + ch.val) = q.drop st.spm ∧
      (h'.ethGet l.val ch.val).txSeq = (st.txSeq + 1) % 256 ∧
      Tbl.get (fun _ => []) h'.tx (256 + l.val) = [0x10, 0x00, ch.val / 256, ch.val % 256, st.txSeq] ++
        (q.take st.spm).flatMap (fun x => be16 x.i ++ be16 x.q))) ∧
  (∀ (frame : List Byte) (frac : Fin 65536),
    (s.hive.lmode l.val = 2 → s.hive.laneUp l.val = true → frame.length < 2048 →
      Completes (.ecpriRtcMessageReceived l frame frac) s (RxTaken l.val 3 frame.length s.hive) ∧
      Completes (.ptpFrameReceived l frame frac) s (RxTaken l.val 4 frame.length s.hive) ∧
      Completes (.esmcFrameReceived l frame frac) s (RxTaken l.val 6 frame.length s.hive)) ∧
    (s.hive.lmode l.val ≠ 2 ∨ s.hive.laneUp l.val = false → exec (.ecpriRtcMessageReceived l frame frac) s = .next s ∧
      exec (.ptpFrameReceived l frame frac) s = .next s ∧ exec (.esmcFrameReceived l frame frac) s = .next s)) ∧
  Completes (.ethFrameDropped l) s (fun h' => h'.regs = s.hive.regs ∧ (h'.lget l.val).drops = (s.hive.lget l.val).drops + 1)

/-- A sample's way through a slice half, and the slice's registers (R91 to R108). The model's choices in it: log
entries 5, 16. The model's choices in it: log entries 5, 16, 208, 209, 210, 212, 231, 232, 237, 254, 264. -/
def Obligations.StrainerPath : Prop := ∀ (s : State) (sl : SliceId) (p : Fin 2),
  (∀ x : Sample, s.hive.accepts sl.val p.val = false → exec (.strainerSample sl p x) s = .next s) ∧
  (∀ x : Sample, s.hive.accepts sl.val p.val = true → s.hive.halfStream sl.val p.val = none → s.hive.inNew = [] →
    s.hive.subNew = [] → Completes (.strainerSample sl p x) s (fun h' => h'.regs = s.hive.regs ∧ h'.txq = s.hive.txq)) ∧
  (∀ (x : Sample) (n : StreamId) (w l ms mg : Nat) (ramp : Bool), s.hive.accepts sl.val p.val = true →
    s.hive.halfStream sl.val p.val = some n.val → s.hive.broodActs (sl.val / 512) = true →
    s.hive.lastSlice n.val = sl.val → s.hive.lastHalf n.val = p.val → s.hive.isCasc sl.val p.val = false →
    s.hive.dualHomed n.val = false → (s.hive.sget n.val).inPri = [] → (s.hive.sget n.val).inAlt = [] → s.hive.inNew = [] →
    s.hive.subNew = [] → w = s.hive.srcNow n.val → (srcKind w = 1 → s.hive.laneUp (s.hive.carrier (srcA w)) = true) →
    (srcKind w = 4 → s.hive.linkUp (srcA w) = true) → n.val ∉ s.hive.zeroed → s.hive.onFaulted w = false →
    s.hive.get (F.strDcCtl_m sl.val p.val) = 0 → s.hive.get (F.strNcoFtw_ftw sl.val p.val) = 0 →
    s.hive.flag (F.strRsCtl_active sl.val p.val) = false → s.hive.get (F.strFirCtl_taps sl.val p.val) = 0 →
    s.hive.bankFor sl.val p.val = s.hive.flag (F.strFirCtl_bank sl.val p.val) → s.hive.flag (F.steKern_kern_en n.val) = false →
    s.hive.bufLen n.val = 0 → s.hive.bufNext n.val = none → srcKind (s.hive.dest n.val 0) = 1 → l = srcA (s.hive.dest n.val 0) →
    l < 144 → s.hive.lmode l ≠ 2 → s.hive.reaches n.val (s.hive.dest n.val 0) = true →
    (∀ d : Fin 4, d ≠ 0 → srcKind (s.hive.dest n.val d.val) = 0) → mg = s.hive.get (F.strGain_mult sl.val p.val) →
    ramp = (s.hive.st n.val == stRampUp || s.hive.st n.val == stRampDown) →
    ms = (if s.hive.st n.val = stRampUp then rampUp (s.hive.sget n.val).shape (s.hive.sget n.val).len
        (min (s.hive.get (F.smkStat_pos n.val) + 1) (s.hive.sget n.val).len)
      else if s.hive.st n.val = stRampDown then rampDown (s.hive.sget n.val).shape (s.hive.sget n.val).len
        (min (s.hive.get (F.smkStat_pos n.val) + 1) (s.hive.sget n.val).len)
      else (s.hive.sget n.val).ms) →
    ∀ taint : Bool, taint = (x.ovr || decide (0 < s.hive.get (F.strTaint_left sl.val p.val)) ||
          (s.hive.hget (2 * sl.val + p.val)).satIn || satHit (gainOut x.i mg ms) || satHit (gainOut x.q mg ms)) →
      ∀ out : Sample, out = ⟨sat16 (gainOut x.i mg ms), sat16 (gainOut x.q mg ms), taint⟩ →
      Completes (.strainerSample sl p x) s (fun h' => (h'.sget n.val).ms = ms ∧ h'.flag (F.rteStatus_tainted n.val) = taint ∧
        Tbl.get (fun _ => []) h'.txq (l * 4096 + srcB (s.hive.dest n.val 0)) =
          (if s.hive.lmode l = 1 then [{ out with ovr := false }]
          else Tbl.get (fun _ => []) s.hive.txq (l * 4096 + srcB (s.hive.dest n.val 0)) ++ [out]) ∧
        Kept (fun a => a == R.rteStatus n.val || (ramp && a == R.smkStat n.val) ||
          (decide (0x300000 + 0x400 * sl.val ≤ a) && decide (a < 0x300400 + 0x400 * sl.val))) s.hive h')) ∧
  ((s.hive.hget (2 * sl.val + p.val)).settleLeft = 0 → Completes (.dcSettleEnd sl p) s (fun h' =>
    h' = s.hive.setFlag (F.strDcCtl_frozen sl.val p.val) (s.hive.flag (F.strDcCtl_freeze sl.val p.val)))) ∧
  ((s.hive.hget (2 * sl.val + p.val)).settleLeft ≠ 0 → exec (.dcSettleEnd sl p) s = .next s) ∧
  (∀ (n : StreamId) (left : Nat), left = s.hive.get (F.strTaint_left (s.hive.lastSlice n.val) (s.hive.lastHalf n.val)) →
    (left = 0 → Completes (.taintEnd n) s (fun h' => h'.flag (F.rteStatus_tainted n.val) = false ∧
      Kept (fun a => a == R.rteStatus n.val) s.hive h')) ∧ (left ≠ 0 → exec (.taintEnd n) s = .next s)) ∧
  (∀ (w : RegWrite) (v : Int), v = sext 16 w.value.toNat → goodWrite w (R.strRsPhase sl.val p.val) false = true →
    (-2048 ≤ v → v ≤ 2048 → s.hive.flag (F.strRsCtl_trim sl.val p.val) = true → Completes (.rsPhaseWrite w) s (fun h' =>
      sext 16 (h'.rd (R.strRsPhase sl.val p.val)).toNat = v ∧
      (∀ n, s.hive.halfStream sl.val p.val = some n →
        h'.get (F.strGd_gd sl.val p.val) = h'.gdOf n sl.val p.val % 2 ^ (F.strGd_gd sl.val p.val).w) ∧
      Kept (sideOr (fun a => a == R.strRsPhase sl.val p.val || a == R.strGd sl.val p.val)) s.hive h')) ∧
    (v < -2048 ∨ 2048 < v → TurnedAway (.rsPhaseWrite w) s stBadArg) ∧
    (-2048 ≤ v → v ≤ 2048 → s.hive.flag (F.strRsCtl_trim sl.val p.val) = false →
      TurnedAway (.rsPhaseWrite w) s stWrong)) ∧
  (∀ w : RegWrite, goodWrite w (R.strMaCtl sl.val p.val) false = true → Completes (.maLenWrite w) s (fun h' =>
    h'.get (F.strMaCtl_len sl.val p.val) = w.value.toNat % 4096 ∧ (h'.hget (2 * sl.val + p.val)).win = [] ∧
    Kept (fun a => logReg a || a == R.strMaCtl sl.val p.val) s.hive h'))

/-- Bank swaps, group delay and sieve banks (R100 to R104, R114). The model's choices in it: log entries 5, 177,
211, 233, 234. -/
def Obligations.BankSwaps : Prop := ∀ (s : State) (sl : SliceId) (p : Fin 2) (half : Nat) (ok : Bool),
  half = 2 * sl.val + p.val →
  ok = s.hive.flag (bankFlag sl.val p.val (!s.hive.flag (F.strFirCtl_bank sl.val p.val))) →
  (∀ c : CmdEntry, goodEntry c 0x07 true (sl.val + 1024 * p.val) 0 0 = true → admits s.hive.mode .timed = true →
    s.hive.leadOk c.t.toNat false = true →
    (s.hive.halfStream sl.val p.val ≠ none → ok = true → s.hive.flag F.timStat_load_pend = false →
      s.hive.sched.length < 256 → Completes (.bankSwap c) s (fun h' => h'.flag (F.strFirCtl_swap_pend sl.val p.val) = true ∧
        h'.sched = (if s.hive.flag (F.strFirCtl_swap_pend sl.val p.val)
          then s.hive.sched.filter (fun o => o.kind != .bankSwap half) else s.hive.sched) ++ [⟨c.t.toNat, .bankSwap half⟩] ∧
        h'.getPair (R.strSwapTLo sl.val p.val) (R.strSwapTHi sl.val p.val) = c.t.toNat ∧
        Kept (fun a => logReg a || a == R.strFirCtl sl.val p.val || a == R.strSwapTLo sl.val p.val ||
          a == R.strSwapTHi sl.val p.val) s.hive h')) ∧
    (s.hive.halfStream sl.val p.val = none ∨ ok = false → Completes (.bankSwap c) s (LogOnly s.hive))) ∧
  (s.hive.due (.bankSwap half) = true → (∀ n, s.hive.halfStream sl.val p.val = some n → s.hive.patchFirst n = false) → Completes (.bankSwapAtT sl p) s (fun h' =>
    h'.sched = s.hive.sched.filter (fun o => o.kind != .bankSwap half) ∧
    h'.flag (F.strFirCtl_swap_pend sl.val p.val) = false ∧
    h'.flag (F.strFirCtl_bank sl.val p.val) = (if ok then !s.hive.flag (F.strFirCtl_bank sl.val p.val)
      else s.hive.flag (F.strFirCtl_bank sl.val p.val)) ∧
    h'.get (F.strFirCtl_swap_last sl.val p.val) = (if ok then 0 else 1) ∧
    (ok = true → s.hive.halfStream sl.val p.val ≠ none → h'.get (F.strFirCtl_taps sl.val p.val) = (h'.activeSet sl.val p.val).n % 2 ^ (F.strFirCtl_taps sl.val p.val).w) ∧
    (ok = false → h'.faultOn 0x03 0x03 (0x800 + sl.val) 1 = true) ∧
    Kept (sideOr (fun a => a == R.strFirCtl sl.val p.val || a == R.strGd sl.val p.val || a == R.strGdMeas sl.val p.val))
      s.hive h')) ∧
  (s.hive.due (.bankSwap half) = false → exec (.bankSwapAtT sl p) s = .next s) ∧
  (∀ gd : Fin 16777216,
    (∀ n, s.hive.halfStream sl.val p.val = some n → s.hive.flag (F.strFirCtl_minph sl.val p.val) = true →
      Completes (.gdMeasurementComplete sl p gd) s (fun h' => h'.get (F.strGdMeas_gd sl.val p.val) = gd.val ∧
        h'.flag (F.strGdMeas_valid sl.val p.val) = true ∧ Kept (sideOr (fun a => a == R.strGdMeas sl.val p.val)) s.hive h' ∧
        (16 * (s.hive.tIn sl.val p.val n).1 * s.hive.halfRatio sl.val p.val <
            ((gd.val : Int) - s.hive.get (F.strGd_gd sl.val p.val)).natAbs * (s.hive.tIn sl.val p.val n).2 * 2 ^ 32 →
          h'.faultOn 0x03 0x04 (0x800 + sl.val) 1 = true))) ∧
    (s.hive.halfStream sl.val p.val = none ∨ s.hive.flag (F.strFirCtl_minph sl.val p.val) = false →
      exec (.gdMeasurementComplete sl p gd) s = .next s)) ∧
  (∀ b : BankId,
    (s.hive.sieveFills b.val = true → (s.hive.sieveGet b.val).fill = 0 → Completes (.sieveFillEnd b) s (fun h' =>
      h'.get (F.sivStat_state b.val) = 2 ∧ Kept (fun a => routeReg a || a == R.sivStat b.val) s.hive h')) ∧
    (s.hive.sieveFills b.val = false ∨ (s.hive.sieveGet b.val).fill ≠ 0 → exec (.sieveFillEnd b) s = .next s))

/-- Tiles of a gated group (R163 to R170). The model's choices in it: log entries 5, 6, 62, 81, 242, 243, 244, 245. -/
def Obligations.UgtTiles : Prop := ∀ (s : State) (g : GroupId),
  (s.hive.flag (F.ugtCtl_en g.val) = true → s.hive.gtc % 32768 = 0 → s.hive.gtc ≠ 0 → (s.hive.ugtGet g.val).tile = none →
    rwcOk (s.hive.rd (R.ugtThr g.val)) = true → Completes (.tileEnd g) s (fun h' =>
      (∃ x, (h'.ugtGet g.val).tile = some x ∧ x.idx = s.hive.gtc / 32768 - 1 ∧ x.thr = s.hive.rwcS (R.ugtThr g.val) ∧
        x.hang = s.hive.get (F.ugtHang_hang g.val) ∧ x.force = s.hive.flag (F.ugtCtl_force_open g.val) ∧
        x.res = s.hive.forcedBy g.val ∧
        x.relearn = (List.range 64).filter (fun i => s.hive.flag (F.ugtIn_relearn g.val i)) ∧
        ∀ (i : Fin 64) (n b : Nat), s.hive.slotStream g.val i.val = some n → s.hive.analysisOf g.val n = some b →
          (s.hive.sieveGet b).accTile = s.hive.gtc / 32768 - 1 → x.sums.getD i.val [] = (s.hive.sieveGet b).acc ∧
            x.tainted.getD i.val false = (s.hive.sieveGet b).accTaint ∧ x.filling.getD i.val false = (s.hive.sieveGet b).accFill) ∧
      Kept (inRange (R.ugtIn g.val 0) 256) s.hive h' ∧ ∀ i : Fin 64, h'.flag (F.ugtIn_relearn g.val i.val) = true →
        bitOf (s.hive.edgeMask (R.ugtIn g.val i.val)) (F.ugtIn_relearn g.val i.val).lo = true)) ∧
  (s.hive.flag (F.ugtCtl_en g.val) = false ∨ s.hive.gtc % 32768 ≠ 0 ∨ s.hive.gtc = 0 → exec (.tileEnd g) s = .next s) ∧
  (∀ x : TileSt, s.hive.flag (F.ugtCtl_en g.val) = true → (s.hive.ugtGet g.val).tile = some x →
    (s.hive.gtc ≤ x.due → Completes (.ugtDecision g) s (fun h' => (h'.ugtGet g.val).tile = none ∧
      (h'.ugtGet g.val).tiles = (s.hive.ugtGet g.val).tiles + 1 ∧ Kept (inRange (R.ugtCtl g.val) 512) s.hive h' ∧
      ∀ (i : Fin 64) (k : Fin 512) (n : Nat) (e : Nat × Nat) (u v : UgtSub) (learning bad forced above : Bool),
        s.hive.slotStream g.val i.val = some n → s.hive.get (F.ugtIn_state g.val i.val) ≠ inPaused →
        s.hive.get (F.ugtIn_state g.val i.val) ≠ 0 → i.val ∉ x.relearn →
        e = (4 * (x.sums.getD i.val []).getD k.val 0, s.hive.tileLog n) →
        u = (s.hive.ugtSlot g.val i.val).subs.getD k.val UgtSub.init →
        v = (h'.ugtSlot g.val i.val).subs.getD k.val UgtSub.init →
        learning = (s.hive.get (F.ugtIn_state g.val i.val) == inLearning) →
        bad = (x.tainted.getD i.val false || x.filling.getD i.val false) →
        forced = (learning || bad || x.force || s.hive.flag (F.ugtStat_trk_lost g.val)) →
        above = tileAbove e (u.floor.map floorFrac) x.thr →
        (k.val ∉ s.hive.ugtBands g.val → v.en = false) ∧
        (k.val ∈ s.hive.ugtBands g.val → (forced = true → v.en = true) ∧
          (forced = false → k.val ∉ x.res → v.en = (above || (decide (1 ≤ u.hang) && decide (u.hang ≤ x.hang)))) ∧
          (above = true → v.floor = u.floor) ∧
          (above = false → bad = false → k.val ∉ x.res → s.hive.flag (F.ugtStat_trk_lost g.val) = false →
            (u.floor = none → v.floor = some (floorPack e)) ∧
            ∀ f, u.floor = some f → v.floor = some (floorPack (floorStep (if learning || fracLt e (floorFrac f)
              then s.hive.get (F.ugtLearn_a_learn g.val) else s.hive.get (F.ugtLearn_a_track g.val)) e (floorFrac f))))))) ∧
    (x.due ≤ s.hive.gtc → Completes (.ugtDecisionLate g) s (fun h' => (h'.ugtGet g.val).tile = none ∧
      h'.get (F.ugtStat_late g.val) = satInc 16 (s.hive.get (F.ugtStat_late g.val)) 1 ∧
      Kept (inRange (R.ugtCtl g.val) 512) s.hive h' ∧ ∀ (i : Fin 64) (k : Fin 512) (n : Nat),
        s.hive.slotStream g.val i.val = some n → s.hive.get (F.ugtIn_state g.val i.val) ≠ inPaused →
        s.hive.get (F.ugtIn_state g.val i.val) ≠ 0 → i.val ∉ x.relearn →
        ((h'.ugtSlot g.val i.val).subs.getD k.val UgtSub.init).en = decide (k.val ∈ s.hive.ugtBands g.val))) ∧
    (s.hive.gtc < x.due → exec (.ugtDecisionLate g) s = .next s)) ∧
  (s.hive.flag (F.ugtCtl_en g.val) = false ∨ (s.hive.ugtGet g.val).tile = none →
    exec (.ugtDecision g) s = .next s ∧ exec (.ugtDecisionLate g) s = .next s)

/-- Learning and report of a gated group (R168, R172). The model's choices in it: log entries 5, 62, 245, 246. -/
def Obligations.UgtLearning : Prop := ∀ (s : State) (g : GroupId) (i : Fin 64) (k : Fin 512),
  (∀ w : RegWrite, goodWrite w (R.ugtIn g.val i.val) false = true → Completes (.ugtRelearn w) s (fun h' =>
    h'.flag (F.ugtIn_relearn g.val i.val) = (s.hive.flag (F.ugtIn_relearn g.val i.val) || bitOf w.value.toNat 2) ∧
    Kept (fun a => logReg a || a == R.ugtIn g.val i.val) s.hive h')) ∧
  (s.hive.get (F.ugtIn_state g.val i.val) = inLearning →
    max 1 (s.hive.get (F.ugtLearn_learn_t g.val)) ≤ (s.hive.ugtSlot g.val i.val).cnt →
    Completes (.ugtLearnComplete g i) s (fun h' => h'.get (F.ugtIn_state g.val i.val) = inGating ∧
      Kept (fun a => a == R.ugtIn g.val i.val) s.hive h')) ∧
  (s.hive.get (F.ugtIn_state g.val i.val) ≠ inLearning ∨
      (s.hive.ugtSlot g.val i.val).cnt < max 1 (s.hive.get (F.ugtLearn_learn_t g.val)) → exec (.ugtLearnComplete g i) s = .next s) ∧
  (∀ x : UgtSub, x = (s.hive.ugtSlot g.val i.val).subs.getD k.val UgtSub.init →
    (s.hive.get (F.ugtLearn_stuck_s g.val) ≠ 0 → x.stuck = false →
      s.hive.get (F.ugtLearn_stuck_s g.val) * 30000 ≤ x.above → s.hive.get (F.ugtIn_stuck g.val i.val) < 512 →
      Completes (.ugtStuck g i k) s (fun h' =>
        h'.get (F.ugtIn_stuck g.val i.val) = s.hive.get (F.ugtIn_stuck g.val i.val) + 1 ∧
        ((h'.ugtSlot g.val i.val).subs.getD k.val UgtSub.init).stuck = true ∧
        (s.hive.get (F.ugtIn_stuck g.val i.val) = 0 → h'.faultOn 0x08 0x08 (0x2100 + g.val) 1 = true) ∧
        Kept (fun a => faultReg a || a == R.ugtIn g.val i.val) s.hive h')) ∧
    (x.above < s.hive.get (F.ugtLearn_stuck_s g.val) * 30000 → exec (.ugtStuck g i k) s = .next s)) ∧
  (∀ (u : UgtSt) (inb : Nat), u = s.hive.ugtGet g.val → inb = (s.hive.ugtBands g.val).length →
    s.hive.flag (F.ugtCtl_en g.val) = true → s.hive.gtc % 33554432 = 0 → Completes (.ugtReport g) s (fun h' =>
      Kept (fun a => a == R.ugtReport g.val || a == R.ugtActive g.val) s.hive h' ∧
      (h'.ugtGet g.val).tiles = 0 ∧ (h'.ugtGet g.val).ones = 0 ∧
      (u.act = 0 ∨ u.tiles * inb = 0 → h'.flag (F.ugtReport_valid g.val) = false ∧
        h'.get (F.ugtReport_saving g.val) = 0x8000 ∧ h'.get (F.ugtActive_active g.val) = 0x8000) ∧
      (u.act ≠ 0 → u.tiles * inb ≠ 0 → h'.flag (F.ugtReport_valid g.val) = true ∧
        (roundEvenN (256 * u.ones) (u.tiles * inb) < 65536 →
          h'.get (F.ugtActive_active g.val) = roundEvenN (256 * u.ones) (u.tiles * inb)) ∧
        h'.flag (F.ugtReport_allclosed g.val) = decide (u.ones = 0) ∧
        (u.ones = 0 → h'.getS (F.ugtReport_saving g.val) = 15360) ∧
        (u.ones ≠ 0 → ∀ d : Int, dbPower (u.sumF.1 * 2 ^ u.sumEF.2) (u.sumEF.1 * 2 ^ u.sumF.2) = some d →
          h'.getS (F.ugtReport_saving g.val) = min 15360 (max 0 d))))) ∧
  (s.hive.flag (F.ugtCtl_en g.val) = false ∨ s.hive.gtc % 33554432 ≠ 0 → exec (.ugtReport g) s = .next s)

/-- A boundary of a contest (R178 to R186). The model's choices in it: log entries 5, 76, 83, 257, 258, 259. -/
def Obligations.LoopBoundary : Prop := (∀ (s : State) (n : StreamId) (per : Nat) (b up dn : Int) (sl : LoopId),
  per = s.hive.get (F.gceConCfg_n n.val) * 1024 →
  ((per = 0 ∨ s.hive.gtc % per ≠ 0 ∨ s.hive.isStream n.val = false → exec (.loopBoundary n) s = .next s) ∧
  (per ≠ 0 → s.hive.gtc % per = 0 → s.hive.isStream n.val = true →
    s.hive.get (F.steCfg_loop0 n.val) + s.hive.get (F.steCfg_nloops n.val) ≤ 2048 →
    b = min (sext 32 (s.hive.rd (R.gceGExact n.val)).toNat) (s.hive.ceilOf n.val * 65536) →
    up = slewStep (s.hive.gceVal (R.gceSlewUp n.val)) (s.hive.get (F.gceConCfg_n n.val)) →
    dn = slewStep (s.hive.gceVal (R.gceSlewDn n.val)) (s.hive.get (F.gceConCfg_n n.val)) →
    Completes (.loopBoundary n) s (fun h' => h'.getS (F.gceG_in_force n.val) = clampS 16 (roundEven b 65536) ∧
      Kept (sideOr (fun a => inRange (R.gceConCfg n.val) 32 a ||
        a == R.strGain (s.hive.lastSlice n.val) (s.hive.lastHalf n.val) ||
        inRange (R.gceLoopCfg (s.hive.get (F.steCfg_loop0 n.val))) (s.hive.get (F.steCfg_nloops n.val) * 32) a)) s.hive h' ∧
      ((rwcOk (s.hive.rd (R.gceSlewUp n.val)) && rwcOk (s.hive.rd (R.gceSlewDn n.val)) &&
          rwcOk (s.hive.rd (R.gceLimHi n.val)) && rwcOk (s.hive.rd (R.gceLimLo n.val)) &&
          rwcOk (s.hive.wc (s.hive.tenant n.val) 0) && rwcOk (s.hive.wc (s.hive.tenant n.val) 1)) = true →
        (s.hive.npmRuns n.val = false → h'.flag (F.gceConStat_stream_hold n.val) = true ∧
          h'.rd (R.gceGExact n.val) = BitVec.ofInt 32 (s.hive.clampLo n.val * 65536)) ∧
        (s.hive.st n.val = stRampDown → h'.flag (F.gceConStat_stream_hold n.val) = false ∧
          h'.rd (R.gceGExact n.val) = BitVec.ofInt 32 (b + min (max (clampTo ((s.hive.conGet n.val).c.getD b)
            (s.hive.clampLo n.val * 65536) (s.hive.clampHi n.val * 65536) - b) (-dn)) up)) ∧
        (s.hive.st n.val = stRampUp ∨ s.hive.st n.val = stLive →
          h'.flag (F.gceConStat_stream_hold n.val) = false ∧
          (s.hive.get (F.steCfg_nloops n.val) = 0 → h'.flag (F.gceConStat_none n.val) = true ∧
            (h'.conGet n.val).c = some b ∧ h'.rd (R.gceGExact n.val) = BitVec.ofInt 32 (b + min (max (clampTo b
              (s.hive.clampLo n.val * 65536) (s.hive.clampHi n.val * 65536) - b) (-dn)) up)) ∧
          (s.hive.get (F.steCfg_nloops n.val) = 1 → s.hive.get (F.steCfg_loop0 n.val) = sl.val →
            s.hive.get (F.gceLoopState_state sl.val) = lpClosed → (s.hive.loopGet sl.val).cmd = 0 →
            (s.hive.loopGet sl.val).cmdPrev = 0 →
            isPi (s.hive.get (F.gceLoopCfg_type sl.val)) = true → s.hive.flag (F.gceLoopState_dormant sl.val) = false →
            rwcOk (s.hive.rd (R.gceSetp sl.val)) = true → ∀ m e kp ki u g : Int,
            s.hive.loopReading n.val sl.val (roundEven b 65536) = some m →
            e = (if s.hive.get (F.gceLoopCfg_type sl.val) = 2 then m - s.hive.gceValS (R.gceSetp sl.val)
              else s.hive.gceValS (R.gceSetp sl.val) - m) →
            kp = sext 16 (s.hive.gceVal (R.gceKp sl.val)) → ki = sext 16 (s.hive.gceVal (R.gceKi sl.val)) →
            u = tentU (tentI (s.hive.loopGet sl.val).integ ki e) kp e →
            g = b + min (max (clampTo (u * 65536) (s.hive.clampLo n.val * 65536) (s.hive.clampHi n.val * 65536) - b) (-dn)) up →
            ((s.hive.loopGet sl.val).ready = true → h'.getS (F.gceOut_u sl.val) = u ∧
              h'.rd (R.gceGExact n.val) = BitVec.ofInt 32 g ∧ (h'.loopGet sl.val).integ =
                (if g = u * 65536 then tentI (s.hive.loopGet sl.val).integ ki e else (s.hive.loopGet sl.val).integ) ∧
              h'.flag (F.gceLoopState_committed sl.val) = decide (g = u * 65536) ∧
              h'.flag (F.gceLoopState_winner sl.val) = true) ∧
            ((s.hive.loopGet sl.val).ready = false → (h'.loopGet sl.val).integ = initI b kp e ∧
              (h'.loopGet sl.val).ready = true ∧ h'.flag (F.gceLoopState_committed sl.val) = false)) ∧
          (sl.val ∈ s.hive.slotsOf n.val → (s.hive.loopGet sl.val).cmd = 1 → (s.hive.loopGet sl.val).cmdAt ≠ s.hive.gtc →
            h'.get (F.gceLoopState_state sl.val) = lpOpen ∧ h'.flag (F.gceLoopState_pend sl.val) = false ∧
            h'.flag (F.gceLoopState_capped sl.val) = (s.hive.loopGet sl.val).ready))))))) ∧
  ∀ es : List Entrant, es.Pairwise (fun a c => a.slot < c.slot) → ∀ w, winnerOf es = some w →
    w ∈ es ∧ ∀ e ∈ es, w.u ≤ e.u ∧ (e.u = w.u → w.slot ≤ e.slot)

/-- Commands and parameters of loops (R180, R190, R192). The model's choices in it: log entries 5, 82. -/
def Obligations.LoopWrites : Prop := ∀ (s : State) (w : RegWrite) (sl : LoopId) (n : StreamId) (p : PinId) (v ty st : Nat) (x : Int),
  v = w.value.toNat → x = sext 16 v → ty = s.hive.get (F.gceLoopCfg_type sl.val) →
  st = s.hive.get (F.gceLoopState_state sl.val) →
  (∀ i ∈ [Instr.loopOpen w, .loopClose w, .loopHold w, .loopRelease w], goodWrite w (R.gceLoopCtl sl.val) false = true →
    (ty = 0 ∨ v % 8 = 0 ∨ 4 < v % 8 → TurnedAway i s stBadArg) ∧
    (ty ≠ 0 → v % 8 ≠ 0 → v % 8 ≤ 4 → ∀ ok : Bool,
      ok = (match v % 8 with
        | 1 => st == lpClosed || st == lpHeld
        | 2 => st == lpOpen || st == lpHeld
        | 3 => st == lpClosed
        | _ => st == lpOpen) →
      (ok = false → TurnedAway i s stWrong) ∧
      (ok = true → Completes i s (fun h' => (h'.loopGet sl.val).cmd = v % 8 ∧ (h'.loopGet sl.val).cmdAt = s.hive.gtc ∧
        h'.flag (F.gceLoopState_pend sl.val) = true ∧
        h'.get (F.gceLoopState_state sl.val) = st ∧ Kept (fun a => logReg a || a == R.gceLoopState sl.val) s.hive h')))) ∧
  (∀ a ∈ [R.gceKp sl.val, R.gceKi sl.val], goodWrite w a false = true →
    (ty = 0 → TurnedAway (.kpKiWrite w) s stBadArg) ∧ (ty ≠ 0 → st ≠ lpOpen → TurnedAway (.kpKiWrite w) s stWrong) ∧
    (ty ≠ 0 → st = lpOpen → Taken (.kpKiWrite w) s a (BitVec.ofNat 32 (v % 65536 + (s.hive.rd a).toNat / 65536 * 65536)))) ∧
  (goodWrite w (R.gceSetp sl.val) true = true → ∀ t m, m = s.hive.get (F.gceLoopCfg_stream sl.val) → t = s.hive.tenant m →
    (ty = 1 → s.hive.envUsed t = true → s.hive.wcS t 2 < x → TurnedAway (.setpWrite w) s stDenied) ∧
    (ty = 6 → ¬(s.hive.gminOf m ≤ x ∧ x ≤ s.hive.gmaxOf m) → TurnedAway (.setpWrite w) s stDenied) ∧
    ((ty = 2 ∧ ¬(0 ≤ x ∧ x ≤ 10240)) ∨ (ty = 3 ∧ ¬(128 ≤ x ∧ x ≤ 5120)) ∨ (ty = 4 ∧ ¬(15360 ≤ x ∧ x ≤ 32000)) ∨
      ty = 0 ∨ ty = 5 ∨ ty = 7 → TurnedAway (.setpWrite w) s stBadArg) ∧
    ((ty = 1 ∧ (s.hive.envUsed t = false ∨ x ≤ s.hive.wcS t 2)) ∨ (ty = 2 ∧ 0 ≤ x ∧ x ≤ 10240) ∨
      (ty = 3 ∧ 128 ≤ x ∧ x ≤ 5120) ∨ (ty = 4 ∧ 15360 ≤ x ∧ x ≤ 32000) ∨
      (ty = 6 ∧ s.hive.gminOf m ≤ x ∧ x ≤ s.hive.gmaxOf m) → Taken (.setpWrite w) s (R.gceSetp sl.val) w.value)) ∧
  (∀ hi : Bool, goodWrite w (if hi then R.gceLimHi n.val else R.gceLimLo n.val) true = true → ∀ ordered free : Prop,
    (ordered ↔ if hi then s.hive.rwcS (R.gceLimLo n.val) ≤ x else x ≤ s.hive.rwcS (R.gceLimHi n.val)) →
    (free ↔ x = (if hi then 32767 else -32768) ∨ (s.hive.gminOf n.val ≤ x ∧ x ≤ s.hive.gmaxOf n.val)) →
    (¬ordered → TurnedAway (.gceLimitWrite w) s stBadArg) ∧ (ordered → ¬free → TurnedAway (.gceLimitWrite w) s stDenied) ∧
    (ordered → free → Taken (.gceLimitWrite w) s (if hi then R.gceLimHi n.val else R.gceLimLo n.val) w.value)) ∧
  (∀ a ∈ [R.gceSlewUp n.val, R.gceSlewDn n.val], goodWrite w a true = true →
    (v % 65536 = 0 → TurnedAway (.slewWrite w) s stBadArg) ∧ (v % 65536 ≠ 0 → Taken (.slewWrite w) s a w.value)) ∧
  (∀ a ∈ [R.gceSetpLo p.val, R.gceSetpHi p.val], goodWrite w a true = true → ∀ ok : Prop,
    (ok ↔ ∀ m ∈ s.hive.pinStreams p.val, s.hive.gminOf m ≤ x ∧ x ≤ s.hive.gmaxOf m) →
    (ok → Taken (.setpRangeWrite w) s a w.value) ∧ (¬ok → TurnedAway (.setpRangeWrite w) s stDenied)) ∧
  (∀ m q : Nat, m = s.hive.get (F.gceLoopCfg_stream sl.val) →
    q = (s.hive.loopGet sl.val).quiet + (match (s.hive.loopGet sl.val).since with | some t => s.hive.ticks - t | none => 0) →
    (isPi ty = true → st = lpClosed → (s.hive.st m = stRampUp ∨ s.hive.st m = stLive) →
      s.hive.flag (F.gceLoopState_stale sl.val) = false → s.hive.flag (F.gceLoopState_dormant sl.val) = false →
      s.hive.heldBySleep m = false → 100 * Config.msTicks ≤ q → Completes (.loopStale sl) s (fun h' =>
        h'.flag (F.gceLoopState_stale sl.val) = true ∧ h'.faultOn 0x07 0x01 (0x1800 + sl.val) 1 = true ∧
        Kept (fun a => faultReg a || a == R.gceLoopState sl.val) s.hive h')) ∧
    (isPi ty = false ∨ st ≠ lpClosed ∨ q < 100 * Config.msTicks → exec (.loopStale sl) s = .next s))

/-- Set-point pins (R187, R188). The model's choices in it: log entries 5, 84, 260. -/
def Obligations.SetpointPins : Prop := ∀ (s : State) (p : PinId) (lo hi : Int) (st : PinSt),
  lo = s.hive.rwcS (R.gceSetpLo p.val) → hi = s.hive.rwcS (R.gceSetpHi p.val) → st = s.hive.pinGet p.val →
  rwcOk (s.hive.rd (R.gceSetpLo p.val)) = true → rwcOk (s.hive.rd (R.gceSetpHi p.val)) = true →
  (∀ high period : Nat, high ≤ period →
    (s.hive.flag (F.gceSetpCtl_en p.val) = false ∨ s.hive.flag (F.gceSetpCtl_mode p.val) = true →
      exec (.pwmPeriodComplete p high period) s = .next s) ∧
    (s.hive.flag (F.gceSetpCtl_en p.val) = true → s.hive.flag (F.gceSetpCtl_mode p.val) = false →
      (98304 ≤ 10 * period → period ≤ 983040 → Completes (.pwmPeriodComplete p high period) s (fun h' =>
        h'.get (F.gceSetpVal_raw p.val) = roundEvenN (4096 * high) period ∧
        Kept (fun a => faultReg a || a == R.gceSetpVal p.val) s.hive h' ∧
        (s.hive.flag (F.gceSetpVal_held p.val) = true →
          h'.get (F.gceSetpVal_value p.val) = s.hive.get (F.gceSetpVal_value p.val)) ∧
        (s.hive.flag (F.gceSetpVal_held p.val) = false → h'.flag (F.gceSetpVal_valid p.val) = true ∧
          h'.getS (F.gceSetpVal_value p.val) = roundEven (lo * 4096 + (hi - lo) * roundEvenN (4096 * high) period) 4096))) ∧
      (10 * period < 98304 ∨ 983040 < period → Completes (.pwmPeriodComplete p high period) s (fun h' =>
        h'.flag (F.gceSetpVal_badper p.val) = true ∧
        h'.get (F.gceSetpVal_value p.val) = s.hive.get (F.gceSetpVal_value p.val) ∧
        Kept (fun a => a == R.gceSetpVal p.val) s.hive h')))) ∧
  (∀ (code : Fin 4096) (xs : List Nat), xs = (code.val :: st.conv).take (2 ^ min 8 (s.hive.get (F.gceSetpCtl_avg p.val))) →
    (∀ c ∈ st.conv, c ≤ 4095) →
    (s.hive.flag (F.gceSetpCtl_en p.val) = false ∨ s.hive.flag (F.gceSetpCtl_mode p.val) = false →
      exec (.analogueConversion p code) s = .next s) ∧
    (s.hive.flag (F.gceSetpCtl_en p.val) = true → s.hive.flag (F.gceSetpCtl_mode p.val) = true →
      Completes (.analogueConversion p code) s (fun h' =>
        h'.get (F.gceSetpVal_raw p.val) = roundEvenN xs.sum xs.length ∧ (h'.pinGet p.val).conv = xs ∧
        Kept (fun a => faultReg a || a == R.gceSetpVal p.val) s.hive h' ∧
        (s.hive.flag (F.gceSetpVal_held p.val) = true →
          h'.get (F.gceSetpVal_value p.val) = s.hive.get (F.gceSetpVal_value p.val)) ∧
        (s.hive.flag (F.gceSetpVal_held p.val) = false → s.hive.flag (F.gceSetpVal_valid p.val) = false →
          (roundEvenN xs.sum xs.length = 0 ∨ roundEvenN xs.sum xs.length = 4095) →
          h'.flag (F.gceSetpVal_valid p.val) = false ∧ h'.get (F.gceSetpVal_value p.val) = s.hive.get (F.gceSetpVal_value p.val)) ∧
        (s.hive.flag (F.gceSetpVal_held p.val) = false → s.hive.flag (F.gceSetpVal_valid p.val) = true ∨
          (roundEvenN xs.sum xs.length ≠ 0 ∧ roundEvenN xs.sum xs.length ≠ 4095) → h'.flag (F.gceSetpVal_valid p.val) = true ∧
          h'.getS (F.gceSetpVal_value p.val) = roundEven (lo * 4095 + (hi - lo) * roundEvenN xs.sum xs.length) 4095)))) ∧
  (s.hive.flag (F.gceSetpCtl_en p.val) = true → s.hive.flag (F.gceSetpVal_held p.val) = false →
    (s.hive.flag (F.gceSetpCtl_mode p.val) = false ∨ ∃ v, st.before = some v ∧ v < 65536) →
    Completes (.setpPinLoss p) s (fun h' => h'.flag (F.gceSetpVal_held p.val) = true ∧
      h'.faultOn 0x07 0x02 (0x20 + p.val) 2 = true ∧ Kept (fun a => faultReg a || a == R.gceSetpVal p.val) s.hive h' ∧
      h'.get (F.gceSetpVal_value p.val) = (if s.hive.flag (F.gceSetpCtl_mode p.val) then
        st.before.getD (s.hive.get (F.gceSetpVal_value p.val)) else s.hive.get (F.gceSetpVal_value p.val)))) ∧
  (s.hive.flag (F.gceSetpCtl_en p.val) = false ∨ s.hive.flag (F.gceSetpVal_held p.val) = true ∨
      (s.hive.flag (F.gceSetpCtl_mode p.val) = true ∧ st.before = none) → exec (.setpPinLoss p) s = .next s) ∧
  (∀ full : Nat, full = (if s.hive.flag (F.gceSetpCtl_mode p.val) then 4095 else 4096) →
    s.hive.flag (F.gceSetpVal_held p.val) = true → s.hive.get (F.gceSetpVal_raw p.val) ≤ full →
    (if s.hive.flag (F.gceSetpCtl_mode p.val) then st.before = none ∧ st.conv ≠ [] else 2 ≤ st.run) →
    Completes (.setpPinRecovery p) s (fun h' => h'.flag (F.gceSetpVal_held p.val) = false ∧
      h'.getS (F.gceSetpVal_value p.val) = roundEven (lo * full + (hi - lo) * s.hive.get (F.gceSetpVal_raw p.val)) full ∧
      Kept (fun a => faultReg a || a == R.gceSetpVal p.val) s.hive h' ∧
      ∀ i, s.hive.fltFind 0x07 0x02 (0x20 + p.val) = some i → (s.hive.flt i).selfc = true →
        (h'.flt i).hasKey 0x07 0x02 (0x20 + p.val) = true → (h'.flt i).active = false)) ∧
  (s.hive.flag (F.gceSetpVal_held p.val) = false → exec (.setpPinRecovery p) s = .next s)

/-- Kernels that miss, are lost and return (R220, R222, R225). The model's choices in it: log entries 5, 8, 266. -/
def Obligations.KernelFailures : Prop := ∀ (s : State) (w : WorkerId) (k : Nat) (bad dl : Bool), k = s.hive.kid w.val →
  dl = (match s.hive.kdeclOf w.val with
    | some d => d.deadline != 0
    | none => [1, 2, 3, 4, 7].contains k) →
  (s.hive.kvalid w.val = false ∨ dl = false ∨ s.hive.combAwake (w.val / 8) = false → exec (.kernelDeadlineMiss w bad) s = .next s) ∧
  (s.hive.kvalid w.val = true → s.hive.combAwake (w.val / 8) = true → dl = true → Completes (.kernelDeadlineMiss w bad) s (fun h' =>
      h'.get (F.wrkStat_misses (w.val / 8) (w.val % 8)) = satInc 8 (s.hive.get (F.wrkStat_misses (w.val / 8) (w.val % 8))) 1 ∧
      ((s.hive.wget w.val).missRun < 2 → (h'.wget w.val).missRun = (s.hive.wget w.val).missRun + 1 ∧
        Kept (fun a => a == R.wrkStat (w.val / 8) (w.val % 8) ||
          (decide (k = 2) && inRange (R.ugtCtl (s.hive.instOf w.val)) 512 a)) s.hive h' ∧
        (k = 1 ∨ k = 4 → (h'.wget w.val).zero = s.hive.blockOf w.val) ∧
        (k = 3 → ∀ t ∈ s.hive.slotsOfWorker w.val, (h'.trkGet t).skip = true) ∧
        (k = 2 → (h'.ugtGet (s.hive.instOf w.val)).tile = none)) ∧
      (2 ≤ (s.hive.wget w.val).missRun → h'.faultOn 0x05 0x02 (0x400 + w.val) 2 = true ∧
        (h'.wget w.val).missRun = 0 ∧ (h'.wget w.val).lost = true ∧
        (∀ n ∈ s.hive.pathStreams w.val, bitOf (h'.sget n).sit 1 = true) ∧
        ((s.hive.wget w.val).lostAt = 0 → bad = true → s.hive.kdeclOf w.val ≠ none → h'.faultOn 0x0F 0x06 0x2 2 = true) ∧
        ((s.hive.wget w.val).lostAt = 0 → bad = false ∨ s.hive.kdeclOf w.val = none →
          h'.flag (F.wrkStat_cold (w.val / 8) (w.val % 8)) = true ∧ h'.get (F.wrkStat_restarts (w.val / 8) (w.val % 8)) =
            satInc 16 (s.hive.get (F.wrkStat_restarts (w.val / 8) (w.val % 8))) 1)))) ∧
  ((s.hive.wget w.val).lost = false ∨ s.hive.kvalid w.val = false → exec (.kernelFirstStepOnTime w) s = .next s) ∧
  (s.hive.kvalid w.val = true → (s.hive.wget w.val).lost = true → s.hive.wrkSt w.val ≠ 5 → s.hive.wrkSt w.val ≠ 6 →
    Completes (.kernelFirstStepOnTime w) s (fun h' => (h'.wget w.val).lost = false ∧
      (∀ n ∈ s.hive.pathStreams w.val, bitOf (h'.sget n).sit 1 = false) ∧ (∀ n : StreamId, h'.st n.val = s.hive.st n.val) ∧
      Kept (fun a => faultReg a || inRange (R.ugtCtl 0) 0x20000 a) s.hive h')) ∧
  (∃ t, exec (.dmaAccessBlocked w bad) s = .next t ∧ t.pending = s.pending ∧
    t.mem = (s.mem.clearWorker w.val).codeLoad s.hive [w.val] ∧
    t.hive.get (F.wrkDmaStat_blocked (w.val / 8)) = satInc 16 (s.hive.get (F.wrkDmaStat_blocked (w.val / 8))) 1 ∧
    t.hive.faultOn 0x05 0x03 (0x400 + w.val) 2 = true ∧
    (s.hive.kvalid w.val = true → (t.hive.wget w.val).lost = true ∧
      (bad = false ∨ s.hive.kdeclOf w.val = none → t.hive.flag (F.wrkStat_cold (w.val / 8) (w.val % 8)) = true) ∧
      (bad = true → s.hive.kdeclOf w.val ≠ none → t.hive.faultOn 0x0F 0x06 0x2 2 = true))) ∧
  (k = 7 → s.hive.kvalid w.val = true → (s.hive.wget w.val).lost = false → s.hive.gtc % s.hive.stepTicks w.val = 0 →
    Completes (.mstatSample w) s (fun h' => h'.regs = s.hive.regs ∧ ∀ n ∈ s.hive.mstatStreams w.val,
      Tbl.get (fun _ => HistSt.init) h'.hist (n * 4) =
        (match s.hive.reading (F.mtrOut_level n) (F.mtrOut_valid n) with
        | some v => histAdd s.hive.gtc (sext 16 (s.hive.par w.val 1)) v (Tbl.get (fun _ => HistSt.init) s.hive.hist (n * 4))
        | none => Tbl.get (fun _ => HistSt.init) s.hive.hist (n * 4)) ∧
      Tbl.get (fun _ => HistSt.init) h'.hist (n * 4 + 1) =
        (if s.hive.npmRuns n then histAdd s.hive.gtc (sext 16 (s.hive.par w.val 1 / 65536)) (s.hive.getS (F.gceG_in_force n))
          (Tbl.get (fun _ => HistSt.init) s.hive.hist (n * 4 + 1))
        else Tbl.get (fun _ => HistSt.init) s.hive.hist (n * 4 + 1)) ∧
      Tbl.get (fun _ => HistSt.init) h'.hist (n * 4 + 2) =
        (match (s.hive.cancOf n).bind (fun c => s.hive.reading (F.fbcMargin_value c) (F.fbcMargin_valid c)) with
        | some v => histAdd s.hive.gtc (sext 16 (s.hive.par w.val 2)) v (Tbl.get (fun _ => HistSt.init) s.hive.hist (n * 4 + 2))
        | none => Tbl.get (fun _ => HistSt.init) s.hive.hist (n * 4 + 2)))) ∧
  (k ≠ 7 ∨ s.hive.kvalid w.val = false ∨ (s.hive.wget w.val).lost = true ∨ s.hive.gtc % s.hive.stepTicks w.val ≠ 0 → exec (.mstatSample w) s = .next s)

/-- Measurements (R217 to R221). The model's choices in it: log entries 5, 6, 82, 86. -/
def Obligations.WorkerMeasurements : Prop := ∀ (s : State) (w : WorkerId) (k : Nat) (meter : Bool), k = s.hive.kid w.val →
  meter = (s.hive.kvalid w.val && (k == 4 || k == 5 || k == 6)) →
  (∀ (x : RegWrite) (i : Instr), i ∈ [Instr.startMeasurement x, .stopMeasurement x] →
    goodWrite x (R.wrkCtl (w.val / 8) (w.val % 8)) false = true →
    (x.value.toNat % 8 = 1 ∨ x.value.toNat % 8 = 2 → meter = false → TurnedAway i s stBadArg) ∧
    (x.value.toNat % 8 = 1 → meter = true → (s.hive.wget w.val).meas = true → TurnedAway i s stWrong) ∧
    (x.value.toNat % 8 = 1 → meter = true → (s.hive.wget w.val).meas = false → ∀ ok : Prop,
      (ok ↔ (k = 4 → s.hive.st (bitsOf (s.hive.par w.val 0) 0 11) = stLive ∧
        s.hive.getS (F.gceG_in_force (bitsOf (s.hive.par w.val 0) 0 11)) + 2560 ≤ sext 16 (s.hive.par w.val 3))) →
      (¬ok → TurnedAway i s stWrong) ∧
      (ok → Completes i s (fun h' => (h'.wget w.val).meas = true ∧
        (∀ j : Fin 16, h'.get (F.wrkRes_res (w.val / 8) (w.val % 8) j.val) = 0) ∧
        Kept (fun a => logReg a || inRange (R.wrkRes (w.val / 8) (w.val % 8) 0) 64 a) s.hive h'))) ∧
    (x.value.toNat % 8 = 2 → meter = true → Completes i s (fun h' => (h'.wget w.val).meas = false ∧
      Kept logReg s.hive h'))) ∧
  (∀ (iso : Int) (lag : Fin 65536) (taps : Fin 32768) (snr : Int),
    (k = 4 → (s.hive.wget w.val).meas = true → Completes (.probeComplete w iso lag taps snr) s (fun h' =>
      (clampS 16 iso = iso → h'.getS ⟨R.wrkRes (w.val / 8) (w.val % 8) 0, 0, 16⟩ = iso) ∧
      h'.flag ⟨R.wrkRes (w.val / 8) (w.val % 8) 0, 31, 1⟩ = true ∧
      h'.get (F.wrkRes_res (w.val / 8) (w.val % 8) 1) = lag.val ∧ h'.get (F.wrkRes_res (w.val / 8) (w.val % 8) 2) = taps.val ∧
      (clampS 16 snr = snr → h'.getS ⟨R.wrkRes (w.val / 8) (w.val % 8) 3, 0, 16⟩ = snr) ∧
      h'.get (F.wrkRes_res (w.val / 8) (w.val % 8) 4) = bitsOf (s.hive.par w.val 2) 28 4 ∧
      Kept (inRange (R.wrkRes (w.val / 8) (w.val % 8) 0) 64) s.hive h')) ∧
    (k ≠ 4 ∨ (s.hive.wget w.val).meas = false → exec (.probeComplete w iso lag taps snr) s = .next s)) ∧
  (∀ (delay : Fin 268435456) (peak : Int) (used : Fin 256) (clear : Bool),
    (k = 5 → (s.hive.wget w.val).meas = true → Completes (.dlycalComplete w delay peak used clear) s (fun h' =>
      h'.get ⟨R.wrkRes (w.val / 8) (w.val % 8) 0, 0, 28⟩ = delay.val ∧
      h'.flag ⟨R.wrkRes (w.val / 8) (w.val % 8) 0, 31, 1⟩ = clear ∧
      (clampS 16 peak = peak → h'.getS ⟨R.wrkRes (w.val / 8) (w.val % 8) 1, 0, 16⟩ = peak) ∧
      h'.get (F.wrkRes_res (w.val / 8) (w.val % 8) 2) = used.val ∧
      Kept (inRange (R.wrkRes (w.val / 8) (w.val % 8) 0) 64) s.hive h')) ∧
    (k ≠ 5 ∨ (s.hive.wget w.val).meas = false → exec (.dlycalComplete w delay peak used clear) s = .next s)) ∧
  (∀ (bins : List Int) (used : Word) (base gen : Nat),
    base = w.val / 8 * 524288 + s.hive.get (F.wrkDesc6_res_base (w.val / 8) (w.val % 8)) →
    gen = leNat ((Tbl.getList Mem.ramByte s.mem.comb base 4).map (fun b => b.toNat)) →
    (k = 6 → (s.hive.wget w.val).meas = true → ∃ t, exec (.spectAverageComplete w bins used) s = .next t ∧
      t.pending = s.pending ∧ t.hive.get (F.wrkRes_res (w.val / 8) (w.val % 8) 0) = used.toNat ∧
      Kept (fun a => a == R.wrkRes (w.val / 8) (w.val % 8) 0) s.hive t.hive ∧
      t.mem = s.mem.combPut base ((leBytes ((gen + 2) % 2 ^ 32) 4 ++ leBytes s.hive.gtc 8 ++
        (bins.take (2 ^ bitsOf (s.hive.par w.val 0) 12 4)).flatMap (fun b => leBytes (twos 16 b) 2)).take
          (64 * s.hive.get (F.wrkDesc6_res_len (w.val / 8) (w.val % 8))))) ∧
    (k ≠ 6 ∨ (s.hive.wget w.val).meas = false → exec (.spectAverageComplete w bins used) s = .next s))

/-- Sparing (R230, R231) and watch slots (R227). The model's choices in it: log entries 5, 87, 88, 93. -/
def Obligations.WorkerSparing : Prop := ∀ (s : State) (w : WorkerId) (c : CombId), c.val = w.val / 8 →
  (∀ x : RegWrite, goodWrite x (R.wrkCtl (w.val / 8) (w.val % 8)) false = true → x.value.toNat % 8 = 3 →
    (s.hive.wrkSt w.val = 5 ∨ s.hive.wrkSt w.val = 6 → TurnedAway (.moveToSpare x) s stWrong) ∧
    (s.hive.wrkSt w.val ≠ 5 → s.hive.wrkSt w.val ≠ 6 →
      (s.hive.spareOfComb c.val = some w.val → s.hive.flag (F.wrkCombStat_spare_used c.val) = false →
        Completes (.moveToSpare x) s (fun h' => h'.flag (F.wrkCombStat_spare_bad c.val) = true ∧
          h'.faultOn 0x05 0x04 (0x400 + w.val) 1 = true ∧
          Kept (sideOr (fun a => a == R.wrkCombStat c.val)) s.hive h')) ∧
      (s.hive.spareOfComb c.val ≠ some w.val ∨ s.hive.flag (F.wrkCombStat_spare_used c.val) = true →
        s.hive.kvalid w.val = false → Completes (.moveToSpare x) s (fun h' => h'.wrkSt w.val = 5 ∧
          h'.faultOn 0x05 0x01 (0x400 + w.val) 2 = true ∧ h'.sched = s.hive.sched ∧
          Kept (sideOr (fun a => a == R.wrkStat (w.val / 8) (w.val % 8))) s.hive h')) ∧
      (s.hive.spareOfComb c.val ≠ some w.val ∨ s.hive.flag (F.wrkCombStat_spare_used c.val) = true →
        s.hive.kvalid w.val = true →
        (∀ sp : WorkerId, s.hive.flag (F.wrkDesc0_spare_ok c.val (w.val % 8)) = true → sp ≠ w →
          s.hive.spareUsable c.val = some sp.val → s.hive.get (F.wrkCombStat_power c.val) ≠ 0 →
          Completes (.moveToSpare x) s (fun h' => h'.wrkSt w.val = 5 ∧ (h'.wget w.val).moveTo = some sp.val ∧
            (h'.wget w.val).waits = true ∧ h'.faultOn 0x05 0x01 (0x400 + w.val) 2 = true)) ∧
        (∀ sp : WorkerId, s.hive.flag (F.wrkDesc0_spare_ok c.val (w.val % 8)) = true → sp ≠ w →
          s.hive.spareUsable c.val = some sp.val → s.hive.get (F.wrkCombStat_power c.val) = 0 →
          Completes (.moveToSpare x) s (fun h' => h'.wrkSt w.val = 5 ∧ h'.wrkSt sp.val = 1 ∧
            h'.faultOn 0x05 0x01 (0x400 + w.val) 2 = true ∧ (h'.wget w.val).moveTo = some sp.val ∧
            h'.sched = s.hive.sched ++ [⟨s.hive.sparingT w.val, .sparing w.val⟩] ∧ h'.desc sp.val = s.hive.desc w.val)) ∧
        (s.hive.flag (F.wrkDesc0_spare_ok c.val (w.val % 8)) = false ∨ s.hive.spareUsable c.val = none →
          Completes (.moveToSpare x) s (fun h' => h'.wrkSt w.val = 5 ∧ h'.faultOn 0x05 0x01 (0x400 + w.val) 2 = true ∧
            (h'.wget w.val).lost = true ∧ (h'.wget w.val).moveTo = (s.hive.wget w.val).moveTo))))) ∧
  (s.hive.due (.sparing w.val) = true → s.hive.combPatchFirst c.val = false → Completes (.sparingAtT w) s (fun h' =>
    h'.sched = s.hive.sched.filter (fun o => o.kind != .sparing w.val) ∧
    (s.hive.kvalid w.val = false → (h'.wget w.val).moveTo = none) ∧
    ((s.hive.wget w.val).moveTo = none → h'.regs = s.hive.regs) ∧
    ∀ sp : WorkerId, (s.hive.wget w.val).moveTo = some sp.val →
      (s.hive.kvalid w.val = true ∨ s.hive.wrkSt sp.val = 1 → h'.desc sp.val = s.hive.desc w.val) ∧
      (s.hive.kvalid w.val = true → (h'.wget w.val).moveTo = some sp.val) ∧
      (s.hive.kvalid w.val = false → s.hive.wrkSt sp.val = 1 → h'.wrkSt sp.val = 7) ∧
      Kept (fun a => inRange (R.wrkDesc0 (sp.val / 8) (sp.val % 8)) 32 a ||
        (!s.hive.kvalid w.val && a == R.wrkStat (sp.val / 8) (sp.val % 8))) s.hive h')) ∧
  (s.hive.due (.sparing w.val) = false ∨ s.hive.combPatchFirst c.val = true → exec (.sparingAtT w) s = .next s) ∧
  (∀ sp : WorkerId, sp ≠ w → (s.hive.wget w.val).moveTo = some sp.val → s.hive.wrkSt w.val = 5 →
    (s.hive.wget w.val).waits = false → s.hive.sched.any (fun o => o.kind == SchedKind.sparing w.val) = false →
    (∃ t, exec (.spareStateCopyComplete w true true) s = .next t ∧ t.pending = s.pending ∧ t.hive.wrkSt w.val = 6 ∧
      t.hive.wrkSt sp.val = 2 ∧ t.hive.flag (F.wrkCombStat_spare_used c.val) = true ∧
      bitOf (t.hive.get (F.wrkCombStat_failed c.val)) (w.val % 8) = true ∧
      (s.hive.kid w.val = 2 → t.hive.get (F.ugtCtl_worker (s.hive.instOf w.val)) = sp.val) ∧
      (t.hive.wget sp.val).lost = (s.hive.wget w.val).lost ∧ (t.hive.wget sp.val).meas = (s.hive.wget w.val).meas ∧
      Kept (fun a => logReg a || a == R.wrkCombStat c.val || a == R.wrkStat (w.val / 8) (w.val % 8) ||
        a == R.wrkStat (sp.val / 8) (sp.val % 8) || inRange (R.ugtCtl 0) 0x20000 a) s.hive t.hive ∧
      t.mem = (s.mem.copyWorker w.val sp.val (s.hive.get (F.wrkDesc5_wd_len (w.val / 8) (w.val % 8)))).codeLoad s.hive [sp.val]) ∧
    (∃ t, exec (.spareStateCopyComplete w false true) s = .next t ∧ t.pending = s.pending ∧
      t.hive.wrkSt w.val = 6 ∧ t.hive.wrkSt sp.val = 2 ∧ t.mem = s.mem.codeLoad s.hive [sp.val] ∧
      (s.hive.kvalid sp.val = true → t.hive.flag (F.wrkStat_cold (sp.val / 8) (sp.val % 8)) = true ∧
        (t.hive.wget sp.val).lost = true)) ∧
    ∀ copyOk, Completes (.spareStateCopyComplete w copyOk false) s (fun h' => h'.wrkSt w.val = 6 ∧ h'.wrkSt sp.val = 6 ∧
      h'.flag (F.wrkCombStat_spare_bad c.val) = true ∧ (s.hive.kvalid sp.val = true → (h'.wget sp.val).lost = true))) ∧
  ((s.hive.wget w.val).moveTo = none ∨ s.hive.wrkSt w.val ≠ 5 ∨ (s.hive.wget w.val).waits = true ∨
      s.hive.sched.any (fun o => o.kind == SchedKind.sparing w.val) = true → ∀ copyOk spareOk, exec (.spareStateCopyComplete w copyOk spareOk) s = .next s) ∧
  (s.hive.maintOf 7 c.val = none → ∀ passed, exec (.spareBistComplete c passed) s = .next s) ∧
  (∀ i, s.hive.maintOf 7 c.val = some i →
    Completes (.spareBistComplete c true) s (fun h' => h'.mState i = 3 ∧ h'.get (F.cmdMaint_result i) = 0 ∧
      h'.mget i = none ∧ (h'.combGet c.val).bistOk = true ∧ Kept (fun a => logReg a || maintReg a) s.hive h') ∧
    Completes (.spareBistComplete c false) s (fun h' => h'.mState i = 3 ∧ h'.get (F.cmdMaint_result i) = 1 ∧
      h'.mget i = none ∧ h'.flag (F.wrkCombStat_spare_bad c.val) = true ∧
      h'.faultOn 0x05 0x04 (0x400 + (s.hive.spareOfComb c.val).getD (8 * c.val)) 1 = true ∧
      Kept (sideOr (fun a => maintReg a || a == R.wrkCombStat c.val)) s.hive h')) ∧
  (∀ (x : RegWrite) (own : Prop), goodWrite x (R.wrkWatch c.val) false = true →
    (own ↔ ∃ i : Fin 4, s.hive.flag (F.trkStat_valid (bitsOf x.value.toNat (8 * i.val) 8)) = true ∧
      s.hive.flag (F.steKern_kern_en (s.hive.get (F.trkStat_stream (bitsOf x.value.toNat (8 * i.val) 8)))) = true ∧
      s.hive.get (F.steKern_kern_worker (s.hive.get (F.trkStat_stream (bitsOf x.value.toNat (8 * i.val) 8)))) / 8 = c.val) →
    (own → TurnedAway (.watchWrite x) s stBadArg) ∧
    (¬own → Completes (.watchWrite x) s (fun h' => h'.rd (R.wrkWatch c.val) = x.value ∧
      Kept (fun a => logReg a || a == R.wrkWatch c.val) s.hive h')))

/-- Loads of the GTC and PPS (R235 to R239). The model's choices in it: log entries 5, 25, 26. -/
def Obligations.GtcLoads : Prop := ∀ (s : State) (src : Nat), src = s.hive.get F.timCtl_src →
  (∀ (w : RegWrite) (i : Instr) (c : Nat), i ∈ [Instr.gtcLoadPps w, .gtcLoadNow w, .gtcLoadUpstream w] →
    goodWrite w R.timCmd false = true → c = w.value.toNat % 8 →
    (c = 0 ∨ 3 < c → TurnedAway i s stBadArg) ∧
    ((c = 1 ∧ src ≠ 1) ∨ (c = 2 ∧ src ≠ 0 ∧ src ≠ 2) ∨ (c = 3 ∧ src ≠ 3) ∨ (1 ≤ c ∧ c ≤ 3 ∧ s.hive.quiet = false) →
      TurnedAway i s stWrong) ∧
    ((c = 1 ∧ src = 1) ∨ (c = 3 ∧ src = 3) → s.hive.quiet = true → Completes i s (fun h' =>
      h'.flag F.timStat_load_pend = true ∧ h'.loadCmd = c ∧ h'.gtc = s.hive.gtc ∧
      Kept (fun a => logReg a || a == R.timStat) s.hive h')) ∧
    (c = 2 → src = 0 ∨ src = 2 → s.hive.quiet = true → Completes i s (fun h' => h'.gtc = s.hive.getPair R.timSetLo R.timSetHi ∧
      h'.get F.timEpoch_epoch = (s.hive.get F.timEpoch_epoch + 1) % 65536 ∧ h'.flag F.timStat_load_pend = false ∧
      h'.get F.timStat_state = (if s.hive.flag F.topo_root = true ∧ src = 0 then 1 else 2) ∧
      Kept (fun a => logReg a || a == R.timStat || a == R.timEpoch || a == R.useRingSeq) s.hive h'))) ∧
  (∀ (frac : Fin 16) (ph : Int), ph = s.hive.ppsPhase (16 * s.hive.gtc + frac.val) →
    (s.hive.loadCmd ≠ 1 → Completes (.ppsEdge frac) s (fun h' => h'.rd R.timPpsLo = BitVec.ofNat 32 s.hive.gtc ∧
      h'.rd R.timPpsHi = BitVec.ofNat 32 (s.hive.gtc / 2 ^ 32) ∧ h'.gtc = s.hive.gtc ∧
      Kept (sideOr (fun a => a == R.timPpsLo || a == R.timPpsHi || a == R.timStat || a == R.timPhase)) s.hive h' ∧
      (s.hive.get F.timStat_state = 0 → h'.rd R.timPhase = s.hive.rd R.timPhase ∧
        (s.hive.ppsPrev = none → h'.flag F.timStat_pps_ok = s.hive.flag F.timStat_pps_ok) ∧
        ∀ p, s.hive.ppsPrev = some p →
          ((16 * s.hive.gtc + frac.val : Nat) : Int) - p - 16 * (983040000 : Int) ≤ 16 * 983 →
          -(16 * 983) ≤ ((16 * s.hive.gtc + frac.val : Nat) : Int) - p - 16 * (983040000 : Int) →
          h'.flag F.timStat_pps_ok = true) ∧
      (s.hive.get F.timStat_state ≠ 0 → h'.flag F.timPhase_valid = true ∧
        (ph.natAbs < 2 ^ 23 → h'.getS F.timPhase_val = ph) ∧
        (ph.natAbs ≤ 16 * 983 → h'.flag F.timStat_pps_ok = true ∧
          h'.get F.timStat_state = (if s.hive.get F.timStat_state = 3 ∧ src = 1 then 2 else s.hive.get F.timStat_state)) ∧
        (src = 1 → 16 * s.hive.tol < ph.natAbs → h'.faultOn 0x0E 0x01 0x5 1 = true)))) ∧
    (s.hive.loadCmd = 1 → s.hive.quiet = true → Completes (.ppsEdge frac) s (fun h' =>
      h'.gtc = s.hive.getPair R.timSetLo R.timSetHi ∧ h'.flag F.timStat_load_pend = false ∧
      h'.get F.timEpoch_epoch = (s.hive.get F.timEpoch_epoch + 1) % 65536)) ∧
    (s.hive.loadCmd = 1 → s.hive.quiet = false → Completes (.ppsEdge frac) s (fun h' => h'.gtc = s.hive.gtc ∧
      h'.flag F.timStat_load_pend = false ∧ h'.get F.timEpoch_epoch = s.hive.get F.timEpoch_epoch))) ∧
  (∀ late : Prop, (late ↔ s.hive.flag F.timStat_pps_ok = true ∧ s.hive.ppsAt + 1474560000 ≤ s.hive.ticks) →
    (late → Completes .ppsLoss s (fun h' => h'.flag F.timStat_pps_ok = false ∧
      Kept (fun a => faultReg a || a == R.timStat) s.hive h' ∧
      (src = 1 → s.hive.get F.timStat_state ≠ 0 → s.hive.flag F.topo_root = true →
        h'.faultOn 0x0E 0x01 0x5 1 = true ∧ h'.get F.timStat_state = 3 ∧ h'.holdAt = s.hive.ticks) ∧
      (src ≠ 1 ∨ s.hive.get F.timStat_state = 0 ∨ s.hive.flag F.topo_root = false →
        h'.get F.timStat_state = s.hive.get F.timStat_state))) ∧
    (¬late → exec .ppsLoss s = .next s)) ∧
  (∀ w : RegWrite, goodWrite w R.timTodOfsHi false = true → Completes (.todOfsHiWrite w) s (fun h' =>
    h'.tod = (s.hive.rd R.timTodOfsLo).toNat + 2 ^ 32 * w.value.toNat ∧ h'.rd R.timTodOfsHi = w.value ∧
    Kept (fun a => logReg a || a == R.timTodOfsHi) s.hive h')) ∧
  (s.hive.flag F.timCtl_pps_out = true → (s.hive.gtc + s.hive.tod) % 2 ^ 64 % 983040000 = 0 →
    Completes .ppsOutRise s (fun h' => h' = { s.hive with ppsOut := true, ppsOutAt := s.hive.ticks })) ∧
  (s.hive.flag F.timCtl_pps_out = false ∨ (s.hive.gtc + s.hive.tod) % 2 ^ 64 % 983040000 ≠ 0 →
    exec .ppsOutRise s = .next s) ∧
  (s.hive.ppsOut = true → s.hive.ppsOutAt + 98304000 ≤ s.hive.ticks →
    Completes .ppsOutFall s (fun h' => h' = { s.hive with ppsOut := false })) ∧
  (s.hive.ppsOut = false ∨ s.hive.ticks < s.hive.ppsOutAt + 98304000 → exec .ppsOutFall s = .next s)

/-- Distribution of time (R241, R242). The model's choices in it: log entries 5, 25. -/
def Obligations.TimeDistribution : Prop := ∀ (s : State) (k : LinkId) (st : Nat), st = s.hive.get F.timStat_state →
  (s.hive.gtc % 98304 = 0 → k.val ∈ s.hive.treeDown → Completes (.timeMessageSend k) s (fun h' => h'.regs = s.hive.regs ∧
    ∀ msg, msg = mgmtFrame 0x40 0 (leBytes s.hive.gtc 8 ++ [s.hive.get F.topo_hop_depth, s.hive.timeFlagsOut]) →
      Tbl.get (fun _ => []) h'.tx k.val = msg ∧
      Tbl.get (fun _ => []) h'.outq k.val = Tbl.get (fun _ => []) s.hive.outq k.val ++ [msg])) ∧
  (s.hive.gtc % 98304 ≠ 0 ∨ k.val ∉ s.hive.treeDown → exec (.timeMessageSend k) s = .next s) ∧
  (∀ (ts : Nat) (frac : Fin 16) (hops : Fin 5) (flags : Fin 8),
    (∀ valid, valid = false ∨ s.hive.get F.timCtl_src ≠ 3 ∨ s.hive.get F.timCtl_up_link ≠ k.val →
      exec (.timeMessageReceived k ts frac hops flags valid) s = .next s) ∧
    (s.hive.get F.timCtl_src = 3 → s.hive.get F.timCtl_up_link = k.val → ∀ (mup : Nat) (e : Int),
      mup = (match Tbl.get (fun _ => ([] : List Nat)) s.hive.links k.val with
        | l :: _ => s.hive.get (F.laneDlyUp_ticks l)
        | [] => 0) →
      e = ((16 * s.hive.gtc + frac.val : Nat) : Int) - (16 * (ts + mup) : Nat) →
      Completes (.timeMessageReceived k ts frac hops flags true) s (fun h' => h'.flag F.timEps_valid = true ∧
        h'.timeFlags = flags.val ∧ h'.timeAt = s.hive.ticks ∧ (e.natAbs < 2 ^ 23 → h'.getS F.timEps_val = e) ∧
        (Tbl.get (fun _ => 0) s.hive.linkProp k.val + 16 < mup → h'.faultOn 0x0E 0x04 0x5 1 = true) ∧
        ((st = 0 ∨ s.hive.loadCmd = 3) → s.hive.quiet = true → h'.get F.timStat_state = 2 ∧
          h'.get F.timEpoch_epoch = (s.hive.get F.timEpoch_epoch + 1) % 65536 ∧
          (h'.gtc : Int) = (s.hive.gtc - roundEven e 16) % (2 ^ 64 : Nat)) ∧
        (s.hive.loadCmd ≠ 3 → st ≠ 0 → h'.gtc = s.hive.gtc ∧
          Kept (fun a => faultReg a || a == R.timEps || a == R.timStat) s.hive h') ∧
        (s.hive.loadCmd ≠ 3 → st = 2 → (e.natAbs ≤ 16 * s.hive.tol → h'.get F.timStat_state = 2 ∧ h'.epsBad = 0) ∧
          (16 * s.hive.tol < e.natAbs → h'.epsBad = s.hive.epsBad + 1 ∧
            h'.get F.timStat_state = (if 2 ≤ s.hive.epsBad then 4 else 2) ∧
            (2 ≤ s.hive.epsBad → h'.faultOn 0x0E 0x03 0x5 2 = true))) ∧
        (s.hive.loadCmd ≠ 3 → st = 3 →
          h'.get F.timStat_state = (if e.natAbs ≤ 16 * s.hive.tol then 2 else 4) ∧
          (16 * s.hive.tol < e.natAbs → h'.faultOn 0x0E 0x03 0x5 2 = true) ∧
          ∀ i, s.hive.fltFind 0x0E 0x02 0x5 = some i → (s.hive.flt i).selfc = true →
            (h'.flt i).hasKey 0x0E 0x02 0x5 = true → (h'.flt i).active = false) ∧
        (s.hive.loadCmd ≠ 3 → st = 4 → h'.get F.timStat_state = 4)))) ∧
  (s.hive.get F.timCtl_src = 3 → st = 2 → s.hive.timeAt + 983040 ≤ s.hive.ticks → Completes .timeHoldover s (fun h' => h'.get F.timStat_state = 3 ∧
    h'.faultOn 0x0E 0x02 0x5 1 = true ∧ h'.gtc = s.hive.gtc ∧ Kept (fun a => faultReg a || a == R.timStat) s.hive h')) ∧
  (s.hive.get F.timCtl_src ≠ 3 ∨ st ≠ 2 ∨ s.hive.ticks < s.hive.timeAt + 983040 → exec .timeHoldover s = .next s)

/-- Barriers (R245, R246). The model's choices in it: log entries 5, 27, 28, 177, 267. -/
def Obligations.Barriers : Prop := ∀ (s : State) (b : BarrierId) (st : Nat) (here : Bool),
  st = s.hive.get (F.timWagStat_state b.val) →
  (∀ (c : CmdEntry) (cond : Fin 4) (apiary : Bool),
    goodEntry c 0x0A false (b.val + (if apiary then 256 else 0) + 512 * cond.val) 0 0 = true →
    admits s.hive.mode .timed = true → 32 ≤ b.val →
    Completes (.waggle c) s (fun h' => Kept (fun a => logReg a || wagReg a) s.hive h') ∧
    (st ≠ 1 → apiary = false →
      here = (match cond.val with
        | 0 => true
        | 1 => (List.range 4).all (fun p => s.hive.get (F.imgPatchStat_state p) != 1)
        | 2 => (List.range 144).all (fun l => s.hive.get (F.laneCtl_mode l) == 0 || s.hive.laneUp l)
        | _ => bitOf (s.hive.get F.timWagArrive_arrive) (b.val - 32)) →
      Completes (.waggle c) s (fun h' => h'.get (F.timWagStat_state b.val) = (if here then 2 else 1) ∧
        h'.flag (F.timWagStat_scope b.val) = false ∧ h'.get (F.timWagStat_cond b.val) = cond.val ∧
        (here = true → h'.rd (R.timWagRelT b.val) = BitVec.ofNat 32 s.hive.gtc))) ∧
    (st ≠ 1 → apiary = true → s.hive.flag F.topo_root = true →
      (∃ i, i < 16 ∧ i ≠ s.hive.get F.topo_hive_id ∧ bitOf s.hive.apiaryMask i = true) →
      Completes (.waggle c) s (fun h' => h'.get (F.timWagStat_state b.val) = 1 ∧ h'.flag (F.timWagStat_scope b.val) = true ∧
        ∀ k ∈ s.hive.treeDown, k < 256 → Tbl.get (fun _ => []) h'.tx k = bcastMsg 2 (b.val + 64 * cond.val) 0))) ∧
  (∀ w : RegWrite, goodWrite w R.timWagArrive false = true → Completes (.waggleHostArrive w) s (fun h' =>
    Kept (fun a => logReg a || wagReg a) s.hive h' ∧ (32 ≤ b.val →
      (st ≠ 1 → bitOf (h'.get F.timWagArrive_arrive) (b.val - 32) =
        (bitOf (s.hive.get F.timWagArrive_arrive) (b.val - 32) || bitOf w.value.toNat (b.val - 32))) ∧
      (st = 1 → s.hive.flag (F.timWagStat_scope b.val) = false → s.hive.get (F.timWagStat_cond b.val) = 3 →
        bitOf w.value.toNat (b.val - 32) = true → h'.get (F.timWagStat_state b.val) = 2 ∧
        bitOf (h'.get F.timWagArrive_arrive) (b.val - 32) = bitOf (s.hive.edgeMask R.timWagArrive) (b.val - 32) ∧
        h'.rd (R.timWagRelT b.val) = BitVec.ofNat 32 s.hive.gtc ∧ bitOf (h'.get F.cmdIrqStat_cause) 4 = true)))) ∧
  (st ≠ 1 → ∀ release hive, exec (.waggleTokenReceived b release hive) s = .next s) ∧
  (st = 1 → ∀ hive : Fin 16,
    Completes (.waggleTokenReceived b true hive) s (fun h' => h'.get (F.timWagStat_state b.val) = 2 ∧
      h'.rd (R.timWagRelT b.val) = BitVec.ofNat 32 s.hive.gtc ∧ bitOf (h'.get F.cmdIrqStat_cause) 4 = true ∧
      (∀ k ∈ s.hive.treeDown, Tbl.get (fun _ => []) h'.tx (512 + k) = [2, b.val]) ∧
      Kept (fun a => logReg a || wagReg a) s.hive h') ∧
    (∀ a : Nat, a = setBit (setBit (s.hive.bget b.val).arrived hive.val true) (s.hive.get F.topo_hive_id) true →
      s.hive.flag (F.timWagStat_scope b.val) = true → s.hive.flag F.topo_root = true → s.hive.arrivedHere b.val = true →
      Completes (.waggleTokenReceived b false hive) s (fun h' =>
        h'.get (F.timWagStat_state b.val) = (if Nat.land a s.hive.apiaryMask = s.hive.apiaryMask then 2 else 1) ∧
        (Nat.land a s.hive.apiaryMask ≠ s.hive.apiaryMask → (h'.bget b.val).arrived = a) ∧
        Kept (fun a => logReg a || wagReg a) s.hive h')) ∧
    (∀ a : Nat, a = setBit (setBit (s.hive.bget b.val).arrived hive.val true) (s.hive.get F.topo_hive_id) true →
      s.hive.flag (F.timWagStat_scope b.val) = true → s.hive.flag F.topo_root = false → s.hive.arrivedHere b.val = true →
      Nat.land a s.hive.subMask = s.hive.subMask → (s.hive.bget b.val).sent = false →
      Completes (.waggleTokenReceived b false hive) s (fun h' => h'.regs = s.hive.regs ∧ (h'.bget b.val).sent = true ∧
        Tbl.get (fun _ => []) h'.tx (512 + s.hive.get F.timCtl_up_link) = [1, b.val]))) ∧
  (st ≠ 1 ∨ s.hive.barLate b.val = false ∨
      (s.hive.flag (F.timWagStat_scope b.val) = true ∧ s.hive.flag F.topo_root = false) →
    exec (.waggleTimeout b) s = .next s) ∧
  (st = 1 → s.hive.barLate b.val = true →
    s.hive.flag (F.timWagStat_scope b.val) = false ∨ s.hive.flag F.topo_root = true → ∀ all : Nat, all = (if s.hive.flag (F.timWagStat_scope b.val) then s.hive.apiaryMask
      else 2 ^ s.hive.get F.topo_hive_id) → Completes (.waggleTimeout b) s (fun h' => h'.get (F.timWagStat_state b.val) = 3 ∧
    (∀ i, i < 16 → bitOf (h'.get (F.timWagStat_missing b.val)) i = (bitOf all i && !bitOf (s.hive.bget b.val).arrived i)) ∧
    (s.hive.flag (F.timWagStat_scope b.val) = true → ∀ k ∈ s.hive.treeDown, k < 256 →
      Tbl.get (fun _ => []) h'.tx k = bcastMsg 3 b.val (h'.get (F.timWagStat_missing b.val))) ∧
    bitOf (h'.get F.cmdIrqStat_cause) 4 = true ∧ Kept (fun a => logReg a || wagReg a) s.hive h'))

/-- Snapshots, broadcasts and fault messages (R247 to R251). The model's choices in it: log entries 5, 29, 177. -/
def Obligations.SnapshotsAndBroadcasts : Prop := ∀ s : State,
  (∀ (c : CmdEntry) (tag : Fin 256) (apiary : Bool),
    goodEntry c 0x09 true (tag.val + if apiary then 256 else 0) 0 0 = true → admits s.hive.mode .timed = true →
    s.hive.leadOk c.t.toNat apiary = true → (apiary = true → c.t.toNat ≤ s.hive.gtc + 1966080000) →
    (s.hive.get F.timSnapCtl_state = 1 → Completes (.snapshot c) s (LogOnly s.hive)) ∧
    (s.hive.get F.timSnapCtl_state ≠ 1 → (apiary = true → s.hive.flag F.topo_root = true) →
      s.hive.flag F.timStat_load_pend = false → s.hive.sched.length < 256 → Completes (.snapshot c) s (fun h' =>
        h'.sched = s.hive.sched ++ [⟨c.t.toNat, .snapshot⟩] ∧ h'.get F.timSnapCtl_state = 1 ∧
        h'.flag F.timSnapCtl_scope = apiary ∧ h'.get F.timSnapCtl_tag = tag.val ∧
        h'.rd R.timSnapTLo = BitVec.ofNat 32 c.t.toNat ∧ h'.rd R.timSnapTHi = BitVec.ofNat 32 (c.t.toNat / 2 ^ 32) ∧
        Kept (fun a => logReg a || a == R.timSnapCtl || a == R.timSnapTLo || a == R.timSnapTHi) s.hive h'))) ∧
  (s.hive.due .snapshot = false ∨ s.hive.patchDue = true → exec .snapshotCapture s = .next s) ∧
  (s.hive.due .snapshot = true → s.hive.patchDue = false → Completes .snapshotCapture s (fun h' => h'.get F.timSnapCtl_state = 2 ∧
    h'.flag F.timSnapCtl_time_suspect = (s.hive.get F.timStat_state == 3 || s.hive.get F.timStat_state == 4 ||
      bitOf s.hive.timeFlags 1 || bitOf s.hive.timeFlags 2) ∧ bitOf (h'.get F.cmdIrqStat_cause) 4 = true ∧
    h'.sched = s.hive.sched.filter (fun o => o.kind != .snapshot) ∧
    Kept (fun a => logReg a || a == R.timSnapCtl) s.hive h' ∧
    (∀ c : CombId, s.hive.get (F.wrkCombStat_power c.val) = 1 ∨ s.hive.get (F.wrkCombStat_power c.val) = 2 →
      Tbl.get (fun _ => 0x8000) h'.snap (2 ^ 24 + c.val * 16) = BitVec.ofNat 32 (s.hive.combGet c.val).sleptGtc ∧
      Tbl.get (fun _ => 0x8000) h'.snap (2 ^ 24 + c.val * 16 + 1) =
        BitVec.ofNat 32 ((s.hive.combGet c.val).sleptGtc / 2 ^ 32)) ∧
    ∀ (k : Fin 4), ∀ u ∈ s.hive.snapUnits k.val, ∀ (j : Nat) (x : Option Nat), (s.hive.snapItems k.val u)[j]? = some x →
      Tbl.get (fun _ => 0x8000) h'.snap (k.val * 65536 + u * 16 + j) =
        (match x with | some a => s.hive.snapWord a | none => 0x8000))) ∧
  (∀ (op arg : Byte) (tLow : Word),
    (3 < op.toNat ∨ op.toNat = 0 → Completes (.bcastReceived op arg tLow) s (fun h' =>
      h'.regs = s.hive.regs ∧ ∀ k ∈ s.hive.treeDown,
        Tbl.get (fun _ => []) h'.tx k = bcastMsg op.toNat arg.toNat tLow.toNat)) ∧
    (op = 1 → s.hive.gtc < s.hive.fullT tLow.toNat → s.hive.sched.length < 256 → Completes (.bcastReceived op arg tLow) s
      (fun h' => h'.get F.timSnapCtl_state = 1 ∧ h'.get F.timSnapCtl_tag = arg.toNat ∧
        h'.sched = s.hive.sched.filter (fun o => o.kind != .snapshot) ++ [⟨s.hive.fullT tLow.toNat, .snapshot⟩] ∧
        (∀ k ∈ s.hive.treeDown, Tbl.get (fun _ => []) h'.tx k = bcastMsg 1 arg.toNat tLow.toNat) ∧
        Kept (fun a => a == R.timSnapCtl || a == R.timSnapTLo || a == R.timSnapTHi) s.hive h')) ∧
    (op = 1 → s.hive.gtc < s.hive.fullT tLow.toNat → 256 ≤ s.hive.sched.length → Completes (.bcastReceived op arg tLow) s
      (fun h' => h'.sched = s.hive.sched ∧
        h'.get F.timSched_refused = satInc 16 (s.hive.get F.timSched_refused) 1 ∧
        Kept (fun a => a == R.timSched) s.hive h')) ∧
    (op = 1 → s.hive.fullT tLow.toNat ≤ s.hive.gtc → Completes (.bcastReceived op arg tLow) s (fun h' =>
      h'.get F.timSnapCtl_state = 3 ∧ h'.get F.timSnapCtl_tag = arg.toNat ∧ h'.faultOn 0x0E 0x07 0x5 1 = true ∧
      Kept (sideOr (fun a => a == R.timSnapCtl)) s.hive h')) ∧
    (op = 2 → Completes (.bcastReceived op arg tLow) s (fun h' =>
      (h'.get (F.timWagStat_state (arg.toNat % 64)) = 1 ∨ h'.get (F.timWagStat_state (arg.toNat % 64)) = 2) ∧
      h'.get (F.timWagStat_cond (arg.toNat % 64)) = arg.toNat / 64 ∧ h'.flag (F.timWagStat_scope (arg.toNat % 64)) = true ∧
      Kept (fun a => logReg a || wagReg a) s.hive h')) ∧
    (op = 3 → s.hive.get (F.timWagStat_state (arg.toNat % 64)) = 1 → Completes (.bcastReceived op arg tLow) s (fun h' =>
      h'.get (F.timWagStat_state (arg.toNat % 64)) = 3 ∧
      h'.get (F.timWagStat_missing (arg.toNat % 64)) = tLow.toNat % 65536 ∧
      Kept (fun a => logReg a || wagReg a) s.hive h'))) ∧
  ∀ (k : LinkId) (origin : Fin 16) (cls cause : Fin 256) (level : Fin 6) (stamp : Nat),
    Completes (.faultMessageReceived k origin cls cause level stamp) s (fun h' => FaultOnly s.hive h' ∧
      ((∃ i, i < 256 ∧ (s.hive.flt i).valid = false) → ∃ i, i < 256 ∧ (h'.flt i).hasKey cls.val cause.val 0x5 = true ∧
        (h'.flt i).remote = true ∧ (h'.flt i).origin = origin.val ∧ (h'.flt i).last = stamp))

/-- Resets of units (R20, R252, R253). The model's choices in it: log entries 5, 90, 100, 101, 102, 177. -/
def Obligations.UnitResets : Prop := ∀ (s : State) (level : Fin 4) (unit : Nat), unit < resetUnits level.val →
  (∀ (c : CmdEntry) (i : Instr), (level.val, i) ∈ [(0, Instr.resetWorker c), (1, .resetComb c), (2, .resetFrame c), (3, .resetDie c)] →
    admits s.hive.mode .timed = true →
    (s.hive.sys.resets.any (fun r => r.covers level.val unit) = true →
      goodEntry c 0x0B false (level.val + 4 * unit) 0 0 = true → Completes i s (LogOnly s.hive)) ∧
    (s.hive.sys.resets.any (fun r => r.covers level.val unit) = false →
      (goodEntry c 0x0B false (level.val + 4 * unit) 0 0 = true → Completes i s (fun h' =>
        Kept (fun a => routeReg a || inRange (R.ugtCtl 0) 0x20000 a) s.hive h' ∧
        (∃ r : ResetSt, h'.sys.resets = s.hive.sys.resets ++ [r] ∧ r.level = level.val ∧ r.unit = unit ∧
          r.timed = false ∧ r.begun = false ∧ r.reqAt = s.hive.ticks) ∧
        (level = 3 → unit < 2 → ∀ n ∈ s.hive.image, s.hive.onDie n unit = true → h'.hasCause 2 n = true) ∧
        (∀ w ∈ resetWorkers level.val unit, s.hive.kvalid w = true → s.hive.wrkSt w ≠ 6 →
          (h'.wget w).lost = true ∧ ∀ n ∈ s.hive.pathStreams w, bitOf (h'.sget n).sit 1 = true))) ∧
      (level.val < 3 → goodEntry c 0x0B true (level.val + 4 * unit) 0 0 = true → s.hive.leadOk c.t.toNat false = true →
        s.hive.flag F.timStat_load_pend = false → s.hive.sched.length < 256 → Completes i s (fun h' =>
          h'.sched = s.hive.sched ++ [⟨c.t.toNat, .reset level.val unit⟩] ∧ Kept logReg s.hive h')))) ∧
  (∀ u : Fin 512, u.val = unit →
    (∀ r, s.hive.sys.resets.find? (fun r => r.level == level.val && r.unit == unit && !r.begun) = some r →
      s.hive.resetDue r = true → ∃ t, exec (.resetBegin level u) s = .next t ∧ t.pending = s.pending ∧
        t.mem = s.mem.resetClear level.val unit ∧
        (∀ o ∈ t.hive.sched, o ∈ s.hive.sched ∧ o.kind ≠ .reset level.val unit) ∧
        (∃ r' ∈ t.hive.sys.resets, r'.level = level.val ∧ r'.unit = unit ∧ r'.begun = true) ∧
        (level = 3 → t.hive.dieSt unit = 1) ∧
        (level = 3 → unit < 2 → ∀ n ∈ s.hive.image, s.hive.home n = unit → t.hive.st n = stFaulted) ∧
        (level = 0 → s.hive.kvalid unit = true → s.hive.wrkSt unit < 5 → t.hive.wrkSt unit = 1)) ∧
    (s.hive.sys.resets.find? (fun r => r.level == level.val && r.unit == unit && !r.begun) = none →
      exec (.resetBegin level u) s = .next s) ∧
    (∀ r, s.hive.sys.resets.find? (fun r => r.level == level.val && r.unit == unit && !r.begun) = some r →
      s.hive.resetDue r = false → exec (.resetBegin level u) s = .next s) ∧
    ∀ bad : List WorkerId,
    (∀ r, s.hive.sys.resets.find? (fun r => r.level == level.val && r.unit == unit && r.begun) = some r →
      ∃ t, exec (.resetUnitRunning level u bad) s = .next t ∧ t.pending = s.pending ∧
        t.mem = s.mem.codeLoad s.hive (resetWorkers level.val unit) ∧
        t.hive.sys.resets = s.hive.sys.resets.filter (fun x => x != r) ∧
        (level = 3 → t.hive.dieSt unit = 2) ∧
        (level = 3 → unit < 2 → ∀ n ∈ s.hive.image, s.hive.home n = unit → s.hive.st n = stFaulted → t.hive.st n = stMuted) ∧
        (∀ w ∈ resetWorkers level.val unit, (s.hive.wrkSt w = 1 → t.hive.wrkSt w = 2) ∧
          (s.hive.kvalid w = true → s.hive.wrkSt w ≠ 5 → s.hive.wrkSt w ≠ 6 →
            (bad = [] ∨ s.hive.kdeclOf w = none → t.hive.flag (F.wrkStat_cold (w / 8) (w % 8)) = true) ∧
            (w ∈ bad.map (fun v => v.val) → s.hive.kdeclOf w ≠ none → t.hive.faultOn 0x0F 0x06 0x2 2 = true)))) ∧
    (s.hive.sys.resets.find? (fun r => r.level == level.val && r.unit == unit && r.begun) = none →
      exec (.resetUnitRunning level u bad) s = .next s))

/-- Hive and cold resets, and the start that follows (R20, R253, R311, R367). The model's choices in it: log
entries 5, 149, 157, 158, 160, 165. The model's choices in it: log entries 5, 149, 157, 158, 160, 165, 272. -/
def Obligations.HiveResets : Prop := ∀ s : State,
  (∃ t, exec .sysRstN s = .next t ∧ t.pending = s.pending ∧ t.mem = { Mem.reset with flash := s.mem.flash } ∧
    t.hive.mode = (if s.hive.flag F.pwrStat_main_good && s.hive.flag F.pwrClkStat_sclk_lock then .boot else .cold) ∧
    t.hive.gtc = 0 ∧ t.hive.streams = [] ∧ t.hive.sched = [] ∧ t.hive.queenUp = false ∧ t.hive.jseq = s.hive.jseq ∧
    t.hive.jring = s.hive.jring ∧ t.hive.slots = s.hive.slots ∧ (∀ d : DieId, t.hive.dieSt d.val = 1) ∧
    (∀ i, (t.hive.flt i).valid = true → (t.hive.flt i).active = false) ∧
    t.hive.rd R.timEpoch = s.hive.rd R.timEpoch ∧ t.hive.rd R.fltLost = s.hive.rd R.fltLost ∧
    ∀ a, a ∉ hiveKept → (s.hive.get F.hiveIdent_grade = 2 → a ∉ [R.hskThr 0, R.hskThr 1, R.hskThr 2]) →
      t.hive.rd a = Regs.resetOf a) ∧
  (∀ good : Fin 16, ∃ t, exec (.porN good) s = .next t ∧ t.pending = s.pending ∧
    t.mem = { Mem.reset with flash := s.mem.flash } ∧ t.hive.mode = .cold ∧ t.hive.gtc = 0 ∧ t.hive.streams = [] ∧
    t.hive.sched = [] ∧ t.hive.jseq = s.hive.jseq ∧ t.hive.slots = s.hive.slots ∧ t.hive.jq = [] ∧
    t.hive.rd R.timEpoch = s.hive.rd R.timEpoch ∧ (∀ d : DieId, t.hive.dieSt d.val = 1) ∧
    (∀ k, s.hive.slotBest good.val = some k → t.hive.keeper = (s.hive.slotAt k).words ∧
      t.hive.get F.evrStat_restored = 4 + k ∧
      ((∃ j : Fin 4, (s.hive.slotAt j.val).magic = true ∧ (s.hive.slotAt j.val).complete = false ∧
        (s.hive.slotAt k).seq < (s.hive.slotAt j.val).seq) →
        t.hive.flag F.evrStat_older = true ∧ t.hive.faultOn 0x0D 0x04 0x1 1 = true)) ∧
    (s.hive.slotBest good.val = none → t.hive.keeper = [] ∧ t.hive.get F.evrStat_restored = 0) ∧
    ∀ a, a ∉ coldKept → faultReg a = false → (s.hive.get F.hiveIdent_grade = 2 → a ∉ [R.hskThr 0, R.hskThr 1, R.hskThr 2]) →
      inRange (R.useTCtl 0) 128 a = false → a ≠ R.pwrBakStat → a ≠ R.pwrClkStat →
      t.hive.rd a = Regs.resetOf a) ∧
  (∀ (pufOk : Bool) (keysOk : Fin 16),
    (s.hive.flag F.pwrStat_main_good = false ∨ s.hive.ticks < s.hive.sys.mainAt + 1966080 ∨
      s.hive.flag F.pwrClkStat_sclk_lock = false ∨ s.hive.queenUp = true ∨
      (s.hive.mode ≠ .cold ∧ s.hive.mode ≠ .boot) → exec (.mainResetRelease pufOk keysOk) s = .next s) ∧
    (s.hive.flag F.pwrStat_main_good = true → s.hive.sys.mainAt + 1966080 ≤ s.hive.ticks →
      s.hive.flag F.pwrClkStat_sclk_lock = true → s.hive.queenUp = false →
      s.hive.mode = .cold ∨ s.hive.mode = .boot → Completes (.mainResetRelease pufOk keysOk) s (fun h' =>
        h'.mode = .boot ∧ h'.queenUp = true ∧ h'.wakeReq = false ∧ (∀ d : DieId, h'.dieSt d.val = 1) ∧
        h'.flag F.queLife_puf_ok = pufOk ∧ (pufOk = false → h'.faultOn 0x0F 0x03 0x2 3 = true) ∧
        (∀ k : Fin 4, bitOf s.hive.sys.otpProv k.val = true → bitOf keysOk.val k.val = false →
          h'.faultOn 0x0F 0x04 0x2 2 = true))))

/-- Power fails (R315 to R318). The model's choices in it: log entries 5, 115, 133, 274. -/
def Obligations.PowerFail : Prop := ∀ (s : State) (warned : Bool) (i : Instr),
  (warned = true ∧ i = .powerFail) ∨ (warned = false ∧ ∃ r, i = .railPowerFailTrigger r) →
  (bitOf s.hive.safeBy 0 = true → exec i s = .next s) ∧
  (bitOf s.hive.safeBy 0 = false → s.hive.mode = .cold ∨ (s.hive.mode = .boot ∧ s.hive.queenUp = false) →
    Completes i s (fun h' => h' = if warned then { s.hive with sys := { s.hive.sys with pfPin := true } } else s.hive)) ∧
  (bitOf s.hive.safeBy 0 = false → s.hive.mode ≠ .cold → (s.hive.mode = .boot → s.hive.queenUp = true) →
    Completes i s (fun h' => (∀ n ∈ s.hive.image, h'.hasCause 0 n = true ∧
        (s.hive.unmarked n → (s.hive.st n = stLive ∨ s.hive.st n = stRampUp → h'.st n = stRampDown) ∧
          (s.hive.st n = stArmed → h'.st n = stMuted))) ∧
      h'.flag F.pwrStat_pf = true ∧ h'.flag F.pwrStat_pf_unwarned = !warned ∧
      h'.flag F.pwrStat_keep_src = (s.hive.flag F.pwrStat_keep_src || s.hive.flag F.pwrBakStat_ready) ∧
      h'.pfFrozen = true ∧ h'.flushNext = none ∧ h'.get F.evrStat_state = 2 ∧
      (∃ slot, h'.flush = some (slot, 3) ∧ (Tbl.get (fun _ => SlotSt.empty) h'.slots slot).reason = 3 ∧
        (Tbl.get (fun _ => SlotSt.empty) h'.slots slot).complete = false ∧
        ((∀ n ∈ s.hive.image, rwcOk (s.hive.rd (R.smkDeadline n)) = true) →
          slot = (match s.hive.flush with | some (k, _) => (k + 1) % 4 | none => (s.hive.get F.evrStat_last + 1) % 4))) ∧
      (∀ o ∈ h'.sched, o ∈ s.hive.sched ∧ o.t ≤ s.hive.gtc) ∧ h'.gtc = s.hive.gtc ∧ bitOf h'.safeBy 0 = true ∧
      (∀ t : TenantId, (h'.uget t.val).opened = false) ∧
      (∀ k, s.hive.mState k = 1 → s.hive.mget k ≠ none → k < 16 → h'.mState k = 3 ∧ h'.mget k = none) ∧
      (if warned then h'.faultOn 0x0C 0x03 0x0 3 = true else h'.faultOn 0x0C 0x04 0x0 5 = true) ∧
      (s.hive.mode = .run ∨ s.hive.mode = .degraded ∨ s.hive.mode = .safe →
        if warned then h'.mode = .safe ∨ (5 ≤ h'.ownMax ∧ h'.mode = .halt) else h'.mode = .halt) ∧
      (s.hive.mode = .boot ∨ s.hive.mode = .verify → h'.sys.bootStop = true ∧ h'.mode = s.hive.mode)))

/-- The keeper's supply and the backup (R312 to R321, R328). The model's choices in it: log entries 5, 117, 118,
136, 138, 166. The model's choices in it: log entries 5, 117, 118, 136, 138, 166. -/
def Obligations.BackupAndKeeper : Prop := ∀ s : State,
  Completes .vddKeepLoss s (fun h' => h'.flag F.pwrStat_keep_src = true ∧ Kept (sideOr (fun a => a == R.pwrStat)) s.hive h' ∧
    (s.hive.flag F.pwrStat_main_good = true → h'.faultOn 0x0C 0x05 0x1 1 = true) ∧
    (s.hive.flag F.pwrStat_main_good = false → h'.faults = s.hive.faults)) ∧
  Completes .vddKeepReturn s (fun h' => h'.flag F.pwrStat_keep_src = false ∧ h'.sys.rung0 = false ∧
    h'.flag F.pwrClkStat_rc_on = true ∧ Kept (fun a => a == R.pwrStat || a == R.pwrClkStat) s.hive h') ∧
  Completes .backupReady s (fun h' => h'.flag F.pwrBakStat_ready = true ∧
    Kept (sideOr (fun a => a == R.pwrBakStat)) s.hive h' ∧
    ∀ k, s.hive.fltFind 0x0D 0x01 0x1 = some k → (s.hive.flt k).selfc = true → (h'.flt k).hasKey 0x0D 0x01 0x1 = true →
      (h'.flt k).active = false) ∧
  Completes .backupNotReady s (fun h' => h'.flag F.pwrBakStat_ready = false ∧ h'.faultOn 0x0D 0x01 0x1 2 = true ∧
    (s.hive.flag F.smbAlertCfg_bak = true → h'.alBak = true) ∧
    Kept (sideOr (fun a => a == R.pwrBakStat || a == R.pwrBakLearn || maintReg a)) s.hive h' ∧
    (∀ k, s.hive.maintOfAct 6 = some k → h'.mState k = 3 ∧ h'.get (F.cmdMaint_result k) = 2 ∧ h'.mget k = none ∧
      h'.get F.pwrBakLearn_result = 3)) ∧
  (s.hive.calm = false ∨ s.hive.ticks < s.hive.sys.calmAt + 9830400000 → exec .capacityCheck s = .next s) ∧
  (s.hive.calm = true → s.hive.sys.calmAt + 9830400000 ≤ s.hive.ticks →
    ∀ (c : Nat) (q : Int), c = s.hive.get F.pwrBakCap_c_uf → q = (c : Int) * ((s.hive.get F.pwrBakStat_vbak_mv : Int) - 2500) →
    (s.hive.get F.pwrBakStat_cap = 3 → Completes .capacityCheck s (fun h' => h'.regs = s.hive.regs)) ∧
    (s.hive.get F.pwrBakStat_cap ≠ 3 → c = 0 → Completes .capacityCheck s (fun h' => h'.get F.pwrBakStat_cap = 2 ∧
      h'.flag F.pwrBakStat_learn_offer = true ∧ Kept (fun a => a == R.pwrBakStat) s.hive h')) ∧
    (s.hive.get F.pwrBakStat_cap ≠ 3 → c ≠ 0 → Completes .capacityCheck s (fun h' =>
      (0 < q → h'.get F.pwrBakStat_disagree =
        min 255 (roundEvenN (100 * (1000 * s.hive.sys.qAcc - 1024 * q).natAbs) (1024 * q.toNat))) ∧
      (h'.get F.pwrBakStat_disagree ≤ 20 → h'.get F.pwrBakStat_cap = s.hive.get F.pwrBakStat_cap ∧
        h'.faults = s.hive.faults) ∧
      (20 < h'.get F.pwrBakStat_disagree → h'.get F.pwrBakStat_cap = 1 ∧ h'.flag F.pwrBakStat_learn_offer = true ∧
        h'.faultOn 0x0D 0x02 0x1 1 = true) ∧
      Kept (sideOr (fun a => a == R.pwrBakStat || a == R.pwrBakQv)) s.hive h'))) ∧
  (s.hive.maintOfAct 6 = none →
    exec .backupLearnComplete s = .next s ∧ exec .backupLearnTimeout s = .next s) ∧
  (∀ (k : Nat) (m : MaintSt) (c : Nat), s.hive.maintOfAct 6 = some k → s.hive.mget k = some m →
    c = roundEvenN (4 * (s.hive.sys.learnQ - s.hive.sys.qAcc).natAbs) 1024 →
    (m.a2 < s.hive.get F.pwrBakStat_vbak_mv + 250 → exec .backupLearnComplete s = .next s) ∧
    (s.hive.get F.pwrBakStat_vbak_mv + 250 ≤ m.a2 → Completes .backupLearnComplete s (fun h' =>
      (c < 2 ^ 24 → h'.get F.pwrBakCap_c_uf = c) ∧ h'.get F.pwrBakStat_cap = 0 ∧
      h'.flag F.pwrBakStat_learn_offer = false ∧ h'.get F.pwrBakLearn_result = 1 ∧
      h'.get F.pwrBakLearn_secs = min 65535 ((s.hive.ticks - m.since) / 983040000) ∧ h'.mState k = 3 ∧
      h'.get (F.cmdMaint_result k) = 0 ∧ h'.mget k = none ∧ h'.rd R.pwrBakQ = h'.rd R.pwrBakQv)) ∧
    (s.hive.ticks < m.since + 117964800000 → exec .backupLearnTimeout s = .next s) ∧
    (m.since + 117964800000 ≤ s.hive.ticks →
      Completes .backupLearnTimeout s (fun h' => h'.rd R.pwrBakCap = s.hive.rd R.pwrBakCap ∧
        h'.get F.pwrBakLearn_result = 2 ∧ h'.get F.pwrBakLearn_secs = 120 ∧ h'.faultOn 0x0D 0x03 0x1 1 = true ∧
        h'.mState k = 3 ∧ h'.get (F.cmdMaint_result k) = 1 ∧ h'.mget k = none ∧
        Kept (sideOr (fun a => a == R.pwrBakStat || a == R.pwrBakLearn || maintReg a)) s.hive h'))) ∧
  (s.hive.sys.railsGood = 0 → s.hive.mode = .cold → s.hive.flush = none → s.hive.flushNext = none →
    s.hive.maintOfAct 6 = none → s.hive.sys.rung0 = false → s.hive.sys.smbAt + 98304000 ≤ s.hive.ticks →
    Completes .keeperRungDown s (fun h' => h'.sys.rung0 = true ∧
      h'.flag F.pwrClkStat_rc_on = false ∧ Kept (fun a => a == R.pwrClkStat) s.hive h')) ∧
  (s.hive.sys.railsGood ≠ 0 ∨ s.hive.mode ≠ .cold ∨ s.hive.flush ≠ none ∨ s.hive.sys.rung0 = true ∨
      s.hive.ticks < s.hive.sys.smbAt + 98304000 → exec .keeperRungDown s = .next s) ∧
  (s.hive.flag F.pwrStat_keep_src = false → exec .keeperSupplyLost s = .next s) ∧
  (s.hive.flag F.pwrStat_keep_src = true → Completes .keeperSupplyLost s (fun h' => h'.faults = [] ∧ h'.keeper = [] ∧
    h'.usage = [] ∧ h'.uring = [] ∧ h'.flush = none ∧ h'.keeperAlive = false ∧ h'.rd R.fltLost = 0 ∧
    h'.slots = s.hive.slots ∧ h'.flag F.pwrClkStat_xtal_ok = false ∧
    Kept (fun a => a == R.fltLost || a == R.pwrClkStat || a == R.evrStat || a == R.pwrBakStat) s.hive h'))

/-- Rails, references and the crystal (R309 to R327). The model's choices in it: log entries 5, 134, 135, 161, 162,
275. -/
def Obligations.RailsAndReferences : Prop := ∀ (s : State) (a : Nat), a = s.hive.get F.pwrRefStat_active →
  (∀ (rail : Fin 8) (good : Bool) (m : Nat), m = setBit s.hive.sys.railsGood rail.val good →
    (m ≠ 0 ∨ s.hive.mode = .cold → Completes (.railGoodChange rail good) s (fun h' => h'.sys.railsGood = m ∧
      bitOf (h'.get F.pwrStat_rail_bad) rail.val = !good ∧ h'.flag F.pwrStat_main_good = decide (m = 255) ∧
      h'.mode = s.hive.mode ∧
      (good = true → s.hive.mode = .cold → (railsBefore rail.val).any (fun k => !bitOf s.hive.sys.railsGood k) = true →
        h'.flag F.pwrStat_seq_err = true) ∧
      (good = true → m = 255 → s.hive.flag F.pwrClkStat_sclk_lock = false →
        (s.hive.flag F.pwrRefStat_a_qual = true ∨ s.hive.flag F.pwrRefStat_b_qual = true) →
        h'.flag F.pwrClkStat_sclk_lock = true ∧ h'.gtc = 0 ∧ h'.get F.pwrRefStat_active =
          (if s.hive.flag (refQual s.hive.refPref) then s.hive.refPref + 1 else 2 - s.hive.refPref)) ∧
      Kept (fun x => x == R.pwrStat || x == R.pwrClkStat || x == R.pwrRefStat) s.hive h')) ∧
    (m = 0 → s.hive.mode ≠ .cold → ∃ t, exec (.railGoodChange rail good) s = .next t ∧ t.pending = s.pending ∧
      t.mem = { Mem.reset with flash := s.mem.flash } ∧ t.hive.mode = .cold ∧ t.hive.streams = [] ∧ t.hive.sched = [] ∧
      (∀ d : DieId, t.hive.dieSt d.val = 0) ∧ t.hive.flag F.pwrClkStat_sclk_lock = false ∧
      t.hive.get F.pwrRefStat_active = 0 ∧ t.hive.rd R.timEpoch = s.hive.rd R.timEpoch ∧ t.hive.jring = s.hive.jring)) ∧
  (∀ (b : Fin 2) (rate : Bool) (ofs : BitVec 16) (far : Bool),
    far = (s.hive.flag F.pwrClkStat_sclk_lock && s.hive.get F.pwrRefStat_active != b.val + 1) →
    Completes (.referenceQualified b rate ofs) s (fun h' => h'.flag (refQual b.val) = true ∧ h'.flag (refRate b.val) = rate ∧
      h'.get F.pwrRefStat_offset = (if far then ofs.toNat else s.hive.get F.pwrRefStat_offset) ∧
      Kept (sideOr (fun x => x == R.pwrRefStat || x == R.pwrClkStat)) s.hive h' ∧
      (s.hive.flag F.pwrRefStat_holdover = true → h'.flag F.pwrRefStat_holdover = false ∧
        h'.get F.pwrRefStat_active = b.val + 1 ∧
        h'.get F.pwrRefStat_switches = satInc 8 (s.hive.get F.pwrRefStat_switches) 1) ∧
      (s.hive.flag F.pwrRefStat_holdover = false → s.hive.flag F.pwrClkStat_sclk_lock = true →
        h'.get F.pwrRefStat_active = a ∧ h'.gtc = s.hive.gtc) ∧
      (s.hive.flag F.pwrRefStat_holdover = false → s.hive.flag F.pwrClkStat_sclk_lock = false →
        s.hive.flag F.pwrStat_main_good = true → h'.flag F.pwrClkStat_sclk_lock = true ∧ h'.gtc = 0)) ∧
    (a = b.val + 1 → exec (.referenceDisqualified b ofs) s = .next s) ∧
    (a ≠ b.val + 1 → Completes (.referenceDisqualified b ofs) s (fun h' => h'.flag (refQual b.val) = false ∧
      h'.get F.pwrRefStat_offset = (if far then ofs.toNat else s.hive.get F.pwrRefStat_offset) ∧
      h'.get F.pwrRefStat_active = a ∧ Kept (fun x => x == R.pwrRefStat) s.hive h')) ∧
    (a = b.val + 1 → Completes .referenceLoss s (fun h' => h'.flag (refQual b.val) = false ∧
      Kept (sideOr (fun x => x == R.pwrRefStat)) s.hive h' ∧
      (s.hive.flag (refQual (1 - b.val)) = true → h'.get F.pwrRefStat_active = 2 - b.val ∧
        h'.get F.pwrRefStat_switches = satInc 8 (s.hive.get F.pwrRefStat_switches) 1 ∧
        h'.flag F.pwrRefStat_holdover = false) ∧
      (s.hive.flag (refQual (1 - b.val)) = false → h'.get F.pwrRefStat_active = 0 ∧
        h'.flag F.pwrRefStat_holdover = true ∧ h'.faultOn 0x0E 0x05 0x5 2 = true))) ∧
    (s.hive.flag F.pwrRefStat_wtr_run = true → s.hive.flag F.pwrRefCtl_revert = true → s.hive.refPref = b.val →
      s.hive.flag (refQual b.val) = true →
      s.hive.sys.wtrAt + max 1 (s.hive.get F.pwrRefCtl_wtr) * 983040000 ≤ s.hive.ticks → Completes .referenceRevert s (fun h' => h'.get F.pwrRefStat_active = b.val + 1 ∧
        h'.get F.pwrRefStat_switches = satInc 8 (s.hive.get F.pwrRefStat_switches) 1 ∧
        Kept (sideOr (fun x => x == R.pwrRefStat)) s.hive h')) ∧
    (∀ w : RegWrite, goodWrite w R.pwrRefCtl false = true →
      (bitsOf w.value.toNat 10 2 = b.val + 1 → s.hive.flag (refQual b.val) = false → TurnedAway (.referenceForce w) s stWrong) ∧
      (bitsOf w.value.toNat 10 2 = b.val + 1 → s.hive.flag (refQual b.val) = true →
        s.hive.flag F.pwrClkStat_sclk_lock = true → Completes (.referenceForce w) s (fun h' =>
          h'.get F.pwrRefStat_active = b.val + 1 ∧
          Kept (sideOr (fun x => x == R.pwrRefStat || x == R.pwrRefCtl)) s.hive h')))) ∧
  (a = 0 ∨ a = 3 → exec .referenceLoss s = .next s) ∧
  (s.hive.flag F.pwrRefStat_wtr_run = false ∨ s.hive.flag F.pwrRefCtl_revert = false ∨
      s.hive.flag (refQual s.hive.refPref) = false ∨
      s.hive.ticks < s.hive.sys.wtrAt + max 1 (s.hive.get F.pwrRefCtl_wtr) * 983040000 → exec .referenceRevert s = .next s) ∧
  (∀ w : RegWrite, goodWrite w R.pwrRefCtl false = true →
    (bitsOf w.value.toNat 10 2 = 3 → TurnedAway (.referenceForce w) s stBadArg) ∧
    (bitsOf w.value.toNat 10 2 = 0 → Completes (.referenceForce w) s (fun h' => h'.get F.pwrRefStat_active = a ∧
      Kept (fun x => logReg x || x == R.pwrRefStat || x == R.pwrRefCtl) s.hive h'))) ∧
  (s.hive.flag F.pwrClkStat_xtal_ok = true → Completes .crystalStop s (fun h' => h'.flag F.pwrClkStat_xtal_ok = false ∧
    h'.faultOn 0x0E 0x06 0x1 1 = true ∧ Kept (sideOr (fun x => x == R.pwrClkStat)) s.hive h')) ∧
  (s.hive.flag F.pwrClkStat_xtal_ok = false → exec .crystalStop s = .next s) ∧
  Completes .crystalStart s (fun h' => h'.flag F.pwrClkStat_xtal_ok = true ∧ Kept (fun x => x == R.pwrClkStat) s.hive h')

/-- The end of a round (R333 to R344). The model's choices in it: log entries 5, 6, 106, 108, 109, 114, 138, 276. -/
def Obligations.HousekeepingRound : Prop := ∀ (s : State) (raw : List Int) (rail : List Bool) (tach : List Nat),
  (s.hive.mode = .cold ∨ s.hive.gtc % 23592960 ≠ 0 ∨ s.hive.gtc = 0 ∨ s.hive.atRound = true →
    exec (.housekeepingRoundEnd raw rail tach) s = .next s) ∧
  (s.hive.mode ≠ .cold → s.hive.gtc % 23592960 = 0 → s.hive.gtc ≠ 0 → s.hive.atRound = false →
    ∃ t, exec (.housekeepingRoundEnd raw rail tach) s = .next t ∧
    t.pending = s.pending ∧
    t.mem = (if t.hive.flag F.hskThrStat_trip && !s.hive.flag F.hskThrStat_trip then
      { s.mem with comb := [], wdata := [], kstore := [] } else s.mem) ∧
    Kept (fun a => faultReg a || loopStateReg a || inRange 0xC 0x10 a || inRange 0x4C0000 0x10000 a || decide (0x600000 ≤ a))
      s.hive t.hive ∧ t.hive.atRound = true ∧
    (0 ≤ raw.getD 88 0 → raw.getD 88 0 < 8192 → (t.hive.get F.pwrBakStat_vbak_mv : Int) = raw.getD 88 0) ∧
    (∀ n, n < 96 → s.hive.chOff n = false →
      (n ≠ 89 → t.hive.get (F.hskCh_value n) = twos 16 (raw.getD n 0)) ∧
      (n = 89 → ∀ c : Int, c = ({ s.hive with sys.isns := raw.getD 89 0 } : Hive).shuntCur → clampS 16 c = c →
        t.hive.getS (F.hskCh_value n) = c) ∧
      t.hive.flag (F.hskCh_valid n) = true ∧ t.hive.flag (F.hskCh_out_win n) = s.hive.chOut n (raw.getD n 0)) ∧
    (∀ d : DieId, (s.hive.dieSt d.val = 0 → t.hive.rd (R.hskDieT d.val) = 0 ∧ ∀ k : Fin 3, t.hive.dieIn d.val k.val = false) ∧
      (s.hive.dieSt d.val ≠ 0 → ∀ r : Int × Bool × Bool, r = dieTemp ((raw.drop (16 * d.val)).take 16)
          ((List.range 16).map (fun i => (t.hive.senGet (16 * d.val + i)).broken)) (s.hive.thrVal 1) →
        t.hive.flag (F.hskDieT_valid d.val) = true ∧ t.hive.flag (F.hskDieT_adjacent d.val) = r.2.1 ∧
        t.hive.flag (F.hskDieT_blind d.val) = r.2.2 ∧ (clampS 16 r.1 = r.1 → t.hive.getS (F.hskDieT_t d.val) = r.1) ∧
        (∀ k : Fin 3, t.hive.dieIn d.val k.val = decide (s.hive.thrVal k.val -
          (if s.hive.dieIn d.val k.val then s.hive.thrHyst k.val else 0) ≤ t.hive.getS (F.hskDieT_t d.val))) ∧
        (s.hive.dieIn d.val 0 = false → t.hive.dieIn d.val 0 = true →
          t.hive.faultOn 0x0A 0x01 (srcNoDie d.val) 1 = true) ∧
        (s.hive.dieIn d.val 1 = false → t.hive.dieIn d.val 1 = true → s.hive.ladLevel = 0 →
          (∀ e, e < 4 → t.hive.dieIn e 2 = false) → t.hive.faultOn 0x0A 0x02 (srcNoDie d.val) 2 = true ∧
            t.hive.sys.ladder.request = true ∧
            (s.hive.sys.ladder.request = false → t.hive.flag F.hskThrStat_grace_run = true)) ∧
        (s.hive.dieIn d.val 2 = false → t.hive.dieIn d.val 2 = true →
          t.hive.faultOn 0x0A 0x04 (srcNoDie d.val) 4 = true ∧ 4 ≤ t.hive.ladLevel ∧ bitOf t.hive.safeBy 1 = true ∧
          ∀ n ∈ s.hive.image, t.hive.hasCause 1 n = true) ∧
        (32000 ≤ t.hive.getS (F.hskDieT_t d.val) → t.hive.flag F.hskThrStat_trip = true))) ∧
    (s.hive.flag F.hskThrStat_trip = false → t.hive.flag F.hskThrStat_trip = true →
      (∃ d, d < 4 ∧ t.hive.faultOn 0x0A 0x05 (srcNoDie d) 5 = true) ∧
      (t.hive.anyIn 2 = true → ∀ n ∈ s.hive.image, t.hive.hasCause 1 n = true) ∧
      ∀ c : CombId, t.hive.get (F.wrkCombStat_power c.val) = 2) ∧
    (t.hive.anyIn 1 = false → s.hive.flag F.hskThrStat_grace_run = true → t.hive.flag F.hskThrStat_grace_run = false ∧
      (t.hive.anyIn 2 = false → t.hive.sys.ladder.request = false)) ∧
    ∀ f : FanId, (∀ r : Nat, r = (if tach.getD f.val 0 = 0 then 0
        else roundEvenN 471859200000 (tach.getD f.val 0 * (s.hive.get (F.fanCtl_ppr f.val) + 1))) → r < 65536 →
        t.hive.get (F.fanStat_rpm f.val) = r) ∧
      (s.hive.flag (F.fanCtl_en f.val) = true → (s.hive.fanGet f.val).learn = none →
      s.hive.fanSt f.val = 2 ∨ s.hive.fanSt f.val = 5 → t.hive.get (F.fanStat_duty f.val) = t.hive.fanDuty f.val))

/-- The ladder, the self-test and the thresholds (R339 to R343). The model's choices in it: log entries 5, 107. -/
def Obligations.ThrottleLadder : Prop := ∀ (s : State) (v n : Nat), v = s.hive.ladLevel → n = s.hive.shedOrder.length →
  (s.hive.atRound = true → s.hive.flag F.hskThrStat_grace_run = true → s.hive.graceRounds ≤ s.hive.sys.ladder.grace → v = 0 →
    s.hive.anyIn 1 = true → Completes .throttleGraceEnd s (fun h' => h'.ladLevel = 1 ∧
      h'.flag F.hskThrStat_grace_run = false ∧ h'.get F.pwrClkStat_wclk_step = 1 ∧
      Kept (fun a => a == R.hskThrStat || a == R.pwrClkStat || inRange 0x4C0000 0x10000 a) s.hive h')) ∧
  (s.hive.atRound = false ∨ s.hive.flag F.hskThrStat_grace_run = false ∨ s.hive.sys.ladder.grace < s.hive.graceRounds ∨ v ≠ 0 ∨
      s.hive.anyIn 1 = false → exec .throttleGraceEnd s = .next s) ∧
  (s.hive.atRound = false ∨ v = 0 → exec .ladderStep s = .next s) ∧
  (s.hive.atRound = true → v ≠ 0 → s.hive.hot = true → s.hive.stepRounds ≤ s.hive.sys.ladder.step → v < s.hive.ladTop →
    Completes .ladderStep s (fun h' => h'.ladLevel = v + 1 ∧ h'.get F.pwrClkStat_wclk_step = min (v + 1) 3 ∧
      Kept (sideOr (fun a => a == R.hskThrStat || a == R.pwrClkStat || inRange 0x4C0000 0x10000 a ||
        loopStateReg a)) s.hive h' ∧
      ∀ (mute : Bool) (t : Nat), 4 < v + 1 → mute = decide (4 + n < v + 1) →
        s.hive.shedOrder.find? (fun t => !s.hive.sys.ladder.acts.any (fun a => a.2.1 == mute && a.2.2 == t)) = some t →
        (mute = true → (∀ k ∈ s.hive.tenantStreams t, h'.hasCause 1 k = true) ∧
          ∃ d, d < 4 ∧ h'.faultOn 0x0A 0x03 (srcNoDie d) 3 = true) ∧
        (mute = false → ∀ k ∈ s.hive.tenantStreams t, ∀ l ∈ s.hive.slotsOfType k 4,
          h'.flag (F.gceLoopState_dormant l) = false))) ∧
  (v ≠ 0 → s.hive.hot = true → s.hive.sys.ladder.step < s.hive.stepRounds ∨ s.hive.ladTop ≤ v →
    exec .ladderStep s = .next s) ∧
  (∀ k, v ≠ 0 → s.hive.hot = false → s.hive.sys.ladder.out = some k →
    (k < s.hive.stepRounds → exec .ladderStep s = .next s) ∧
    (s.hive.atRound = true → s.hive.stepRounds ≤ k → Completes .ladderStep s (fun h' => h'.ladLevel = v - 1 ∧
      h'.get F.pwrClkStat_wclk_step = min (v - 1) 3 ∧
      (v = 1 → h'.sys.ladder.request = false ∧ h'.flag F.hskThrStat_grace_run = false) ∧
      ∀ t, (v, true, t) ∈ s.hive.sys.ladder.acts → s.hive.sys.ladder.shut = false →
        ∀ k ∈ s.hive.tenantStreams t, h'.hasCause 1 k = false))) ∧
  (v ≠ 0 → s.hive.hot = false → s.hive.sys.ladder.out = none → exec .ladderStep s = .next s) ∧
  (∀ fail : List Bool, (s.hive.maintOfAct 4 = none → exec (.selfTestComplete fail) s = .next s) ∧
    ∀ i m, s.hive.maintOfAct 4 = some i → s.hive.mget i = some m →
    (s.hive.ticks < m.since + 377487360 → exec (.selfTestComplete fail) s = .next s) ∧
    (m.since + 377487360 ≤ s.hive.ticks → Completes (.selfTestComplete fail) s (fun h' =>
      h'.get F.hskThrStat_selftest = (if fail.any id then 3 else 2) ∧ h'.mState i = 3 ∧
      h'.get (F.cmdMaint_result i) = 0 ∧ h'.mget i = none ∧
      Kept (sideOr (fun a => maintReg a || a == R.hskThrStat || inRange (R.hskCh 0) 0x100 a)) s.hive h' ∧
      ∀ c, c < 64 → (fail.getD c false = true → h'.flag (F.hskCh_broken c) = true ∧ (h'.senGet c).broken = true ∧
          ((s.hive.senGet c).broken = false → h'.faultOn 0x0A 0x06 (srcNoDie (c / 16)) 1 = true)) ∧
        (fail.getD c false = false → (s.hive.senGet c).broken = true → h'.flag (F.hskCh_broken c) = false ∧
          (h'.senGet c).broken = false) ∧
        (fail.getD c false = false → (s.hive.senGet c).broken = false → h'.rd (R.hskCh c) = s.hive.rd (R.hskCh c))))) ∧
  ∀ (w : RegWrite) (k : Fin 3) (th : Nat → Int), goodWrite w (R.hskThr k.val) true = true →
    (∀ j, th j = if j = k.val then sext 16 w.value.toNat else s.hive.thrVal j) →
    ((if k.val = 2 then 17920 else 15360) ≤ th k.val ∧ th k.val ≤ 30720 ∧ th 0 ≤ th 1 ∧ th 1 < th 2 →
      Taken (.thresholdWrite w) s (R.hskThr k.val) w.value) ∧
    (th k.val < (if k.val = 2 then 17920 else 15360) ∨ 30720 < th k.val ∨ th 1 < th 0 ∨ th 2 ≤ th 1 →
      TurnedAway (.thresholdWrite w) s stBadArg)

/-- Fans (R344 to R351). The model's choices in it: log entries 5, 104, 105, 110, 111, 277. -/
def Obligations.Fans : Prop := ∀ (s : State) (f : FanId) (st duty : Nat), st = s.hive.fanSt f.val →
  duty = s.hive.get (F.fanStat_duty f.val) →
  (st = 1 → duty ≠ 0 → s.hive.fanFor f.val 2 = true → s.hive.flag (F.fanCtl_en f.val) = true → (s.hive.fanGet f.val).learn = none →
    ∀ pulse, Completes (.fanSpinupEnd f pulse) s (fun h' => Kept (fun a => a == R.fanStat f.val) s.hive h' ∧
      h'.get (F.fanStat_duty f.val) = h'.fanDuty f.val ∧ (pulse = true → h'.get (F.fanStat_attempts f.val) = 0) ∧
      h'.fanSt f.val = (if h'.fanDuty f.val = 0 then 0 else if pulse then 2 else 1))) ∧
  (st = 1 → duty ≠ 0 → s.hive.fanFor f.val 3 = true → s.hive.get (F.fanStat_attempts f.val) < 2 →
    Completes (.fanSpinupFail f) s (fun h' =>
      h'.get (F.fanStat_attempts f.val) = s.hive.get (F.fanStat_attempts f.val) + 1 ∧ h'.get (F.fanStat_duty f.val) = 0 ∧
      h'.fanSt f.val = 1 ∧ Kept (fun a => a == R.fanStat f.val) s.hive h')) ∧
  (st = 1 → duty ≠ 0 → s.hive.fanFor f.val 3 = true → 2 ≤ s.hive.get (F.fanStat_attempts f.val) →
    s.hive.flag (F.fanCtl_en f.val) = true →
    Completes (.fanSpinupFail f) s (fun h' => h'.fanSt f.val = 3 ∧ h'.get (F.fanStat_duty f.val) = 0 ∧
      h'.faultOn 0x0B 0x01 0x4 2 = true ∧
      (∀ g : FanId, g ≠ f → s.hive.flag (F.fanCtl_en g.val) = true → (s.hive.fanGet g.val).learn = none →
        s.hive.fanSt g.val = 2 ∨ s.hive.fanSt g.val = 5 → h'.get (F.fanStat_duty g.val) = 256) ∧
      Kept (sideOr (fun a => maintReg a || inRange (R.fanCtl 0) 0x80 a)) s.hive h')) ∧
  (st ≠ 1 ∨ duty = 0 ∨ s.hive.fanFor f.val 2 = false → ∀ pulse, exec (.fanSpinupEnd f pulse) s = .next s) ∧
  (st ≠ 1 ∨ duty = 0 ∨ s.hive.fanFor f.val 3 = false → exec (.fanSpinupFail f) s = .next s) ∧
  (st = 1 → duty = 0 → s.hive.fanFor f.val 10 = true → Completes (.fanRetry f) s (fun h' => h'.fanSt f.val = 1 ∧
    h'.get (F.fanStat_duty f.val) = 256 ∧ Kept (fun a => a == R.fanStat f.val) s.hive h')) ∧
  (st ≠ 1 ∨ duty ≠ 0 ∨ s.hive.fanFor f.val 10 = false → exec (.fanRetry f) s = .next s) ∧
  (st = 2 ∨ st = 5 → duty ≠ 0 → s.hive.fanFor f.val 1 = true → s.hive.flag (F.fanCtl_en f.val) = true →
    Completes (.fanPulseLoss f) s (fun h' =>
    h'.fanSt f.val = 4 ∧ h'.get (F.fanStat_duty f.val) = 256 ∧ h'.faultOn 0x0B 0x02 0x4 2 = true ∧
    (h'.fanGet f.val).trend = some (s.hive.tHotNow, s.hive.ticks) ∧ h'.rd (R.fanTrend2 f.val) = 0 ∧
    (clampS 16 s.hive.tHotNow = s.hive.tHotNow → h'.getS (F.fanTrend_t_det f.val) = s.hive.tHotNow) ∧
    (clampS 16 (s.hive.tHotNow - s.hive.tHotAgo) = s.hive.tHotNow - s.hive.tHotAgo →
      h'.getS (F.fanTrend_d_before f.val) = s.hive.tHotNow - s.hive.tHotAgo) ∧
    (∀ g : FanId, g ≠ f → s.hive.flag (F.fanCtl_en g.val) = true → (s.hive.fanGet g.val).learn = none →
      s.hive.fanSt g.val = 2 ∨ s.hive.fanSt g.val = 5 → h'.get (F.fanStat_duty g.val) = 256))) ∧
  ((st ≠ 2 ∧ st ≠ 5) ∨ duty = 0 ∨ s.hive.fanFor f.val 1 = false → exec (.fanPulseLoss f) s = .next s) ∧
  ((s.hive.fanGet f.val).trend = none → exec (.fanTrendComplete f) s = .next s) ∧
  (∀ t k, (s.hive.fanGet f.val).trend = some (t, k) →
    (s.hive.ticks < k + 58982400000 → exec (.fanTrendComplete f) s = .next s) ∧
    (k + 58982400000 ≤ s.hive.ticks → Completes (.fanTrendComplete f) s (fun h' =>
      h'.flag (F.fanTrend2_valid f.val) = true ∧ (h'.fanGet f.val).trend = none ∧
      (clampS 16 (s.hive.tHotNow - t) = s.hive.tHotNow - t → h'.getS (F.fanTrend2_d_after f.val) = s.hive.tHotNow - t) ∧
      Kept (fun a => a == R.fanTrend2 f.val) s.hive h'))) ∧
  (s.hive.fanStalled f.val = true → s.hive.fanFor f.val 3 = true → s.hive.flag (F.fanCtl_en f.val) = true →
    (s.hive.fanGet f.val).learn = none → Completes (.fanStallClear f) s (fun h' => (h'.fanGet f.val).stall = 0 ∧ h'.get (F.fanStat_attempts f.val) = 0 ∧
      h'.get (F.fanStat_duty f.val) = h'.fanDuty f.val ∧ h'.fanSt f.val = (if h'.fanDuty f.val = 0 then 0 else 2) ∧
      (∀ j k : Nat, j = 1 ∨ j = 2 → (s.hive.fanGet f.val).stall = j → (∀ g : FanId, g ≠ f → (s.hive.fanGet g.val).stall ≠ j) →
        s.hive.fltFind 0x0B j 0x4 = some k → (s.hive.flt k).selfc = true → (h'.flt k).hasKey 0x0B j 0x4 = true →
        (h'.flt k).active = false) ∧
      Kept (sideOr (fun a => inRange (R.fanCtl 0) 0x80 a)) s.hive h')) ∧
  (s.hive.fanStalled f.val = false ∨ s.hive.fanFor f.val 3 = false → exec (.fanStallClear f) s = .next s) ∧
  (∀ w : RegWrite, goodWrite w (R.fanCtl f.val) false = true →
    (256 < bitsOf w.value.toNat 12 9 → TurnedAway (.fanRestart w) s stBadArg) ∧
    (bitsOf w.value.toNat 12 9 ≤ 256 → Completes (.fanRestart w) s (fun h' =>
      bitsOf (h'.rd (R.fanCtl f.val)).toNat 0 21 = bitsOf w.value.toNat 0 21 ∧
      (bitOf w.value.toNat 0 = false → h'.fanSt f.val = 0 ∧ h'.get (F.fanStat_duty f.val) = 0) ∧
      (bitOf w.value.toNat 0 = true → bitOf w.value.toNat 21 = true → h'.flag (F.fanCtl_restart f.val) = false ∧
        h'.fanSt f.val = 1 ∧ h'.get (F.fanStat_duty f.val) = 256 ∧ h'.get (F.fanStat_attempts f.val) = 0) ∧
      Kept (sideOr (fun a => inRange (R.fanCtl 0) 0x80 a)) s.hive h'))) ∧
  (s.hive.maintOfAct 5 = none → exec (.fanLearnPhaseEnd f) s = .next s) ∧
  (∀ i m, s.hive.maintOfAct 5 = some i → s.hive.mget i = some m →
    (m.since + 9830400000 ≤ s.hive.ticks → m.cnt = 2 * f.val → Completes (.fanLearnPhaseEnd f) s (fun h' =>
      h'.get (F.fanLearn_rpm_max f.val) = s.hive.get (F.fanStat_rpm f.val) ∧
      (h'.fanGet f.val).learn = some (s.hive.get (F.fanCtl_duty_min f.val)) ∧
      Kept (fun a => a == R.fanStat f.val || a == R.fanLearn f.val) s.hive h')) ∧
    (m.since + 9830400000 ≤ s.hive.ticks → m.cnt = 2 * f.val + 1 → Completes (.fanLearnPhaseEnd f) s (fun h' =>
      h'.get (F.fanLearn_rpm_min f.val) = s.hive.get (F.fanStat_rpm f.val) ∧ (h'.fanGet f.val).learn = none ∧
      (h'.fanGet f.val).learnedAt = s.hive.get (F.fanCtl_duty_min f.val) ∧
      (∀ g, s.hive.fanNext (f.val + 1) = some g → (h'.fanGet g).learn = some 256) ∧
      (s.hive.fanNext (f.val + 1) = none → h'.mState i = 3 ∧ h'.get (F.cmdMaint_result i) = 0 ∧ h'.mget i = none))) ∧
    (m.cnt / 2 ≠ f.val ∨ s.hive.ticks < m.since + 9830400000 → exec (.fanLearnPhaseEnd f) s = .next s)) ∧
  (∀ k, st = 2 → (s.hive.fanGet f.val).slowAt = some k → k + 9830400000 ≤ s.hive.ticks → Completes (.fanSlow f) s (fun h' =>
    h'.fanSt f.val = 5 ∧ h'.faultOn 0x0B 0x03 0x4 1 = true ∧
    Kept (sideOr (fun a => a == R.fanStat f.val)) s.hive h')) ∧
  (st ≠ 2 ∨ (∀ k, (s.hive.fanGet f.val).slowAt = some k → s.hive.ticks < k + 9830400000) → exec (.fanSlow f) s = .next s)

/-- Boot, load and rebase (R264, R265, R279). The model's choices in it: log entries 5, 7, 34, 119, 120, 215. -/
def Obligations.BootAndImages : Prop := ∀ (s : State) (f : TolFile),
  (∀ (slot : Fin 2) (ok : Prop) (r : Nat), r = s.hive.bootReason f.hdr [0x01, 0x03] false →
    (ok ↔ (s.hive.mode = .boot ∨ s.hive.mode = .verify) ∧ s.hive.queenUp = true ∧ s.hive.sys.boot.verified = none ∧
      s.hive.sys.bootStop = false ∧ s.hive.sys.testEn = false ∧ slot.val = s.hive.trySlot s.mem) →
    (¬ok → exec (.imageVerify slot f) s = .next s) ∧
    (ok → r = 0 → Completes (.imageVerify slot f) s (fun h' => h'.mode = .verify ∧
      h'.sys.boot.verified = some (slot.val, f.hdr.hash) ∧ h'.get F.imgStat_slot = slot.val ∧
      Kept (fun a => a == R.imgStat) s.hive h')) ∧
    (ok → r ≠ 0 → s.hive.sys.boot.failed = none → Completes (.imageVerify slot f) s (fun h' => h'.mode = .verify ∧
      h'.sys.boot.verified = none ∧ h'.sys.boot.failed = some slot.val ∧ h'.flag F.imgStat_fallback = true ∧
      h'.get F.imgStat_boot_reason = r ∧ Kept (fun a => logReg a || a == R.imgStat) s.hive h')) ∧
    (ok → r ≠ 0 → s.hive.sys.boot.failed ≠ none → Completes (.imageVerify slot f) s (fun h' => h'.mode = .halt ∧
      h'.faultOn 0x0F 0x01 0x2 5 = true ∧ h'.get F.imgStat_boot_reason = r ∧
      Kept (sideOr (fun a => a == R.imgStat)) s.hive h'))) ∧
  (∀ (files : List TolFile) (slot hash : Nat), s.hive.sys.boot.verified = some (slot, hash) →
    (s.hive.mode ≠ .verify ∨ hash ≠ f.hdr.hash ∨ s.hive.sys.bootStop = true ∨ s.hive.sys.testEn = true ∨
        s.hive.flag F.imgStat_loaded = true →
      exec (.imageLoadComplete f files) s = .next s) ∧
    (s.hive.mode = .verify → hash = f.hdr.hash → s.hive.sys.bootStop = false → s.hive.sys.testEn = false →
      s.hive.flag F.imgStat_loaded = false → ∃ t, exec (.imageLoadComplete f files) s = .next t ∧ t.pending = s.pending ∧
        t.mem = s.mem.chainDiscard.codeLoad t.hive (List.range 512) ∧
        (t.hive.mode = .run ∨ t.hive.mode = .degraded ∨ t.hive.mode = .safe ∨ t.hive.mode = .halt) ∧
        (∀ d : DieId, bitOf s.hive.dieBad d.val = false → t.hive.dieSt d.val = 2) ∧
        (∀ n ∈ t.hive.image, bitOf s.hive.dieBad (t.hive.home n) = false → t.hive.st n = stIdle) ∧
        (s.mem.chainReplay = 0 → t.hive.flag F.imgStat_loaded = true ∧ t.hive.getHash R.imgHash = f.hdr.hash % 2 ^ 384 ∧
          t.hive.chainHead = f.hdr.hash % 2 ^ 384 ∧ t.hive.get F.imgVersion_version = f.hdr.version % 128 ∧
          t.hive.get F.topo_hive_id = f.hdr.hiveId.val) ∧
        (s.mem.chainReplay ≠ 0 → files = [] → t.hive.faultOn 0x0F 0x02 0x2 3 = true ∧ t.hive.mode ≠ .run))) ∧
  (s.hive.sys.boot.verified = none → ∀ files, exec (.imageLoadComplete f files) s = .next s) ∧
  (∀ (c : CmdEntry) (ok : Prop), goodEntry c 0x10 false 0 0 0 = true → admits s.hive.mode .patch = true →
    (ok ↔ s.hive.bootReason f.hdr [0x03] false = 0 ∧ f.hdr.base = s.hive.chainHead ∧
      (∀ p, p < 4 → s.hive.pPending p = false) ∧ f.hdr.digestsRunning = true) →
    (ok → ∃ t, exec (.rebase c f) s = .next t ∧ t.pending = s.pending ∧
      t.mem = s.mem.dirRewrite (1 - s.hive.get F.imgStat_slot) ∧ t.hive.chainHead = f.hdr.hash % 2 ^ 384 ∧
      t.hive.get F.imgStat_chain_len = 0 ∧ t.hive.rd R.imgVersion = s.hive.rd R.imgVersion ∧
      Kept (fun a => logReg a || a == R.imgStat || inRange (R.imgChain 0) 48 a) s.hive t.hive) ∧
    (¬ok → Completes (.rebase c f) s (LogOnly s.hive)))

/-- The conditions of R272, and what an abandoned patch leaves. The model's choices in it: log entry 268. -/
def Obligations.PatchAbandonedWhole : Prop := ∀ (s : State) (p : PatchId) (q : PatchSt),
  s.hive.pget p.val = some q → s.hive.pPending p.val = true → s.hive.due (.patchAct p.val) = true →
  s.hive.patchWaits p.val q.file = false →
  (s.hive.pSt p.val ≠ 3 ∨ s.hive.shadowLost q.file.body = true ∨ q.file.hdr.base ≠ s.hive.chainHead ∨
    s.hive.primed q.file.body = false ∨
    ∃ n ∈ s.hive.removed q.file, s.hive.st n ≠ stIdle ∧ s.hive.st n ≠ stArmed) →
  ∃ t, exec (.patchActivation p) s = .next t ∧ t.pending = s.pending ∧
    t.mem = (if s.hive.pSt p.val = 3 then s.mem.chainMark (s.hive.get (F.imgPatchStat_entry p.val)) 2 else s.mem) ∧
    t.hive.pSt p.val = 5 ∧ t.hive.flag (F.imgPatchStat_done p.val) = true ∧ t.hive.pget p.val = none ∧
    t.hive.get (F.imgPatchStat_reason p.val) = s.hive.actReason p.val q.file ∧
    t.hive.get (F.imgPatchStat_reason p.val) ≠ 0 ∧ t.hive.faultOn 0x10 0x01 0x2 1 = true ∧
    t.hive.sched = s.hive.sched.filter (fun o => o.kind != .patchAct p.val) ∧
    Kept (sideOr (fun a => maintReg a || a == R.imgPatchStat p.val)) s.hive t.hive ∧
    ({ t.hive with sys := s.hive.sys, sched := s.hive.sched, maint := s.hive.maint } : Hive).sansFault = s.hive.sansFault ∧
    { t.hive.sys with patches := s.hive.sys.patches } = s.hive.sys

/-- Patch slots (R270 to R281). The model's choices in it: log entries 5, 7, 34, 129, 130, 268, 269, 270, 271. -/
def Obligations.PatchSlots : Prop := ∀ (s : State) (p : PatchId),
  (s.hive.pget p.val = none → exec (.patchReady p) s = .next s ∧ exec (.activatedBitProgrammed p) s = .next s ∧
    exec (.patchActivation p) s = .next s) ∧
  (∀ q, s.hive.pget p.val = some q →
    (∀ e, s.mem.chainFree = some e → s.hive.pSt p.val = 2 → ∃ t, exec (.patchReady p) s = .next t ∧ t.pending = s.pending ∧
      t.mem = s.mem.chainAppend e q.off q.len ∧ t.hive.pSt p.val = 3 ∧ t.hive.get (F.imgPatchStat_entry p.val) = e ∧
      (∀ i, q.handle = some i → s.hive.mget i ≠ none → i < 16 → t.hive.mState i = 3 ∧
        t.hive.get (F.cmdMaint_result i) = 0 ∧ t.hive.mget i = none) ∧
      Kept (fun a => logReg a || wagReg a || maintReg a || a == R.imgPatchStat p.val || inRange 0xC 0x10 a ||
        a == R.pwrClkStat) s.hive t.hive) ∧
    (s.hive.pSt p.val ≠ 2 → exec (.patchReady p) s = .next s) ∧
    (s.hive.due (.patchAct p.val) = false ∨ s.hive.pPending p.val = false ∨ s.hive.patchWaits p.val q.file = true →
      exec (.patchActivation p) s = .next s) ∧
    (s.hive.pPending p.val = true → s.hive.due (.patchAct p.val) = true → s.hive.patchWaits p.val q.file = false →
      s.hive.actReason p.val q.file = 0 →
      (∀ x ∈ q.file.body.words, x.1 < 0x840000 ∨ 0x841000 ≤ x.1) → (∀ x ∈ q.file.body.banks, x.1 < 2048) →
      (∀ x ∈ q.file.body.swaps, x < 2048) →
      (∀ n ∈ q.file.body.streams, n < 2048) →
      ∃ t, exec (.patchActivation p) s = .next t ∧ t.pending = s.pending ∧ t.hive.pSt p.val = 4 ∧
        t.mem = (s.mem.kernelsCopy s.hive t.hive).codeLoad t.hive
          ((List.range 512).filter (fun w => bitOf q.file.body.frames (w / 64))) ∧
        t.hive.pget p.val = some { q with programDue := true } ∧
        t.hive.chainHead = Config.sha384 (leBytes s.hive.chainHead 48 ++ leBytes q.file.hdr.hash 48) % 2 ^ 384 ∧
        t.hive.get F.imgStat_chain_len = satInc 6 (s.hive.get F.imgStat_chain_len) 1 ∧
        (∀ o ∈ t.hive.sched, o.kind ≠ .patchAct p.val) ∧ t.hive.gtc = s.hive.gtc ∧
        t.hive.streams = (List.range 2048).filter (fun n => t.hive.isStream n)) ∧
    (q.programDue = true → ∃ t, exec (.activatedBitProgrammed p) s = .next t ∧ t.pending = s.pending ∧
      t.mem = s.mem.chainMark (s.hive.get (F.imgPatchStat_entry p.val)) 1 ∧ t.hive.pget p.val = none ∧
      t.hive.flag (F.imgPatchStat_done p.val) = true ∧ Kept (fun a => logReg a || a == R.imgPatchStat p.val) s.hive t.hive ∧
      bitOf (t.hive.get F.cmdIrqStat_cause) 3 = true) ∧
    (q.programDue = false → exec (.activatedBitProgrammed p) s = .next s)) ∧
  (∀ c : CmdEntry, goodEntry c 0x0F false p.val 0 0 = true → admits s.hive.mode .patch = true → ∀ t0 : Nat,
    t0 = s.hive.getPair (R.imgPatchTLo p.val) (R.imgPatchTHi p.val) →
    (s.hive.pPending p.val = false ∨ s.hive.leadOk t0 false = false → Completes (.patchCancel c) s (LogOnly s.hive)) ∧
    (∀ q, s.hive.pget p.val = some q → s.hive.pPending p.val = true → s.hive.leadOk t0 false = true →
      ∃ t, exec (.patchCancel c) s = .next t ∧ t.pending = s.pending ∧
        t.mem = (if s.hive.pSt p.val = 3 then s.mem.chainMark (s.hive.get (F.imgPatchStat_entry p.val)) 2 else s.mem) ∧
        t.hive.pSt p.val = 5 ∧ t.hive.get (F.imgPatchStat_reason p.val) = 0x13 ∧
        t.hive.flag (F.imgPatchStat_done p.val) = true ∧ t.hive.pget p.val = none ∧
        t.hive.sched = s.hive.sched.filter (fun o => o.kind != .patchAct p.val) ∧
        Kept (fun a => logReg a || maintReg a || a == R.imgPatchStat p.val || inRange 0xC 0x10 a ||
          a == R.pwrClkStat) s.hive t.hive)) ∧
  (∀ w : RegWrite, goodWrite w (R.imgPatchStat p.val) false = true →
    (s.hive.w1cTakes (F.imgPatchStat_done p.val) w.value.toNat = true → s.hive.flag (F.imgPatchStat_done p.val) = true →
      Completes (.patchSlotFree w) s (fun h' => h'.rd (R.imgPatchStat p.val) = 0 ∧ h'.rd (R.imgPatchTLo p.val) = 0 ∧
        h'.rd (R.imgPatchTHi p.val) = 0 ∧ h'.rd (R.imgPatchScope p.val) = 0 ∧
        Kept (fun a => logReg a || inRange (R.imgPatchStat p.val) 16 a) s.hive h')) ∧
    (s.hive.w1cTakes (F.imgPatchStat_done p.val) w.value.toNat = false ∨ s.hive.flag (F.imgPatchStat_done p.val) = false →
      Completes (.patchSlotFree w) s (LogOnly s.hive)))

/-- The boot SPI commands (R258, R385, R406). The model's choices in it: log entries 121, 122, 123, 177. -/
def Obligations.BootFlashCommands : Prop := ∀ (s : State) (c : CmdEntry) (o n : Nat), admits s.hive.mode .spi = true →
  (goodEntry c 0x11 false o n 0 = true →
    (1 ≤ n → n ≤ 65536 → o + n ≤ flashBytes → Completes (.spiRead c) s (fun h' =>
      (∀ i, i < n → (h'.bufBytes 0 n)[i]? = some (s.mem.fl (o + i))) ∧
      Kept (fun a => logReg a || inRange 0x10010000 0x10000 a) s.hive h')) ∧
    (n = 0 ∨ 65536 < n ∨ flashBytes < o + n → Completes (.spiRead c) s (LogOnly s.hive))) ∧
  (goodEntry c 0x12 false o n 0 = true →
    (s.hive.flashGuarded s.mem (o, n) = true ∨ n = 0 ∨ 65536 < n ∨ flashBytes < o + n →
      Completes (.spiProgram c) s (LogOnly s.hive)) ∧
    (s.hive.flashGuarded s.mem (o, n) = false → 1 ≤ n → n ≤ 65536 → o + n ≤ flashBytes →
      ∃ t, exec (.spiProgram c) s = .next t ∧ t.pending = s.pending ∧ LogOnly s.hive t.hive ∧
        { t.mem with flash := s.mem.flash } = s.mem ∧
        (∀ i, i < n → t.mem.fl (o + i) = Nat.land (s.mem.fl (o + i)) ((s.hive.bufBytes 0 n).getD i 0)) ∧
        ∀ a, inRange o n a = false → t.mem.fl a = s.mem.fl a)) ∧
  (goodEntry c 0x13 false o n 0 = true →
    (s.hive.flashGuarded s.mem (o, n) = true ∨ n = 0 ∨ n % 4096 ≠ 0 ∨ o % 4096 ≠ 0 ∨ flashBytes < o + n →
      Completes (.spiErase c) s (LogOnly s.hive)) ∧
    (s.hive.flashGuarded s.mem (o, n) = false → 0 < n → n % 4096 = 0 → o % 4096 = 0 → o + n ≤ flashBytes →
      ∃ t, exec (.spiErase c) s = .next t ∧ t.pending = s.pending ∧ LogOnly s.hive t.hive ∧
        { t.mem with flash := s.mem.flash } = s.mem ∧
        ∀ a, t.mem.fl a = if inRange o n a then 255 else s.mem.fl a))

/-- QUE.CMD but for tokens (R286 to R288, R291, R305 to R307). The model's choices in it: log entries 141, 142,
151. The model's choices in it: log entries 141, 142, 151, 273. -/
def Obligations.QueenCommands : Prop := ∀ (s : State) (w : RegWrite) (i : Instr) (c a st : Nat) (ok : Prop) (bad : Bool),
  goodWrite w R.queCmd false = true → c = bitsOf w.value.toNat 0 4 → a = bitsOf w.value.toNat 8 8 →
  (c, i) ∈ [(1, Instr.challenge w), (3, .quote w), (4, .provision w), (5, .deploy w), (6, .rollbackCommit w), (7, .rmaFromBlank w)] →
  (ok ↔ match c with
    | 1 => True
    | 3 => s.hive.sys.otpLife ≠ 0 ∧ s.hive.flag F.queLife_puf_ok = true
    | 4 => a < 4 ∧ (s.hive.sys.otpLife = 0 ∨ s.hive.sys.otpLife = 1 ∧ bitOf s.hive.sys.provNow a = false)
    | 5 => s.hive.sys.otpLife = 1 ∧ s.hive.flag F.imgStat_loaded = true ∧
        ∃ k, k < 4 ∧ bitOf s.hive.sys.provNow k = true ∧ bitOf s.hive.sys.otpRev k = false
    | 6 => a ≤ 64 ∧ s.hive.sys.otpRoll < a ∧ s.hive.flag F.imgStat_loaded = true ∧ a ≤ s.hive.sys.boot.topVersion
    | _ => s.hive.sys.otpLife = 0) →
  (bad = true ↔ (c = 4 ∧ 3 < a) ∨ (c = 6 ∧ 64 < a)) →
  (s.hive.queenUp = false ∨ s.hive.sys.qjob ≠ none →
    TurnedAway i s (if bad then stBadArg else stWrong)) ∧
  (s.hive.queenUp = true → s.hive.sys.qjob = none →
    (ok → Completes i s (fun h' => h'.get F.queCmdStat_last = c ∧ h'.get F.queCmdStat_status = stOk ∧
      h'.flag F.queCmdStat_busy = h'.sys.qjob.isSome ∧ h'.flag F.queCmdStat_done = h'.sys.qjob.isNone ∧
      Kept (fun x => logReg x || x == R.queCmdStat || (decide (c = 1) && inRange (R.queChal 0) 32 x) ||
        (decide (c = 4) && (x == R.queLife || inRange (R.queKeyHash 0 0) 0x100 x))) s.hive h' ∧
      (c = 1 → h'.sys.chalOn = true ∧ h'.sys.chalAt = s.hive.ticks ∧ h'.sys.qjob = none) ∧
      (c = 3 → ∀ j : Hive, j = s.hive.jq.foldl (fun h _ => h.jAppend) s.hive →
        ∃ q, h'.sys.qjob = some q ∧ q.cmd = 3 ∧ q.since = s.hive.ticks ∧ q.quote = s.hive.quoteBytes j.jhead j.jseq) ∧
      (c = 4 → s.hive.sys.otpLife = 0 ∨ bitOf s.hive.sys.otpProv a = false → ∃ q, h'.sys.qjob = some q ∧ q.cmd = 4 ∧
        q.slot = some a ∧ q.hash = s.hive.tokKeyHash 0 ∧ q.life = (if s.hive.sys.otpLife = 0 then some 1 else none)) ∧
      (c = 4 → s.hive.sys.otpLife = 1 →
        s.hive.sys.fusesLeft { QueJob.init with cmd := 4, arg := a, slot := some a, hash := s.hive.tokKeyHash 0 } = 0 →
        h'.sys.qjob = none ∧ bitOf h'.sys.keysBad a = (s.hive.sys.hashOf a != s.hive.tokKeyHash 0)) ∧
      (c = 5 → ∃ q, h'.sys.qjob = some q ∧ q.cmd = 5 ∧ q.life = some 2 ∧ h'.sys.fusesLeft q = 1) ∧
      (c = 6 → ∃ q, h'.sys.qjob = some q ∧ q.cmd = 6 ∧ q.life = none ∧ h'.sys.fusesLeft q = a - s.hive.sys.otpRoll) ∧
      (c = 7 → ∃ q, h'.sys.qjob = some q ∧ q.cmd = 7 ∧ q.life = some 3 ∧ q.seed = 2 ^ 256 - 1))) ∧
    (¬ok → st = (if bad then stBadArg else if c = 3 ∧ s.hive.sys.otpLife ≠ 0 then stInteg else stWrong) →
      Completes i s (fun h' => h'.get F.queCmdStat_last = c ∧ h'.get F.queCmdStat_status = st ∧ h'.sys = s.hive.sys ∧
        h'.flag F.wrRefuse_valid = true ∧ (s.hive.flag F.wrRefuse_valid = false → h'.get F.wrRefuse_status = st) ∧
        Kept (fun x => logReg x || x == R.queCmdStat) s.hive h')))

/-- Tokens (R291 to R293); the refusals of R292 in full. -/
def Obligations.TokenCommands : Prop := ∀ (s : State) (w : RegWrite) (sigOk : Bool) (i : Instr) (p a : Nat) (ok : Prop),
  goodWrite w R.queCmd false = true → bitsOf w.value.toNat 0 4 = 2 → s.hive.tokFormed = true →
  s.hive.queenUp = true → s.hive.sys.qjob = none → p = s.hive.tokPurpose → a = s.hive.tokArg →
  (p, i) ∈ [(1, Instr.tokenDebugUnlock w sigOk), (2, .tokenEnterRma w sigOk), (3, .tokenRevokeSlot w sigOk), (4, .tokenAddSlot w sigOk)] →
  (ok ↔ match p with
    | 1 => a = 1 → s.hive.mode = .safe ∨ s.hive.mode = .halt
    | 2 => s.hive.sys.otpLife = 1 ∨ s.hive.sys.otpLife = 2
    | 3 => a ≠ s.hive.tokKey ∧ a ∉ s.hive.sys.boot.signers ∧
        (¬∃ k q, k < 4 ∧ s.hive.pget k = some q ∧ s.hive.pPending k = true ∧ q.file.hdr.key.val = a) ∧
        ∃ k, k < 4 ∧ k ≠ a ∧ bitOf s.hive.sys.provNow k = true ∧ bitOf s.hive.sys.otpRev k = false
    | _ => s.hive.sys.otpLife = 2 ∧ bitOf s.hive.sys.provNow a = false) →
  ∀ auth : Bool, auth = (decide (s.hive.tokKey < 4) && s.hive.keysUsable s.hive.tokKey && s.hive.tokId && s.hive.tokChal && sigOk) →
  (∀ st, (auth = false ∧ st = stNotAuth) ∨ (auth = true ∧ ¬ok ∧ st = stWrong) → Completes i s (fun h' =>
    h'.get F.queCmdStat_last = 2 ∧ h'.get F.queCmdStat_status = st ∧ h'.flag F.wrRefuse_valid = true ∧
    (s.hive.flag F.wrRefuse_valid = false → h'.get F.wrRefuse_status = st) ∧
    h'.sys = { s.hive.sys with chalOn := false } ∧ (∀ k : Fin 8, h'.rd (R.queChal k.val) = 0) ∧
    Kept (fun x => logReg x || x == R.queCmdStat || inRange (R.queChal 0) 32 x) s.hive h')) ∧
  (auth = true → ok → Completes i s (fun h' => h'.get F.queCmdStat_last = 2 ∧ h'.get F.queCmdStat_status = stOk ∧
    h'.sys.chalOn = false ∧ (∀ k : Fin 8, h'.rd (R.queChal k.val) = 0) ∧
    Kept (sideOr (fun x => x == R.queCmdStat || x == R.queLife || inRange (R.queChal 0) 32 x ||
      (decide (p = 4) && inRange (R.queKeyHash 0 0) 0x100 x))) s.hive h' ∧
    (p = 1 → h'.sys.qjob = none ∧ h'.faultOn 0x0F 0x05 0x2 1 = true ∧
      (s.hive.sys.otpLife = 2 → h'.get F.queLife_debug = a) ∧
      (a = 2 → bitOf h'.safeBy 2 = true ∧ (s.hive.running? = true → h'.mode = .safe ∨ h'.mode = .halt) ∧
        ∀ n ∈ s.hive.image, s.hive.unmarked n → s.hive.st n = stLive → h'.st n = stRampDown)) ∧
    (p = 2 ∨ (p = 3 ∧ bitOf s.hive.sys.otpRev a = false) ∨ (p = 4 ∧ bitOf s.hive.sys.otpProv a = false) →
      ∃ j, h'.sys.qjob = some j ∧ j.cmd = 2 ∧ j.arg = p ∧ j.since = s.hive.ticks ∧ h'.flag F.queCmdStat_busy = true ∧
      (p = 2 → j.life = some 3 ∧ j.seed = 2 ^ 256 - 1) ∧ (p = 3 → j.slot = some a ∧ h'.sys.fusesLeft j = 1) ∧
      (p = 4 → j.slot = some a ∧ j.hash = s.hive.tokKeyHash 0x58))))

/-- What the queen does on its own (R282 to R305, R407). The model's choices in it: log entries 5, 147, 150, 153,
272. -/
def Obligations.QueenWork : Prop := ∀ s : State,
  (s.hive.sys.chalOn = false ∨ s.hive.ticks < s.hive.sys.chalAt + 589824000000 → exec .challengeExpiry s = .next s) ∧
  (s.hive.sys.chalOn = true → s.hive.sys.chalAt + 589824000000 ≤ s.hive.ticks → Completes .challengeExpiry s (fun h' => h'.sys = { s.hive.sys with chalOn := false } ∧
    (∀ k : Fin 8, h'.rd (R.queChal k.val) = 0) ∧ Kept (inRange (R.queChal 0) 32) s.hive h')) ∧
  (s.hive.sys.qjob = none → exec .quoteReady s = .next s ∧ exec .fuseProgramComplete s = .next s) ∧
  (∀ j, s.hive.sys.qjob = some j →
    (j.cmd ≠ 3 → exec .quoteReady s = .next s) ∧ (j.cmd = 3 → exec .fuseProgramComplete s = .next s) ∧
    (j.cmd = 3 → Completes .quoteReady s (fun h' => h'.sys = { s.hive.sys with qjob := none, quoteOk := true } ∧
      (∀ k : Fin 68, h'.rd (R.queQuote k.val) = BitVec.ofNat 32 (leNat ((j.quote.drop (4 * k.val)).take 4))) ∧
      h'.flag F.queCmdStat_busy = false ∧ h'.flag F.queCmdStat_done = true ∧
      h'.alQuote = (s.hive.alQuote || s.hive.flag F.smbAlertCfg_quote) ∧
      Kept (fun a => a == R.queCmdStat || inRange (R.queQuote 0) 368 a) s.hive h')) ∧
    (s.hive.queenUp = false ∨ s.hive.ticks < j.since + 983040 → exec .fuseProgramComplete s = .next s) ∧
    (j.cmd ≠ 3 → s.hive.queenUp = true → j.since + 983040 ≤ s.hive.ticks → ∀ o : Sys, o = s.hive.sys.fuseStep j →
      ∃ t, exec .fuseProgramComplete s = .next t ∧ t.pending = s.pending ∧
      t.hive.sys.otpLife = o.otpLife ∧ t.hive.sys.otpRoll = o.otpRoll ∧ t.hive.sys.otpProv = o.otpProv ∧
      t.hive.sys.otpRev = o.otpRev ∧ t.hive.sys.otpHash = o.otpHash ∧ t.hive.sys.pufHelper = o.pufHelper ∧
      t.hive.sys.wrapSeed = o.wrapSeed ∧
      (o.fusesLeft j ≠ 0 → j.retry = false → t.hive.sys.qjob = some { j with since := s.hive.ticks }) ∧
      (o.fusesLeft j ≠ 0 → j.retry = true → t.hive.sys.qjob = none ∧ t.hive.flag F.queCmdStat_busy = false) ∧
      (o.fusesLeft j = 0 → t.hive.sys.qjob = none ∧ t.hive.flag F.queCmdStat_busy = false ∧
        t.hive.flag F.queCmdStat_done = true ∧
        (∀ k, j.keySlot = some k → k < 4 → t.hive.getHash (R.queKeyHash k) = o.hashOf k % 2 ^ 384) ∧
        (j.life = some 3 → (∀ k : Fin 24, t.hive.rd (R.queWrapPub k.val) = 0) ∧
          ∀ p, p < 4 → t.hive.pPending p = false ∨ t.hive.pget p = none)) ∧
      (t.hive.sys.otpLife ≠ 3 ∨ s.hive.sys.otpLife = 3 → t.mem = s.mem) ∧
      (t.hive.sys.otpLife = 3 → s.hive.sys.otpLife ≠ 3 →
        t.mem = [0, 1, 2, 3].foldl (fun m p => m.patchStop s.hive p) s.mem) ∧
      (j.cmd = 6 → s.hive.sys.otpRoll < j.arg → s.hive.sys.otpRoll < 64 →
        t.hive.sys.otpRoll = s.hive.sys.otpRoll + 1 ∧ t.hive.get F.queLife_rollback = s.hive.sys.otpRoll + 1) ∧
      (∀ i, j.cmd ≠ 6 → fuseNext j.helper s.hive.sys.pufHelper 8192 = some i → bitOf t.hive.sys.pufHelper i = true) ∧
      (j.cmd ≠ 6 → fuseNext j.helper s.hive.sys.pufHelper 8192 = none →
        (∀ i, fuseNext j.seed s.hive.sys.wrapSeed 256 = some i → bitOf t.hive.sys.wrapSeed i = true) ∧
        (fuseNext j.seed s.hive.sys.wrapSeed 256 = none →
          (∀ k, j.keySlot = some k →
            (∀ i, fuseNext j.hash (s.hive.sys.hashOf k) 384 = some i → bitOf (t.hive.sys.hashOf k) i = true) ∧
            (fuseNext j.hash (s.hive.sys.hashOf k) 384 = none → bitOf t.hive.sys.otpProv k = true)) ∧
          (∀ k, j.keySlot = none → j.revSlot = some k → bitOf t.hive.sys.otpRev k = true) ∧
          (∀ l, j.keySlot = none → j.revSlot = none → j.life = some l →
            t.hive.sys.otpLife = min l (s.hive.sys.otpLife + 1)))))) ∧
  (s.hive.queenUp = false → exec .integrityScan s = .next s ∧ exec .journalAppend s = .next s) ∧
  (s.hive.queenUp = true →
    (∀ n : StreamId, (∃ w, (R.smkDeadline n.val, w) ∈ s.hive.regs) → rwcOk (s.hive.rd (R.smkDeadline n.val)) = false →
      (∀ x ∈ s.hive.regs, x.1 = R.smkDeadline n.val → x.2 = s.hive.rd x.1) →
      (∀ x ∈ s.hive.regs, isRwc x.1 = true → x.1 ≠ R.smkDeadline n.val → rwcOk x.2 = true) →
      (∀ x ∈ s.hive.mism, x.1 ≠ R.smkDeadline n.val) → Completes .integrityScan s (fun h' =>
        h'.hasCause 3 n.val = true ∧ h'.faultOn 0x13 0x02 0x2 3 = true)) ∧
    ((∀ x ∈ s.hive.regs, isRwc x.1 = true → rwcOk x.2 = true) → s.hive.envBad = [] →
      (∀ x ∈ s.hive.wcopy, rwcOk x.2 = true) → (∀ p, p < 4 → s.hive.usePin p 0x2 = s.hive) →
      exec .integrityScan s = .next s) ∧
    (s.hive.jq = [] → exec .journalAppend s = .next s) ∧
    (∀ e rest, s.hive.jq = e :: rest → Completes .journalAppend s (fun h' => h'.jq = rest ∧ h'.jseq = s.hive.jseq + 1 ∧
      h'.jhead = Config.sha384 (leBytes s.hive.jhead 48 ++ jBytes s.hive.jseq e) % 2 ^ 384 ∧
      Tbl.get (fun _ => none) h'.jring (s.hive.jseq % 2048) = some ⟨s.hive.jseq, e, h'.jhead % 2 ^ 192⟩ ∧
      LogOnly s.hive h'))) ∧
  (∀ (t : TenantId) (a : Nat), a = 0x810000 + t.val * 0x100 →
    ((∀ x ∈ s.hive.mism, x.1 < a ∨ a + 0x100 ≤ x.1) → exec (.envelopeCopyRestore t) s = .next s) ∧
    ((∃ x ∈ s.hive.mism, a ≤ x.1 ∧ x.1 < a + 0x100) → s.hive.envDigest ≠ s.hive.envHash →
      Completes (.envelopeCopyRestore t) s (fun h' => FaultOnly s.hive h' ∧ h'.faultOn 0x0F 0x07 0x2 4 = true)) ∧
    ((∃ x ∈ s.hive.mism, a ≤ x.1 ∧ x.1 < a + 0x100) → s.hive.envDigest = s.hive.envHash →
      Completes (.envelopeCopyRestore t) s (fun h' => (∀ x ∈ h'.mism, x.1 < a ∨ a + 0x100 ≤ x.1) ∧
        h'.envT = s.hive.envT ∧ (∀ o, o < 176 → Tbl.get (fun _ => 255) h'.envC (t.val * 176 + o) =
          (if s.hive.mism.any (fun x => x.1 == envKeyAddr (t.val * 176 + o)) then 255 - s.hive.envByte t.val o
          else Tbl.get (fun _ => 255) s.hive.envC (t.val * 176 + o))) ∧
        (∀ n : StreamId, h'.st n.val = s.hive.st n.val) ∧ Kept faultReg s.hive h'))) ∧
  (s.hive.running? = true → s.hive.get F.queLife_debug ≠ 0 → Completes .jtagExtestSelect s (fun h' =>
    bitOf h'.safeBy 3 = true ∧ (h'.mode = .safe ∨ h'.mode = .halt) ∧
    (∀ n ∈ s.hive.image, s.hive.unmarked n → s.hive.st n = stLive → h'.st n = stRampDown) ∧ Kept faultReg s.hive h')) ∧
  (s.hive.running? = false ∨ s.hive.get F.queLife_debug = 0 → exec .jtagExtestSelect s = .next s)

/-- Fault records and the recorder (R355 to R368). The model's choices in it: log entries 5, 140, 278, 279. -/
def Obligations.FaultsAndRecorder : Prop := ∀ s : State,
  (∀ (w : RegWrite) (i : Fin 256) (r : FaultRec), goodWrite w (R.fltRec i.val 11) false = true → r = s.hive.flt i.val →
    (r.valid = false → TurnedAway (.faultAck w) s stBadArg) ∧
    (r.valid = true → (r.level = 5 ∧ s.hive.mode = .halt) ∨ r.count ≠ w.value.toNat →
      TurnedAway (.faultAck w) s stWrong) ∧
    (r.valid = true → (r.level = 5 → s.hive.mode ≠ .halt) → r.count = w.value.toNat →
      Completes (.faultAck w) s (fun h' => Kept faultReg s.hive h' ∧ (s.hive.ownMax < 5 ∨ s.hive.mode = .halt →
        (∀ m ∈ s.hive.lostMarks, m.tick ≠ s.hive.ticks) → (∀ k, k ≠ i.val → h'.flt k = s.hive.flt k) ∧
        h'.flt i.val = (if r.active && r.selfc then { r with acked := true, gen := (r.gen + 2) % 2 ^ 32 }
          else { FaultRec.free with gen := (r.gen + 2) % 2 ^ 32 }))))) ∧
  (∀ w : RegWrite, goodWrite w R.fltLost false = true →
    (s.hive.w1cTakes F.fltLost_valid w.value.toNat = false → Completes (.lostAggregateClear w) s (LogOnly s.hive)) ∧
    (s.hive.w1cTakes F.fltLost_valid w.value.toNat = true → s.hive.ownMax < 5 ∨ s.hive.mode = .halt → Completes (.lostAggregateClear w) s (fun h' =>
      h'.rd R.fltLost = BitVec.ofNat 32 (s.hive.get F.fltLost_count) ∧ h'.faults = s.hive.faults ∧
      Kept faultReg s.hive h'))) ∧
  (∀ w : RegWrite, goodWrite w R.evrCmd false = true →
    (s.hive.pfFrozen = true → TurnedAway (.evrFlushCommand w) s stWrong) ∧
    (s.hive.pfFrozen = false → bitOf w.value.toNat 0 = false → Completes (.evrFlushCommand w) s (LogOnly s.hive)) ∧
    (s.hive.pfFrozen = false → bitOf w.value.toNat 0 = true → s.hive.flush = none →
      Completes (.evrFlushCommand w) s (fun h' => h'.flush = some ((s.hive.get F.evrStat_last + 1) % 4, 4) ∧
        h'.get F.evrStat_state = 1 ∧ h'.flushSeq = (s.hive.flushSeq + 1) % 2 ^ 32 ∧ h'.flushAt = s.hive.ticks ∧
        (h'.slotAt ((s.hive.get F.evrStat_last + 1) % 4)).complete = false ∧
        Kept (fun a => logReg a || a == R.evrStat) s.hive h')) ∧
    (∀ f, s.hive.pfFrozen = false → bitOf w.value.toNat 0 = true → s.hive.flush = some f →
      Completes (.evrFlushCommand w) s (fun h' => h'.flush = some f ∧ h'.flag F.evrStat_pending = true ∧
        h'.flushNext = some (Nat.lor 8 (Nat.lor 4 (s.hive.flushNext.getD 0))) ∧
        Kept (fun a => logReg a || a == R.evrStat) s.hive h'))) ∧
  (s.hive.flush = none ∨ s.hive.ticks < s.hive.flushAt + flushTicks → exec .flushComplete s = .next s) ∧
  (∀ slot why : Nat, s.hive.flush = some (slot, why) → slot < 4 → s.hive.flushAt + flushTicks ≤ s.hive.ticks →
    Completes .flushComplete s (fun h' =>
    (h'.slotAt slot).complete = true ∧ (h'.slotAt slot).crcGood = true ∧ (h'.slotAt slot).faults = s.hive.faults ∧
    (h'.slotAt slot).words = (s.hive.slotAt slot).words ∧ h'.get F.evrStat_last = slot ∧
    h'.get F.evrStat_flushes = satInc 16 (s.hive.get F.evrStat_flushes) 1 ∧
    (s.hive.flushNext = none → h'.flush = none ∧ h'.get F.evrStat_state = (if s.hive.pfFrozen then 2 else 0)) ∧
    (∀ next, s.hive.flushNext = some next → h'.flush = some ((slot + 1) % 4, next) ∧ h'.flushNext = none ∧
      h'.flag F.evrStat_pending = false) ∧ Kept (fun a => a == R.evrStat) s.hive h')) ∧
  (s.hive.gtc % 983040000 ≠ 0 ∨ s.hive.areasFrozen = true → exec .recorderMstatCopy s = .next s) ∧
  (s.hive.gtc % 983040000 = 0 → s.hive.areasFrozen = false → Completes .recorderMstatCopy s (fun h' =>
    { h' with keeper := s.hive.keeper } = s.hive ∧ ∀ r : Fin 240,
      (bitOf (s.hive.kget (recAt r.val + 4)).toNat 11 = false → ∀ o, o < 480 →
        h'.kget (recAt r.val + o) = s.hive.kget (recAt r.val + o)) ∧
      (bitOf (s.hive.kget (recAt r.val + 4)).toNat 11 = true → ∀ n, n = bitsOf (s.hive.kget (recAt r.val + 4)).toNat 0 11 →
        h'.kget (recAt r.val) = BitVec.ofNat 32 ((s.hive.kget (recAt r.val)).toNat + 2) ∧
        bitsOf (h'.kget (recAt r.val + 4)).toNat 0 12 = n + 2 ^ 11 ∧
        ∀ (q : Fin 3) (i : Fin 32) (bins : List Nat),
          bins = (Tbl.get (fun _ => HistSt.init) s.hive.hist (n * 4 + q.val)).bins →
          h'.kget (recAt r.val + 8 + 128 * q.val + 4 * i.val) = BitVec.ofNat 32
            (min 65535 (roundEvenN (bins.getD (2 * i.val) 0) (2 ^ recExp bins)) +
              65536 * min 65535 (roundEvenN (bins.getD (2 * i.val + 1) 0) (2 ^ recExp bins)))))) ∧
  (s.hive.gtc % 491520 ≠ 0 → exec .humEdge s = .next s) ∧
  (s.hive.gtc % 491520 = 0 → Completes .humEdge s (fun h' => { h' with hum := s.hive.hum } = s.hive ∧
    ∀ i, i < 8 → bitOf h'.hum i = s.hive.humOk i)) ∧
  Completes .keeperHeartbeatLoss s (fun h' => h'.keeperAlive = false ∧ bitOf h'.hum 6 = false ∧
    { h' with hum := s.hive.hum, keeperAlive := s.hive.keeperAlive } = s.hive)

/-- Usage meters (R369 to R376). The model's choices in it: log entries 5, 22, 177, 280. -/
def Obligations.Usage : Prop := ∀ (s : State) (t : TenantId) (u : UsageSt) (seq : Nat), u = s.hive.uget t.val →
  seq = s.hive.get F.useRingSeq_next →
  (¬ (s.hive.gtc % 983040 = 0 ∧ s.hive.flag F.pwrClkStat_sclk_lock = true ∧ s.hive.umsAt ≠ some s.hive.ticks) →
    exec .usageMillisecond s = .next s) ∧
  (s.hive.gtc % 983040 = 0 → s.hive.flag F.pwrClkStat_sclk_lock = true → s.hive.umsAt ≠ some s.hive.ticks → Completes .usageMillisecond s (fun h' => h'.regs = s.hive.regs ∧
    h'.umsAt = some s.hive.ticks ∧
    h'.msLive = s.hive.image.filter (fun n => s.hive.st n == stRampUp || s.hive.st n == stLive || s.hive.st n == stRampDown) ∧
    (u.opened = true → ∀ v, v = (s.hive.msLive.filter (fun n => s.hive.tenant n == t.val)).foldl
        (fun u n => s.hive.usageStream u n) u →
      h'.uget t.val = { v with ms := (v.ms + 1) % 2 ^ 22, last := s.hive.gtc, gen := (v.gen + 2) % 2 ^ 32
                               wAcc := (s.hive.rd (R.useWeight t.val)).toNat }) ∧
    (u.opened = false → (h'.uget t.val).opened = s.hive.usageMay t.val ∧
      (s.hive.usageMay t.val = true → (h'.uget t.val).start = s.hive.gtc ∧
        (h'.uget t.val).short = decide (s.hive.gtc % (s.hive.get (F.useTCtl_len t.val) * 58982400000) ≠ 0))))) ∧
  (∀ (v : UsageSt) (len : Nat) (ends : Prop), v = s.hive.usageDue.uget t.val →
    len = (if v.opened then v.lenNow else s.hive.get (F.useTCtl_len t.val)) →
    ends = (len ≠ 0 ∧ s.hive.gtc % (len * 58982400000) = 0 ∧ ¬ (v.opened = true ∧ v.start = s.hive.gtc)) →
    (¬ ends → Completes (.usageIntervalEnd t) s (fun h' => h' = s.hive.usageDue)) ∧
    (ends → Completes (.usageIntervalEnd t) s (fun h' =>
      Kept (fun a => logReg a || a == R.useRingSeq) s.hive h' ∧
      (h'.uget t.val).opened = s.hive.usageMay t.val ∧
      (s.hive.usageMay t.val = true → (h'.uget t.val).start = s.hive.gtc ∧ (h'.uget t.val).short = decide (s.hive.gtc % (s.hive.get (F.useTCtl_len t.val) * 58982400000) ≠ 0) ∧
        (h'.uget t.val).ms = 0) ∧
      (v.opened = true → h'.get F.useRingSeq_next = (seq + 1) % 2 ^ 32 ∧ bitOf (h'.get F.cmdIrqStat_cause) 7 = true ∧
        Tbl.get (fun _ => none) h'.uring (seq % 64) = some ⟨seq, t.val, (if v.short then 2 else 0) + (if v.wchg then 4 else 0),
          s.hive.get (F.useTCtl_epoch t.val), v.start, s.hive.gtc, v.bwRaw, v.bwWt, v.eRaw, v.eWt, v.ms, v.unmet⟩)))) ∧
  (∀ c : CmdEntry, goodEntry c 0x0C true t.val c.a1.toNat 0 = true → admits s.hive.mode .timed = true →
    (s.hive.leadOk c.t.toNat false = false ∨ s.hive.flag F.timStat_load_pend = true →
      Completes (.rateEpoch c) s (LogOnly s.hive)) ∧
    (s.hive.leadOk c.t.toNat false = true → s.hive.flag F.timStat_load_pend = false →
      (s.hive.sched.length < 256 → Completes (.rateEpoch c) s (fun h' =>
        h'.sched = s.hive.sched ++ [⟨c.t.toNat, .rateEpoch t.val c.a1.toNat⟩] ∧ Kept logReg s.hive h')) ∧
      (256 ≤ s.hive.sched.length → Completes (.rateEpoch c) s (fun h' =>
        h'.get F.timSched_refused = satInc 16 (s.hive.get F.timSched_refused) 1 ∧ h'.sched = s.hive.sched ∧
        Kept (fun a => logReg a || a == R.timSched) s.hive h')))) ∧
  (∀ due : List SchedOp, due = s.hive.sched.filter (fun o => match o.kind with
      | .rateEpoch v _ => v == t.val && decide (o.t ≤ s.hive.gtc)
      | _ => false) →
    (due = [] → exec (.rateEpochAtT t) s = .next s) ∧
    (∀ (T w : Nat), due.getLast? = some ⟨T, .rateEpoch t.val w⟩ → Completes (.rateEpochAtT t) s (fun h' =>
      h'.rd (R.useWeight t.val) = BitVec.ofNat 32 w ∧
      h'.get (F.useTCtl_epoch t.val) = (s.hive.get (F.useTCtl_epoch t.val) + due.length) % 65536 ∧
      (∀ o ∈ due, o ∉ h'.sched) ∧ (∀ o ∈ s.hive.sched, o ∉ due → o ∈ h'.sched) ∧
      (u.opened = true → u.start ≠ s.hive.gtc → (h'.uget t.val).wchg = true) ∧
      (u.opened = true → u.start = s.hive.gtc → (h'.uget t.val).wchg = u.wchg) ∧
      Kept (fun a => a == R.useWeight t.val || a == R.useTCtl t.val) s.hive h'))) ∧
  (∀ w : RegWrite, goodWrite w (R.useTCtl t.val) false = true →
    (w.value.toNat % 64 = 0 ∨ 60 < w.value.toNat % 64 → TurnedAway (.usageControlWrite w) s stBadArg) ∧
    (1 ≤ w.value.toNat % 64 → w.value.toNat % 64 ≤ 60 → Completes (.usageControlWrite w) s (fun h' =>
      h'.get (F.useTCtl_len t.val) = w.value.toNat % 64 ∧ h'.flag (F.useTCtl_en t.val) = bitOf w.value.toNat 6 ∧
      h'.get (F.useTCtl_epoch t.val) = s.hive.get (F.useTCtl_epoch t.val) ∧
      Kept (fun a => logReg a || a == R.useTCtl t.val || a == R.useRingSeq) s.hive h' ∧
      (bitOf w.value.toNat 6 = false → (h'.uget t.val).opened = false ∧
        (u.opened = true → h'.get F.useRingSeq_next = (seq + 1) % 2 ^ 32)) ∧
      (bitOf w.value.toNat 6 = true → u.opened = true → (h'.uget t.val).opened = true ∧ (h'.uget t.val).start = u.start ∧
        (h'.uget t.val).short = u.short ∧ (s.hive.gtc % 983040 ≠ 0 ∨ s.hive.umsAt = some s.hive.ticks → h'.uget t.val = u)) ∧
      (bitOf w.value.toNat 6 = true → u.opened = false → h'.usageMay t.val = true →
        (h'.uget t.val).opened = true ∧ (h'.uget t.val).start = s.hive.gtc ∧
        (s.hive.flag (F.useTCtl_en t.val) = false → (h'.uget t.val).short =
          decide (s.hive.gtc % (w.value.toNat % 64 * 58982400000) ≠ 0))))))

/-- PCIe events, the doorbell and interrupts (R379 to R383). The model's choices in it: log entries 32, 177, 281. -/
def Obligations.HostLink : Prop := ∀ s : State,
  (∀ (i : Instr) (cause level : Nat), (i, cause, level) ∈ [(Instr.pcieLinkDown, 1, 1), (.pcieHotReset, 2, 0)] →
    Completes i s (fun h' => h'.get F.cmdSqTail_tail = 0 ∧ h'.get F.cmdSqHead_head = 0 ∧ h'.get F.cmdCqHead_head = 0 ∧
      h'.cqCount = 0 ∧ h'.cqUnread = [] ∧ h'.fnMask = false ∧
      h'.running = s.hive.running.filter (fun k => match k.via with | .queue => false | .mailbox _ => true) ∧
      (∀ k, k < 256 → h'.rd (0x10004000 + 4 * k) = Regs.resetOf (0x10004000 + 4 * k)) ∧
      h'.pcieUp = (decide (cause ≠ 1) && s.hive.pcieUp) ∧ h'.faultOn 0x11 cause 0x6 level = true ∧
      Kept (sideOr (fun a => a == R.cmdSqTail || a == R.cmdCqHead || a == 0x10005004 || inRange 0x10004000 0x400 a))
        s.hive h')) ∧
  (∀ (width : Fin 4) (rate : Fin 5), Completes (.pcieLinkUp width rate) s (fun h' =>
    h'.pcieUp = true ∧ h'.pcieWidth = 2 ^ width.val ∧ h'.pcieRate = rate.val ∧ Kept faultReg s.hive h' ∧
    ((∀ m ∈ s.hive.lostMarks, m.tick ≠ s.hive.ticks) → ∀ k, s.hive.fltFind 0x11 0x01 0x6 = some k → (s.hive.flt k).selfc = true → (h'.flt k).hasKey 0x11 0x01 0x6 = true →
      (h'.flt k).active = false))) ∧
  Completes .pcieMalformedRequest s (fun h' => FaultOnly s.hive h' ∧ h'.faultOn 0x11 0x03 0x6 1 = true) ∧
  (∀ w : RegWrite, w.bar2 = true → w.off = 0 → w.size.val = 4 →
    (s.hive.tailPast w.value.toNat = true → Completes (.sqTailWrite w) s (fun h' => Kept faultReg s.hive h' ∧
      h'.rd R.cmdSqTail = s.hive.rd R.cmdSqTail ∧ h'.flag F.wrRefuse_valid = true ∧
      (s.hive.flag F.wrRefuse_valid = false → h'.get F.wrRefuse_status = stNoRes) ∧ h'.faultOn 0x11 0x04 0x6 1 = true)) ∧
    (s.hive.tailPast w.value.toNat = false → Completes (.sqTailWrite w) s (fun h' =>
      h'.get F.cmdSqTail_tail = w.value.toNat % 64 ∧ Kept (fun a => logReg a || a == R.cmdSqTail) s.hive h'))) ∧
  (∀ w : RegWrite, w.bar2 = true → w.off = 0x10 → w.size.val = 4 → s.hive.jq.length < 256 →
    Completes (.irqMaskWrite w) s (fun h' => h'.get F.cmdIrqMask_cause = w.value.toNat % 256 ∧
      Kept (fun a => logReg a || a == R.cmdIrqMask) s.hive h' ∧ ∀ (v : Fin 8) (go masked : Bool),
        go = (bitOf (s.hive.get F.cmdIrqMask_cause) v.val && !bitOf w.value.toNat v.val &&
          bitOf (s.hive.get F.cmdIrqStat_cause) v.val) →
        masked = (s.hive.fnMask || bitOf (s.hive.rd (0x1000400C + 16 * v.val)).toNat 0) →
        bitOf (h'.rd 0x10005000).toNat v.val = (bitOf (s.hive.rd 0x10005000).toNat v.val || (go && masked)) ∧
        Tbl.get (fun _ => 0) h'.msix v.val = Tbl.get (fun _ => 0) s.hive.msix v.val + (if go && !masked then 1 else 0))) ∧
  ∀ (w : RegWrite) (table : Bool), table = (w.bar2 && decide (0x4000 ≤ w.off) && decide (w.off < 0x4400)) →
    Completes (.msixUnmask w) s (fun h' => h'.fnMask = (if table then s.hive.fnMask else bitOf w.value.toNat 0) ∧
      (table = true → w.size.val = 4 → w.off % 4 = 0 → h'.rd (0x10000000 + w.off) = w.value) ∧
      Kept (fun a => a == 0x10005000 || (table && a == wKey w)) s.hive h' ∧
      ∀ (v : Fin 8) (sent : Bool), sent = (bitOf (s.hive.rd 0x10005000).toNat v.val && !h'.fnMask &&
          !bitOf (h'.rd (0x1000400C + 16 * v.val)).toNat 0) →
        bitOf (h'.rd 0x10005000).toNat v.val = (bitOf (s.hive.rd 0x10005000).toNat v.val && !sent) ∧
        Tbl.get (fun _ => 0) h'.msix v.val = Tbl.get (fun _ => 0) s.hive.msix v.val + (if sent then 1 else 0))

/-- Sends of opcode 0x14 (R394, R395). The model's choices in it: log entries 51, 177. -/
def Obligations.ManagementSends : Prop := ∀ (s : State) (c : CmdEntry) (len off : Nat) (m : List Nat),
  admits s.hive.mode .send = true → (len ≤ 2048 → off + len ≤ 65536 → m = s.hive.bufBytes off len) →
  (∀ l : LaneId, goodEntry c 0x14 false l.val len off = true → ∀ ok : Prop,
    (ok ↔ off + len ≤ 65536 ∧ 2 ≤ len ∧ len ≤ 1018 ∧ 0x10 ≤ m.headD 0 ∧ m.headD 0 ≤ 0x3F ∧
      s.hive.get (F.laneCtl_mode l.val) = 3 ∧ s.hive.laneUp l.val = true) →
    (ok → Completes (.mgmtSendRlf c) s (fun h' => Kept logReg s.hive h' ∧ Tbl.get (fun _ => []) h'.tx (256 + l.val) =
      mgmtFrame (m.headD 0) ((m.drop 1).headD 0) (m.drop 2) ∧ Tbl.get (fun _ => []) h'.outq (256 + l.val) =
      Tbl.get (fun _ => []) s.hive.outq (256 + l.val) ++ [mgmtFrame (m.headD 0) ((m.drop 1).headD 0) (m.drop 2)])) ∧
    (¬ok → Completes (.mgmtSendRlf c) s (LogOnly s.hive))) ∧
  (∀ k : LinkId, goodEntry c 0x14 false (k.val + 256) len off = true → ∀ ok : Prop,
    (ok ↔ off + len ≤ 65536 ∧ 2 ≤ len ∧ len ≤ 62 ∧ 0x10 ≤ m.headD 0 ∧ m.headD 0 ≤ 0x3F ∧ s.hive.linkUp k.val = true) →
    (ok → Completes (.mgmtSendRyg c) s (fun h' => Kept logReg s.hive h' ∧ Tbl.get (fun _ => []) h'.tx k.val =
      mgmtFrame (m.headD 0) ((m.drop 1).headD 0) (m.drop 2) ∧ Tbl.get (fun _ => []) h'.outq k.val =
      Tbl.get (fun _ => []) s.hive.outq k.val ++ [mgmtFrame (m.headD 0) ((m.drop 1).headD 0) (m.drop 2)])) ∧
    (¬ok → Completes (.mgmtSendRyg c) s (LogOnly s.hive))) ∧
  ∀ l : LaneId, goodEntry c 0x14 false (l.val + 512) len off = true → ∀ ok : Prop,
    (ok ↔ off + len ≤ 65536 ∧ 14 ≤ len ∧ len ≤ 2048 ∧ sendableFrame m = true ∧ s.hive.get (F.laneCtl_mode l.val) = 2 ∧
      s.hive.laneUp l.val = true) →
    (ok → Completes (.mgmtSendEth c) s (fun h' => Tbl.get (fun _ => []) h'.tx (256 + l.val) = m ∧
      (ptpEvent m = false → Kept logReg s.hive h') ∧
      (ptpEvent m = true → ∀ tail : Nat, tail = s.hive.get F.cmdRxStat_tail →
        ((tail + 32 - s.hive.get F.cmdRxHead_head) % 32 < 31 → h'.get F.cmdRxStat_tail = (tail + 1) % 32 ∧
          h'.rd (0x10020004 + tail * 2048) = BitVec.ofNat 32 (l.val + 256 * 5) ∧
          bitOf (h'.get F.cmdIrqStat_cause) 5 = true ∧
          Kept (fun a => logReg a || a == R.cmdRxStat || inRange (0x10020000 + tail * 2048) 2048 a) s.hive h') ∧
        (31 ≤ (tail + 32 - s.hive.get F.cmdRxHead_head) % 32 →
          h'.get F.cmdRxStat_dropped = satInc 16 (s.hive.get F.cmdRxStat_dropped) 1 ∧
          Kept (fun a => logReg a || a == R.cmdRxStat) s.hive h')))) ∧
    (¬ok → Completes (.mgmtSendEth c) s (LogOnly s.hive))

/-- Opcode 0x0D (R388 to R391), with each activity's own rule and beginning. The model's choices in it: log entries
31, 156, 177. The model's choices in it: log entries 31, 156, 177. -/
def Obligations.MaintenanceStarts : Prop := ∀ (s : State) (c : CmdEntry) (f : TolFile) (act unit a1 a2 : Nat) (i : Instr)
  (file : Option TolFile) (waits : Bool),
  (act, i) ∈ [(1, Instr.laneEyeScan c), (2, .laneRetrain c), (3, .cancellerReprobeSweep c), (4, .sensorSelfTest c), (5, .fanLearn c),
    (6, .backupCapacityLearn c), (7, .workerSpareBist c), (8, .patchLoad c f), (9, .firmwareAbSwitch c f)] →
  goodEntry c 0x0D false (act + 16 * unit) a1 a2 = true → unit < 4096 → (act < 8 → a1 = 0 ∧ a2 = 0) →
  file = (if act < 8 then none else some f) → waits = s.hive.maintBlocked act unit file s.hive.maintSeq →
  (maintUnit act unit = false → Refused i c s stBadArg) ∧
  (maintUnit act unit = true →
    (maintAdmits s.hive.mode act = false ∨ ¬s.hive.maintRule act unit → Refused i c s stWrong) ∧
    (maintAdmits s.hive.mode act = true → s.hive.maintRule act unit →
      (waits = true → c.queue = false ∨ 4 ≤ s.hive.maintWaiting → Refused i c s stBusy) ∧
      (waits = false ∨ (c.queue = true ∧ s.hive.maintWaiting < 4) →
        (s.hive.maintFree = none → Refused i c s stNoRes) ∧
        ∀ hd, s.hive.maintFree = some hd → Completes i s (fun h' =>
          h'.get (F.cmdMaint_activity hd) = act ∧ h'.get (F.cmdMaint_unit hd) = unit ∧
          (waits = true → h'.mState hd = 1 ∧ h'.maintSeq = s.hive.maintSeq + 1 ∧
            (∃ x, h'.mget hd = some x ∧ x.act = act ∧ x.unit = unit ∧ x.file = file ∧ x.seq = s.hive.maintSeq) ∧
            Kept (maintOr (fun _ => false)) s.hive h') ∧
          (waits = false → Begun s.mem act unit f a1 a2 hd s.hive h')))))

/-- Opcode 0x0E, waiting requests, and the restart of R393. The model's choices in it: log entries 5, 30, 177. -/
def Obligations.MaintenanceEnds : Prop := ∀ s : State,
  (∀ (c : CmdEntry) (hd : HandleId), goodEntry c 0x0E false hd.val 0 0 = true → admits s.hive.mode .maintAbort = true →
    (s.hive.mget hd.val = none → Refused (.maintenanceAbort c) c s stBadArg) ∧
    ∀ x, s.hive.mget hd.val = some x →
      (s.hive.mState hd.val = 2 → x.act = 2 ∨ x.act = 4 ∨ x.act = 8 ∨ x.act = 9 → Refused (.maintenanceAbort c) c s stWrong) ∧
      (s.hive.mState hd.val = 1 → Completes (.maintenanceAbort c) s (fun h' => h'.actEnded hd.val 3 0 ∧
        Kept (maintOr (fun _ => false)) s.hive h')) ∧
      (s.hive.mState hd.val = 2 → x.act = 3 → Completes (.maintenanceAbort c) s (fun h' =>
        (∃ k : CmdTok, h'.mget hd.val = some { x with stop := x.stop ++ [k] } ∧ k ∈ h'.running) ∧ Kept logReg s.hive h')) ∧
      (s.hive.mState hd.val = 2 → x.act = 1 ∨ x.act = 5 ∨ x.act = 6 ∨ x.act = 7 → maintUnit x.act x.unit = true →
        Completes (.maintenanceAbort c) s (fun h' => h'.actEnded hd.val 2 0 ∧
          (x.act = 1 → h'.flag (F.laneEyeCtl_busy x.unit) = false ∧
            Kept (maintOr (fun a => a == R.laneEyeCtl x.unit)) s.hive h') ∧
          (x.act = 5 → (∀ g, g < 4 → (h'.fanGet g).learn = none) ∧
            Kept (sideOr (fun a => maintReg a || inRange (R.fanCtl 0) 0x80 a)) s.hive h') ∧
          (x.act = 6 → h'.get F.pwrBakStat_cap = x.a1 % 4 ∧ h'.get F.pwrBakLearn_result = 3 ∧
            Kept (maintOr (fun a => a == R.pwrBakStat || a == R.pwrBakLearn)) s.hive h') ∧
          (x.act = 7 → Kept (maintOr (fun _ => false)) s.hive h')))) ∧
  (∀ hd : HandleId,
    (s.hive.mget hd.val = none ∨ s.hive.mState hd.val ≠ 1 → exec (.maintenanceQueuedStart hd) s = .next s) ∧
    ∀ (x : MaintSt) (f : TolFile), s.hive.mget hd.val = some x → s.hive.mState hd.val = 1 → 1 ≤ x.act → x.act ≤ 9 →
      x.file = (if x.act < 8 then none else some f) → maintUnit x.act x.unit = true →
      (s.hive.maintBlocked x.act x.unit x.file x.seq = true → exec (.maintenanceQueuedStart hd) s = .next s) ∧
      (s.hive.maintBlocked x.act x.unit x.file x.seq = false →
        (maintAdmits s.hive.mode x.act = false ∨ ¬s.hive.maintRule x.act x.unit →
          Completes (.maintenanceQueuedStart hd) s (fun h' => h'.actEnded hd.val 3 0 ∧
            Kept (maintOr (fun _ => false)) s.hive h')) ∧
        (maintAdmits s.hive.mode x.act = true → s.hive.maintRule x.act x.unit →
          Completes (.maintenanceQueuedStart hd) s (Begun s.mem x.act x.unit f x.a1 x.a2 hd.val s.hive)))) ∧
  ∀ (queen running : Bool) (u : Nat), u = (if queen then 1 else 0) →
    (s.hive.fwTarget ≠ some u → exec (.firmwareRestartEnd queen running) s = .next s) ∧
    (s.hive.fwTarget = some u → Completes (.firmwareRestartEnd queen running) s (fun h' => h'.fwTarget = none ∧
      (queen = true → h'.queenUp = true) ∧ (queen = false → h'.keeperAlive = true ∧
        Kept (maintOr (fun _ => false)) s.hive h') ∧
      h'.fwSlot = (if running then if queen then (s.hive.fwSlot.1, 1 - s.hive.fwSlot.2) else (1 - s.hive.fwSlot.1, s.hive.fwSlot.2)
        else s.hive.fwSlot) ∧
      ∀ hd, s.hive.maintOf 9 u = some hd → h'.actEnded hd (if running then 0 else 1) 0))

/-- The SMBus target (R397 to R404). The model's choices in it: log entries 178, 179, 180, 181, 182, 183, 184, 185,
186, 187, 188, 189, 190, 191, 192, 194. The model's choices in it: log entries 178, 179, 180, 181, 182, 183, 184,
185, 186, 187, 188, 189, 190, 191, 192, 194. -/
def Obligations.SmbusTarget : Prop := ∀ (s : State) (h : Hive), h = s.hive →
  (h.fwTarget ≠ some 0 →
    (∃ r, Completes .health s (fun h' => h'.resp = [h.mode.code, r, h.ownMax, h.shownMax, maskOf 7 (fun i =>
        [h.flag F.pwrStat_main_good, h.flag F.pwrStat_keep_src, h.flag F.pwrBakStat_ready, h.wakeReq, h.rfsafeLow, h.haltLow,
          h.sys.quoteOk].getD i false), 0] ++ leBytes h.fltValidRecs.length 2 ∧ h'.sys.kStatus = 0 ∧ h'.sys.rung0 = false ∧
        Kept (stopReg (fun _ => false)) h h') ∧ (h.mode = .cold → r = 1) ∧ (h.mode = .boot ∨ h.mode = .verify → r = 2) ∧ r ≤ 5) ∧
    Completes .faultSummary s (fun h' => h'.resp = leBytes h.fltSumWord 4 ++ leBytes (h.rd R.fltLost).toNat 4 ∧
      h'.sys.kStatus = 0 ∧ Kept (stopReg (fun _ => false)) h h') ∧
    Completes .power s (fun h' => h'.resp = leBytes (h.rd R.pwrStat).toNat 4 ++ leBytes (h.rd R.pwrBakStat).toNat 4 ++
      leBytes (h.rd R.pwrBakCap).toNat 4 ∧ h'.sys.kStatus = 0 ∧ Kept (stopReg (fun _ => false)) h h') ∧
    (∀ (b : List Byte) (st : Nat), st = (if b.length ≠ 32 then stBadArg else if h.queenUp = false ∨ h.sys.qjob ≠ none ∨
        h.sys.otpLife = 0 then stWrong else if h.flag F.queLife_puf_ok then 0 else stInteg) →
      Completes (.quoteNonce b true) s (fun h' => h'.sys.kStatus = st ∧
        (st ≠ 0 → h'.sys.qjob = h.sys.qjob ∧ Kept (stopReg logReg) h h') ∧
        (st = 0 → (∃ j, h'.sys.qjob = some j ∧ j.cmd = 3) ∧ h'.flag F.queCmdStat_busy = true ∧ h'.get F.queCmdStat_last = 3 ∧
          (∀ i : Fin 8, h'.rd (R.queNonce i.val) = BitVec.ofNat 32 (leNat (((b.map (·.toNat)).drop (4 * i.val)).take 4))) ∧
          Kept (stopReg (fun a => logReg a || a == R.queCmdStat || inRange (R.queNonce 0) 32 a)) h h'))) ∧
    (∀ o : Fin 65536, Completes (.quotePtr o true) s (fun h' => h'.sys.kStatus = (if o.val ≤ 367 then 0 else stBadArg) ∧
      h'.sys.quotePtr = (if o.val ≤ 367 then o.val else h.sys.quotePtr) ∧ Kept (stopReg (fun _ => false)) h h')) ∧
    Completes .quoteData s (fun h' => h'.sys.quotePtr = h.sys.quotePtr + 32 ∧ h'.sys.kStatus = 0 ∧ h'.resp.length = 32 ∧
      Kept (stopReg (fun _ => false)) h h' ∧ ∀ (i : Fin 32) (o : Nat), o = h.sys.quotePtr + i.val → h'.resp.getD i.val 0 =
        (if o ≤ 367 then (h.rd (R.queQuote (o / 4))).toNat / 2 ^ (8 * (o % 4)) % 256 else 0)) ∧
    (∀ v : Byte, Completes (.wake v true) s (fun h' => h'.sys.kStatus = (if v = 0 ∨ v = 1 then 0 else stBadArg) ∧
      h'.wakeReq = (if v = 1 then true else if v = 0 then false else h.wakeReq) ∧ Kept (stopReg (fun _ => false)) h h' ∧
      (h.fltFind 0x12 0x01 0x7 = none → h'.alWake = (if v = 1 then h.alWake || !h.wakeReq else if v = 0 then false
        else h.alWake)))) ∧
    Completes .keeperStatus s (fun h' => h'.resp = [h.sys.kStatus] ∧ h'.sys.kStatus = h.sys.kStatus ∧ Kept (stopReg (fun _ => false)) h h') ∧
    ∀ (b : List Byte) (o : Fin 65536) (v : Byte), ∀ i ∈ [Instr.quoteNonce b false, .quotePtr o false, .wake v false],
      Completes i s (fun h' => h'.faultOn 0x12 0x04 0x7 1 = true ∧ h'.sys.kStatus = h.sys.kStatus ∧ h'.wakeReq = h.wakeReq ∧
        h'.sys.qjob = h.sys.qjob ∧ h'.sys.quotePtr = h.sys.quotePtr ∧ Kept (stopReg (fun _ => false)) h h')) ∧
  (h.fwTarget = some 0 → ∀ (b : List Byte) (o : Fin 65536) (v : Byte) (pec : Bool), ∀ i ∈ [Instr.health, .faultSummary, .power,
      .quoteNonce b pec, .quotePtr o pec, .quoteData, .wake v pec, .keeperStatus],
    exec i s = .next { s with hive := { h with resp := [] } }) ∧
  (h.mode ≠ .cold → exec .hiveClassNack s = .next s) ∧
  (∀ (j : CtxId) (b : List Byte) (n : Nat) (pec : Bool), ∀ i ∈ [Instr.addr j b pec, .dataRead j n, .dataWrite j b pec, .windowStatus j,
      .submit j b pec, .result j, .hiveClassNack],
    (h.ctxOn j = false → i ≠ .hiveClassNack → exec i s = .next s) ∧
    (h.ctxOn j = true → h.mode = .cold → Completes i s (fun h' => h'.get F.smbStat_nacks = satInc 8 (h.get F.smbStat_nacks) 1 ∧
      h'.faultOn 0x12 0x03 0x7 0 = true ∧ (h.sys.railsGood = 0 → h'.wakeReq = true) ∧
      (h.sys.railsGood ≠ 0 → h'.wakeReq = h.wakeReq) ∧ Kept (stopReg (fun a => a == R.smbStat)) h h'))) ∧
  (∀ j : CtxId, h.ctxOn j = true → h.mode ≠ .cold → ∀ p : Nat, p = h.winPtr j.val →
    (∀ (b : List Byte) (v : Nat) (ok : Prop), v = leNat (b.map (·.toNat)) →
      (ok ↔ b.length = 4 ∧ v % 4 = 0 ∧ v < 0x4000000) → Completes (.addr j b true) s (fun h' => Kept faultReg h h' ∧
        (ok → h'.winPtr j.val = v ∧ h'.winStatus j.val = 0) ∧
        (¬ok → h'.winPtr j.val = p ∧ h'.winStatus j.val = stBadArg))) ∧
    (∀ n : Nat, Completes (.dataRead j n) s (fun h' => Kept faultReg h h' ∧
      (n = 0 ∨ 16 < n → h'.winPtr j.val = p ∧ h'.winStatus j.val = stBadArg) ∧
      (1 ≤ n → n ≤ 16 → h'.winPtr j.val = p + 4 * n ∧ h'.winStatus j.val = 0 ∧ h'.resp.length = 4 * n ∧
        ((∀ a, Tbl.get (fun _ => none) h.caps (capKey (.smbus j) a) = none) → ∀ i, i < n → p + 4 * i < 0x4000000 →
          (h'.resp.drop (4 * i)).take 4 = leBytes (h.readReg s.mem (p + 4 * i)).toNat 4)))) ∧
    (∀ b : List Byte, Completes (.addr j b false) s (fun h' => h'.faultOn 0x12 0x04 0x7 1 = true ∧
        h'.winPtr j.val = p ∧ h'.winStatus j.val = h.winStatus j.val ∧ Kept faultReg h h') ∧
      Completes (.dataWrite j b false) s (fun h' => h'.faultOn 0x12 0x04 0x7 1 = true ∧
        h'.winPtr j.val = p ∧ h'.winStatus j.val = h.winStatus j.val ∧ Kept faultReg h h') ∧
      Completes (.submit j b false) s (fun h' => h'.faultOn 0x12 0x04 0x7 1 = true ∧
        h'.winStatus j.val = h.winStatus j.val ∧ Kept faultReg h h') ∧
      (b.length % 4 ≠ 0 ∨ b.length = 0 ∨ 64 < b.length → Completes (.dataWrite j b true) s (fun h' =>
        h'.winPtr j.val = p ∧ h'.winStatus j.val = stBadArg ∧ Kept faultReg h h')) ∧
      (b.length = 4 → p < 0x4000000 → h.flag F.wrRefuse_valid = false → h.ownMax < 5 ∨ h.mode = .halt →
        (∀ m ∈ h.fltMarks, m.tick ≠ h.ticks) → ∀ (v : HostWrite) (w : RegWrite), onlyPart v w →
        w = ⟨.smbus j, false, p, 4, BitVec.ofNat 32 (leNat (b.map (·.toNat)))⟩ → h.writeSpecial w = none →
        ∃ g, exec (.registerWrite v) s = .next { s with hive := g } ∧
          Completes (.dataWrite j b true) s (fun h' => Kept faultReg g h' ∧ h'.winPtr j.val = p + 4 ∧
            h'.winStatus j.val = (if g.flag F.wrRefuse_valid then g.get F.wrRefuse_status else 0)))) ∧
    Completes (.windowStatus j) s (fun h' => h'.resp = [h.winStatus j.val] ∧ Kept faultReg h h') ∧
    (∀ (b : List Byte) (used : Prop) (op : Nat), op = (b.headD 0).toNat → (used ↔ bitOf (h.get F.smbMbStat_busy) j.val = true ∨
        bitOf (h.get F.smbMbStat_done) j.val = true) →
      (b.length ≠ 64 → Completes (.submit j b true) s (fun h' => h'.winStatus j.val = stBadArg ∧ Kept faultReg h h')) ∧
      (b.length = 64 → used → Completes (.submit j b true) s (fun h' => h'.winStatus j.val = stWrong ∧ Kept faultReg h h')) ∧
      (b.length = 64 → ¬used → Completes (.submit j b true) s (fun h' => h'.winStatus j.val = 0 ∧
        Tbl.get (fun _ => []) h'.sys.mbIn j.val = b.map (·.toNat) ∧ Kept (fun a => faultReg a || logReg a) h h' ∧
        (1 ≤ op → op ≤ 16 → bitOf (h'.get F.smbMbStat_busy) j.val = true) ∧
        (op = 0 ∨ 16 < op → bitOf (h'.get F.smbMbStat_busy) j.val = false ∧ bitOf (h'.get F.smbMbStat_done) j.val = true ∧
          bitsOf ((Tbl.get (fun _ => []) h'.mbox j.val).headD 0) 24 4 = stBadCmd)))) ∧
    Completes (.result j) s (fun h' => Kept (fun a => faultReg a || a == R.smbMbStat) h h' ∧ h'.resp.length = 16 ∧
      bitOf (h'.get F.smbMbStat_done) j.val = false ∧ h'.get F.smbMbStat_busy = h.get F.smbMbStat_busy ∧
      (bitOf (h.get F.smbMbStat_done) j.val = true → Tbl.get (fun _ => []) h'.mbox j.val = [] ∧ bitOf h'.alMb j.val = false ∧
        ∀ i, i < 4 → (h'.resp.drop (4 * i)).take 4 = leBytes ((Tbl.get (fun _ => []) h.mbox j.val).getD i 0) 4))) ∧
  (∀ keeper : Prop, (keeper ↔ h.alFaults ≠ [] ∨ h.alBak = true ∨ h.alWake = true ∨ h.alQuote = true) →
    exec (.alertResponse false) s = .next s ∧
    (¬keeper → (∀ j, j < 8 → bitOf h.alMb j = false) → exec (.alertResponse true) s = .next s) ∧
    (keeper → Completes (.alertResponse true) s (fun h' => h'.resp = [2 * (0x58 + h.sys.smbAddr % 8)] ∧ Kept faultReg h h' ∧
      (h.fltFind 0x12 0x01 0x7 = none → h'.alMb = h.alMb ∧
        (∀ f ∈ h.alFaults, 3 ≤ f → (∀ g ∈ h.alFaults, g ≤ f) → h' = { h with alFaults := h.alFaults.erase f, resp := h'.resp }) ∧
        (h.alFaults = [] → h.alBak = true → h' = { h with alBak := false, resp := h'.resp }) ∧
        (h.alFaults = [] → h.alBak = false → h.alWake = true → h' = { h with alWake := false, resp := h'.resp }) ∧
        (h.alFaults = [] → h.alBak = false → h.alWake = false → h' = { h with alQuote := false, resp := h'.resp })))) ∧
    (¬keeper → ∀ j, j < 8 → bitOf h.alMb j = true → (∀ i, i < j → bitOf h.alMb i = false) →
      Completes (.alertResponse true) s (fun h' => h'.resp = [2 * h.ctxAddr j] ∧ Kept faultReg h h' ∧
        (h.fltFind 0x12 0x01 0x7 = none → h' = { h with alMb := setBit h.alMb j false, resp := h'.resp })))) ∧
  Completes .sclTimeout s (fun h' => h'.flag F.smbStat_scl_reset = true ∧ h'.faultOn 0x12 0x01 0x7 1 = true ∧
    Kept (fun a => faultReg a || a == R.smbStat) h h') ∧
  Completes .sdaStuck s (fun h' => h'.flag F.smbStat_sda_stuck = true ∧ h'.faultOn 0x12 0x02 0x7 1 = true ∧
    Kept (fun a => faultReg a || a == R.smbStat) h h') ∧
  Completes .sdaReleased s (fun h' => h'.flag F.smbStat_sda_stuck = false ∧ Kept (fun a => faultReg a || a == R.smbStat) h h' ∧
    ((∀ m ∈ h.lostMarks, m.tick ≠ h.ticks) → ∀ i, h.fltFind 0x12 0x02 0x7 = some i → (h.flt i).selfc = true → (h'.flt i).hasKey 0x12 0x02 0x7 = true →
      (h'.flt i).active = false))
end

