-- ==== Sys2Proof/Laws/Regs.lean ====
section
/-! SUPPORT. Which descriptor the registers of the command rows have, at every address of theirs. -/

namespace Sys2Proof.Machine

theorem Regs.find_wrRefuse : Regs.find R.wrRefuse = some ⟨0x4, [], 0x0, 0x0, 0x80000000, 0x0, 0x0, false, 0xFFFFFFFD⟩ := by decide

theorem Regs.find_eccLastWhere : Regs.find R.eccLastWhere = some ⟨0x2C, [], 0x0, 0x0, 0x80000000, 0x0, 0x0, false, 0x80001FFF⟩ := by decide

theorem Regs.find_storeWin : Regs.find R.storeWin = some ⟨0x225008, [], 0x0, 0x1, 0x0, 0x0, 0x0, false, 0x1⟩ := by decide

theorem Regs.find_swLast : Regs.find R.swLast = some ⟨0x22500C, [], 0x0, 0x0, 0x80000000, 0x0, 0x0, false, 0x80007FFF⟩ := by decide

theorem Regs.find_strRsPhase (s : Nat) (h : Nat) (hs : s < 1024) (hh : h < 2) :
    Regs.find (R.strRsPhase s h) = some ⟨0x300114, [(1024, 0x400), (2, 0x100)], 0x0, 0xFFFF, 0x0, 0x0, 0x0, false, 0xFFFF⟩ := by
  have hb : Regs.block (R.strRsPhase s h) = Regs.str := by
    unfold Regs.block R.strRsPhase
    repeat (first | rw [if_neg (by omega)] | rw [if_pos (by omega)])
  unfold Regs.find
  rw [hb]
  unfold Regs.str R.strRsPhase
  repeat (first
    | rw [List.find?_cons_of_neg (by simp [Regs.hit, Regs.inDims]; omega)]
    | rw [List.find?_cons_of_pos (by simp [Regs.hit, Regs.inDims]; omega)])

theorem Regs.find_strMaCtl (s : Nat) (h : Nat) (hs : s < 1024) (hh : h < 2) :
    Regs.find (R.strMaCtl s h) = some ⟨0x30012C, [(1024, 0x400), (2, 0x100)], 0x3FF, 0xFFF, 0x0, 0x0, 0x0, false, 0xFFF⟩ := by
  have hb : Regs.block (R.strMaCtl s h) = Regs.str := by
    unfold Regs.block R.strMaCtl
    repeat (first | rw [if_neg (by omega)] | rw [if_pos (by omega)])
  unfold Regs.find
  rw [hb]
  unfold Regs.str R.strMaCtl
  repeat (first
    | rw [List.find?_cons_of_neg (by simp [Regs.hit, Regs.inDims]; omega)]
    | rw [List.find?_cons_of_pos (by simp [Regs.hit, Regs.inDims]; omega)])

theorem Regs.find_mtrCtl (n : Nat) (hn : n < 2048) :
    Regs.find (R.mtrCtl n) = some ⟨0x480000, [(2048, 0x20)], 0x2D14A, 0x7FFFF, 0x0, 0x0, 0x0, false, 0x1FFFFFFF⟩ := by
  have hb : Regs.block (R.mtrCtl n) = Regs.mtr := by
    unfold Regs.block R.mtrCtl
    repeat (first | rw [if_neg (by omega)] | rw [if_pos (by omega)])
  unfold Regs.find
  rw [hb]
  unfold Regs.mtr R.mtrCtl
  repeat (first
    | rw [List.find?_cons_of_neg (by simp [Regs.hit, Regs.inDims]; omega)]
    | rw [List.find?_cons_of_pos (by simp [Regs.hit, Regs.inDims]; omega)])

theorem Regs.find_ugtIn (g : Nat) (i : Nat) (hg : g < 256) (hi : i < 64) :
    Regs.find (R.ugtIn g i) = some ⟨0x4D0100, [(256, 0x200), (64, 0x4)], 0x0, 0x0, 0x0, 0x4, 0x0, false, 0x7FFFFF⟩ := by
  have hb : Regs.block (R.ugtIn g i) = Regs.fbcUgt := by
    unfold Regs.block R.ugtIn
    repeat (first | rw [if_neg (by omega)] | rw [if_pos (by omega)])
  unfold Regs.find
  rw [hb]
  unfold Regs.fbcUgt R.ugtIn
  repeat (first
    | rw [List.find?_cons_of_neg (by simp [Regs.hit, Regs.inDims]; omega)]
    | rw [List.find?_cons_of_pos (by simp [Regs.hit, Regs.inDims]; omega)])

theorem Regs.find_gceLoopCtl (s : Nat) (hs : s < 2048) :
    Regs.find (R.gceLoopCtl s) = some ⟨0x500008, [(2048, 0x20)], 0x0, 0x0, 0x0, 0x0, 0x7, false, 0x7⟩ := by
  have hb : Regs.block (R.gceLoopCtl s) = Regs.gce := by
    unfold Regs.block R.gceLoopCtl
    repeat (first | rw [if_neg (by omega)] | rw [if_pos (by omega)])
  unfold Regs.find
  rw [hb]
  unfold Regs.gce R.gceLoopCtl
  repeat (first
    | rw [List.find?_cons_of_neg (by simp [Regs.hit, Regs.inDims]; omega)]
    | rw [List.find?_cons_of_pos (by simp [Regs.hit, Regs.inDims]; omega)])

theorem Regs.find_gceKp (s : Nat) (hs : s < 2048) :
    Regs.find (R.gceKp s) = some ⟨0x50000C, [(2048, 0x20)], 0x0, 0xFFFF, 0x0, 0x0, 0x0, false, 0xFFFF⟩ := by
  have hb : Regs.block (R.gceKp s) = Regs.gce := by
    unfold Regs.block R.gceKp
    repeat (first | rw [if_neg (by omega)] | rw [if_pos (by omega)])
  unfold Regs.find
  rw [hb]
  unfold Regs.gce R.gceKp
  repeat (first
    | rw [List.find?_cons_of_neg (by simp [Regs.hit, Regs.inDims]; omega)]
    | rw [List.find?_cons_of_pos (by simp [Regs.hit, Regs.inDims]; omega)])

theorem Regs.find_gceKi (s : Nat) (hs : s < 2048) :
    Regs.find (R.gceKi s) = some ⟨0x500010, [(2048, 0x20)], 0x0, 0xFFFF, 0x0, 0x0, 0x0, false, 0xFFFF⟩ := by
  have hb : Regs.block (R.gceKi s) = Regs.gce := by
    unfold Regs.block R.gceKi
    repeat (first | rw [if_neg (by omega)] | rw [if_pos (by omega)])
  unfold Regs.find
  rw [hb]
  unfold Regs.gce R.gceKi
  repeat (first
    | rw [List.find?_cons_of_neg (by simp [Regs.hit, Regs.inDims]; omega)]
    | rw [List.find?_cons_of_pos (by simp [Regs.hit, Regs.inDims]; omega)])

theorem Regs.find_gceSetp (s : Nat) (hs : s < 2048) :
    Regs.find (R.gceSetp s) = some ⟨0x500014, [(2048, 0x20)], 0xFFFF0000, 0x0, 0x0, 0x0, 0x0, true, 0xFFFFFFFF⟩ := by
  have hb : Regs.block (R.gceSetp s) = Regs.gce := by
    unfold Regs.block R.gceSetp
    repeat (first | rw [if_neg (by omega)] | rw [if_pos (by omega)])
  unfold Regs.find
  rw [hb]
  unfold Regs.gce R.gceSetp
  repeat (first
    | rw [List.find?_cons_of_neg (by simp [Regs.hit, Regs.inDims]; omega)]
    | rw [List.find?_cons_of_pos (by simp [Regs.hit, Regs.inDims]; omega)])

theorem Regs.find_gceSlewUp (n : Nat) (hn : n < 2048) :
    Regs.find (R.gceSlewUp n) = some ⟨0x510004, [(2048, 0x20)], 0xFEFF0100, 0x0, 0x0, 0x0, 0x0, true, 0xFFFFFFFF⟩ := by
  have hb : Regs.block (R.gceSlewUp n) = Regs.gce := by
    unfold Regs.block R.gceSlewUp
    repeat (first | rw [if_neg (by omega)] | rw [if_pos (by omega)])
  unfold Regs.find
  rw [hb]
  unfold Regs.gce R.gceSlewUp
  repeat (first
    | rw [List.find?_cons_of_neg (by simp [Regs.hit, Regs.inDims]; omega)]
    | rw [List.find?_cons_of_pos (by simp [Regs.hit, Regs.inDims]; omega)])

theorem Regs.find_gceSlewDn (n : Nat) (hn : n < 2048) :
    Regs.find (R.gceSlewDn n) = some ⟨0x510008, [(2048, 0x20)], 0xF5FF0A00, 0x0, 0x0, 0x0, 0x0, true, 0xFFFFFFFF⟩ := by
  have hb : Regs.block (R.gceSlewDn n) = Regs.gce := by
    unfold Regs.block R.gceSlewDn
    repeat (first | rw [if_neg (by omega)] | rw [if_pos (by omega)])
  unfold Regs.find
  rw [hb]
  unfold Regs.gce R.gceSlewDn
  repeat (first
    | rw [List.find?_cons_of_neg (by simp [Regs.hit, Regs.inDims]; omega)]
    | rw [List.find?_cons_of_pos (by simp [Regs.hit, Regs.inDims]; omega)])

theorem Regs.find_gceLimHi (n : Nat) (hn : n < 2048) :
    Regs.find (R.gceLimHi n) = some ⟨0x51000C, [(2048, 0x20)], 0x80007FFF, 0x0, 0x0, 0x0, 0x0, true, 0xFFFFFFFF⟩ := by
  have hb : Regs.block (R.gceLimHi n) = Regs.gce := by
    unfold Regs.block R.gceLimHi
    repeat (first | rw [if_neg (by omega)] | rw [if_pos (by omega)])
  unfold Regs.find
  rw [hb]
  unfold Regs.gce R.gceLimHi
  repeat (first
    | rw [List.find?_cons_of_neg (by simp [Regs.hit, Regs.inDims]; omega)]
    | rw [List.find?_cons_of_pos (by simp [Regs.hit, Regs.inDims]; omega)])

theorem Regs.find_gceLimLo (n : Nat) (hn : n < 2048) :
    Regs.find (R.gceLimLo n) = some ⟨0x510010, [(2048, 0x20)], 0x7FFF8000, 0x0, 0x0, 0x0, 0x0, true, 0xFFFFFFFF⟩ := by
  have hb : Regs.block (R.gceLimLo n) = Regs.gce := by
    unfold Regs.block R.gceLimLo
    repeat (first | rw [if_neg (by omega)] | rw [if_pos (by omega)])
  unfold Regs.find
  rw [hb]
  unfold Regs.gce R.gceLimLo
  repeat (first
    | rw [List.find?_cons_of_neg (by simp [Regs.hit, Regs.inDims]; omega)]
    | rw [List.find?_cons_of_pos (by simp [Regs.hit, Regs.inDims]; omega)])

theorem Regs.find_gceSetpLo (p : Nat) (hp : p < 4) :
    Regs.find (R.gceSetpLo p) = some ⟨0x520004, [(4, 0x10)], 0xFFFF0000, 0x0, 0x0, 0x0, 0x0, true, 0xFFFFFFFF⟩ := by
  have hb : Regs.block (R.gceSetpLo p) = Regs.gce := by
    unfold Regs.block R.gceSetpLo
    repeat (first | rw [if_neg (by omega)] | rw [if_pos (by omega)])
  unfold Regs.find
  rw [hb]
  unfold Regs.gce R.gceSetpLo
  repeat (first
    | rw [List.find?_cons_of_neg (by simp [Regs.hit, Regs.inDims]; omega)]
    | rw [List.find?_cons_of_pos (by simp [Regs.hit, Regs.inDims]; omega)])

theorem Regs.find_gceSetpHi (p : Nat) (hp : p < 4) :
    Regs.find (R.gceSetpHi p) = some ⟨0x520008, [(4, 0x10)], 0xFFFF0000, 0x0, 0x0, 0x0, 0x0, true, 0xFFFFFFFF⟩ := by
  have hb : Regs.block (R.gceSetpHi p) = Regs.gce := by
    unfold Regs.block R.gceSetpHi
    repeat (first | rw [if_neg (by omega)] | rw [if_pos (by omega)])
  unfold Regs.find
  rw [hb]
  unfold Regs.gce R.gceSetpHi
  repeat (first
    | rw [List.find?_cons_of_neg (by simp [Regs.hit, Regs.inDims]; omega)]
    | rw [List.find?_cons_of_pos (by simp [Regs.hit, Regs.inDims]; omega)])

theorem Regs.find_smkDeadline (n : Nat) (hn : n < 2048) :
    Regs.find (R.smkDeadline n) = some ⟨0x580004, [(2048, 0x10)], 0xFC1703E8, 0x0, 0x0, 0x0, 0x0, true, 0xFFFFFFFF⟩ := by
  have hb : Regs.block (R.smkDeadline n) = Regs.smk := by
    unfold Regs.block R.smkDeadline
    repeat (first | rw [if_neg (by omega)] | rw [if_pos (by omega)])
  unfold Regs.find
  rw [hb]
  unfold Regs.smk R.smkDeadline
  repeat (first
    | rw [List.find?_cons_of_neg (by simp [Regs.hit, Regs.inDims]; omega)]
    | rw [List.find?_cons_of_pos (by simp [Regs.hit, Regs.inDims]; omega)])

theorem Regs.find_wrkCtl (c : Nat) (k : Nat) (hc : c < 64) (hk : k < 8) :
    Regs.find (R.wrkCtl c k) = some ⟨0x602024, [(64, 0x4000), (8, 0x400)], 0x0, 0x0, 0x0, 0x0, 0x7, false, 0x7⟩ := by
  have hb : Regs.block (R.wrkCtl c k) = Regs.wrk := by
    unfold Regs.block R.wrkCtl
    repeat (first | rw [if_neg (by omega)] | rw [if_pos (by omega)])
  unfold Regs.find
  rw [hb]
  unfold Regs.wrk R.wrkCtl
  repeat (first
    | rw [List.find?_cons_of_neg (by simp [Regs.hit, Regs.inDims]; omega)]
    | rw [List.find?_cons_of_pos (by simp [Regs.hit, Regs.inDims]; omega)])

theorem Regs.find_wrkSleepCtl (c : Nat) (hc : c < 64) :
    Regs.find (R.wrkSleepCtl c) = some ⟨0x600004, [(64, 0x4000)], 0xFA0, 0x3FFFFF, 0x0, 0x0, 0x0, false, 0x3FFFFF⟩ := by
  have hb : Regs.block (R.wrkSleepCtl c) = Regs.wrk := by
    unfold Regs.block R.wrkSleepCtl
    repeat (first | rw [if_neg (by omega)] | rw [if_pos (by omega)])
  unfold Regs.find
  rw [hb]
  unfold Regs.wrk R.wrkSleepCtl
  repeat (first
    | rw [List.find?_cons_of_neg (by simp [Regs.hit, Regs.inDims]; omega)]
    | rw [List.find?_cons_of_pos (by simp [Regs.hit, Regs.inDims]; omega)])

theorem Regs.find_wrkWatch (c : Nat) (hc : c < 64) :
    Regs.find (R.wrkWatch c) = some ⟨0x600008, [(64, 0x4000)], 0x0, 0xFFFFFFFF, 0x0, 0x0, 0x0, false, 0xFFFFFFFF⟩ := by
  have hb : Regs.block (R.wrkWatch c) = Regs.wrk := by
    unfold Regs.block R.wrkWatch
    repeat (first | rw [if_neg (by omega)] | rw [if_pos (by omega)])
  unfold Regs.find
  rw [hb]
  unfold Regs.wrk R.wrkWatch
  repeat (first
    | rw [List.find?_cons_of_neg (by simp [Regs.hit, Regs.inDims]; omega)]
    | rw [List.find?_cons_of_pos (by simp [Regs.hit, Regs.inDims]; omega)])

theorem Regs.find_timTodOfsHi : Regs.find R.timTodOfsHi = some ⟨0x700024, [], 0x0, 0xFFFFFFFF, 0x0, 0x0, 0x0, false, 0xFFFFFFFF⟩ := by decide

theorem Regs.find_timCmd : Regs.find R.timCmd = some ⟨0x700030, [], 0x0, 0x0, 0x0, 0x0, 0x7, false, 0x7⟩ := by decide

theorem Regs.find_timWagArrive : Regs.find R.timWagArrive = some ⟨0x700064, [], 0x0, 0x0, 0x0, 0xFFFFFFFF, 0x0, false, 0xFFFFFFFF⟩ := by decide

theorem Regs.find_fanCtl (f : Nat) (hf : f < 4) :
    Regs.find (R.fanCtl f) = some ⟨0x788000, [(4, 0x20)], 0x1004D4, 0x1FFFFF, 0x0, 0x200000, 0x0, false, 0x3FFFFF⟩ := by
  have hb : Regs.block (R.fanCtl f) = Regs.hskPwr := by
    unfold Regs.block R.fanCtl
    repeat (first | rw [if_neg (by omega)] | rw [if_pos (by omega)])
  unfold Regs.find
  rw [hb]
  unfold Regs.hskPwr R.fanCtl
  repeat (first
    | rw [List.find?_cons_of_neg (by simp [Regs.hit, Regs.inDims]; omega)]
    | rw [List.find?_cons_of_pos (by simp [Regs.hit, Regs.inDims]; omega)])

theorem Regs.find_pwrRefCtl : Regs.find R.pwrRefCtl = some ⟨0x790020, [], 0x2A, 0x3FF, 0x0, 0x0, 0xC00, false, 0xFFF⟩ := by decide

theorem Regs.find_fltLost : Regs.find R.fltLost = some ⟨0x7C0004, [], 0x0, 0x0, 0x80000000, 0x0, 0x0, false, 0xFFFFFFFF⟩ := by decide

theorem Regs.find_evrCmd : Regs.find R.evrCmd = some ⟨0x7E0004, [], 0x0, 0x0, 0x0, 0x0, 0x1, false, 0x1⟩ := by decide

theorem Regs.find_useTCtl (t : Nat) (ht : t < 16) :
    Regs.find (R.useTCtl t) = some ⟨0x7E8000, [(16, 0x4)], 0x0, 0x7F, 0x0, 0x0, 0x0, false, 0xFFFF007F⟩ := by
  have hb : Regs.block (R.useTCtl t) = Regs.flt := by
    unfold Regs.block R.useTCtl
    repeat (first | rw [if_neg (by omega)] | rw [if_pos (by omega)])
  unfold Regs.find
  rw [hb]
  unfold Regs.flt R.useTCtl
  repeat (first
    | rw [List.find?_cons_of_neg (by simp [Regs.hit, Regs.inDims]; omega)]
    | rw [List.find?_cons_of_pos (by simp [Regs.hit, Regs.inDims]; omega)])

theorem Regs.find_queCmd : Regs.find R.queCmd = some ⟨0x800050, [], 0x0, 0x0, 0x0, 0x0, 0xFF0F, false, 0xFF0F⟩ := by decide

theorem Regs.find_imgPatchStat (p : Nat) (hp : p < 4) :
    Regs.find (R.imgPatchStat p) = some ⟨0x840100, [(4, 0x10)], 0x0, 0x0, 0x80000000, 0x0, 0x0, false, 0x8003FFF7⟩ := by
  have hb : Regs.block (R.imgPatchStat p) = Regs.que := by
    unfold Regs.block R.imgPatchStat
    repeat (first | rw [if_neg (by omega)] | rw [if_pos (by omega)])
  unfold Regs.find
  rw [hb]
  unfold Regs.que R.imgPatchStat
  repeat (first
    | rw [List.find?_cons_of_neg (by simp [Regs.hit, Regs.inDims]; omega)]
    | rw [List.find?_cons_of_pos (by simp [Regs.hit, Regs.inDims]; omega)])

theorem Regs.find_hiveIdent : Regs.find R.hiveIdent = some ⟨0x0, [], 0x51441002, 0x0, 0x0, 0x0, 0x0, false, 0xFFFFF0FF⟩ := by decide

theorem Regs.find_topo : Regs.find R.topo = some ⟨0x8, [], 0x80100, 0x0, 0x0, 0x0, 0x0, false, 0x7F1F0F⟩ := by decide

theorem Regs.find_scrubCtl : Regs.find R.scrubCtl = some ⟨0x1C, [], 0x3C, 0xFF, 0x0, 0x0, 0x0, false, 0xFF⟩ := by decide

theorem Regs.find_eqCtl : Regs.find R.eqCtl = some ⟨0x225010, [], 0xA, 0xFF, 0x0, 0x0, 0x0, false, 0xFF⟩ := by decide

theorem Regs.find_cmdIrqMask : Regs.find R.cmdIrqMask = some ⟨0x10000010, [], 0x0, 0xFF, 0x0, 0x0, 0x0, false, 0xFF⟩ := by decide

theorem Regs.find_cmdSqTail : Regs.find R.cmdSqTail = some ⟨0x10000000, [], 0x0, 0x3F, 0x0, 0x0, 0x0, false, 0x3F⟩ := by decide

end Sys2Proof.Machine
end

