-- ==== Sys2Proof/Laws/Tbl.lean ====
section
/-! SUPPORT. The laws of sparse tables: a read after a write, for every table, and the canonical form that every write
keeps. -/

namespace Sys2Proof.Machine

section
variable {α : Type} {d : Nat → α}

theorem Tbl.get_del (t : Tbl α) (k j : Nat) : Tbl.get d (Tbl.del t k) j = if j = k then d k else Tbl.get d t j := by
  induction t with
  | nil => by_cases h : j = k <;> simp [Tbl.del, Tbl.get, h]
  | cons p t ih =>
    obtain ⟨k', v⟩ := p
    by_cases hk : k = k'
    · subst hk
      by_cases hj : j = k
      · rw [Tbl.del, if_pos rfl, ih, if_pos hj, if_pos hj]
      · rw [Tbl.del, if_pos rfl, ih, if_neg hj, if_neg hj, Tbl.get, if_neg hj]
    · rw [Tbl.del, if_neg hk, Tbl.get, Tbl.get, ih]
      by_cases hj : j = k'
      · subst hj; rw [if_pos rfl, if_neg (Ne.symm hk), if_pos rfl]
      · rw [if_neg hj, if_neg hj]

theorem Tbl.get_ins (t : Tbl α) (k j : Nat) (v : α) (hk : ∀ p ∈ t, p.1 ≠ k) :
    Tbl.get d (Tbl.ins k v t) j = if j = k then v else Tbl.get d t j := by
  induction t with
  | nil => by_cases hj : j = k <;> simp [Tbl.ins, Tbl.get, hj]
  | cons p t ih =>
    obtain ⟨k', v'⟩ := p
    have hkk : k ≠ k' := fun e => hk (k', v') (List.mem_cons_self ..) e.symm
    have ih' := ih (fun p hp => hk p (List.mem_cons_of_mem _ hp))
    rw [Tbl.ins]
    by_cases hl : k < k'
    · rw [if_pos hl]; rfl
    · rw [if_neg hl, Tbl.get, ih', Tbl.get]
      by_cases hj : j = k
      · subst hj; rw [if_neg hkk, if_pos rfl, if_pos rfl]
      · rw [if_neg hj, if_neg hj]

theorem Tbl.del_keys (t : Tbl α) (k : Nat) : ∀ p ∈ Tbl.del t k, p.1 ≠ k := by
  induction t with
  | nil => intro p hp; cases hp
  | cons p t ih =>
    obtain ⟨k', v⟩ := p
    intro q hq
    by_cases hk : k = k'
    · rw [Tbl.del, if_pos hk] at hq; exact ih q hq
    · rw [Tbl.del, if_neg hk, List.mem_cons] at hq
      rcases hq with rfl | hq
      · exact fun e => hk e.symm
      · exact ih q hq

/-- A read after a write gives the value written at its key and the old value elsewhere. -/
theorem Tbl.get_put [DecidableEq α] (t : Tbl α) (k : Nat) (v : α) (j : Nat) :
    Tbl.get d (Tbl.put d t k v) j = if j = k then v else Tbl.get d t j := by
  unfold Tbl.put
  by_cases hv : v = d k
  · simp [hv, Tbl.get_del]
  · rw [if_neg hv, Tbl.get_ins _ _ _ _ (Tbl.del_keys t k), Tbl.get_del]
    by_cases hj : j = k <;> simp [hj]

theorem Tbl.get_put_same [DecidableEq α] (t : Tbl α) (k : Nat) (v : α) : Tbl.get d (Tbl.put d t k v) k = v := by
  simp [Tbl.get_put]

theorem Tbl.get_put_ne [DecidableEq α] (t : Tbl α) {k j : Nat} (v : α) (h : j ≠ k) :
    Tbl.get d (Tbl.put d t k v) j = Tbl.get d t j := by
  simp [Tbl.get_put, h]

end

/-! ## The canonical form -/

section
variable {α : Type} [DecidableEq α] {d : Nat → α}

theorem Tbl.wfFrom_mono {b c : Nat} {t : Tbl α} (h : Tbl.wfFrom d b t = true) (hc : c ≤ b) : Tbl.wfFrom d c t = true := by
  cases t with
  | nil => rfl
  | cons p t =>
    obtain ⟨k, v⟩ := p
    simp only [Tbl.wfFrom, Bool.and_eq_true, decide_eq_true_eq] at h ⊢
    exact ⟨⟨Nat.le_trans hc h.1.1, h.1.2⟩, h.2⟩

theorem Tbl.del_wfFrom (t : Tbl α) (k : Nat) : ∀ {b : Nat}, Tbl.wfFrom d b t = true → Tbl.wfFrom d b (Tbl.del t k) = true := by
  induction t with
  | nil => intro b _; rfl
  | cons p t ih =>
    obtain ⟨k', v⟩ := p
    intro b h
    simp only [Tbl.wfFrom, Bool.and_eq_true, decide_eq_true_eq] at h
    by_cases hk : k = k'
    · simpa [Tbl.del, hk] using (hk ▸ ih (Tbl.wfFrom_mono h.2 (Nat.le_succ_of_le h.1.1)))
    · simp [Tbl.del, Tbl.wfFrom, hk, ih h.2, h.1]

theorem Tbl.ins_wfFrom (k : Nat) {v : α} (hv : v ≠ d k) (t : Tbl α) :
    ∀ {b : Nat}, Tbl.wfFrom d b t = true → b ≤ k → (∀ p ∈ t, p.1 ≠ k) → Tbl.wfFrom d b (Tbl.ins k v t) = true := by
  induction t with
  | nil => intro b _ hb _; simp [Tbl.ins, Tbl.wfFrom, hb, hv]
  | cons p t ih =>
    obtain ⟨k', v'⟩ := p
    intro b h hb hk
    have hkk : k' ≠ k := hk (k', v') (List.mem_cons_self ..)
    simp only [Tbl.wfFrom, Bool.and_eq_true, decide_eq_true_eq, Bool.not_eq_true', decide_eq_false_iff_not] at h
    by_cases hl : k < k'
    · have : k + 1 ≤ k' := hl
      simp [Tbl.ins, Tbl.wfFrom, hl, hb, hv, this, h.1.2, h.2]
    · have h1 : k' + 1 ≤ k := by omega
      simp [Tbl.ins, Tbl.wfFrom, hl, h.1.1, h.1.2, ih h.2 h1 (fun p hp => hk p (List.mem_cons_of_mem _ hp))]

/-- Removing an entry keeps the canonical form. -/
theorem Tbl.del_wf {t : Tbl α} (h : Tbl.wf d t = true) (k : Nat) : Tbl.wf d (Tbl.del t k) = true := Tbl.del_wfFrom t k h

/-- A write keeps the canonical form. -/
theorem Tbl.put_wf {t : Tbl α} (h : Tbl.wf d t = true) (k : Nat) (v : α) : Tbl.wf d (Tbl.put d t k v) = true := by
  unfold Tbl.put
  by_cases hv : v = d k
  · simpa [hv] using Tbl.del_wf h k
  · rw [if_neg hv]; exact Tbl.ins_wfFrom k hv _ (Tbl.del_wf h k) (Nat.zero_le k) (Tbl.del_keys t k)

/-- Writing a list of values keeps the canonical form. -/
theorem Tbl.putList_wf (vs : List α) :
    ∀ {t : Tbl α} (k : Nat), Tbl.wf d t = true → Tbl.wf d (Tbl.putList d t k vs) = true := by
  induction vs with
  | nil => intro t k h; exact h
  | cons v vs ih => intro t k h; exact ih (k + 1) (Tbl.put_wf h k v)

end

end Sys2Proof.Machine
end

