-- ==== Sys2Proof/Laws/State.lean ====
section
/-! SUPPORT. The small lemmas of State: what each elementary update leaves of each field of the block, and the algebra of
register words and fields. -/

namespace Sys2Proof.Machine

/-! ## The machine -/

@[simp] theorem State.upd_eq (s : State) (f : Hive → Hive) : s.upd f = .next { s with hive := f s.hive } := rfl

/-! ## Register words -/

/-- A register word after a write: the word written at its address, the old one elsewhere. -/
theorem Hive.rd_wr (h : Hive) (a : Nat) (v : Word) (b : Nat) : (h.wr a v).rd b = if b = a then v else h.rd b :=
  Tbl.get_put h.regs a v b

@[simp] theorem Hive.rd_wr_same (h : Hive) (a : Nat) (v : Word) : (h.wr a v).rd a = v := by simp [Hive.rd_wr]

theorem Hive.rd_wr_ne (h : Hive) {a b : Nat} (v : Word) (hb : b ≠ a) : (h.wr a v).rd b = h.rd b := by simp [Hive.rd_wr, hb]

/-- Writing a field leaves every other register. -/
theorem Hive.rd_set_ne (h : Hive) {f : RF} (v : Nat) {b : Nat} (hb : b ≠ f.a) : (h.set f v).rd b = h.rd b :=
  Hive.rd_wr_ne h _ hb

theorem Hive.rd_setFlag_ne (h : Hive) {f : RF} (v : Bool) {b : Nat} (hb : b ≠ f.a) : (h.setFlag f v).rd b = h.rd b :=
  Hive.rd_wr_ne h _ hb

/-- A field depends only on its register's word. -/
theorem Hive.get_congr {h h' : Hive} {f : RF} (e : h'.rd f.a = h.rd f.a) : h'.get f = h.get f := by simp [Hive.get, e]

theorem Hive.flag_congr {h h' : Hive} {f : RF} (e : h'.rd f.a = h.rd f.a) : h'.flag f = h.flag f := by
  unfold Hive.flag; rw [Hive.get_congr e]

/-- A field of another register is left by a field write. -/
theorem Hive.get_set_other (h : Hive) {f g : RF} (v : Nat) (hg : g.a ≠ f.a) : (h.set f v).get g = h.get g :=
  Hive.get_congr (Hive.rd_set_ne h v hg)

/-! ## Fields within a word -/

theorem bitsOf_lt (v lo w : Nat) : bitsOf v lo w < 2 ^ w := Nat.mod_lt _ (Nat.two_pow_pos w)

/-- A word is its part above a field, the field, and its part below. -/
theorem bitsOf_split (x lo w : Nat) : x = x / 2 ^ (lo + w) * 2 ^ (lo + w) + bitsOf x lo w * 2 ^ lo + x % 2 ^ lo := by
  unfold bitsOf
  have h1 := Nat.div_add_mod x (2 ^ lo)
  have h2 := Nat.div_add_mod (x / 2 ^ lo) (2 ^ w)
  have h3 : x / 2 ^ (lo + w) = x / 2 ^ lo / 2 ^ w := by rw [Nat.pow_add, Nat.div_div_eq_div_mul]
  have h4 : x / 2 ^ lo * 2 ^ lo = x / 2 ^ lo / 2 ^ w * (2 ^ lo * 2 ^ w) + x / 2 ^ lo % 2 ^ w * 2 ^ lo := by
    calc x / 2 ^ lo * 2 ^ lo = (2 ^ w * (x / 2 ^ lo / 2 ^ w) + x / 2 ^ lo % 2 ^ w) * 2 ^ lo := by rw [h2]
      _ = 2 ^ w * (x / 2 ^ lo / 2 ^ w) * 2 ^ lo + x / 2 ^ lo % 2 ^ w * 2 ^ lo := Nat.add_mul ..
      _ = _ := by
        rw [Nat.mul_comm (2 ^ w) (x / 2 ^ lo / 2 ^ w), Nat.mul_assoc, Nat.mul_comm (2 ^ w) (2 ^ lo)]
  rw [h3, Nat.pow_add, ← h4]
  rw [Nat.mul_comm] at h1
  omega

/-- The number with a field replaced, in parts. -/
theorem insField_split (f : RF) (x v : Nat) :
    insField f x v = x / 2 ^ (f.lo + f.w) * 2 ^ (f.lo + f.w) + v % 2 ^ f.w * 2 ^ f.lo + x % 2 ^ f.lo := by
  have h := bitsOf_split x f.lo f.w
  unfold insField
  omega

theorem insField_lt (f : RF) (x v : Nat) (hf : f.lo + f.w ≤ 32) (hx : x < 2 ^ 32) : insField f x v < 2 ^ 32 := by
  rw [insField_split]
  obtain ⟨k, hk⟩ : ∃ k, 32 = f.lo + f.w + k := ⟨32 - (f.lo + f.w), by omega⟩
  have hP : 0 < 2 ^ (f.lo + f.w) := Nat.two_pow_pos _
  have h1 : x / 2 ^ (f.lo + f.w) < 2 ^ k := by
    rw [Nat.div_lt_iff_lt_mul hP, ← Nat.pow_add, Nat.add_comm k, ← hk]; exact hx
  have h2 : (x / 2 ^ (f.lo + f.w) + 1) * 2 ^ (f.lo + f.w) ≤ 2 ^ 32 := by
    have : 2 ^ 32 = 2 ^ k * 2 ^ (f.lo + f.w) := by rw [← Nat.pow_add, Nat.add_comm k, ← hk]
    rw [this]; exact Nat.mul_le_mul_right _ h1
  have h3 : v % 2 ^ f.w + 1 ≤ 2 ^ f.w := Nat.mod_lt _ (Nat.two_pow_pos _)
  have h4 : (v % 2 ^ f.w + 1) * 2 ^ f.lo ≤ 2 ^ f.w * 2 ^ f.lo := Nat.mul_le_mul_right _ h3
  have h5 : x % 2 ^ f.lo < 2 ^ f.lo := Nat.mod_lt _ (Nat.two_pow_pos _)
  have h6 : 2 ^ (f.lo + f.w) = 2 ^ f.w * 2 ^ f.lo := by rw [Nat.add_comm, Nat.pow_add]
  rw [Nat.add_mul] at h2 h4
  omega

/-- The replaced field reads as the value's low bits (R3). -/
theorem bitsOf_insField_same (f : RF) (x v : Nat) : bitsOf (insField f x v) f.lo f.w = v % 2 ^ f.w := by
  rw [insField_split]
  unfold bitsOf
  have h5 : x % 2 ^ f.lo < 2 ^ f.lo := Nat.mod_lt _ (Nat.two_pow_pos _)
  have h6 : x / 2 ^ (f.lo + f.w) * 2 ^ (f.lo + f.w) = x / 2 ^ (f.lo + f.w) * 2 ^ f.w * 2 ^ f.lo := by
    rw [Nat.add_comm f.lo, Nat.pow_add, Nat.mul_assoc]
  rw [h6, ← Nat.add_mul, Nat.add_comm (_ * 2 ^ f.lo), Nat.add_mul_div_right _ _ (Nat.two_pow_pos _),
    Nat.div_eq_of_lt h5, Nat.zero_add, Nat.add_comm, Nat.add_mul_mod_self_right, Nat.mod_mod]

/-- A field that lies above or below the replaced one keeps its value. -/
theorem bitsOf_insField_disj (f : RF) (x v lo w : Nat) (hd : lo + w ≤ f.lo ∨ f.lo + f.w ≤ lo) :
    bitsOf (insField f x v) lo w = bitsOf x lo w := by
  have h5 : x % 2 ^ f.lo < 2 ^ f.lo := Nat.mod_lt _ (Nat.two_pow_pos _)
  have h6 : 2 ^ (f.lo + f.w) = 2 ^ f.w * 2 ^ f.lo := by rw [Nat.add_comm, Nat.pow_add]
  rcases hd with hd | hd
  · -- below
    have e : ∀ y, bitsOf y lo w = y % 2 ^ f.lo / 2 ^ lo % 2 ^ w := by
      intro y
      unfold bitsOf
      obtain ⟨k, hk⟩ : ∃ k, f.lo = lo + (w + k) := ⟨f.lo - lo - w, by omega⟩
      rw [hk, Nat.pow_add, Nat.mod_mul_right_div_self, Nat.pow_add, Nat.mod_mul_right_mod]
    rw [e, e x, insField_split]
    congr 2
    rw [h6, ← Nat.mul_assoc, ← Nat.add_mul, Nat.mul_add_mod_self_right, Nat.mod_mod]
  · -- above
    have e : ∀ y, bitsOf y lo w = y / 2 ^ (f.lo + f.w) / 2 ^ (lo - (f.lo + f.w)) % 2 ^ w := by
      intro y
      unfold bitsOf
      rw [Nat.div_div_eq_div_mul, ← Nat.pow_add]
      congr 3
      omega
    rw [e, e x, insField_split, Nat.add_assoc, Nat.add_comm (x / 2 ^ (f.lo + f.w) * _), Nat.add_mul_div_right _ _ (Nat.two_pow_pos _)]
    have h3 : v % 2 ^ f.w + 1 ≤ 2 ^ f.w := Nat.mod_lt _ (Nat.two_pow_pos _)
    have h4 : (v % 2 ^ f.w + 1) * 2 ^ f.lo ≤ 2 ^ f.w * 2 ^ f.lo := Nat.mul_le_mul_right _ h3
    rw [Nat.add_mul] at h4
    have h7 : (v % 2 ^ f.w * 2 ^ f.lo + x % 2 ^ f.lo) / 2 ^ (f.lo + f.w) = 0 := by
      apply Nat.div_eq_of_lt; rw [h6]; omega
    rw [h7, Nat.zero_add]

/-- A field written reads as the low bits of the value (R3). -/
theorem Hive.get_set_same (h : Hive) (f : RF) (v : Nat) (hf : f.lo + f.w ≤ 32) : (h.set f v).get f = v % 2 ^ f.w := by
  have hx : (h.rd f.a).toNat < 2 ^ 32 := (h.rd f.a).isLt
  simp only [Hive.get, Hive.set, Hive.rd_wr_same, BitVec.toNat_ofNat, Nat.mod_eq_of_lt (insField_lt f _ v hf hx),
    bitsOf_insField_same]

/-- A field of the same register that does not overlap the one written keeps its value. -/
theorem Hive.get_set_disj (h : Hive) {f g : RF} (v : Nat) (ha : g.a = f.a) (hf : f.lo + f.w ≤ 32)
    (hd : g.lo + g.w ≤ f.lo ∨ f.lo + f.w ≤ g.lo) : (h.set f v).get g = h.get g := by
  have hx : (h.rd f.a).toNat < 2 ^ 32 := (h.rd f.a).isLt
  simp only [Hive.get, Hive.set, ha, Hive.rd_wr_same, BitVec.toNat_ofNat, Nat.mod_eq_of_lt (insField_lt f _ v hf hx),
    bitsOf_insField_disj f _ v _ _ hd]

/-- A field written, seen through any field that is not a part of it: the same register's other bits and all others. -/
theorem Hive.get_set_ne (h : Hive) {f g : RF} (v : Nat) (hf : f.lo + f.w ≤ 32)
    (hd : g.a ≠ f.a ∨ g.lo + g.w ≤ f.lo ∨ f.lo + f.w ≤ g.lo) : (h.set f v).get g = h.get g := by
  by_cases ha : g.a = f.a
  · exact Hive.get_set_disj h v ha hf (by rcases hd with hd | hd; exact absurd ha hd; exact hd)
  · exact Hive.get_set_other h v ha

/-- A one-bit field written. -/
theorem Hive.flag_setFlag_same (h : Hive) (f : RF) (b : Bool) (hf : f.lo + f.w ≤ 32) (hw : f.w = 1) :
    (h.setFlag f b).flag f = b := by
  cases b <;> simp [Hive.flag, Hive.setFlag, Hive.get_set_same h f _ hf, hw]

theorem Hive.flag_setFlag_ne (h : Hive) {f g : RF} (b : Bool) (hf : f.lo + f.w ≤ 32)
    (hd : g.a ≠ f.a ∨ g.lo + g.w ≤ f.lo ∨ f.lo + f.w ≤ g.lo) : (h.setFlag f b).flag g = h.flag g := by
  simp only [Hive.flag, Hive.setFlag, Hive.get_set_ne h _ hf hd]

theorem Hive.get_setFlag_ne (h : Hive) {f g : RF} (b : Bool) (hf : f.lo + f.w ≤ 32)
    (hd : g.a ≠ f.a ∨ g.lo + g.w ≤ f.lo ∨ f.lo + f.w ≤ g.lo) : (h.setFlag f b).get g = h.get g :=
  Hive.get_set_ne h _ hf hd

theorem Hive.flag_set_ne (h : Hive) {f g : RF} (v : Nat) (hf : f.lo + f.w ≤ 32)
    (hd : g.a ≠ f.a ∨ g.lo + g.w ≤ f.lo ∨ f.lo + f.w ≤ g.lo) : (h.set f v).flag g = h.flag g := by
  simp only [Hive.flag, Hive.get_set_ne h _ hf hd]

theorem setBit_bit (v i : Nat) (b : Bool) : bitOf (setBit v i b) i = b := by
  unfold setBit
  have hp : 0 < 2 ^ i := Nat.two_pow_pos i
  cases b
  · by_cases h : bitOf v i = true
    · simp only [h, Bool.true_eq_false, if_false, Bool.false_eq_true]
      simp only [bitOf, decide_eq_true_eq, decide_eq_false_iff_not] at h ⊢
      have hle : 2 ^ i ≤ v := by
        rcases Nat.lt_or_ge v (2 ^ i) with hl | hl
        · rw [Nat.div_eq_of_lt hl] at h; cases h
        · exact hl
      have : (v - 2 ^ i) / 2 ^ i = v / 2 ^ i - 1 := by
        rw [show v - 2 ^ i = v - 2 ^ i * 1 by omega, Nat.sub_mul_div]
      omega
    · simp only [Bool.not_eq_true] at h; simp [h]
  · by_cases h : bitOf v i = true
    · simp [h]
    · simp only [Bool.not_eq_true] at h
      simp only [h, Bool.false_eq_true, if_false, if_true]
      simp only [bitOf, decide_eq_false_iff_not, decide_eq_true_eq] at h ⊢
      rw [Nat.add_div_right _ hp]; omega

/-! ## Tables of units -/

theorem Hive.sget_sset (h : Hive) (n m : Nat) (st : StreamSt) : (h.sset n st).sget m = if m = n then st else h.sget m :=
  Tbl.get_put ..
theorem Hive.hget_hset (h : Hive) (n m : Nat) (st : HalfSt) : (h.hset n st).hget m = if m = n then st else h.hget m :=
  Tbl.get_put ..
theorem Hive.gget_gset (h : Hive) (n m : Nat) (st : GroupSt) : (h.gset n st).gget m = if m = n then st else h.gget m :=
  Tbl.get_put ..
theorem Hive.flt_setFlt (h : Hive) (i j : Nat) (r : FaultRec) :
    (h.setFlt i r).flt j = if j = i then { r with gen := (r.gen + 2) % 2 ^ 32 } else h.flt j := Tbl.get_put ..

/-! ## What the elementary updates leave -/

@[simp] theorem Hive.wr_ticks (h : Hive) (a : Nat) (v : Word) : (h.wr a v).ticks = h.ticks := rfl
@[simp] theorem Hive.set_ticks (h : Hive) (f : RF) (v : Nat) : (h.set f v).ticks = h.ticks := rfl
@[simp] theorem Hive.setFlag_ticks (h : Hive) (f : RF) (b : Bool) : (h.setFlag f b).ticks = h.ticks := rfl
@[simp] theorem Hive.hwSet_ticks (h : Hive) (f : RF) : (h.hwSet f).ticks = h.ticks := rfl
@[simp] theorem Hive.markEdge_ticks (h : Hive) (a b : Nat) : (h.markEdge a b).ticks = h.ticks := rfl
@[simp] theorem Hive.sset_ticks (h : Hive) (n : Nat) (x : StreamSt) : (h.sset n x).ticks = h.ticks := rfl
@[simp] theorem Hive.hset_ticks (h : Hive) (n : Nat) (x : HalfSt) : (h.hset n x).ticks = h.ticks := rfl
@[simp] theorem Hive.setFlt_ticks (h : Hive) (n : Nat) (x : FaultRec) : (h.setFlt n x).ticks = h.ticks := rfl
@[simp] theorem Hive.wr_gtc (h : Hive) (a : Nat) (v : Word) : (h.wr a v).gtc = h.gtc := rfl
@[simp] theorem Hive.set_gtc (h : Hive) (f : RF) (v : Nat) : (h.set f v).gtc = h.gtc := rfl
@[simp] theorem Hive.setFlag_gtc (h : Hive) (f : RF) (b : Bool) : (h.setFlag f b).gtc = h.gtc := rfl
@[simp] theorem Hive.hwSet_gtc (h : Hive) (f : RF) : (h.hwSet f).gtc = h.gtc := rfl
@[simp] theorem Hive.markEdge_gtc (h : Hive) (a b : Nat) : (h.markEdge a b).gtc = h.gtc := rfl
@[simp] theorem Hive.sset_gtc (h : Hive) (n : Nat) (x : StreamSt) : (h.sset n x).gtc = h.gtc := rfl
@[simp] theorem Hive.hset_gtc (h : Hive) (n : Nat) (x : HalfSt) : (h.hset n x).gtc = h.gtc := rfl
@[simp] theorem Hive.setFlt_gtc (h : Hive) (n : Nat) (x : FaultRec) : (h.setFlt n x).gtc = h.gtc := rfl
@[simp] theorem Hive.wr_free (h : Hive) (a : Nat) (v : Word) : (h.wr a v).free = h.free := rfl
@[simp] theorem Hive.set_free (h : Hive) (f : RF) (v : Nat) : (h.set f v).free = h.free := rfl
@[simp] theorem Hive.setFlag_free (h : Hive) (f : RF) (b : Bool) : (h.setFlag f b).free = h.free := rfl
@[simp] theorem Hive.hwSet_free (h : Hive) (f : RF) : (h.hwSet f).free = h.free := rfl
@[simp] theorem Hive.markEdge_free (h : Hive) (a b : Nat) : (h.markEdge a b).free = h.free := rfl
@[simp] theorem Hive.sset_free (h : Hive) (n : Nat) (x : StreamSt) : (h.sset n x).free = h.free := rfl
@[simp] theorem Hive.hset_free (h : Hive) (n : Nat) (x : HalfSt) : (h.hset n x).free = h.free := rfl
@[simp] theorem Hive.setFlt_free (h : Hive) (n : Nat) (x : FaultRec) : (h.setFlt n x).free = h.free := rfl
@[simp] theorem Hive.wr_mode (h : Hive) (a : Nat) (v : Word) : (h.wr a v).mode = h.mode := rfl
@[simp] theorem Hive.set_mode (h : Hive) (f : RF) (v : Nat) : (h.set f v).mode = h.mode := rfl
@[simp] theorem Hive.setFlag_mode (h : Hive) (f : RF) (b : Bool) : (h.setFlag f b).mode = h.mode := rfl
@[simp] theorem Hive.hwSet_mode (h : Hive) (f : RF) : (h.hwSet f).mode = h.mode := rfl
@[simp] theorem Hive.markEdge_mode (h : Hive) (a b : Nat) : (h.markEdge a b).mode = h.mode := rfl
@[simp] theorem Hive.sset_mode (h : Hive) (n : Nat) (x : StreamSt) : (h.sset n x).mode = h.mode := rfl
@[simp] theorem Hive.hset_mode (h : Hive) (n : Nat) (x : HalfSt) : (h.hset n x).mode = h.mode := rfl
@[simp] theorem Hive.setFlt_mode (h : Hive) (n : Nat) (x : FaultRec) : (h.setFlt n x).mode = h.mode := rfl
@[simp] theorem Hive.wr_safeBy (h : Hive) (a : Nat) (v : Word) : (h.wr a v).safeBy = h.safeBy := rfl
@[simp] theorem Hive.set_safeBy (h : Hive) (f : RF) (v : Nat) : (h.set f v).safeBy = h.safeBy := rfl
@[simp] theorem Hive.setFlag_safeBy (h : Hive) (f : RF) (b : Bool) : (h.setFlag f b).safeBy = h.safeBy := rfl
@[simp] theorem Hive.hwSet_safeBy (h : Hive) (f : RF) : (h.hwSet f).safeBy = h.safeBy := rfl
@[simp] theorem Hive.markEdge_safeBy (h : Hive) (a b : Nat) : (h.markEdge a b).safeBy = h.safeBy := rfl
@[simp] theorem Hive.sset_safeBy (h : Hive) (n : Nat) (x : StreamSt) : (h.sset n x).safeBy = h.safeBy := rfl
@[simp] theorem Hive.hset_safeBy (h : Hive) (n : Nat) (x : HalfSt) : (h.hset n x).safeBy = h.safeBy := rfl
@[simp] theorem Hive.setFlt_safeBy (h : Hive) (n : Nat) (x : FaultRec) : (h.setFlt n x).safeBy = h.safeBy := rfl
@[simp] theorem Hive.wr_seenRun (h : Hive) (a : Nat) (v : Word) : (h.wr a v).seenRun = h.seenRun := rfl
@[simp] theorem Hive.set_seenRun (h : Hive) (f : RF) (v : Nat) : (h.set f v).seenRun = h.seenRun := rfl
@[simp] theorem Hive.setFlag_seenRun (h : Hive) (f : RF) (b : Bool) : (h.setFlag f b).seenRun = h.seenRun := rfl
@[simp] theorem Hive.hwSet_seenRun (h : Hive) (f : RF) : (h.hwSet f).seenRun = h.seenRun := rfl
@[simp] theorem Hive.markEdge_seenRun (h : Hive) (a b : Nat) : (h.markEdge a b).seenRun = h.seenRun := rfl
@[simp] theorem Hive.sset_seenRun (h : Hive) (n : Nat) (x : StreamSt) : (h.sset n x).seenRun = h.seenRun := rfl
@[simp] theorem Hive.hset_seenRun (h : Hive) (n : Nat) (x : HalfSt) : (h.hset n x).seenRun = h.seenRun := rfl
@[simp] theorem Hive.setFlt_seenRun (h : Hive) (n : Nat) (x : FaultRec) : (h.setFlt n x).seenRun = h.seenRun := rfl
@[simp] theorem Hive.markEdge_regs (h : Hive) (a b : Nat) : (h.markEdge a b).regs = h.regs := rfl
@[simp] theorem Hive.sset_regs (h : Hive) (n : Nat) (x : StreamSt) : (h.sset n x).regs = h.regs := rfl
@[simp] theorem Hive.hset_regs (h : Hive) (n : Nat) (x : HalfSt) : (h.hset n x).regs = h.regs := rfl
@[simp] theorem Hive.setFlt_regs (h : Hive) (n : Nat) (x : FaultRec) : (h.setFlt n x).regs = h.regs := rfl
@[simp] theorem Hive.wr_edges (h : Hive) (a : Nat) (v : Word) : (h.wr a v).edges = h.edges := rfl
@[simp] theorem Hive.set_edges (h : Hive) (f : RF) (v : Nat) : (h.set f v).edges = h.edges := rfl
@[simp] theorem Hive.setFlag_edges (h : Hive) (f : RF) (b : Bool) : (h.setFlag f b).edges = h.edges := rfl
@[simp] theorem Hive.sset_edges (h : Hive) (n : Nat) (x : StreamSt) : (h.sset n x).edges = h.edges := rfl
@[simp] theorem Hive.hset_edges (h : Hive) (n : Nat) (x : HalfSt) : (h.hset n x).edges = h.edges := rfl
@[simp] theorem Hive.setFlt_edges (h : Hive) (n : Nat) (x : FaultRec) : (h.setFlt n x).edges = h.edges := rfl
@[simp] theorem Hive.wr_edgeAt (h : Hive) (a : Nat) (v : Word) : (h.wr a v).edgeAt = h.edgeAt := rfl
@[simp] theorem Hive.set_edgeAt (h : Hive) (f : RF) (v : Nat) : (h.set f v).edgeAt = h.edgeAt := rfl
@[simp] theorem Hive.setFlag_edgeAt (h : Hive) (f : RF) (b : Bool) : (h.setFlag f b).edgeAt = h.edgeAt := rfl
@[simp] theorem Hive.sset_edgeAt (h : Hive) (n : Nat) (x : StreamSt) : (h.sset n x).edgeAt = h.edgeAt := rfl
@[simp] theorem Hive.hset_edgeAt (h : Hive) (n : Nat) (x : HalfSt) : (h.hset n x).edgeAt = h.edgeAt := rfl
@[simp] theorem Hive.setFlt_edgeAt (h : Hive) (n : Nat) (x : FaultRec) : (h.setFlt n x).edgeAt = h.edgeAt := rfl
@[simp] theorem Hive.wr_caps (h : Hive) (a : Nat) (v : Word) : (h.wr a v).caps = h.caps := rfl
@[simp] theorem Hive.set_caps (h : Hive) (f : RF) (v : Nat) : (h.set f v).caps = h.caps := rfl
@[simp] theorem Hive.setFlag_caps (h : Hive) (f : RF) (b : Bool) : (h.setFlag f b).caps = h.caps := rfl
@[simp] theorem Hive.hwSet_caps (h : Hive) (f : RF) : (h.hwSet f).caps = h.caps := rfl
@[simp] theorem Hive.markEdge_caps (h : Hive) (a b : Nat) : (h.markEdge a b).caps = h.caps := rfl
@[simp] theorem Hive.sset_caps (h : Hive) (n : Nat) (x : StreamSt) : (h.sset n x).caps = h.caps := rfl
@[simp] theorem Hive.hset_caps (h : Hive) (n : Nat) (x : HalfSt) : (h.hset n x).caps = h.caps := rfl
@[simp] theorem Hive.setFlt_caps (h : Hive) (n : Nat) (x : FaultRec) : (h.setFlt n x).caps = h.caps := rfl
@[simp] theorem Hive.wr_resp (h : Hive) (a : Nat) (v : Word) : (h.wr a v).resp = h.resp := rfl
@[simp] theorem Hive.set_resp (h : Hive) (f : RF) (v : Nat) : (h.set f v).resp = h.resp := rfl
@[simp] theorem Hive.setFlag_resp (h : Hive) (f : RF) (b : Bool) : (h.setFlag f b).resp = h.resp := rfl
@[simp] theorem Hive.hwSet_resp (h : Hive) (f : RF) : (h.hwSet f).resp = h.resp := rfl
@[simp] theorem Hive.markEdge_resp (h : Hive) (a b : Nat) : (h.markEdge a b).resp = h.resp := rfl
@[simp] theorem Hive.sset_resp (h : Hive) (n : Nat) (x : StreamSt) : (h.sset n x).resp = h.resp := rfl
@[simp] theorem Hive.hset_resp (h : Hive) (n : Nat) (x : HalfSt) : (h.hset n x).resp = h.resp := rfl
@[simp] theorem Hive.setFlt_resp (h : Hive) (n : Nat) (x : FaultRec) : (h.setFlt n x).resp = h.resp := rfl
@[simp] theorem Hive.wr_faults (h : Hive) (a : Nat) (v : Word) : (h.wr a v).faults = h.faults := rfl
@[simp] theorem Hive.set_faults (h : Hive) (f : RF) (v : Nat) : (h.set f v).faults = h.faults := rfl
@[simp] theorem Hive.setFlag_faults (h : Hive) (f : RF) (b : Bool) : (h.setFlag f b).faults = h.faults := rfl
@[simp] theorem Hive.hwSet_faults (h : Hive) (f : RF) : (h.hwSet f).faults = h.faults := rfl
@[simp] theorem Hive.markEdge_faults (h : Hive) (a b : Nat) : (h.markEdge a b).faults = h.faults := rfl
@[simp] theorem Hive.sset_faults (h : Hive) (n : Nat) (x : StreamSt) : (h.sset n x).faults = h.faults := rfl
@[simp] theorem Hive.hset_faults (h : Hive) (n : Nat) (x : HalfSt) : (h.hset n x).faults = h.faults := rfl
@[simp] theorem Hive.wr_hum (h : Hive) (a : Nat) (v : Word) : (h.wr a v).hum = h.hum := rfl
@[simp] theorem Hive.set_hum (h : Hive) (f : RF) (v : Nat) : (h.set f v).hum = h.hum := rfl
@[simp] theorem Hive.setFlag_hum (h : Hive) (f : RF) (b : Bool) : (h.setFlag f b).hum = h.hum := rfl
@[simp] theorem Hive.hwSet_hum (h : Hive) (f : RF) : (h.hwSet f).hum = h.hum := rfl
@[simp] theorem Hive.markEdge_hum (h : Hive) (a b : Nat) : (h.markEdge a b).hum = h.hum := rfl
@[simp] theorem Hive.sset_hum (h : Hive) (n : Nat) (x : StreamSt) : (h.sset n x).hum = h.hum := rfl
@[simp] theorem Hive.hset_hum (h : Hive) (n : Nat) (x : HalfSt) : (h.hset n x).hum = h.hum := rfl
@[simp] theorem Hive.setFlt_hum (h : Hive) (n : Nat) (x : FaultRec) : (h.setFlt n x).hum = h.hum := rfl
@[simp] theorem Hive.wr_keeperAlive (h : Hive) (a : Nat) (v : Word) : (h.wr a v).keeperAlive = h.keeperAlive := rfl
@[simp] theorem Hive.set_keeperAlive (h : Hive) (f : RF) (v : Nat) : (h.set f v).keeperAlive = h.keeperAlive := rfl
@[simp] theorem Hive.setFlag_keeperAlive (h : Hive) (f : RF) (b : Bool) : (h.setFlag f b).keeperAlive = h.keeperAlive := rfl
@[simp] theorem Hive.hwSet_keeperAlive (h : Hive) (f : RF) : (h.hwSet f).keeperAlive = h.keeperAlive := rfl
@[simp] theorem Hive.markEdge_keeperAlive (h : Hive) (a b : Nat) : (h.markEdge a b).keeperAlive = h.keeperAlive := rfl
@[simp] theorem Hive.sset_keeperAlive (h : Hive) (n : Nat) (x : StreamSt) : (h.sset n x).keeperAlive = h.keeperAlive := rfl
@[simp] theorem Hive.hset_keeperAlive (h : Hive) (n : Nat) (x : HalfSt) : (h.hset n x).keeperAlive = h.keeperAlive := rfl
@[simp] theorem Hive.setFlt_keeperAlive (h : Hive) (n : Nat) (x : FaultRec) : (h.setFlt n x).keeperAlive = h.keeperAlive := rfl
@[simp] theorem Hive.wr_queenUp (h : Hive) (a : Nat) (v : Word) : (h.wr a v).queenUp = h.queenUp := rfl
@[simp] theorem Hive.set_queenUp (h : Hive) (f : RF) (v : Nat) : (h.set f v).queenUp = h.queenUp := rfl
@[simp] theorem Hive.setFlag_queenUp (h : Hive) (f : RF) (b : Bool) : (h.setFlag f b).queenUp = h.queenUp := rfl
@[simp] theorem Hive.hwSet_queenUp (h : Hive) (f : RF) : (h.hwSet f).queenUp = h.queenUp := rfl
@[simp] theorem Hive.markEdge_queenUp (h : Hive) (a b : Nat) : (h.markEdge a b).queenUp = h.queenUp := rfl
@[simp] theorem Hive.sset_queenUp (h : Hive) (n : Nat) (x : StreamSt) : (h.sset n x).queenUp = h.queenUp := rfl
@[simp] theorem Hive.hset_queenUp (h : Hive) (n : Nat) (x : HalfSt) : (h.hset n x).queenUp = h.queenUp := rfl
@[simp] theorem Hive.setFlt_queenUp (h : Hive) (n : Nat) (x : FaultRec) : (h.setFlt n x).queenUp = h.queenUp := rfl
@[simp] theorem Hive.wr_jq (h : Hive) (a : Nat) (v : Word) : (h.wr a v).jq = h.jq := rfl
@[simp] theorem Hive.set_jq (h : Hive) (f : RF) (v : Nat) : (h.set f v).jq = h.jq := rfl
@[simp] theorem Hive.setFlag_jq (h : Hive) (f : RF) (b : Bool) : (h.setFlag f b).jq = h.jq := rfl
@[simp] theorem Hive.hwSet_jq (h : Hive) (f : RF) : (h.hwSet f).jq = h.jq := rfl
@[simp] theorem Hive.markEdge_jq (h : Hive) (a b : Nat) : (h.markEdge a b).jq = h.jq := rfl
@[simp] theorem Hive.sset_jq (h : Hive) (n : Nat) (x : StreamSt) : (h.sset n x).jq = h.jq := rfl
@[simp] theorem Hive.hset_jq (h : Hive) (n : Nat) (x : HalfSt) : (h.hset n x).jq = h.jq := rfl
@[simp] theorem Hive.setFlt_jq (h : Hive) (n : Nat) (x : FaultRec) : (h.setFlt n x).jq = h.jq := rfl
@[simp] theorem Hive.wr_jring (h : Hive) (a : Nat) (v : Word) : (h.wr a v).jring = h.jring := rfl
@[simp] theorem Hive.set_jring (h : Hive) (f : RF) (v : Nat) : (h.set f v).jring = h.jring := rfl
@[simp] theorem Hive.setFlag_jring (h : Hive) (f : RF) (b : Bool) : (h.setFlag f b).jring = h.jring := rfl
@[simp] theorem Hive.hwSet_jring (h : Hive) (f : RF) : (h.hwSet f).jring = h.jring := rfl
@[simp] theorem Hive.markEdge_jring (h : Hive) (a b : Nat) : (h.markEdge a b).jring = h.jring := rfl
@[simp] theorem Hive.sset_jring (h : Hive) (n : Nat) (x : StreamSt) : (h.sset n x).jring = h.jring := rfl
@[simp] theorem Hive.hset_jring (h : Hive) (n : Nat) (x : HalfSt) : (h.hset n x).jring = h.jring := rfl
@[simp] theorem Hive.setFlt_jring (h : Hive) (n : Nat) (x : FaultRec) : (h.setFlt n x).jring = h.jring := rfl
@[simp] theorem Hive.wr_jseq (h : Hive) (a : Nat) (v : Word) : (h.wr a v).jseq = h.jseq := rfl
@[simp] theorem Hive.set_jseq (h : Hive) (f : RF) (v : Nat) : (h.set f v).jseq = h.jseq := rfl
@[simp] theorem Hive.setFlag_jseq (h : Hive) (f : RF) (b : Bool) : (h.setFlag f b).jseq = h.jseq := rfl
@[simp] theorem Hive.hwSet_jseq (h : Hive) (f : RF) : (h.hwSet f).jseq = h.jseq := rfl
@[simp] theorem Hive.markEdge_jseq (h : Hive) (a b : Nat) : (h.markEdge a b).jseq = h.jseq := rfl
@[simp] theorem Hive.sset_jseq (h : Hive) (n : Nat) (x : StreamSt) : (h.sset n x).jseq = h.jseq := rfl
@[simp] theorem Hive.hset_jseq (h : Hive) (n : Nat) (x : HalfSt) : (h.hset n x).jseq = h.jseq := rfl
@[simp] theorem Hive.setFlt_jseq (h : Hive) (n : Nat) (x : FaultRec) : (h.setFlt n x).jseq = h.jseq := rfl
@[simp] theorem Hive.wr_jold (h : Hive) (a : Nat) (v : Word) : (h.wr a v).jold = h.jold := rfl
@[simp] theorem Hive.set_jold (h : Hive) (f : RF) (v : Nat) : (h.set f v).jold = h.jold := rfl
@[simp] theorem Hive.setFlag_jold (h : Hive) (f : RF) (b : Bool) : (h.setFlag f b).jold = h.jold := rfl
@[simp] theorem Hive.hwSet_jold (h : Hive) (f : RF) : (h.hwSet f).jold = h.jold := rfl
@[simp] theorem Hive.markEdge_jold (h : Hive) (a b : Nat) : (h.markEdge a b).jold = h.jold := rfl
@[simp] theorem Hive.sset_jold (h : Hive) (n : Nat) (x : StreamSt) : (h.sset n x).jold = h.jold := rfl
@[simp] theorem Hive.hset_jold (h : Hive) (n : Nat) (x : HalfSt) : (h.hset n x).jold = h.jold := rfl
@[simp] theorem Hive.setFlt_jold (h : Hive) (n : Nat) (x : FaultRec) : (h.setFlt n x).jold = h.jold := rfl
@[simp] theorem Hive.wr_jhead (h : Hive) (a : Nat) (v : Word) : (h.wr a v).jhead = h.jhead := rfl
@[simp] theorem Hive.set_jhead (h : Hive) (f : RF) (v : Nat) : (h.set f v).jhead = h.jhead := rfl
@[simp] theorem Hive.setFlag_jhead (h : Hive) (f : RF) (b : Bool) : (h.setFlag f b).jhead = h.jhead := rfl
@[simp] theorem Hive.hwSet_jhead (h : Hive) (f : RF) : (h.hwSet f).jhead = h.jhead := rfl
@[simp] theorem Hive.markEdge_jhead (h : Hive) (a b : Nat) : (h.markEdge a b).jhead = h.jhead := rfl
@[simp] theorem Hive.sset_jhead (h : Hive) (n : Nat) (x : StreamSt) : (h.sset n x).jhead = h.jhead := rfl
@[simp] theorem Hive.hset_jhead (h : Hive) (n : Nat) (x : HalfSt) : (h.hset n x).jhead = h.jhead := rfl
@[simp] theorem Hive.setFlt_jhead (h : Hive) (n : Nat) (x : FaultRec) : (h.setFlt n x).jhead = h.jhead := rfl
@[simp] theorem Hive.wr_jSince (h : Hive) (a : Nat) (v : Word) : (h.wr a v).jSince = h.jSince := rfl
@[simp] theorem Hive.set_jSince (h : Hive) (f : RF) (v : Nat) : (h.set f v).jSince = h.jSince := rfl
@[simp] theorem Hive.setFlag_jSince (h : Hive) (f : RF) (b : Bool) : (h.setFlag f b).jSince = h.jSince := rfl
@[simp] theorem Hive.hwSet_jSince (h : Hive) (f : RF) : (h.hwSet f).jSince = h.jSince := rfl
@[simp] theorem Hive.markEdge_jSince (h : Hive) (a b : Nat) : (h.markEdge a b).jSince = h.jSince := rfl
@[simp] theorem Hive.sset_jSince (h : Hive) (n : Nat) (x : StreamSt) : (h.sset n x).jSince = h.jSince := rfl
@[simp] theorem Hive.hset_jSince (h : Hive) (n : Nat) (x : HalfSt) : (h.hset n x).jSince = h.jSince := rfl
@[simp] theorem Hive.setFlt_jSince (h : Hive) (n : Nat) (x : FaultRec) : (h.setFlt n x).jSince = h.jSince := rfl
@[simp] theorem Hive.wr_sched (h : Hive) (a : Nat) (v : Word) : (h.wr a v).sched = h.sched := rfl
@[simp] theorem Hive.set_sched (h : Hive) (f : RF) (v : Nat) : (h.set f v).sched = h.sched := rfl
@[simp] theorem Hive.setFlag_sched (h : Hive) (f : RF) (b : Bool) : (h.setFlag f b).sched = h.sched := rfl
@[simp] theorem Hive.hwSet_sched (h : Hive) (f : RF) : (h.hwSet f).sched = h.sched := rfl
@[simp] theorem Hive.markEdge_sched (h : Hive) (a b : Nat) : (h.markEdge a b).sched = h.sched := rfl
@[simp] theorem Hive.sset_sched (h : Hive) (n : Nat) (x : StreamSt) : (h.sset n x).sched = h.sched := rfl
@[simp] theorem Hive.hset_sched (h : Hive) (n : Nat) (x : HalfSt) : (h.hset n x).sched = h.sched := rfl
@[simp] theorem Hive.setFlt_sched (h : Hive) (n : Nat) (x : FaultRec) : (h.setFlt n x).sched = h.sched := rfl
@[simp] theorem Hive.wr_streams (h : Hive) (a : Nat) (v : Word) : (h.wr a v).streams = h.streams := rfl
@[simp] theorem Hive.set_streams (h : Hive) (f : RF) (v : Nat) : (h.set f v).streams = h.streams := rfl
@[simp] theorem Hive.setFlag_streams (h : Hive) (f : RF) (b : Bool) : (h.setFlag f b).streams = h.streams := rfl
@[simp] theorem Hive.hwSet_streams (h : Hive) (f : RF) : (h.hwSet f).streams = h.streams := rfl
@[simp] theorem Hive.markEdge_streams (h : Hive) (a b : Nat) : (h.markEdge a b).streams = h.streams := rfl
@[simp] theorem Hive.sset_streams (h : Hive) (n : Nat) (x : StreamSt) : (h.sset n x).streams = h.streams := rfl
@[simp] theorem Hive.hset_streams (h : Hive) (n : Nat) (x : HalfSt) : (h.hset n x).streams = h.streams := rfl
@[simp] theorem Hive.setFlt_streams (h : Hive) (n : Nat) (x : FaultRec) : (h.setFlt n x).streams = h.streams := rfl
@[simp] theorem Hive.wr_strm (h : Hive) (a : Nat) (v : Word) : (h.wr a v).strm = h.strm := rfl
@[simp] theorem Hive.set_strm (h : Hive) (f : RF) (v : Nat) : (h.set f v).strm = h.strm := rfl
@[simp] theorem Hive.setFlag_strm (h : Hive) (f : RF) (b : Bool) : (h.setFlag f b).strm = h.strm := rfl
@[simp] theorem Hive.hwSet_strm (h : Hive) (f : RF) : (h.hwSet f).strm = h.strm := rfl
@[simp] theorem Hive.markEdge_strm (h : Hive) (a b : Nat) : (h.markEdge a b).strm = h.strm := rfl
@[simp] theorem Hive.hset_strm (h : Hive) (n : Nat) (x : HalfSt) : (h.hset n x).strm = h.strm := rfl
@[simp] theorem Hive.setFlt_strm (h : Hive) (n : Nat) (x : FaultRec) : (h.setFlt n x).strm = h.strm := rfl
@[simp] theorem Hive.wr_inNew (h : Hive) (a : Nat) (v : Word) : (h.wr a v).inNew = h.inNew := rfl
@[simp] theorem Hive.set_inNew (h : Hive) (f : RF) (v : Nat) : (h.set f v).inNew = h.inNew := rfl
@[simp] theorem Hive.setFlag_inNew (h : Hive) (f : RF) (b : Bool) : (h.setFlag f b).inNew = h.inNew := rfl
@[simp] theorem Hive.hwSet_inNew (h : Hive) (f : RF) : (h.hwSet f).inNew = h.inNew := rfl
@[simp] theorem Hive.markEdge_inNew (h : Hive) (a b : Nat) : (h.markEdge a b).inNew = h.inNew := rfl
@[simp] theorem Hive.sset_inNew (h : Hive) (n : Nat) (x : StreamSt) : (h.sset n x).inNew = h.inNew := rfl
@[simp] theorem Hive.hset_inNew (h : Hive) (n : Nat) (x : HalfSt) : (h.hset n x).inNew = h.inNew := rfl
@[simp] theorem Hive.setFlt_inNew (h : Hive) (n : Nat) (x : FaultRec) : (h.setFlt n x).inNew = h.inNew := rfl
@[simp] theorem Hive.wr_half (h : Hive) (a : Nat) (v : Word) : (h.wr a v).half = h.half := rfl
@[simp] theorem Hive.set_half (h : Hive) (f : RF) (v : Nat) : (h.set f v).half = h.half := rfl
@[simp] theorem Hive.setFlag_half (h : Hive) (f : RF) (b : Bool) : (h.setFlag f b).half = h.half := rfl
@[simp] theorem Hive.hwSet_half (h : Hive) (f : RF) : (h.hwSet f).half = h.half := rfl
@[simp] theorem Hive.markEdge_half (h : Hive) (a b : Nat) : (h.markEdge a b).half = h.half := rfl
@[simp] theorem Hive.sset_half (h : Hive) (n : Nat) (x : StreamSt) : (h.sset n x).half = h.half := rfl
@[simp] theorem Hive.setFlt_half (h : Hive) (n : Nat) (x : FaultRec) : (h.setFlt n x).half = h.half := rfl
@[simp] theorem Hive.wr_grp (h : Hive) (a : Nat) (v : Word) : (h.wr a v).grp = h.grp := rfl
@[simp] theorem Hive.set_grp (h : Hive) (f : RF) (v : Nat) : (h.set f v).grp = h.grp := rfl
@[simp] theorem Hive.setFlag_grp (h : Hive) (f : RF) (b : Bool) : (h.setFlag f b).grp = h.grp := rfl
@[simp] theorem Hive.hwSet_grp (h : Hive) (f : RF) : (h.hwSet f).grp = h.grp := rfl
@[simp] theorem Hive.markEdge_grp (h : Hive) (a b : Nat) : (h.markEdge a b).grp = h.grp := rfl
@[simp] theorem Hive.sset_grp (h : Hive) (n : Nat) (x : StreamSt) : (h.sset n x).grp = h.grp := rfl
@[simp] theorem Hive.hset_grp (h : Hive) (n : Nat) (x : HalfSt) : (h.hset n x).grp = h.grp := rfl
@[simp] theorem Hive.setFlt_grp (h : Hive) (n : Nat) (x : FaultRec) : (h.setFlt n x).grp = h.grp := rfl
@[simp] theorem Hive.wr_sliceAt (h : Hive) (a : Nat) (v : Word) : (h.wr a v).sliceAt = h.sliceAt := rfl
@[simp] theorem Hive.set_sliceAt (h : Hive) (f : RF) (v : Nat) : (h.set f v).sliceAt = h.sliceAt := rfl
@[simp] theorem Hive.setFlag_sliceAt (h : Hive) (f : RF) (b : Bool) : (h.setFlag f b).sliceAt = h.sliceAt := rfl
@[simp] theorem Hive.hwSet_sliceAt (h : Hive) (f : RF) : (h.hwSet f).sliceAt = h.sliceAt := rfl
@[simp] theorem Hive.markEdge_sliceAt (h : Hive) (a b : Nat) : (h.markEdge a b).sliceAt = h.sliceAt := rfl
@[simp] theorem Hive.sset_sliceAt (h : Hive) (n : Nat) (x : StreamSt) : (h.sset n x).sliceAt = h.sliceAt := rfl
@[simp] theorem Hive.hset_sliceAt (h : Hive) (n : Nat) (x : HalfSt) : (h.hset n x).sliceAt = h.sliceAt := rfl
@[simp] theorem Hive.setFlt_sliceAt (h : Hive) (n : Nat) (x : FaultRec) : (h.setFlt n x).sliceAt = h.sliceAt := rfl
@[simp] theorem Hive.wr_sieve (h : Hive) (a : Nat) (v : Word) : (h.wr a v).sieve = h.sieve := rfl
@[simp] theorem Hive.set_sieve (h : Hive) (f : RF) (v : Nat) : (h.set f v).sieve = h.sieve := rfl
@[simp] theorem Hive.setFlag_sieve (h : Hive) (f : RF) (b : Bool) : (h.setFlag f b).sieve = h.sieve := rfl
@[simp] theorem Hive.hwSet_sieve (h : Hive) (f : RF) : (h.hwSet f).sieve = h.sieve := rfl
@[simp] theorem Hive.markEdge_sieve (h : Hive) (a b : Nat) : (h.markEdge a b).sieve = h.sieve := rfl
@[simp] theorem Hive.sset_sieve (h : Hive) (n : Nat) (x : StreamSt) : (h.sset n x).sieve = h.sieve := rfl
@[simp] theorem Hive.hset_sieve (h : Hive) (n : Nat) (x : HalfSt) : (h.hset n x).sieve = h.sieve := rfl
@[simp] theorem Hive.setFlt_sieve (h : Hive) (n : Nat) (x : FaultRec) : (h.setFlt n x).sieve = h.sieve := rfl
@[simp] theorem Hive.wr_subNew (h : Hive) (a : Nat) (v : Word) : (h.wr a v).subNew = h.subNew := rfl
@[simp] theorem Hive.set_subNew (h : Hive) (f : RF) (v : Nat) : (h.set f v).subNew = h.subNew := rfl
@[simp] theorem Hive.setFlag_subNew (h : Hive) (f : RF) (b : Bool) : (h.setFlag f b).subNew = h.subNew := rfl
@[simp] theorem Hive.hwSet_subNew (h : Hive) (f : RF) : (h.hwSet f).subNew = h.subNew := rfl
@[simp] theorem Hive.markEdge_subNew (h : Hive) (a b : Nat) : (h.markEdge a b).subNew = h.subNew := rfl
@[simp] theorem Hive.sset_subNew (h : Hive) (n : Nat) (x : StreamSt) : (h.sset n x).subNew = h.subNew := rfl
@[simp] theorem Hive.hset_subNew (h : Hive) (n : Nat) (x : HalfSt) : (h.hset n x).subNew = h.subNew := rfl
@[simp] theorem Hive.setFlt_subNew (h : Hive) (n : Nat) (x : FaultRec) : (h.setFlt n x).subNew = h.subNew := rfl
@[simp] theorem Hive.wr_lineBase (h : Hive) (a : Nat) (v : Word) : (h.wr a v).lineBase = h.lineBase := rfl
@[simp] theorem Hive.set_lineBase (h : Hive) (f : RF) (v : Nat) : (h.set f v).lineBase = h.lineBase := rfl
@[simp] theorem Hive.setFlag_lineBase (h : Hive) (f : RF) (b : Bool) : (h.setFlag f b).lineBase = h.lineBase := rfl
@[simp] theorem Hive.hwSet_lineBase (h : Hive) (f : RF) : (h.hwSet f).lineBase = h.lineBase := rfl
@[simp] theorem Hive.markEdge_lineBase (h : Hive) (a b : Nat) : (h.markEdge a b).lineBase = h.lineBase := rfl
@[simp] theorem Hive.sset_lineBase (h : Hive) (n : Nat) (x : StreamSt) : (h.sset n x).lineBase = h.lineBase := rfl
@[simp] theorem Hive.hset_lineBase (h : Hive) (n : Nat) (x : HalfSt) : (h.hset n x).lineBase = h.lineBase := rfl
@[simp] theorem Hive.setFlt_lineBase (h : Hive) (n : Nat) (x : FaultRec) : (h.setFlt n x).lineBase = h.lineBase := rfl
@[simp] theorem Hive.wr_running (h : Hive) (a : Nat) (v : Word) : (h.wr a v).running = h.running := rfl
@[simp] theorem Hive.set_running (h : Hive) (f : RF) (v : Nat) : (h.set f v).running = h.running := rfl
@[simp] theorem Hive.setFlag_running (h : Hive) (f : RF) (b : Bool) : (h.setFlag f b).running = h.running := rfl
@[simp] theorem Hive.hwSet_running (h : Hive) (f : RF) : (h.hwSet f).running = h.running := rfl
@[simp] theorem Hive.markEdge_running (h : Hive) (a b : Nat) : (h.markEdge a b).running = h.running := rfl
@[simp] theorem Hive.sset_running (h : Hive) (n : Nat) (x : StreamSt) : (h.sset n x).running = h.running := rfl
@[simp] theorem Hive.hset_running (h : Hive) (n : Nat) (x : HalfSt) : (h.hset n x).running = h.running := rfl
@[simp] theorem Hive.setFlt_running (h : Hive) (n : Nat) (x : FaultRec) : (h.setFlt n x).running = h.running := rfl
@[simp] theorem Hive.wr_cqUnread (h : Hive) (a : Nat) (v : Word) : (h.wr a v).cqUnread = h.cqUnread := rfl
@[simp] theorem Hive.set_cqUnread (h : Hive) (f : RF) (v : Nat) : (h.set f v).cqUnread = h.cqUnread := rfl
@[simp] theorem Hive.setFlag_cqUnread (h : Hive) (f : RF) (b : Bool) : (h.setFlag f b).cqUnread = h.cqUnread := rfl
@[simp] theorem Hive.hwSet_cqUnread (h : Hive) (f : RF) : (h.hwSet f).cqUnread = h.cqUnread := rfl
@[simp] theorem Hive.markEdge_cqUnread (h : Hive) (a b : Nat) : (h.markEdge a b).cqUnread = h.cqUnread := rfl
@[simp] theorem Hive.sset_cqUnread (h : Hive) (n : Nat) (x : StreamSt) : (h.sset n x).cqUnread = h.cqUnread := rfl
@[simp] theorem Hive.hset_cqUnread (h : Hive) (n : Nat) (x : HalfSt) : (h.hset n x).cqUnread = h.cqUnread := rfl
@[simp] theorem Hive.setFlt_cqUnread (h : Hive) (n : Nat) (x : FaultRec) : (h.setFlt n x).cqUnread = h.cqUnread := rfl
@[simp] theorem Hive.wr_cqCount (h : Hive) (a : Nat) (v : Word) : (h.wr a v).cqCount = h.cqCount := rfl
@[simp] theorem Hive.set_cqCount (h : Hive) (f : RF) (v : Nat) : (h.set f v).cqCount = h.cqCount := rfl
@[simp] theorem Hive.setFlag_cqCount (h : Hive) (f : RF) (b : Bool) : (h.setFlag f b).cqCount = h.cqCount := rfl
@[simp] theorem Hive.hwSet_cqCount (h : Hive) (f : RF) : (h.hwSet f).cqCount = h.cqCount := rfl
@[simp] theorem Hive.markEdge_cqCount (h : Hive) (a b : Nat) : (h.markEdge a b).cqCount = h.cqCount := rfl
@[simp] theorem Hive.sset_cqCount (h : Hive) (n : Nat) (x : StreamSt) : (h.sset n x).cqCount = h.cqCount := rfl
@[simp] theorem Hive.hset_cqCount (h : Hive) (n : Nat) (x : HalfSt) : (h.hset n x).cqCount = h.cqCount := rfl
@[simp] theorem Hive.setFlt_cqCount (h : Hive) (n : Nat) (x : FaultRec) : (h.setFlt n x).cqCount = h.cqCount := rfl
@[simp] theorem Hive.wr_mbox (h : Hive) (a : Nat) (v : Word) : (h.wr a v).mbox = h.mbox := rfl
@[simp] theorem Hive.set_mbox (h : Hive) (f : RF) (v : Nat) : (h.set f v).mbox = h.mbox := rfl
@[simp] theorem Hive.setFlag_mbox (h : Hive) (f : RF) (b : Bool) : (h.setFlag f b).mbox = h.mbox := rfl
@[simp] theorem Hive.hwSet_mbox (h : Hive) (f : RF) : (h.hwSet f).mbox = h.mbox := rfl
@[simp] theorem Hive.markEdge_mbox (h : Hive) (a b : Nat) : (h.markEdge a b).mbox = h.mbox := rfl
@[simp] theorem Hive.sset_mbox (h : Hive) (n : Nat) (x : StreamSt) : (h.sset n x).mbox = h.mbox := rfl
@[simp] theorem Hive.hset_mbox (h : Hive) (n : Nat) (x : HalfSt) : (h.hset n x).mbox = h.mbox := rfl
@[simp] theorem Hive.setFlt_mbox (h : Hive) (n : Nat) (x : FaultRec) : (h.setFlt n x).mbox = h.mbox := rfl
@[simp] theorem Hive.wr_tx (h : Hive) (a : Nat) (v : Word) : (h.wr a v).tx = h.tx := rfl
@[simp] theorem Hive.set_tx (h : Hive) (f : RF) (v : Nat) : (h.set f v).tx = h.tx := rfl
@[simp] theorem Hive.setFlag_tx (h : Hive) (f : RF) (b : Bool) : (h.setFlag f b).tx = h.tx := rfl
@[simp] theorem Hive.hwSet_tx (h : Hive) (f : RF) : (h.hwSet f).tx = h.tx := rfl
@[simp] theorem Hive.markEdge_tx (h : Hive) (a b : Nat) : (h.markEdge a b).tx = h.tx := rfl
@[simp] theorem Hive.sset_tx (h : Hive) (n : Nat) (x : StreamSt) : (h.sset n x).tx = h.tx := rfl
@[simp] theorem Hive.hset_tx (h : Hive) (n : Nat) (x : HalfSt) : (h.hset n x).tx = h.tx := rfl
@[simp] theorem Hive.setFlt_tx (h : Hive) (n : Nat) (x : FaultRec) : (h.setFlt n x).tx = h.tx := rfl
@[simp] theorem Hive.wr_msix (h : Hive) (a : Nat) (v : Word) : (h.wr a v).msix = h.msix := rfl
@[simp] theorem Hive.set_msix (h : Hive) (f : RF) (v : Nat) : (h.set f v).msix = h.msix := rfl
@[simp] theorem Hive.setFlag_msix (h : Hive) (f : RF) (b : Bool) : (h.setFlag f b).msix = h.msix := rfl
@[simp] theorem Hive.hwSet_msix (h : Hive) (f : RF) : (h.hwSet f).msix = h.msix := rfl
@[simp] theorem Hive.markEdge_msix (h : Hive) (a b : Nat) : (h.markEdge a b).msix = h.msix := rfl
@[simp] theorem Hive.sset_msix (h : Hive) (n : Nat) (x : StreamSt) : (h.sset n x).msix = h.msix := rfl
@[simp] theorem Hive.hset_msix (h : Hive) (n : Nat) (x : HalfSt) : (h.hset n x).msix = h.msix := rfl
@[simp] theorem Hive.setFlt_msix (h : Hive) (n : Nat) (x : FaultRec) : (h.setFlt n x).msix = h.msix := rfl
@[simp] theorem Hive.wr_fnMask (h : Hive) (a : Nat) (v : Word) : (h.wr a v).fnMask = h.fnMask := rfl
@[simp] theorem Hive.set_fnMask (h : Hive) (f : RF) (v : Nat) : (h.set f v).fnMask = h.fnMask := rfl
@[simp] theorem Hive.setFlag_fnMask (h : Hive) (f : RF) (b : Bool) : (h.setFlag f b).fnMask = h.fnMask := rfl
@[simp] theorem Hive.hwSet_fnMask (h : Hive) (f : RF) : (h.hwSet f).fnMask = h.fnMask := rfl
@[simp] theorem Hive.markEdge_fnMask (h : Hive) (a b : Nat) : (h.markEdge a b).fnMask = h.fnMask := rfl
@[simp] theorem Hive.sset_fnMask (h : Hive) (n : Nat) (x : StreamSt) : (h.sset n x).fnMask = h.fnMask := rfl
@[simp] theorem Hive.hset_fnMask (h : Hive) (n : Nat) (x : HalfSt) : (h.hset n x).fnMask = h.fnMask := rfl
@[simp] theorem Hive.setFlt_fnMask (h : Hive) (n : Nat) (x : FaultRec) : (h.setFlt n x).fnMask = h.fnMask := rfl
@[simp] theorem Hive.wr_pcieUp (h : Hive) (a : Nat) (v : Word) : (h.wr a v).pcieUp = h.pcieUp := rfl
@[simp] theorem Hive.set_pcieUp (h : Hive) (f : RF) (v : Nat) : (h.set f v).pcieUp = h.pcieUp := rfl
@[simp] theorem Hive.setFlag_pcieUp (h : Hive) (f : RF) (b : Bool) : (h.setFlag f b).pcieUp = h.pcieUp := rfl
@[simp] theorem Hive.hwSet_pcieUp (h : Hive) (f : RF) : (h.hwSet f).pcieUp = h.pcieUp := rfl
@[simp] theorem Hive.markEdge_pcieUp (h : Hive) (a b : Nat) : (h.markEdge a b).pcieUp = h.pcieUp := rfl
@[simp] theorem Hive.sset_pcieUp (h : Hive) (n : Nat) (x : StreamSt) : (h.sset n x).pcieUp = h.pcieUp := rfl
@[simp] theorem Hive.hset_pcieUp (h : Hive) (n : Nat) (x : HalfSt) : (h.hset n x).pcieUp = h.pcieUp := rfl
@[simp] theorem Hive.setFlt_pcieUp (h : Hive) (n : Nat) (x : FaultRec) : (h.setFlt n x).pcieUp = h.pcieUp := rfl
@[simp] theorem Hive.wr_pcieWidth (h : Hive) (a : Nat) (v : Word) : (h.wr a v).pcieWidth = h.pcieWidth := rfl
@[simp] theorem Hive.set_pcieWidth (h : Hive) (f : RF) (v : Nat) : (h.set f v).pcieWidth = h.pcieWidth := rfl
@[simp] theorem Hive.setFlag_pcieWidth (h : Hive) (f : RF) (b : Bool) : (h.setFlag f b).pcieWidth = h.pcieWidth := rfl
@[simp] theorem Hive.hwSet_pcieWidth (h : Hive) (f : RF) : (h.hwSet f).pcieWidth = h.pcieWidth := rfl
@[simp] theorem Hive.markEdge_pcieWidth (h : Hive) (a b : Nat) : (h.markEdge a b).pcieWidth = h.pcieWidth := rfl
@[simp] theorem Hive.sset_pcieWidth (h : Hive) (n : Nat) (x : StreamSt) : (h.sset n x).pcieWidth = h.pcieWidth := rfl
@[simp] theorem Hive.hset_pcieWidth (h : Hive) (n : Nat) (x : HalfSt) : (h.hset n x).pcieWidth = h.pcieWidth := rfl
@[simp] theorem Hive.setFlt_pcieWidth (h : Hive) (n : Nat) (x : FaultRec) : (h.setFlt n x).pcieWidth = h.pcieWidth := rfl
@[simp] theorem Hive.wr_pcieRate (h : Hive) (a : Nat) (v : Word) : (h.wr a v).pcieRate = h.pcieRate := rfl
@[simp] theorem Hive.set_pcieRate (h : Hive) (f : RF) (v : Nat) : (h.set f v).pcieRate = h.pcieRate := rfl
@[simp] theorem Hive.setFlag_pcieRate (h : Hive) (f : RF) (b : Bool) : (h.setFlag f b).pcieRate = h.pcieRate := rfl
@[simp] theorem Hive.hwSet_pcieRate (h : Hive) (f : RF) : (h.hwSet f).pcieRate = h.pcieRate := rfl
@[simp] theorem Hive.markEdge_pcieRate (h : Hive) (a b : Nat) : (h.markEdge a b).pcieRate = h.pcieRate := rfl
@[simp] theorem Hive.sset_pcieRate (h : Hive) (n : Nat) (x : StreamSt) : (h.sset n x).pcieRate = h.pcieRate := rfl
@[simp] theorem Hive.hset_pcieRate (h : Hive) (n : Nat) (x : HalfSt) : (h.hset n x).pcieRate = h.pcieRate := rfl
@[simp] theorem Hive.setFlt_pcieRate (h : Hive) (n : Nat) (x : FaultRec) : (h.setFlt n x).pcieRate = h.pcieRate := rfl
@[simp] theorem Hive.wr_alFaults (h : Hive) (a : Nat) (v : Word) : (h.wr a v).alFaults = h.alFaults := rfl
@[simp] theorem Hive.set_alFaults (h : Hive) (f : RF) (v : Nat) : (h.set f v).alFaults = h.alFaults := rfl
@[simp] theorem Hive.setFlag_alFaults (h : Hive) (f : RF) (b : Bool) : (h.setFlag f b).alFaults = h.alFaults := rfl
@[simp] theorem Hive.hwSet_alFaults (h : Hive) (f : RF) : (h.hwSet f).alFaults = h.alFaults := rfl
@[simp] theorem Hive.markEdge_alFaults (h : Hive) (a b : Nat) : (h.markEdge a b).alFaults = h.alFaults := rfl
@[simp] theorem Hive.sset_alFaults (h : Hive) (n : Nat) (x : StreamSt) : (h.sset n x).alFaults = h.alFaults := rfl
@[simp] theorem Hive.hset_alFaults (h : Hive) (n : Nat) (x : HalfSt) : (h.hset n x).alFaults = h.alFaults := rfl
@[simp] theorem Hive.setFlt_alFaults (h : Hive) (n : Nat) (x : FaultRec) : (h.setFlt n x).alFaults = h.alFaults := rfl
@[simp] theorem Hive.wr_alBak (h : Hive) (a : Nat) (v : Word) : (h.wr a v).alBak = h.alBak := rfl
@[simp] theorem Hive.set_alBak (h : Hive) (f : RF) (v : Nat) : (h.set f v).alBak = h.alBak := rfl
@[simp] theorem Hive.setFlag_alBak (h : Hive) (f : RF) (b : Bool) : (h.setFlag f b).alBak = h.alBak := rfl
@[simp] theorem Hive.hwSet_alBak (h : Hive) (f : RF) : (h.hwSet f).alBak = h.alBak := rfl
@[simp] theorem Hive.markEdge_alBak (h : Hive) (a b : Nat) : (h.markEdge a b).alBak = h.alBak := rfl
@[simp] theorem Hive.sset_alBak (h : Hive) (n : Nat) (x : StreamSt) : (h.sset n x).alBak = h.alBak := rfl
@[simp] theorem Hive.hset_alBak (h : Hive) (n : Nat) (x : HalfSt) : (h.hset n x).alBak = h.alBak := rfl
@[simp] theorem Hive.setFlt_alBak (h : Hive) (n : Nat) (x : FaultRec) : (h.setFlt n x).alBak = h.alBak := rfl
@[simp] theorem Hive.wr_alWake (h : Hive) (a : Nat) (v : Word) : (h.wr a v).alWake = h.alWake := rfl
@[simp] theorem Hive.set_alWake (h : Hive) (f : RF) (v : Nat) : (h.set f v).alWake = h.alWake := rfl
@[simp] theorem Hive.setFlag_alWake (h : Hive) (f : RF) (b : Bool) : (h.setFlag f b).alWake = h.alWake := rfl
@[simp] theorem Hive.hwSet_alWake (h : Hive) (f : RF) : (h.hwSet f).alWake = h.alWake := rfl
@[simp] theorem Hive.markEdge_alWake (h : Hive) (a b : Nat) : (h.markEdge a b).alWake = h.alWake := rfl
@[simp] theorem Hive.sset_alWake (h : Hive) (n : Nat) (x : StreamSt) : (h.sset n x).alWake = h.alWake := rfl
@[simp] theorem Hive.hset_alWake (h : Hive) (n : Nat) (x : HalfSt) : (h.hset n x).alWake = h.alWake := rfl
@[simp] theorem Hive.setFlt_alWake (h : Hive) (n : Nat) (x : FaultRec) : (h.setFlt n x).alWake = h.alWake := rfl
@[simp] theorem Hive.wr_alQuote (h : Hive) (a : Nat) (v : Word) : (h.wr a v).alQuote = h.alQuote := rfl
@[simp] theorem Hive.set_alQuote (h : Hive) (f : RF) (v : Nat) : (h.set f v).alQuote = h.alQuote := rfl
@[simp] theorem Hive.setFlag_alQuote (h : Hive) (f : RF) (b : Bool) : (h.setFlag f b).alQuote = h.alQuote := rfl
@[simp] theorem Hive.hwSet_alQuote (h : Hive) (f : RF) : (h.hwSet f).alQuote = h.alQuote := rfl
@[simp] theorem Hive.markEdge_alQuote (h : Hive) (a b : Nat) : (h.markEdge a b).alQuote = h.alQuote := rfl
@[simp] theorem Hive.sset_alQuote (h : Hive) (n : Nat) (x : StreamSt) : (h.sset n x).alQuote = h.alQuote := rfl
@[simp] theorem Hive.hset_alQuote (h : Hive) (n : Nat) (x : HalfSt) : (h.hset n x).alQuote = h.alQuote := rfl
@[simp] theorem Hive.setFlt_alQuote (h : Hive) (n : Nat) (x : FaultRec) : (h.setFlt n x).alQuote = h.alQuote := rfl
@[simp] theorem Hive.wr_alMb (h : Hive) (a : Nat) (v : Word) : (h.wr a v).alMb = h.alMb := rfl
@[simp] theorem Hive.set_alMb (h : Hive) (f : RF) (v : Nat) : (h.set f v).alMb = h.alMb := rfl
@[simp] theorem Hive.setFlag_alMb (h : Hive) (f : RF) (b : Bool) : (h.setFlag f b).alMb = h.alMb := rfl
@[simp] theorem Hive.hwSet_alMb (h : Hive) (f : RF) : (h.hwSet f).alMb = h.alMb := rfl
@[simp] theorem Hive.markEdge_alMb (h : Hive) (a b : Nat) : (h.markEdge a b).alMb = h.alMb := rfl
@[simp] theorem Hive.sset_alMb (h : Hive) (n : Nat) (x : StreamSt) : (h.sset n x).alMb = h.alMb := rfl
@[simp] theorem Hive.hset_alMb (h : Hive) (n : Nat) (x : HalfSt) : (h.hset n x).alMb = h.alMb := rfl
@[simp] theorem Hive.setFlt_alMb (h : Hive) (n : Nat) (x : FaultRec) : (h.setFlt n x).alMb = h.alMb := rfl
@[simp] theorem Hive.wr_wakeReq (h : Hive) (a : Nat) (v : Word) : (h.wr a v).wakeReq = h.wakeReq := rfl
@[simp] theorem Hive.set_wakeReq (h : Hive) (f : RF) (v : Nat) : (h.set f v).wakeReq = h.wakeReq := rfl
@[simp] theorem Hive.setFlag_wakeReq (h : Hive) (f : RF) (b : Bool) : (h.setFlag f b).wakeReq = h.wakeReq := rfl
@[simp] theorem Hive.hwSet_wakeReq (h : Hive) (f : RF) : (h.hwSet f).wakeReq = h.wakeReq := rfl
@[simp] theorem Hive.markEdge_wakeReq (h : Hive) (a b : Nat) : (h.markEdge a b).wakeReq = h.wakeReq := rfl
@[simp] theorem Hive.sset_wakeReq (h : Hive) (n : Nat) (x : StreamSt) : (h.sset n x).wakeReq = h.wakeReq := rfl
@[simp] theorem Hive.hset_wakeReq (h : Hive) (n : Nat) (x : HalfSt) : (h.hset n x).wakeReq = h.wakeReq := rfl
@[simp] theorem Hive.setFlt_wakeReq (h : Hive) (n : Nat) (x : FaultRec) : (h.setFlt n x).wakeReq = h.wakeReq := rfl
@[simp] theorem Hive.wr_links (h : Hive) (a : Nat) (v : Word) : (h.wr a v).links = h.links := rfl
@[simp] theorem Hive.set_links (h : Hive) (f : RF) (v : Nat) : (h.set f v).links = h.links := rfl
@[simp] theorem Hive.setFlag_links (h : Hive) (f : RF) (b : Bool) : (h.setFlag f b).links = h.links := rfl
@[simp] theorem Hive.hwSet_links (h : Hive) (f : RF) : (h.hwSet f).links = h.links := rfl
@[simp] theorem Hive.markEdge_links (h : Hive) (a b : Nat) : (h.markEdge a b).links = h.links := rfl
@[simp] theorem Hive.sset_links (h : Hive) (n : Nat) (x : StreamSt) : (h.sset n x).links = h.links := rfl
@[simp] theorem Hive.hset_links (h : Hive) (n : Nat) (x : HalfSt) : (h.hset n x).links = h.links := rfl
@[simp] theorem Hive.setFlt_links (h : Hive) (n : Nat) (x : FaultRec) : (h.setFlt n x).links = h.links := rfl
@[simp] theorem Hive.wr_treeDown (h : Hive) (a : Nat) (v : Word) : (h.wr a v).treeDown = h.treeDown := rfl
@[simp] theorem Hive.set_treeDown (h : Hive) (f : RF) (v : Nat) : (h.set f v).treeDown = h.treeDown := rfl
@[simp] theorem Hive.setFlag_treeDown (h : Hive) (f : RF) (b : Bool) : (h.setFlag f b).treeDown = h.treeDown := rfl
@[simp] theorem Hive.hwSet_treeDown (h : Hive) (f : RF) : (h.hwSet f).treeDown = h.treeDown := rfl
@[simp] theorem Hive.markEdge_treeDown (h : Hive) (a b : Nat) : (h.markEdge a b).treeDown = h.treeDown := rfl
@[simp] theorem Hive.sset_treeDown (h : Hive) (n : Nat) (x : StreamSt) : (h.sset n x).treeDown = h.treeDown := rfl
@[simp] theorem Hive.hset_treeDown (h : Hive) (n : Nat) (x : HalfSt) : (h.hset n x).treeDown = h.treeDown := rfl
@[simp] theorem Hive.setFlt_treeDown (h : Hive) (n : Nat) (x : FaultRec) : (h.setFlt n x).treeDown = h.treeDown := rfl
@[simp] theorem Hive.wr_keeper (h : Hive) (a : Nat) (v : Word) : (h.wr a v).keeper = h.keeper := rfl
@[simp] theorem Hive.set_keeper (h : Hive) (f : RF) (v : Nat) : (h.set f v).keeper = h.keeper := rfl
@[simp] theorem Hive.setFlag_keeper (h : Hive) (f : RF) (b : Bool) : (h.setFlag f b).keeper = h.keeper := rfl
@[simp] theorem Hive.hwSet_keeper (h : Hive) (f : RF) : (h.hwSet f).keeper = h.keeper := rfl
@[simp] theorem Hive.markEdge_keeper (h : Hive) (a b : Nat) : (h.markEdge a b).keeper = h.keeper := rfl
@[simp] theorem Hive.sset_keeper (h : Hive) (n : Nat) (x : StreamSt) : (h.sset n x).keeper = h.keeper := rfl
@[simp] theorem Hive.hset_keeper (h : Hive) (n : Nat) (x : HalfSt) : (h.hset n x).keeper = h.keeper := rfl
@[simp] theorem Hive.setFlt_keeper (h : Hive) (n : Nat) (x : FaultRec) : (h.setFlt n x).keeper = h.keeper := rfl
@[simp] theorem Hive.wr_flush (h : Hive) (a : Nat) (v : Word) : (h.wr a v).flush = h.flush := rfl
@[simp] theorem Hive.set_flush (h : Hive) (f : RF) (v : Nat) : (h.set f v).flush = h.flush := rfl
@[simp] theorem Hive.setFlag_flush (h : Hive) (f : RF) (b : Bool) : (h.setFlag f b).flush = h.flush := rfl
@[simp] theorem Hive.hwSet_flush (h : Hive) (f : RF) : (h.hwSet f).flush = h.flush := rfl
@[simp] theorem Hive.markEdge_flush (h : Hive) (a b : Nat) : (h.markEdge a b).flush = h.flush := rfl
@[simp] theorem Hive.sset_flush (h : Hive) (n : Nat) (x : StreamSt) : (h.sset n x).flush = h.flush := rfl
@[simp] theorem Hive.hset_flush (h : Hive) (n : Nat) (x : HalfSt) : (h.hset n x).flush = h.flush := rfl
@[simp] theorem Hive.setFlt_flush (h : Hive) (n : Nat) (x : FaultRec) : (h.setFlt n x).flush = h.flush := rfl
@[simp] theorem Hive.wr_flushNext (h : Hive) (a : Nat) (v : Word) : (h.wr a v).flushNext = h.flushNext := rfl
@[simp] theorem Hive.set_flushNext (h : Hive) (f : RF) (v : Nat) : (h.set f v).flushNext = h.flushNext := rfl
@[simp] theorem Hive.setFlag_flushNext (h : Hive) (f : RF) (b : Bool) : (h.setFlag f b).flushNext = h.flushNext := rfl
@[simp] theorem Hive.hwSet_flushNext (h : Hive) (f : RF) : (h.hwSet f).flushNext = h.flushNext := rfl
@[simp] theorem Hive.markEdge_flushNext (h : Hive) (a b : Nat) : (h.markEdge a b).flushNext = h.flushNext := rfl
@[simp] theorem Hive.sset_flushNext (h : Hive) (n : Nat) (x : StreamSt) : (h.sset n x).flushNext = h.flushNext := rfl
@[simp] theorem Hive.hset_flushNext (h : Hive) (n : Nat) (x : HalfSt) : (h.hset n x).flushNext = h.flushNext := rfl
@[simp] theorem Hive.setFlt_flushNext (h : Hive) (n : Nat) (x : FaultRec) : (h.setFlt n x).flushNext = h.flushNext := rfl
@[simp] theorem Hive.wr_pfFrozen (h : Hive) (a : Nat) (v : Word) : (h.wr a v).pfFrozen = h.pfFrozen := rfl
@[simp] theorem Hive.set_pfFrozen (h : Hive) (f : RF) (v : Nat) : (h.set f v).pfFrozen = h.pfFrozen := rfl
@[simp] theorem Hive.setFlag_pfFrozen (h : Hive) (f : RF) (b : Bool) : (h.setFlag f b).pfFrozen = h.pfFrozen := rfl
@[simp] theorem Hive.hwSet_pfFrozen (h : Hive) (f : RF) : (h.hwSet f).pfFrozen = h.pfFrozen := rfl
@[simp] theorem Hive.markEdge_pfFrozen (h : Hive) (a b : Nat) : (h.markEdge a b).pfFrozen = h.pfFrozen := rfl
@[simp] theorem Hive.sset_pfFrozen (h : Hive) (n : Nat) (x : StreamSt) : (h.sset n x).pfFrozen = h.pfFrozen := rfl
@[simp] theorem Hive.hset_pfFrozen (h : Hive) (n : Nat) (x : HalfSt) : (h.hset n x).pfFrozen = h.pfFrozen := rfl
@[simp] theorem Hive.setFlt_pfFrozen (h : Hive) (n : Nat) (x : FaultRec) : (h.setFlt n x).pfFrozen = h.pfFrozen := rfl
@[simp] theorem Hive.wr_flushSeq (h : Hive) (a : Nat) (v : Word) : (h.wr a v).flushSeq = h.flushSeq := rfl
@[simp] theorem Hive.set_flushSeq (h : Hive) (f : RF) (v : Nat) : (h.set f v).flushSeq = h.flushSeq := rfl
@[simp] theorem Hive.setFlag_flushSeq (h : Hive) (f : RF) (b : Bool) : (h.setFlag f b).flushSeq = h.flushSeq := rfl
@[simp] theorem Hive.hwSet_flushSeq (h : Hive) (f : RF) : (h.hwSet f).flushSeq = h.flushSeq := rfl
@[simp] theorem Hive.markEdge_flushSeq (h : Hive) (a b : Nat) : (h.markEdge a b).flushSeq = h.flushSeq := rfl
@[simp] theorem Hive.sset_flushSeq (h : Hive) (n : Nat) (x : StreamSt) : (h.sset n x).flushSeq = h.flushSeq := rfl
@[simp] theorem Hive.hset_flushSeq (h : Hive) (n : Nat) (x : HalfSt) : (h.hset n x).flushSeq = h.flushSeq := rfl
@[simp] theorem Hive.setFlt_flushSeq (h : Hive) (n : Nat) (x : FaultRec) : (h.setFlt n x).flushSeq = h.flushSeq := rfl
@[simp] theorem Hive.wr_flushAt (h : Hive) (a : Nat) (v : Word) : (h.wr a v).flushAt = h.flushAt := rfl
@[simp] theorem Hive.set_flushAt (h : Hive) (f : RF) (v : Nat) : (h.set f v).flushAt = h.flushAt := rfl
@[simp] theorem Hive.setFlag_flushAt (h : Hive) (f : RF) (b : Bool) : (h.setFlag f b).flushAt = h.flushAt := rfl
@[simp] theorem Hive.hwSet_flushAt (h : Hive) (f : RF) : (h.hwSet f).flushAt = h.flushAt := rfl
@[simp] theorem Hive.markEdge_flushAt (h : Hive) (a b : Nat) : (h.markEdge a b).flushAt = h.flushAt := rfl
@[simp] theorem Hive.sset_flushAt (h : Hive) (n : Nat) (x : StreamSt) : (h.sset n x).flushAt = h.flushAt := rfl
@[simp] theorem Hive.hset_flushAt (h : Hive) (n : Nat) (x : HalfSt) : (h.hset n x).flushAt = h.flushAt := rfl
@[simp] theorem Hive.setFlt_flushAt (h : Hive) (n : Nat) (x : FaultRec) : (h.setFlt n x).flushAt = h.flushAt := rfl
@[simp] theorem Hive.wr_trkWorker (h : Hive) (a : Nat) (v : Word) : (h.wr a v).trkWorker = h.trkWorker := rfl
@[simp] theorem Hive.set_trkWorker (h : Hive) (f : RF) (v : Nat) : (h.set f v).trkWorker = h.trkWorker := rfl
@[simp] theorem Hive.setFlag_trkWorker (h : Hive) (f : RF) (b : Bool) : (h.setFlag f b).trkWorker = h.trkWorker := rfl
@[simp] theorem Hive.hwSet_trkWorker (h : Hive) (f : RF) : (h.hwSet f).trkWorker = h.trkWorker := rfl
@[simp] theorem Hive.markEdge_trkWorker (h : Hive) (a b : Nat) : (h.markEdge a b).trkWorker = h.trkWorker := rfl
@[simp] theorem Hive.sset_trkWorker (h : Hive) (n : Nat) (x : StreamSt) : (h.sset n x).trkWorker = h.trkWorker := rfl
@[simp] theorem Hive.hset_trkWorker (h : Hive) (n : Nat) (x : HalfSt) : (h.hset n x).trkWorker = h.trkWorker := rfl
@[simp] theorem Hive.setFlt_trkWorker (h : Hive) (n : Nat) (x : FaultRec) : (h.setFlt n x).trkWorker = h.trkWorker := rfl
@[simp] theorem Hive.wr_fltMarks (h : Hive) (a : Nat) (v : Word) : (h.wr a v).fltMarks = h.fltMarks := rfl
@[simp] theorem Hive.set_fltMarks (h : Hive) (f : RF) (v : Nat) : (h.set f v).fltMarks = h.fltMarks := rfl
@[simp] theorem Hive.setFlag_fltMarks (h : Hive) (f : RF) (b : Bool) : (h.setFlag f b).fltMarks = h.fltMarks := rfl
@[simp] theorem Hive.hwSet_fltMarks (h : Hive) (f : RF) : (h.hwSet f).fltMarks = h.fltMarks := rfl
@[simp] theorem Hive.markEdge_fltMarks (h : Hive) (a b : Nat) : (h.markEdge a b).fltMarks = h.fltMarks := rfl
@[simp] theorem Hive.sset_fltMarks (h : Hive) (n : Nat) (x : StreamSt) : (h.sset n x).fltMarks = h.fltMarks := rfl
@[simp] theorem Hive.hset_fltMarks (h : Hive) (n : Nat) (x : HalfSt) : (h.hset n x).fltMarks = h.fltMarks := rfl
@[simp] theorem Hive.setFlt_fltMarks (h : Hive) (n : Nat) (x : FaultRec) : (h.setFlt n x).fltMarks = h.fltMarks := rfl
@[simp] theorem Hive.wr_lostMarks (h : Hive) (a : Nat) (v : Word) : (h.wr a v).lostMarks = h.lostMarks := rfl
@[simp] theorem Hive.set_lostMarks (h : Hive) (f : RF) (v : Nat) : (h.set f v).lostMarks = h.lostMarks := rfl
@[simp] theorem Hive.setFlag_lostMarks (h : Hive) (f : RF) (b : Bool) : (h.setFlag f b).lostMarks = h.lostMarks := rfl
@[simp] theorem Hive.hwSet_lostMarks (h : Hive) (f : RF) : (h.hwSet f).lostMarks = h.lostMarks := rfl
@[simp] theorem Hive.markEdge_lostMarks (h : Hive) (a b : Nat) : (h.markEdge a b).lostMarks = h.lostMarks := rfl
@[simp] theorem Hive.sset_lostMarks (h : Hive) (n : Nat) (x : StreamSt) : (h.sset n x).lostMarks = h.lostMarks := rfl
@[simp] theorem Hive.hset_lostMarks (h : Hive) (n : Nat) (x : HalfSt) : (h.hset n x).lostMarks = h.lostMarks := rfl
@[simp] theorem Hive.setFlt_lostMarks (h : Hive) (n : Nat) (x : FaultRec) : (h.setFlt n x).lostMarks = h.lostMarks := rfl
@[simp] theorem Hive.wr_usage (h : Hive) (a : Nat) (v : Word) : (h.wr a v).usage = h.usage := rfl
@[simp] theorem Hive.set_usage (h : Hive) (f : RF) (v : Nat) : (h.set f v).usage = h.usage := rfl
@[simp] theorem Hive.setFlag_usage (h : Hive) (f : RF) (b : Bool) : (h.setFlag f b).usage = h.usage := rfl
@[simp] theorem Hive.hwSet_usage (h : Hive) (f : RF) : (h.hwSet f).usage = h.usage := rfl
@[simp] theorem Hive.markEdge_usage (h : Hive) (a b : Nat) : (h.markEdge a b).usage = h.usage := rfl
@[simp] theorem Hive.sset_usage (h : Hive) (n : Nat) (x : StreamSt) : (h.sset n x).usage = h.usage := rfl
@[simp] theorem Hive.hset_usage (h : Hive) (n : Nat) (x : HalfSt) : (h.hset n x).usage = h.usage := rfl
@[simp] theorem Hive.setFlt_usage (h : Hive) (n : Nat) (x : FaultRec) : (h.setFlt n x).usage = h.usage := rfl
@[simp] theorem Hive.wr_uring (h : Hive) (a : Nat) (v : Word) : (h.wr a v).uring = h.uring := rfl
@[simp] theorem Hive.set_uring (h : Hive) (f : RF) (v : Nat) : (h.set f v).uring = h.uring := rfl
@[simp] theorem Hive.setFlag_uring (h : Hive) (f : RF) (b : Bool) : (h.setFlag f b).uring = h.uring := rfl
@[simp] theorem Hive.hwSet_uring (h : Hive) (f : RF) : (h.hwSet f).uring = h.uring := rfl
@[simp] theorem Hive.markEdge_uring (h : Hive) (a b : Nat) : (h.markEdge a b).uring = h.uring := rfl
@[simp] theorem Hive.sset_uring (h : Hive) (n : Nat) (x : StreamSt) : (h.sset n x).uring = h.uring := rfl
@[simp] theorem Hive.hset_uring (h : Hive) (n : Nat) (x : HalfSt) : (h.hset n x).uring = h.uring := rfl
@[simp] theorem Hive.setFlt_uring (h : Hive) (n : Nat) (x : FaultRec) : (h.setFlt n x).uring = h.uring := rfl
@[simp] theorem Hive.wr_msLive (h : Hive) (a : Nat) (v : Word) : (h.wr a v).msLive = h.msLive := rfl
@[simp] theorem Hive.set_msLive (h : Hive) (f : RF) (v : Nat) : (h.set f v).msLive = h.msLive := rfl
@[simp] theorem Hive.setFlag_msLive (h : Hive) (f : RF) (b : Bool) : (h.setFlag f b).msLive = h.msLive := rfl
@[simp] theorem Hive.hwSet_msLive (h : Hive) (f : RF) : (h.hwSet f).msLive = h.msLive := rfl
@[simp] theorem Hive.markEdge_msLive (h : Hive) (a b : Nat) : (h.markEdge a b).msLive = h.msLive := rfl
@[simp] theorem Hive.sset_msLive (h : Hive) (n : Nat) (x : StreamSt) : (h.sset n x).msLive = h.msLive := rfl
@[simp] theorem Hive.hset_msLive (h : Hive) (n : Nat) (x : HalfSt) : (h.hset n x).msLive = h.msLive := rfl
@[simp] theorem Hive.setFlt_msLive (h : Hive) (n : Nat) (x : FaultRec) : (h.setFlt n x).msLive = h.msLive := rfl
@[simp] theorem Hive.wr_umsAt (h : Hive) (a : Nat) (v : Word) : (h.wr a v).umsAt = h.umsAt := rfl
@[simp] theorem Hive.set_umsAt (h : Hive) (f : RF) (v : Nat) : (h.set f v).umsAt = h.umsAt := rfl
@[simp] theorem Hive.setFlag_umsAt (h : Hive) (f : RF) (b : Bool) : (h.setFlag f b).umsAt = h.umsAt := rfl
@[simp] theorem Hive.hwSet_umsAt (h : Hive) (f : RF) : (h.hwSet f).umsAt = h.umsAt := rfl
@[simp] theorem Hive.markEdge_umsAt (h : Hive) (a b : Nat) : (h.markEdge a b).umsAt = h.umsAt := rfl
@[simp] theorem Hive.sset_umsAt (h : Hive) (n : Nat) (x : StreamSt) : (h.sset n x).umsAt = h.umsAt := rfl
@[simp] theorem Hive.hset_umsAt (h : Hive) (n : Nat) (x : HalfSt) : (h.hset n x).umsAt = h.umsAt := rfl
@[simp] theorem Hive.setFlt_umsAt (h : Hive) (n : Nat) (x : FaultRec) : (h.setFlt n x).umsAt = h.umsAt := rfl
@[simp] theorem Hive.wr_slots (h : Hive) (a : Nat) (v : Word) : (h.wr a v).slots = h.slots := rfl
@[simp] theorem Hive.set_slots (h : Hive) (f : RF) (v : Nat) : (h.set f v).slots = h.slots := rfl
@[simp] theorem Hive.setFlag_slots (h : Hive) (f : RF) (b : Bool) : (h.setFlag f b).slots = h.slots := rfl
@[simp] theorem Hive.hwSet_slots (h : Hive) (f : RF) : (h.hwSet f).slots = h.slots := rfl
@[simp] theorem Hive.markEdge_slots (h : Hive) (a b : Nat) : (h.markEdge a b).slots = h.slots := rfl
@[simp] theorem Hive.sset_slots (h : Hive) (n : Nat) (x : StreamSt) : (h.sset n x).slots = h.slots := rfl
@[simp] theorem Hive.hset_slots (h : Hive) (n : Nat) (x : HalfSt) : (h.hset n x).slots = h.slots := rfl
@[simp] theorem Hive.setFlt_slots (h : Hive) (n : Nat) (x : FaultRec) : (h.setFlt n x).slots = h.slots := rfl
@[simp] theorem Hive.wr_envT (h : Hive) (a : Nat) (v : Word) : (h.wr a v).envT = h.envT := rfl
@[simp] theorem Hive.set_envT (h : Hive) (f : RF) (v : Nat) : (h.set f v).envT = h.envT := rfl
@[simp] theorem Hive.setFlag_envT (h : Hive) (f : RF) (b : Bool) : (h.setFlag f b).envT = h.envT := rfl
@[simp] theorem Hive.hwSet_envT (h : Hive) (f : RF) : (h.hwSet f).envT = h.envT := rfl
@[simp] theorem Hive.markEdge_envT (h : Hive) (a b : Nat) : (h.markEdge a b).envT = h.envT := rfl
@[simp] theorem Hive.sset_envT (h : Hive) (n : Nat) (x : StreamSt) : (h.sset n x).envT = h.envT := rfl
@[simp] theorem Hive.hset_envT (h : Hive) (n : Nat) (x : HalfSt) : (h.hset n x).envT = h.envT := rfl
@[simp] theorem Hive.setFlt_envT (h : Hive) (n : Nat) (x : FaultRec) : (h.setFlt n x).envT = h.envT := rfl
@[simp] theorem Hive.wr_envC (h : Hive) (a : Nat) (v : Word) : (h.wr a v).envC = h.envC := rfl
@[simp] theorem Hive.set_envC (h : Hive) (f : RF) (v : Nat) : (h.set f v).envC = h.envC := rfl
@[simp] theorem Hive.setFlag_envC (h : Hive) (f : RF) (b : Bool) : (h.setFlag f b).envC = h.envC := rfl
@[simp] theorem Hive.hwSet_envC (h : Hive) (f : RF) : (h.hwSet f).envC = h.envC := rfl
@[simp] theorem Hive.markEdge_envC (h : Hive) (a b : Nat) : (h.markEdge a b).envC = h.envC := rfl
@[simp] theorem Hive.sset_envC (h : Hive) (n : Nat) (x : StreamSt) : (h.sset n x).envC = h.envC := rfl
@[simp] theorem Hive.hset_envC (h : Hive) (n : Nat) (x : HalfSt) : (h.hset n x).envC = h.envC := rfl
@[simp] theorem Hive.setFlt_envC (h : Hive) (n : Nat) (x : FaultRec) : (h.setFlt n x).envC = h.envC := rfl
@[simp] theorem Hive.wr_envHash (h : Hive) (a : Nat) (v : Word) : (h.wr a v).envHash = h.envHash := rfl
@[simp] theorem Hive.set_envHash (h : Hive) (f : RF) (v : Nat) : (h.set f v).envHash = h.envHash := rfl
@[simp] theorem Hive.setFlag_envHash (h : Hive) (f : RF) (b : Bool) : (h.setFlag f b).envHash = h.envHash := rfl
@[simp] theorem Hive.hwSet_envHash (h : Hive) (f : RF) : (h.hwSet f).envHash = h.envHash := rfl
@[simp] theorem Hive.markEdge_envHash (h : Hive) (a b : Nat) : (h.markEdge a b).envHash = h.envHash := rfl
@[simp] theorem Hive.sset_envHash (h : Hive) (n : Nat) (x : StreamSt) : (h.sset n x).envHash = h.envHash := rfl
@[simp] theorem Hive.hset_envHash (h : Hive) (n : Nat) (x : HalfSt) : (h.hset n x).envHash = h.envHash := rfl
@[simp] theorem Hive.setFlt_envHash (h : Hive) (n : Nat) (x : FaultRec) : (h.setFlt n x).envHash = h.envHash := rfl
@[simp] theorem Hive.wr_wcopy (h : Hive) (a : Nat) (v : Word) : (h.wr a v).wcopy = h.wcopy := rfl
@[simp] theorem Hive.set_wcopy (h : Hive) (f : RF) (v : Nat) : (h.set f v).wcopy = h.wcopy := rfl
@[simp] theorem Hive.setFlag_wcopy (h : Hive) (f : RF) (b : Bool) : (h.setFlag f b).wcopy = h.wcopy := rfl
@[simp] theorem Hive.hwSet_wcopy (h : Hive) (f : RF) : (h.hwSet f).wcopy = h.wcopy := rfl
@[simp] theorem Hive.markEdge_wcopy (h : Hive) (a b : Nat) : (h.markEdge a b).wcopy = h.wcopy := rfl
@[simp] theorem Hive.sset_wcopy (h : Hive) (n : Nat) (x : StreamSt) : (h.sset n x).wcopy = h.wcopy := rfl
@[simp] theorem Hive.hset_wcopy (h : Hive) (n : Nat) (x : HalfSt) : (h.hset n x).wcopy = h.wcopy := rfl
@[simp] theorem Hive.setFlt_wcopy (h : Hive) (n : Nat) (x : FaultRec) : (h.setFlt n x).wcopy = h.wcopy := rfl
@[simp] theorem Hive.wr_mism (h : Hive) (a : Nat) (v : Word) : (h.wr a v).mism = h.mism := rfl
@[simp] theorem Hive.set_mism (h : Hive) (f : RF) (v : Nat) : (h.set f v).mism = h.mism := rfl
@[simp] theorem Hive.setFlag_mism (h : Hive) (f : RF) (b : Bool) : (h.setFlag f b).mism = h.mism := rfl
@[simp] theorem Hive.hwSet_mism (h : Hive) (f : RF) : (h.hwSet f).mism = h.mism := rfl
@[simp] theorem Hive.markEdge_mism (h : Hive) (a b : Nat) : (h.markEdge a b).mism = h.mism := rfl
@[simp] theorem Hive.sset_mism (h : Hive) (n : Nat) (x : StreamSt) : (h.sset n x).mism = h.mism := rfl
@[simp] theorem Hive.hset_mism (h : Hive) (n : Nat) (x : HalfSt) : (h.hset n x).mism = h.mism := rfl
@[simp] theorem Hive.setFlt_mism (h : Hive) (n : Nat) (x : FaultRec) : (h.setFlt n x).mism = h.mism := rfl
@[simp] theorem Hive.wr_range (h : Hive) (a : Nat) (v : Word) : (h.wr a v).range = h.range := rfl
@[simp] theorem Hive.set_range (h : Hive) (f : RF) (v : Nat) : (h.set f v).range = h.range := rfl
@[simp] theorem Hive.setFlag_range (h : Hive) (f : RF) (b : Bool) : (h.setFlag f b).range = h.range := rfl
@[simp] theorem Hive.hwSet_range (h : Hive) (f : RF) : (h.hwSet f).range = h.range := rfl
@[simp] theorem Hive.markEdge_range (h : Hive) (a b : Nat) : (h.markEdge a b).range = h.range := rfl
@[simp] theorem Hive.sset_range (h : Hive) (n : Nat) (x : StreamSt) : (h.sset n x).range = h.range := rfl
@[simp] theorem Hive.hset_range (h : Hive) (n : Nat) (x : HalfSt) : (h.hset n x).range = h.range := rfl
@[simp] theorem Hive.setFlt_range (h : Hive) (n : Nat) (x : FaultRec) : (h.setFlt n x).range = h.range := rfl
@[simp] theorem Hive.wr_npmSil (h : Hive) (a : Nat) (v : Word) : (h.wr a v).npmSil = h.npmSil := rfl
@[simp] theorem Hive.set_npmSil (h : Hive) (f : RF) (v : Nat) : (h.set f v).npmSil = h.npmSil := rfl
@[simp] theorem Hive.setFlag_npmSil (h : Hive) (f : RF) (b : Bool) : (h.setFlag f b).npmSil = h.npmSil := rfl
@[simp] theorem Hive.hwSet_npmSil (h : Hive) (f : RF) : (h.hwSet f).npmSil = h.npmSil := rfl
@[simp] theorem Hive.markEdge_npmSil (h : Hive) (a b : Nat) : (h.markEdge a b).npmSil = h.npmSil := rfl
@[simp] theorem Hive.sset_npmSil (h : Hive) (n : Nat) (x : StreamSt) : (h.sset n x).npmSil = h.npmSil := rfl
@[simp] theorem Hive.hset_npmSil (h : Hive) (n : Nat) (x : HalfSt) : (h.hset n x).npmSil = h.npmSil := rfl
@[simp] theorem Hive.setFlt_npmSil (h : Hive) (n : Nat) (x : FaultRec) : (h.setFlt n x).npmSil = h.npmSil := rfl
@[simp] theorem Hive.wr_loadCmd (h : Hive) (a : Nat) (v : Word) : (h.wr a v).loadCmd = h.loadCmd := rfl
@[simp] theorem Hive.set_loadCmd (h : Hive) (f : RF) (v : Nat) : (h.set f v).loadCmd = h.loadCmd := rfl
@[simp] theorem Hive.setFlag_loadCmd (h : Hive) (f : RF) (b : Bool) : (h.setFlag f b).loadCmd = h.loadCmd := rfl
@[simp] theorem Hive.hwSet_loadCmd (h : Hive) (f : RF) : (h.hwSet f).loadCmd = h.loadCmd := rfl
@[simp] theorem Hive.markEdge_loadCmd (h : Hive) (a b : Nat) : (h.markEdge a b).loadCmd = h.loadCmd := rfl
@[simp] theorem Hive.sset_loadCmd (h : Hive) (n : Nat) (x : StreamSt) : (h.sset n x).loadCmd = h.loadCmd := rfl
@[simp] theorem Hive.hset_loadCmd (h : Hive) (n : Nat) (x : HalfSt) : (h.hset n x).loadCmd = h.loadCmd := rfl
@[simp] theorem Hive.setFlt_loadCmd (h : Hive) (n : Nat) (x : FaultRec) : (h.setFlt n x).loadCmd = h.loadCmd := rfl
@[simp] theorem Hive.wr_tod (h : Hive) (a : Nat) (v : Word) : (h.wr a v).tod = h.tod := rfl
@[simp] theorem Hive.set_tod (h : Hive) (f : RF) (v : Nat) : (h.set f v).tod = h.tod := rfl
@[simp] theorem Hive.setFlag_tod (h : Hive) (f : RF) (b : Bool) : (h.setFlag f b).tod = h.tod := rfl
@[simp] theorem Hive.hwSet_tod (h : Hive) (f : RF) : (h.hwSet f).tod = h.tod := rfl
@[simp] theorem Hive.markEdge_tod (h : Hive) (a b : Nat) : (h.markEdge a b).tod = h.tod := rfl
@[simp] theorem Hive.sset_tod (h : Hive) (n : Nat) (x : StreamSt) : (h.sset n x).tod = h.tod := rfl
@[simp] theorem Hive.hset_tod (h : Hive) (n : Nat) (x : HalfSt) : (h.hset n x).tod = h.tod := rfl
@[simp] theorem Hive.setFlt_tod (h : Hive) (n : Nat) (x : FaultRec) : (h.setFlt n x).tod = h.tod := rfl
@[simp] theorem Hive.wr_ppsPrev (h : Hive) (a : Nat) (v : Word) : (h.wr a v).ppsPrev = h.ppsPrev := rfl
@[simp] theorem Hive.set_ppsPrev (h : Hive) (f : RF) (v : Nat) : (h.set f v).ppsPrev = h.ppsPrev := rfl
@[simp] theorem Hive.setFlag_ppsPrev (h : Hive) (f : RF) (b : Bool) : (h.setFlag f b).ppsPrev = h.ppsPrev := rfl
@[simp] theorem Hive.hwSet_ppsPrev (h : Hive) (f : RF) : (h.hwSet f).ppsPrev = h.ppsPrev := rfl
@[simp] theorem Hive.markEdge_ppsPrev (h : Hive) (a b : Nat) : (h.markEdge a b).ppsPrev = h.ppsPrev := rfl
@[simp] theorem Hive.sset_ppsPrev (h : Hive) (n : Nat) (x : StreamSt) : (h.sset n x).ppsPrev = h.ppsPrev := rfl
@[simp] theorem Hive.hset_ppsPrev (h : Hive) (n : Nat) (x : HalfSt) : (h.hset n x).ppsPrev = h.ppsPrev := rfl
@[simp] theorem Hive.setFlt_ppsPrev (h : Hive) (n : Nat) (x : FaultRec) : (h.setFlt n x).ppsPrev = h.ppsPrev := rfl
@[simp] theorem Hive.wr_ppsAt (h : Hive) (a : Nat) (v : Word) : (h.wr a v).ppsAt = h.ppsAt := rfl
@[simp] theorem Hive.set_ppsAt (h : Hive) (f : RF) (v : Nat) : (h.set f v).ppsAt = h.ppsAt := rfl
@[simp] theorem Hive.setFlag_ppsAt (h : Hive) (f : RF) (b : Bool) : (h.setFlag f b).ppsAt = h.ppsAt := rfl
@[simp] theorem Hive.hwSet_ppsAt (h : Hive) (f : RF) : (h.hwSet f).ppsAt = h.ppsAt := rfl
@[simp] theorem Hive.markEdge_ppsAt (h : Hive) (a b : Nat) : (h.markEdge a b).ppsAt = h.ppsAt := rfl
@[simp] theorem Hive.sset_ppsAt (h : Hive) (n : Nat) (x : StreamSt) : (h.sset n x).ppsAt = h.ppsAt := rfl
@[simp] theorem Hive.hset_ppsAt (h : Hive) (n : Nat) (x : HalfSt) : (h.hset n x).ppsAt = h.ppsAt := rfl
@[simp] theorem Hive.setFlt_ppsAt (h : Hive) (n : Nat) (x : FaultRec) : (h.setFlt n x).ppsAt = h.ppsAt := rfl
@[simp] theorem Hive.wr_ppsBad (h : Hive) (a : Nat) (v : Word) : (h.wr a v).ppsBad = h.ppsBad := rfl
@[simp] theorem Hive.set_ppsBad (h : Hive) (f : RF) (v : Nat) : (h.set f v).ppsBad = h.ppsBad := rfl
@[simp] theorem Hive.setFlag_ppsBad (h : Hive) (f : RF) (b : Bool) : (h.setFlag f b).ppsBad = h.ppsBad := rfl
@[simp] theorem Hive.hwSet_ppsBad (h : Hive) (f : RF) : (h.hwSet f).ppsBad = h.ppsBad := rfl
@[simp] theorem Hive.markEdge_ppsBad (h : Hive) (a b : Nat) : (h.markEdge a b).ppsBad = h.ppsBad := rfl
@[simp] theorem Hive.sset_ppsBad (h : Hive) (n : Nat) (x : StreamSt) : (h.sset n x).ppsBad = h.ppsBad := rfl
@[simp] theorem Hive.hset_ppsBad (h : Hive) (n : Nat) (x : HalfSt) : (h.hset n x).ppsBad = h.ppsBad := rfl
@[simp] theorem Hive.setFlt_ppsBad (h : Hive) (n : Nat) (x : FaultRec) : (h.setFlt n x).ppsBad = h.ppsBad := rfl
@[simp] theorem Hive.wr_ppsLost (h : Hive) (a : Nat) (v : Word) : (h.wr a v).ppsLost = h.ppsLost := rfl
@[simp] theorem Hive.set_ppsLost (h : Hive) (f : RF) (v : Nat) : (h.set f v).ppsLost = h.ppsLost := rfl
@[simp] theorem Hive.setFlag_ppsLost (h : Hive) (f : RF) (b : Bool) : (h.setFlag f b).ppsLost = h.ppsLost := rfl
@[simp] theorem Hive.hwSet_ppsLost (h : Hive) (f : RF) : (h.hwSet f).ppsLost = h.ppsLost := rfl
@[simp] theorem Hive.markEdge_ppsLost (h : Hive) (a b : Nat) : (h.markEdge a b).ppsLost = h.ppsLost := rfl
@[simp] theorem Hive.sset_ppsLost (h : Hive) (n : Nat) (x : StreamSt) : (h.sset n x).ppsLost = h.ppsLost := rfl
@[simp] theorem Hive.hset_ppsLost (h : Hive) (n : Nat) (x : HalfSt) : (h.hset n x).ppsLost = h.ppsLost := rfl
@[simp] theorem Hive.setFlt_ppsLost (h : Hive) (n : Nat) (x : FaultRec) : (h.setFlt n x).ppsLost = h.ppsLost := rfl
@[simp] theorem Hive.wr_ppsOut (h : Hive) (a : Nat) (v : Word) : (h.wr a v).ppsOut = h.ppsOut := rfl
@[simp] theorem Hive.set_ppsOut (h : Hive) (f : RF) (v : Nat) : (h.set f v).ppsOut = h.ppsOut := rfl
@[simp] theorem Hive.setFlag_ppsOut (h : Hive) (f : RF) (b : Bool) : (h.setFlag f b).ppsOut = h.ppsOut := rfl
@[simp] theorem Hive.hwSet_ppsOut (h : Hive) (f : RF) : (h.hwSet f).ppsOut = h.ppsOut := rfl
@[simp] theorem Hive.markEdge_ppsOut (h : Hive) (a b : Nat) : (h.markEdge a b).ppsOut = h.ppsOut := rfl
@[simp] theorem Hive.sset_ppsOut (h : Hive) (n : Nat) (x : StreamSt) : (h.sset n x).ppsOut = h.ppsOut := rfl
@[simp] theorem Hive.hset_ppsOut (h : Hive) (n : Nat) (x : HalfSt) : (h.hset n x).ppsOut = h.ppsOut := rfl
@[simp] theorem Hive.setFlt_ppsOut (h : Hive) (n : Nat) (x : FaultRec) : (h.setFlt n x).ppsOut = h.ppsOut := rfl
@[simp] theorem Hive.wr_ppsOutAt (h : Hive) (a : Nat) (v : Word) : (h.wr a v).ppsOutAt = h.ppsOutAt := rfl
@[simp] theorem Hive.set_ppsOutAt (h : Hive) (f : RF) (v : Nat) : (h.set f v).ppsOutAt = h.ppsOutAt := rfl
@[simp] theorem Hive.setFlag_ppsOutAt (h : Hive) (f : RF) (b : Bool) : (h.setFlag f b).ppsOutAt = h.ppsOutAt := rfl
@[simp] theorem Hive.hwSet_ppsOutAt (h : Hive) (f : RF) : (h.hwSet f).ppsOutAt = h.ppsOutAt := rfl
@[simp] theorem Hive.markEdge_ppsOutAt (h : Hive) (a b : Nat) : (h.markEdge a b).ppsOutAt = h.ppsOutAt := rfl
@[simp] theorem Hive.sset_ppsOutAt (h : Hive) (n : Nat) (x : StreamSt) : (h.sset n x).ppsOutAt = h.ppsOutAt := rfl
@[simp] theorem Hive.hset_ppsOutAt (h : Hive) (n : Nat) (x : HalfSt) : (h.hset n x).ppsOutAt = h.ppsOutAt := rfl
@[simp] theorem Hive.setFlt_ppsOutAt (h : Hive) (n : Nat) (x : FaultRec) : (h.setFlt n x).ppsOutAt = h.ppsOutAt := rfl
@[simp] theorem Hive.wr_epsBad (h : Hive) (a : Nat) (v : Word) : (h.wr a v).epsBad = h.epsBad := rfl
@[simp] theorem Hive.set_epsBad (h : Hive) (f : RF) (v : Nat) : (h.set f v).epsBad = h.epsBad := rfl
@[simp] theorem Hive.setFlag_epsBad (h : Hive) (f : RF) (b : Bool) : (h.setFlag f b).epsBad = h.epsBad := rfl
@[simp] theorem Hive.hwSet_epsBad (h : Hive) (f : RF) : (h.hwSet f).epsBad = h.epsBad := rfl
@[simp] theorem Hive.markEdge_epsBad (h : Hive) (a b : Nat) : (h.markEdge a b).epsBad = h.epsBad := rfl
@[simp] theorem Hive.sset_epsBad (h : Hive) (n : Nat) (x : StreamSt) : (h.sset n x).epsBad = h.epsBad := rfl
@[simp] theorem Hive.hset_epsBad (h : Hive) (n : Nat) (x : HalfSt) : (h.hset n x).epsBad = h.epsBad := rfl
@[simp] theorem Hive.setFlt_epsBad (h : Hive) (n : Nat) (x : FaultRec) : (h.setFlt n x).epsBad = h.epsBad := rfl
@[simp] theorem Hive.wr_timeFlags (h : Hive) (a : Nat) (v : Word) : (h.wr a v).timeFlags = h.timeFlags := rfl
@[simp] theorem Hive.set_timeFlags (h : Hive) (f : RF) (v : Nat) : (h.set f v).timeFlags = h.timeFlags := rfl
@[simp] theorem Hive.setFlag_timeFlags (h : Hive) (f : RF) (b : Bool) : (h.setFlag f b).timeFlags = h.timeFlags := rfl
@[simp] theorem Hive.hwSet_timeFlags (h : Hive) (f : RF) : (h.hwSet f).timeFlags = h.timeFlags := rfl
@[simp] theorem Hive.markEdge_timeFlags (h : Hive) (a b : Nat) : (h.markEdge a b).timeFlags = h.timeFlags := rfl
@[simp] theorem Hive.sset_timeFlags (h : Hive) (n : Nat) (x : StreamSt) : (h.sset n x).timeFlags = h.timeFlags := rfl
@[simp] theorem Hive.hset_timeFlags (h : Hive) (n : Nat) (x : HalfSt) : (h.hset n x).timeFlags = h.timeFlags := rfl
@[simp] theorem Hive.setFlt_timeFlags (h : Hive) (n : Nat) (x : FaultRec) : (h.setFlt n x).timeFlags = h.timeFlags := rfl
@[simp] theorem Hive.wr_timeAt (h : Hive) (a : Nat) (v : Word) : (h.wr a v).timeAt = h.timeAt := rfl
@[simp] theorem Hive.set_timeAt (h : Hive) (f : RF) (v : Nat) : (h.set f v).timeAt = h.timeAt := rfl
@[simp] theorem Hive.setFlag_timeAt (h : Hive) (f : RF) (b : Bool) : (h.setFlag f b).timeAt = h.timeAt := rfl
@[simp] theorem Hive.hwSet_timeAt (h : Hive) (f : RF) : (h.hwSet f).timeAt = h.timeAt := rfl
@[simp] theorem Hive.markEdge_timeAt (h : Hive) (a b : Nat) : (h.markEdge a b).timeAt = h.timeAt := rfl
@[simp] theorem Hive.sset_timeAt (h : Hive) (n : Nat) (x : StreamSt) : (h.sset n x).timeAt = h.timeAt := rfl
@[simp] theorem Hive.hset_timeAt (h : Hive) (n : Nat) (x : HalfSt) : (h.hset n x).timeAt = h.timeAt := rfl
@[simp] theorem Hive.setFlt_timeAt (h : Hive) (n : Nat) (x : FaultRec) : (h.setFlt n x).timeAt = h.timeAt := rfl
@[simp] theorem Hive.wr_holdAt (h : Hive) (a : Nat) (v : Word) : (h.wr a v).holdAt = h.holdAt := rfl
@[simp] theorem Hive.set_holdAt (h : Hive) (f : RF) (v : Nat) : (h.set f v).holdAt = h.holdAt := rfl
@[simp] theorem Hive.setFlag_holdAt (h : Hive) (f : RF) (b : Bool) : (h.setFlag f b).holdAt = h.holdAt := rfl
@[simp] theorem Hive.hwSet_holdAt (h : Hive) (f : RF) : (h.hwSet f).holdAt = h.holdAt := rfl
@[simp] theorem Hive.markEdge_holdAt (h : Hive) (a b : Nat) : (h.markEdge a b).holdAt = h.holdAt := rfl
@[simp] theorem Hive.sset_holdAt (h : Hive) (n : Nat) (x : StreamSt) : (h.sset n x).holdAt = h.holdAt := rfl
@[simp] theorem Hive.hset_holdAt (h : Hive) (n : Nat) (x : HalfSt) : (h.hset n x).holdAt = h.holdAt := rfl
@[simp] theorem Hive.setFlt_holdAt (h : Hive) (n : Nat) (x : FaultRec) : (h.setFlt n x).holdAt = h.holdAt := rfl
@[simp] theorem Hive.wr_linkProp (h : Hive) (a : Nat) (v : Word) : (h.wr a v).linkProp = h.linkProp := rfl
@[simp] theorem Hive.set_linkProp (h : Hive) (f : RF) (v : Nat) : (h.set f v).linkProp = h.linkProp := rfl
@[simp] theorem Hive.setFlag_linkProp (h : Hive) (f : RF) (b : Bool) : (h.setFlag f b).linkProp = h.linkProp := rfl
@[simp] theorem Hive.hwSet_linkProp (h : Hive) (f : RF) : (h.hwSet f).linkProp = h.linkProp := rfl
@[simp] theorem Hive.markEdge_linkProp (h : Hive) (a b : Nat) : (h.markEdge a b).linkProp = h.linkProp := rfl
@[simp] theorem Hive.sset_linkProp (h : Hive) (n : Nat) (x : StreamSt) : (h.sset n x).linkProp = h.linkProp := rfl
@[simp] theorem Hive.hset_linkProp (h : Hive) (n : Nat) (x : HalfSt) : (h.hset n x).linkProp = h.linkProp := rfl
@[simp] theorem Hive.setFlt_linkProp (h : Hive) (n : Nat) (x : FaultRec) : (h.setFlt n x).linkProp = h.linkProp := rfl
@[simp] theorem Hive.wr_apiaryMask (h : Hive) (a : Nat) (v : Word) : (h.wr a v).apiaryMask = h.apiaryMask := rfl
@[simp] theorem Hive.set_apiaryMask (h : Hive) (f : RF) (v : Nat) : (h.set f v).apiaryMask = h.apiaryMask := rfl
@[simp] theorem Hive.setFlag_apiaryMask (h : Hive) (f : RF) (b : Bool) : (h.setFlag f b).apiaryMask = h.apiaryMask := rfl
@[simp] theorem Hive.hwSet_apiaryMask (h : Hive) (f : RF) : (h.hwSet f).apiaryMask = h.apiaryMask := rfl
@[simp] theorem Hive.markEdge_apiaryMask (h : Hive) (a b : Nat) : (h.markEdge a b).apiaryMask = h.apiaryMask := rfl
@[simp] theorem Hive.sset_apiaryMask (h : Hive) (n : Nat) (x : StreamSt) : (h.sset n x).apiaryMask = h.apiaryMask := rfl
@[simp] theorem Hive.hset_apiaryMask (h : Hive) (n : Nat) (x : HalfSt) : (h.hset n x).apiaryMask = h.apiaryMask := rfl
@[simp] theorem Hive.setFlt_apiaryMask (h : Hive) (n : Nat) (x : FaultRec) : (h.setFlt n x).apiaryMask = h.apiaryMask := rfl
@[simp] theorem Hive.wr_subMask (h : Hive) (a : Nat) (v : Word) : (h.wr a v).subMask = h.subMask := rfl
@[simp] theorem Hive.set_subMask (h : Hive) (f : RF) (v : Nat) : (h.set f v).subMask = h.subMask := rfl
@[simp] theorem Hive.setFlag_subMask (h : Hive) (f : RF) (b : Bool) : (h.setFlag f b).subMask = h.subMask := rfl
@[simp] theorem Hive.hwSet_subMask (h : Hive) (f : RF) : (h.hwSet f).subMask = h.subMask := rfl
@[simp] theorem Hive.markEdge_subMask (h : Hive) (a b : Nat) : (h.markEdge a b).subMask = h.subMask := rfl
@[simp] theorem Hive.sset_subMask (h : Hive) (n : Nat) (x : StreamSt) : (h.sset n x).subMask = h.subMask := rfl
@[simp] theorem Hive.hset_subMask (h : Hive) (n : Nat) (x : HalfSt) : (h.hset n x).subMask = h.subMask := rfl
@[simp] theorem Hive.setFlt_subMask (h : Hive) (n : Nat) (x : FaultRec) : (h.setFlt n x).subMask = h.subMask := rfl
@[simp] theorem Hive.wr_bars (h : Hive) (a : Nat) (v : Word) : (h.wr a v).bars = h.bars := rfl
@[simp] theorem Hive.set_bars (h : Hive) (f : RF) (v : Nat) : (h.set f v).bars = h.bars := rfl
@[simp] theorem Hive.setFlag_bars (h : Hive) (f : RF) (b : Bool) : (h.setFlag f b).bars = h.bars := rfl
@[simp] theorem Hive.hwSet_bars (h : Hive) (f : RF) : (h.hwSet f).bars = h.bars := rfl
@[simp] theorem Hive.markEdge_bars (h : Hive) (a b : Nat) : (h.markEdge a b).bars = h.bars := rfl
@[simp] theorem Hive.sset_bars (h : Hive) (n : Nat) (x : StreamSt) : (h.sset n x).bars = h.bars := rfl
@[simp] theorem Hive.hset_bars (h : Hive) (n : Nat) (x : HalfSt) : (h.hset n x).bars = h.bars := rfl
@[simp] theorem Hive.setFlt_bars (h : Hive) (n : Nat) (x : FaultRec) : (h.setFlt n x).bars = h.bars := rfl
@[simp] theorem Hive.wr_snap (h : Hive) (a : Nat) (v : Word) : (h.wr a v).snap = h.snap := rfl
@[simp] theorem Hive.set_snap (h : Hive) (f : RF) (v : Nat) : (h.set f v).snap = h.snap := rfl
@[simp] theorem Hive.setFlag_snap (h : Hive) (f : RF) (b : Bool) : (h.setFlag f b).snap = h.snap := rfl
@[simp] theorem Hive.hwSet_snap (h : Hive) (f : RF) : (h.hwSet f).snap = h.snap := rfl
@[simp] theorem Hive.markEdge_snap (h : Hive) (a b : Nat) : (h.markEdge a b).snap = h.snap := rfl
@[simp] theorem Hive.sset_snap (h : Hive) (n : Nat) (x : StreamSt) : (h.sset n x).snap = h.snap := rfl
@[simp] theorem Hive.hset_snap (h : Hive) (n : Nat) (x : HalfSt) : (h.hset n x).snap = h.snap := rfl
@[simp] theorem Hive.setFlt_snap (h : Hive) (n : Nat) (x : FaultRec) : (h.setFlt n x).snap = h.snap := rfl
@[simp] theorem Hive.wr_storeReads (h : Hive) (a : Nat) (v : Word) : (h.wr a v).storeReads = h.storeReads := rfl
@[simp] theorem Hive.set_storeReads (h : Hive) (f : RF) (v : Nat) : (h.set f v).storeReads = h.storeReads := rfl
@[simp] theorem Hive.setFlag_storeReads (h : Hive) (f : RF) (b : Bool) : (h.setFlag f b).storeReads = h.storeReads := rfl
@[simp] theorem Hive.hwSet_storeReads (h : Hive) (f : RF) : (h.hwSet f).storeReads = h.storeReads := rfl
@[simp] theorem Hive.markEdge_storeReads (h : Hive) (a b : Nat) : (h.markEdge a b).storeReads = h.storeReads := rfl
@[simp] theorem Hive.sset_storeReads (h : Hive) (n : Nat) (x : StreamSt) : (h.sset n x).storeReads = h.storeReads := rfl
@[simp] theorem Hive.hset_storeReads (h : Hive) (n : Nat) (x : HalfSt) : (h.hset n x).storeReads = h.storeReads := rfl
@[simp] theorem Hive.setFlt_storeReads (h : Hive) (n : Nat) (x : FaultRec) : (h.setFlt n x).storeReads = h.storeReads := rfl
@[simp] theorem Hive.wr_bridges (h : Hive) (a : Nat) (v : Word) : (h.wr a v).bridges = h.bridges := rfl
@[simp] theorem Hive.set_bridges (h : Hive) (f : RF) (v : Nat) : (h.set f v).bridges = h.bridges := rfl
@[simp] theorem Hive.setFlag_bridges (h : Hive) (f : RF) (b : Bool) : (h.setFlag f b).bridges = h.bridges := rfl
@[simp] theorem Hive.hwSet_bridges (h : Hive) (f : RF) : (h.hwSet f).bridges = h.bridges := rfl
@[simp] theorem Hive.markEdge_bridges (h : Hive) (a b : Nat) : (h.markEdge a b).bridges = h.bridges := rfl
@[simp] theorem Hive.sset_bridges (h : Hive) (n : Nat) (x : StreamSt) : (h.sset n x).bridges = h.bridges := rfl
@[simp] theorem Hive.hset_bridges (h : Hive) (n : Nat) (x : HalfSt) : (h.hset n x).bridges = h.bridges := rfl
@[simp] theorem Hive.setFlt_bridges (h : Hive) (n : Nat) (x : FaultRec) : (h.setFlt n x).bridges = h.bridges := rfl
@[simp] theorem Hive.wr_zeroed (h : Hive) (a : Nat) (v : Word) : (h.wr a v).zeroed = h.zeroed := rfl
@[simp] theorem Hive.set_zeroed (h : Hive) (f : RF) (v : Nat) : (h.set f v).zeroed = h.zeroed := rfl
@[simp] theorem Hive.setFlag_zeroed (h : Hive) (f : RF) (b : Bool) : (h.setFlag f b).zeroed = h.zeroed := rfl
@[simp] theorem Hive.hwSet_zeroed (h : Hive) (f : RF) : (h.hwSet f).zeroed = h.zeroed := rfl
@[simp] theorem Hive.markEdge_zeroed (h : Hive) (a b : Nat) : (h.markEdge a b).zeroed = h.zeroed := rfl
@[simp] theorem Hive.sset_zeroed (h : Hive) (n : Nat) (x : StreamSt) : (h.sset n x).zeroed = h.zeroed := rfl
@[simp] theorem Hive.hset_zeroed (h : Hive) (n : Nat) (x : HalfSt) : (h.hset n x).zeroed = h.zeroed := rfl
@[simp] theorem Hive.setFlt_zeroed (h : Hive) (n : Nat) (x : FaultRec) : (h.setFlt n x).zeroed = h.zeroed := rfl
@[simp] theorem Hive.wr_dieBad (h : Hive) (a : Nat) (v : Word) : (h.wr a v).dieBad = h.dieBad := rfl
@[simp] theorem Hive.set_dieBad (h : Hive) (f : RF) (v : Nat) : (h.set f v).dieBad = h.dieBad := rfl
@[simp] theorem Hive.setFlag_dieBad (h : Hive) (f : RF) (b : Bool) : (h.setFlag f b).dieBad = h.dieBad := rfl
@[simp] theorem Hive.hwSet_dieBad (h : Hive) (f : RF) : (h.hwSet f).dieBad = h.dieBad := rfl
@[simp] theorem Hive.markEdge_dieBad (h : Hive) (a b : Nat) : (h.markEdge a b).dieBad = h.dieBad := rfl
@[simp] theorem Hive.sset_dieBad (h : Hive) (n : Nat) (x : StreamSt) : (h.sset n x).dieBad = h.dieBad := rfl
@[simp] theorem Hive.hset_dieBad (h : Hive) (n : Nat) (x : HalfSt) : (h.hset n x).dieBad = h.dieBad := rfl
@[simp] theorem Hive.setFlt_dieBad (h : Hive) (n : Nat) (x : FaultRec) : (h.setFlt n x).dieBad = h.dieBad := rfl
@[simp] theorem Hive.wr_smkLost (h : Hive) (a : Nat) (v : Word) : (h.wr a v).smkLost = h.smkLost := rfl
@[simp] theorem Hive.set_smkLost (h : Hive) (f : RF) (v : Nat) : (h.set f v).smkLost = h.smkLost := rfl
@[simp] theorem Hive.setFlag_smkLost (h : Hive) (f : RF) (b : Bool) : (h.setFlag f b).smkLost = h.smkLost := rfl
@[simp] theorem Hive.hwSet_smkLost (h : Hive) (f : RF) : (h.hwSet f).smkLost = h.smkLost := rfl
@[simp] theorem Hive.markEdge_smkLost (h : Hive) (a b : Nat) : (h.markEdge a b).smkLost = h.smkLost := rfl
@[simp] theorem Hive.sset_smkLost (h : Hive) (n : Nat) (x : StreamSt) : (h.sset n x).smkLost = h.smkLost := rfl
@[simp] theorem Hive.hset_smkLost (h : Hive) (n : Nat) (x : HalfSt) : (h.hset n x).smkLost = h.smkLost := rfl
@[simp] theorem Hive.setFlt_smkLost (h : Hive) (n : Nat) (x : FaultRec) : (h.setFlt n x).smkLost = h.smkLost := rfl
@[simp] theorem Hive.wr_cfgWords (h : Hive) (a : Nat) (v : Word) : (h.wr a v).cfgWords = h.cfgWords := rfl
@[simp] theorem Hive.set_cfgWords (h : Hive) (f : RF) (v : Nat) : (h.set f v).cfgWords = h.cfgWords := rfl
@[simp] theorem Hive.setFlag_cfgWords (h : Hive) (f : RF) (b : Bool) : (h.setFlag f b).cfgWords = h.cfgWords := rfl
@[simp] theorem Hive.hwSet_cfgWords (h : Hive) (f : RF) : (h.hwSet f).cfgWords = h.cfgWords := rfl
@[simp] theorem Hive.markEdge_cfgWords (h : Hive) (a b : Nat) : (h.markEdge a b).cfgWords = h.cfgWords := rfl
@[simp] theorem Hive.sset_cfgWords (h : Hive) (n : Nat) (x : StreamSt) : (h.sset n x).cfgWords = h.cfgWords := rfl
@[simp] theorem Hive.hset_cfgWords (h : Hive) (n : Nat) (x : HalfSt) : (h.hset n x).cfgWords = h.cfgWords := rfl
@[simp] theorem Hive.setFlt_cfgWords (h : Hive) (n : Nat) (x : FaultRec) : (h.setFlt n x).cfgWords = h.cfgWords := rfl
@[simp] theorem Hive.wr_cfgSets (h : Hive) (a : Nat) (v : Word) : (h.wr a v).cfgSets = h.cfgSets := rfl
@[simp] theorem Hive.set_cfgSets (h : Hive) (f : RF) (v : Nat) : (h.set f v).cfgSets = h.cfgSets := rfl
@[simp] theorem Hive.setFlag_cfgSets (h : Hive) (f : RF) (b : Bool) : (h.setFlag f b).cfgSets = h.cfgSets := rfl
@[simp] theorem Hive.hwSet_cfgSets (h : Hive) (f : RF) : (h.hwSet f).cfgSets = h.cfgSets := rfl
@[simp] theorem Hive.markEdge_cfgSets (h : Hive) (a b : Nat) : (h.markEdge a b).cfgSets = h.cfgSets := rfl
@[simp] theorem Hive.sset_cfgSets (h : Hive) (n : Nat) (x : StreamSt) : (h.sset n x).cfgSets = h.cfgSets := rfl
@[simp] theorem Hive.hset_cfgSets (h : Hive) (n : Nat) (x : HalfSt) : (h.hset n x).cfgSets = h.cfgSets := rfl
@[simp] theorem Hive.setFlt_cfgSets (h : Hive) (n : Nat) (x : FaultRec) : (h.setFlt n x).cfgSets = h.cfgSets := rfl
@[simp] theorem Hive.wr_cfgLoops (h : Hive) (a : Nat) (v : Word) : (h.wr a v).cfgLoops = h.cfgLoops := rfl
@[simp] theorem Hive.set_cfgLoops (h : Hive) (f : RF) (v : Nat) : (h.set f v).cfgLoops = h.cfgLoops := rfl
@[simp] theorem Hive.setFlag_cfgLoops (h : Hive) (f : RF) (b : Bool) : (h.setFlag f b).cfgLoops = h.cfgLoops := rfl
@[simp] theorem Hive.hwSet_cfgLoops (h : Hive) (f : RF) : (h.hwSet f).cfgLoops = h.cfgLoops := rfl
@[simp] theorem Hive.markEdge_cfgLoops (h : Hive) (a b : Nat) : (h.markEdge a b).cfgLoops = h.cfgLoops := rfl
@[simp] theorem Hive.sset_cfgLoops (h : Hive) (n : Nat) (x : StreamSt) : (h.sset n x).cfgLoops = h.cfgLoops := rfl
@[simp] theorem Hive.hset_cfgLoops (h : Hive) (n : Nat) (x : HalfSt) : (h.hset n x).cfgLoops = h.cfgLoops := rfl
@[simp] theorem Hive.setFlt_cfgLoops (h : Hive) (n : Nat) (x : FaultRec) : (h.setFlt n x).cfgLoops = h.cfgLoops := rfl
@[simp] theorem Hive.wr_eccSeen (h : Hive) (a : Nat) (v : Word) : (h.wr a v).eccSeen = h.eccSeen := rfl
@[simp] theorem Hive.set_eccSeen (h : Hive) (f : RF) (v : Nat) : (h.set f v).eccSeen = h.eccSeen := rfl
@[simp] theorem Hive.setFlag_eccSeen (h : Hive) (f : RF) (b : Bool) : (h.setFlag f b).eccSeen = h.eccSeen := rfl
@[simp] theorem Hive.hwSet_eccSeen (h : Hive) (f : RF) : (h.hwSet f).eccSeen = h.eccSeen := rfl
@[simp] theorem Hive.markEdge_eccSeen (h : Hive) (a b : Nat) : (h.markEdge a b).eccSeen = h.eccSeen := rfl
@[simp] theorem Hive.sset_eccSeen (h : Hive) (n : Nat) (x : StreamSt) : (h.sset n x).eccSeen = h.eccSeen := rfl
@[simp] theorem Hive.hset_eccSeen (h : Hive) (n : Nat) (x : HalfSt) : (h.hset n x).eccSeen = h.eccSeen := rfl
@[simp] theorem Hive.setFlt_eccSeen (h : Hive) (n : Nat) (x : FaultRec) : (h.setFlt n x).eccSeen = h.eccSeen := rfl
@[simp] theorem Hive.wr_scrubDone (h : Hive) (a : Nat) (v : Word) : (h.wr a v).scrubDone = h.scrubDone := rfl
@[simp] theorem Hive.set_scrubDone (h : Hive) (f : RF) (v : Nat) : (h.set f v).scrubDone = h.scrubDone := rfl
@[simp] theorem Hive.setFlag_scrubDone (h : Hive) (f : RF) (b : Bool) : (h.setFlag f b).scrubDone = h.scrubDone := rfl
@[simp] theorem Hive.hwSet_scrubDone (h : Hive) (f : RF) : (h.hwSet f).scrubDone = h.scrubDone := rfl
@[simp] theorem Hive.markEdge_scrubDone (h : Hive) (a b : Nat) : (h.markEdge a b).scrubDone = h.scrubDone := rfl
@[simp] theorem Hive.sset_scrubDone (h : Hive) (n : Nat) (x : StreamSt) : (h.sset n x).scrubDone = h.scrubDone := rfl
@[simp] theorem Hive.hset_scrubDone (h : Hive) (n : Nat) (x : HalfSt) : (h.hset n x).scrubDone = h.scrubDone := rfl
@[simp] theorem Hive.setFlt_scrubDone (h : Hive) (n : Nat) (x : FaultRec) : (h.setFlt n x).scrubDone = h.scrubDone := rfl
@[simp] theorem Hive.wr_maint (h : Hive) (a : Nat) (v : Word) : (h.wr a v).maint = h.maint := rfl
@[simp] theorem Hive.set_maint (h : Hive) (f : RF) (v : Nat) : (h.set f v).maint = h.maint := rfl
@[simp] theorem Hive.setFlag_maint (h : Hive) (f : RF) (b : Bool) : (h.setFlag f b).maint = h.maint := rfl
@[simp] theorem Hive.hwSet_maint (h : Hive) (f : RF) : (h.hwSet f).maint = h.maint := rfl
@[simp] theorem Hive.markEdge_maint (h : Hive) (a b : Nat) : (h.markEdge a b).maint = h.maint := rfl
@[simp] theorem Hive.sset_maint (h : Hive) (n : Nat) (x : StreamSt) : (h.sset n x).maint = h.maint := rfl
@[simp] theorem Hive.hset_maint (h : Hive) (n : Nat) (x : HalfSt) : (h.hset n x).maint = h.maint := rfl
@[simp] theorem Hive.setFlt_maint (h : Hive) (n : Nat) (x : FaultRec) : (h.setFlt n x).maint = h.maint := rfl
@[simp] theorem Hive.wr_maintSeq (h : Hive) (a : Nat) (v : Word) : (h.wr a v).maintSeq = h.maintSeq := rfl
@[simp] theorem Hive.set_maintSeq (h : Hive) (f : RF) (v : Nat) : (h.set f v).maintSeq = h.maintSeq := rfl
@[simp] theorem Hive.setFlag_maintSeq (h : Hive) (f : RF) (b : Bool) : (h.setFlag f b).maintSeq = h.maintSeq := rfl
@[simp] theorem Hive.hwSet_maintSeq (h : Hive) (f : RF) : (h.hwSet f).maintSeq = h.maintSeq := rfl
@[simp] theorem Hive.markEdge_maintSeq (h : Hive) (a b : Nat) : (h.markEdge a b).maintSeq = h.maintSeq := rfl
@[simp] theorem Hive.sset_maintSeq (h : Hive) (n : Nat) (x : StreamSt) : (h.sset n x).maintSeq = h.maintSeq := rfl
@[simp] theorem Hive.hset_maintSeq (h : Hive) (n : Nat) (x : HalfSt) : (h.hset n x).maintSeq = h.maintSeq := rfl
@[simp] theorem Hive.setFlt_maintSeq (h : Hive) (n : Nat) (x : FaultRec) : (h.setFlt n x).maintSeq = h.maintSeq := rfl
@[simp] theorem Hive.wr_fwTarget (h : Hive) (a : Nat) (v : Word) : (h.wr a v).fwTarget = h.fwTarget := rfl
@[simp] theorem Hive.set_fwTarget (h : Hive) (f : RF) (v : Nat) : (h.set f v).fwTarget = h.fwTarget := rfl
@[simp] theorem Hive.setFlag_fwTarget (h : Hive) (f : RF) (b : Bool) : (h.setFlag f b).fwTarget = h.fwTarget := rfl
@[simp] theorem Hive.hwSet_fwTarget (h : Hive) (f : RF) : (h.hwSet f).fwTarget = h.fwTarget := rfl
@[simp] theorem Hive.markEdge_fwTarget (h : Hive) (a b : Nat) : (h.markEdge a b).fwTarget = h.fwTarget := rfl
@[simp] theorem Hive.sset_fwTarget (h : Hive) (n : Nat) (x : StreamSt) : (h.sset n x).fwTarget = h.fwTarget := rfl
@[simp] theorem Hive.hset_fwTarget (h : Hive) (n : Nat) (x : HalfSt) : (h.hset n x).fwTarget = h.fwTarget := rfl
@[simp] theorem Hive.setFlt_fwTarget (h : Hive) (n : Nat) (x : FaultRec) : (h.setFlt n x).fwTarget = h.fwTarget := rfl
@[simp] theorem Hive.wr_fwSlot (h : Hive) (a : Nat) (v : Word) : (h.wr a v).fwSlot = h.fwSlot := rfl
@[simp] theorem Hive.set_fwSlot (h : Hive) (f : RF) (v : Nat) : (h.set f v).fwSlot = h.fwSlot := rfl
@[simp] theorem Hive.setFlag_fwSlot (h : Hive) (f : RF) (b : Bool) : (h.setFlag f b).fwSlot = h.fwSlot := rfl
@[simp] theorem Hive.hwSet_fwSlot (h : Hive) (f : RF) : (h.hwSet f).fwSlot = h.fwSlot := rfl
@[simp] theorem Hive.markEdge_fwSlot (h : Hive) (a b : Nat) : (h.markEdge a b).fwSlot = h.fwSlot := rfl
@[simp] theorem Hive.sset_fwSlot (h : Hive) (n : Nat) (x : StreamSt) : (h.sset n x).fwSlot = h.fwSlot := rfl
@[simp] theorem Hive.hset_fwSlot (h : Hive) (n : Nat) (x : HalfSt) : (h.hset n x).fwSlot = h.fwSlot := rfl
@[simp] theorem Hive.setFlt_fwSlot (h : Hive) (n : Nat) (x : FaultRec) : (h.setFlt n x).fwSlot = h.fwSlot := rfl
@[simp] theorem Hive.wr_lanes (h : Hive) (a : Nat) (v : Word) : (h.wr a v).lanes = h.lanes := rfl
@[simp] theorem Hive.set_lanes (h : Hive) (f : RF) (v : Nat) : (h.set f v).lanes = h.lanes := rfl
@[simp] theorem Hive.setFlag_lanes (h : Hive) (f : RF) (b : Bool) : (h.setFlag f b).lanes = h.lanes := rfl
@[simp] theorem Hive.hwSet_lanes (h : Hive) (f : RF) : (h.hwSet f).lanes = h.lanes := rfl
@[simp] theorem Hive.markEdge_lanes (h : Hive) (a b : Nat) : (h.markEdge a b).lanes = h.lanes := rfl
@[simp] theorem Hive.sset_lanes (h : Hive) (n : Nat) (x : StreamSt) : (h.sset n x).lanes = h.lanes := rfl
@[simp] theorem Hive.hset_lanes (h : Hive) (n : Nat) (x : HalfSt) : (h.hset n x).lanes = h.lanes := rfl
@[simp] theorem Hive.setFlt_lanes (h : Hive) (n : Nat) (x : FaultRec) : (h.setFlt n x).lanes = h.lanes := rfl
@[simp] theorem Hive.wr_maps (h : Hive) (a : Nat) (v : Word) : (h.wr a v).maps = h.maps := rfl
@[simp] theorem Hive.set_maps (h : Hive) (f : RF) (v : Nat) : (h.set f v).maps = h.maps := rfl
@[simp] theorem Hive.setFlag_maps (h : Hive) (f : RF) (b : Bool) : (h.setFlag f b).maps = h.maps := rfl
@[simp] theorem Hive.hwSet_maps (h : Hive) (f : RF) : (h.hwSet f).maps = h.maps := rfl
@[simp] theorem Hive.markEdge_maps (h : Hive) (a b : Nat) : (h.markEdge a b).maps = h.maps := rfl
@[simp] theorem Hive.sset_maps (h : Hive) (n : Nat) (x : StreamSt) : (h.sset n x).maps = h.maps := rfl
@[simp] theorem Hive.hset_maps (h : Hive) (n : Nat) (x : HalfSt) : (h.hset n x).maps = h.maps := rfl
@[simp] theorem Hive.setFlt_maps (h : Hive) (n : Nat) (x : FaultRec) : (h.setFlt n x).maps = h.maps := rfl
@[simp] theorem Hive.wr_spares (h : Hive) (a : Nat) (v : Word) : (h.wr a v).spares = h.spares := rfl
@[simp] theorem Hive.set_spares (h : Hive) (f : RF) (v : Nat) : (h.set f v).spares = h.spares := rfl
@[simp] theorem Hive.setFlag_spares (h : Hive) (f : RF) (b : Bool) : (h.setFlag f b).spares = h.spares := rfl
@[simp] theorem Hive.hwSet_spares (h : Hive) (f : RF) : (h.hwSet f).spares = h.spares := rfl
@[simp] theorem Hive.markEdge_spares (h : Hive) (a b : Nat) : (h.markEdge a b).spares = h.spares := rfl
@[simp] theorem Hive.sset_spares (h : Hive) (n : Nat) (x : StreamSt) : (h.sset n x).spares = h.spares := rfl
@[simp] theorem Hive.hset_spares (h : Hive) (n : Nat) (x : HalfSt) : (h.hset n x).spares = h.spares := rfl
@[simp] theorem Hive.setFlt_spares (h : Hive) (n : Nat) (x : FaultRec) : (h.setFlt n x).spares = h.spares := rfl
@[simp] theorem Hive.wr_fallbacks (h : Hive) (a : Nat) (v : Word) : (h.wr a v).fallbacks = h.fallbacks := rfl
@[simp] theorem Hive.set_fallbacks (h : Hive) (f : RF) (v : Nat) : (h.set f v).fallbacks = h.fallbacks := rfl
@[simp] theorem Hive.setFlag_fallbacks (h : Hive) (f : RF) (b : Bool) : (h.setFlag f b).fallbacks = h.fallbacks := rfl
@[simp] theorem Hive.hwSet_fallbacks (h : Hive) (f : RF) : (h.hwSet f).fallbacks = h.fallbacks := rfl
@[simp] theorem Hive.markEdge_fallbacks (h : Hive) (a b : Nat) : (h.markEdge a b).fallbacks = h.fallbacks := rfl
@[simp] theorem Hive.sset_fallbacks (h : Hive) (n : Nat) (x : StreamSt) : (h.sset n x).fallbacks = h.fallbacks := rfl
@[simp] theorem Hive.hset_fallbacks (h : Hive) (n : Nat) (x : HalfSt) : (h.hset n x).fallbacks = h.fallbacks := rfl
@[simp] theorem Hive.setFlt_fallbacks (h : Hive) (n : Nat) (x : FaultRec) : (h.setFlt n x).fallbacks = h.fallbacks := rfl
@[simp] theorem Hive.wr_carry (h : Hive) (a : Nat) (v : Word) : (h.wr a v).carry = h.carry := rfl
@[simp] theorem Hive.set_carry (h : Hive) (f : RF) (v : Nat) : (h.set f v).carry = h.carry := rfl
@[simp] theorem Hive.setFlag_carry (h : Hive) (f : RF) (b : Bool) : (h.setFlag f b).carry = h.carry := rfl
@[simp] theorem Hive.hwSet_carry (h : Hive) (f : RF) : (h.hwSet f).carry = h.carry := rfl
@[simp] theorem Hive.markEdge_carry (h : Hive) (a b : Nat) : (h.markEdge a b).carry = h.carry := rfl
@[simp] theorem Hive.sset_carry (h : Hive) (n : Nat) (x : StreamSt) : (h.sset n x).carry = h.carry := rfl
@[simp] theorem Hive.hset_carry (h : Hive) (n : Nat) (x : HalfSt) : (h.hset n x).carry = h.carry := rfl
@[simp] theorem Hive.setFlt_carry (h : Hive) (n : Nat) (x : FaultRec) : (h.setFlt n x).carry = h.carry := rfl
@[simp] theorem Hive.wr_fellBack (h : Hive) (a : Nat) (v : Word) : (h.wr a v).fellBack = h.fellBack := rfl
@[simp] theorem Hive.set_fellBack (h : Hive) (f : RF) (v : Nat) : (h.set f v).fellBack = h.fellBack := rfl
@[simp] theorem Hive.setFlag_fellBack (h : Hive) (f : RF) (b : Bool) : (h.setFlag f b).fellBack = h.fellBack := rfl
@[simp] theorem Hive.hwSet_fellBack (h : Hive) (f : RF) : (h.hwSet f).fellBack = h.fellBack := rfl
@[simp] theorem Hive.markEdge_fellBack (h : Hive) (a b : Nat) : (h.markEdge a b).fellBack = h.fellBack := rfl
@[simp] theorem Hive.sset_fellBack (h : Hive) (n : Nat) (x : StreamSt) : (h.sset n x).fellBack = h.fellBack := rfl
@[simp] theorem Hive.hset_fellBack (h : Hive) (n : Nat) (x : HalfSt) : (h.hset n x).fellBack = h.fellBack := rfl
@[simp] theorem Hive.setFlt_fellBack (h : Hive) (n : Nat) (x : FaultRec) : (h.setFlt n x).fellBack = h.fellBack := rfl
@[simp] theorem Hive.wr_cfgSpares (h : Hive) (a : Nat) (v : Word) : (h.wr a v).cfgSpares = h.cfgSpares := rfl
@[simp] theorem Hive.set_cfgSpares (h : Hive) (f : RF) (v : Nat) : (h.set f v).cfgSpares = h.cfgSpares := rfl
@[simp] theorem Hive.setFlag_cfgSpares (h : Hive) (f : RF) (b : Bool) : (h.setFlag f b).cfgSpares = h.cfgSpares := rfl
@[simp] theorem Hive.hwSet_cfgSpares (h : Hive) (f : RF) : (h.hwSet f).cfgSpares = h.cfgSpares := rfl
@[simp] theorem Hive.markEdge_cfgSpares (h : Hive) (a b : Nat) : (h.markEdge a b).cfgSpares = h.cfgSpares := rfl
@[simp] theorem Hive.sset_cfgSpares (h : Hive) (n : Nat) (x : StreamSt) : (h.sset n x).cfgSpares = h.cfgSpares := rfl
@[simp] theorem Hive.hset_cfgSpares (h : Hive) (n : Nat) (x : HalfSt) : (h.hset n x).cfgSpares = h.cfgSpares := rfl
@[simp] theorem Hive.setFlt_cfgSpares (h : Hive) (n : Nat) (x : FaultRec) : (h.setFlt n x).cfgSpares = h.cfgSpares := rfl
@[simp] theorem Hive.wr_cfgLinks (h : Hive) (a : Nat) (v : Word) : (h.wr a v).cfgLinks = h.cfgLinks := rfl
@[simp] theorem Hive.set_cfgLinks (h : Hive) (f : RF) (v : Nat) : (h.set f v).cfgLinks = h.cfgLinks := rfl
@[simp] theorem Hive.setFlag_cfgLinks (h : Hive) (f : RF) (b : Bool) : (h.setFlag f b).cfgLinks = h.cfgLinks := rfl
@[simp] theorem Hive.hwSet_cfgLinks (h : Hive) (f : RF) : (h.hwSet f).cfgLinks = h.cfgLinks := rfl
@[simp] theorem Hive.markEdge_cfgLinks (h : Hive) (a b : Nat) : (h.markEdge a b).cfgLinks = h.cfgLinks := rfl
@[simp] theorem Hive.sset_cfgLinks (h : Hive) (n : Nat) (x : StreamSt) : (h.sset n x).cfgLinks = h.cfgLinks := rfl
@[simp] theorem Hive.hset_cfgLinks (h : Hive) (n : Nat) (x : HalfSt) : (h.hset n x).cfgLinks = h.cfgLinks := rfl
@[simp] theorem Hive.setFlt_cfgLinks (h : Hive) (n : Nat) (x : FaultRec) : (h.setFlt n x).cfgLinks = h.cfgLinks := rfl
@[simp] theorem Hive.wr_outq (h : Hive) (a : Nat) (v : Word) : (h.wr a v).outq = h.outq := rfl
@[simp] theorem Hive.set_outq (h : Hive) (f : RF) (v : Nat) : (h.set f v).outq = h.outq := rfl
@[simp] theorem Hive.setFlag_outq (h : Hive) (f : RF) (b : Bool) : (h.setFlag f b).outq = h.outq := rfl
@[simp] theorem Hive.hwSet_outq (h : Hive) (f : RF) : (h.hwSet f).outq = h.outq := rfl
@[simp] theorem Hive.markEdge_outq (h : Hive) (a b : Nat) : (h.markEdge a b).outq = h.outq := rfl
@[simp] theorem Hive.sset_outq (h : Hive) (n : Nat) (x : StreamSt) : (h.sset n x).outq = h.outq := rfl
@[simp] theorem Hive.hset_outq (h : Hive) (n : Nat) (x : HalfSt) : (h.hset n x).outq = h.outq := rfl
@[simp] theorem Hive.setFlt_outq (h : Hive) (n : Nat) (x : FaultRec) : (h.setFlt n x).outq = h.outq := rfl
@[simp] theorem Hive.wr_convs (h : Hive) (a : Nat) (v : Word) : (h.wr a v).convs = h.convs := rfl
@[simp] theorem Hive.set_convs (h : Hive) (f : RF) (v : Nat) : (h.set f v).convs = h.convs := rfl
@[simp] theorem Hive.setFlag_convs (h : Hive) (f : RF) (b : Bool) : (h.setFlag f b).convs = h.convs := rfl
@[simp] theorem Hive.hwSet_convs (h : Hive) (f : RF) : (h.hwSet f).convs = h.convs := rfl
@[simp] theorem Hive.markEdge_convs (h : Hive) (a b : Nat) : (h.markEdge a b).convs = h.convs := rfl
@[simp] theorem Hive.sset_convs (h : Hive) (n : Nat) (x : StreamSt) : (h.sset n x).convs = h.convs := rfl
@[simp] theorem Hive.hset_convs (h : Hive) (n : Nat) (x : HalfSt) : (h.hset n x).convs = h.convs := rfl
@[simp] theorem Hive.setFlt_convs (h : Hive) (n : Nat) (x : FaultRec) : (h.setFlt n x).convs = h.convs := rfl
@[simp] theorem Hive.wr_rclk (h : Hive) (a : Nat) (v : Word) : (h.wr a v).rclk = h.rclk := rfl
@[simp] theorem Hive.set_rclk (h : Hive) (f : RF) (v : Nat) : (h.set f v).rclk = h.rclk := rfl
@[simp] theorem Hive.setFlag_rclk (h : Hive) (f : RF) (b : Bool) : (h.setFlag f b).rclk = h.rclk := rfl
@[simp] theorem Hive.hwSet_rclk (h : Hive) (f : RF) : (h.hwSet f).rclk = h.rclk := rfl
@[simp] theorem Hive.markEdge_rclk (h : Hive) (a b : Nat) : (h.markEdge a b).rclk = h.rclk := rfl
@[simp] theorem Hive.sset_rclk (h : Hive) (n : Nat) (x : StreamSt) : (h.sset n x).rclk = h.rclk := rfl
@[simp] theorem Hive.hset_rclk (h : Hive) (n : Nat) (x : HalfSt) : (h.hset n x).rclk = h.rclk := rfl
@[simp] theorem Hive.setFlt_rclk (h : Hive) (n : Nat) (x : FaultRec) : (h.setFlt n x).rclk = h.rclk := rfl
@[simp] theorem Hive.wr_eth (h : Hive) (a : Nat) (v : Word) : (h.wr a v).eth = h.eth := rfl
@[simp] theorem Hive.set_eth (h : Hive) (f : RF) (v : Nat) : (h.set f v).eth = h.eth := rfl
@[simp] theorem Hive.setFlag_eth (h : Hive) (f : RF) (b : Bool) : (h.setFlag f b).eth = h.eth := rfl
@[simp] theorem Hive.hwSet_eth (h : Hive) (f : RF) : (h.hwSet f).eth = h.eth := rfl
@[simp] theorem Hive.markEdge_eth (h : Hive) (a b : Nat) : (h.markEdge a b).eth = h.eth := rfl
@[simp] theorem Hive.sset_eth (h : Hive) (n : Nat) (x : StreamSt) : (h.sset n x).eth = h.eth := rfl
@[simp] theorem Hive.hset_eth (h : Hive) (n : Nat) (x : HalfSt) : (h.hset n x).eth = h.eth := rfl
@[simp] theorem Hive.setFlt_eth (h : Hive) (n : Nat) (x : FaultRec) : (h.setFlt n x).eth = h.eth := rfl
@[simp] theorem Hive.wr_txq (h : Hive) (a : Nat) (v : Word) : (h.wr a v).txq = h.txq := rfl
@[simp] theorem Hive.set_txq (h : Hive) (f : RF) (v : Nat) : (h.set f v).txq = h.txq := rfl
@[simp] theorem Hive.setFlag_txq (h : Hive) (f : RF) (b : Bool) : (h.setFlag f b).txq = h.txq := rfl
@[simp] theorem Hive.hwSet_txq (h : Hive) (f : RF) : (h.hwSet f).txq = h.txq := rfl
@[simp] theorem Hive.markEdge_txq (h : Hive) (a b : Nat) : (h.markEdge a b).txq = h.txq := rfl
@[simp] theorem Hive.sset_txq (h : Hive) (n : Nat) (x : StreamSt) : (h.sset n x).txq = h.txq := rfl
@[simp] theorem Hive.hset_txq (h : Hive) (n : Nat) (x : HalfSt) : (h.hset n x).txq = h.txq := rfl
@[simp] theorem Hive.setFlt_txq (h : Hive) (n : Nat) (x : FaultRec) : (h.setFlt n x).txq = h.txq := rfl
@[simp] theorem Hive.wr_sysref (h : Hive) (a : Nat) (v : Word) : (h.wr a v).sysref = h.sysref := rfl
@[simp] theorem Hive.set_sysref (h : Hive) (f : RF) (v : Nat) : (h.set f v).sysref = h.sysref := rfl
@[simp] theorem Hive.setFlag_sysref (h : Hive) (f : RF) (b : Bool) : (h.setFlag f b).sysref = h.sysref := rfl
@[simp] theorem Hive.hwSet_sysref (h : Hive) (f : RF) : (h.hwSet f).sysref = h.sysref := rfl
@[simp] theorem Hive.markEdge_sysref (h : Hive) (a b : Nat) : (h.markEdge a b).sysref = h.sysref := rfl
@[simp] theorem Hive.sset_sysref (h : Hive) (n : Nat) (x : StreamSt) : (h.sset n x).sysref = h.sysref := rfl
@[simp] theorem Hive.hset_sysref (h : Hive) (n : Nat) (x : HalfSt) : (h.hset n x).sysref = h.sysref := rfl
@[simp] theorem Hive.setFlt_sysref (h : Hive) (n : Nat) (x : FaultRec) : (h.setFlt n x).sysref = h.sysref := rfl
@[simp] theorem Hive.wr_kpar (h : Hive) (a : Nat) (v : Word) : (h.wr a v).kpar = h.kpar := rfl
@[simp] theorem Hive.set_kpar (h : Hive) (f : RF) (v : Nat) : (h.set f v).kpar = h.kpar := rfl
@[simp] theorem Hive.setFlag_kpar (h : Hive) (f : RF) (b : Bool) : (h.setFlag f b).kpar = h.kpar := rfl
@[simp] theorem Hive.hwSet_kpar (h : Hive) (f : RF) : (h.hwSet f).kpar = h.kpar := rfl
@[simp] theorem Hive.markEdge_kpar (h : Hive) (a b : Nat) : (h.markEdge a b).kpar = h.kpar := rfl
@[simp] theorem Hive.sset_kpar (h : Hive) (n : Nat) (x : StreamSt) : (h.sset n x).kpar = h.kpar := rfl
@[simp] theorem Hive.hset_kpar (h : Hive) (n : Nat) (x : HalfSt) : (h.hset n x).kpar = h.kpar := rfl
@[simp] theorem Hive.setFlt_kpar (h : Hive) (n : Nat) (x : FaultRec) : (h.setFlt n x).kpar = h.kpar := rfl
@[simp] theorem Hive.wr_work (h : Hive) (a : Nat) (v : Word) : (h.wr a v).work = h.work := rfl
@[simp] theorem Hive.set_work (h : Hive) (f : RF) (v : Nat) : (h.set f v).work = h.work := rfl
@[simp] theorem Hive.setFlag_work (h : Hive) (f : RF) (b : Bool) : (h.setFlag f b).work = h.work := rfl
@[simp] theorem Hive.hwSet_work (h : Hive) (f : RF) : (h.hwSet f).work = h.work := rfl
@[simp] theorem Hive.markEdge_work (h : Hive) (a b : Nat) : (h.markEdge a b).work = h.work := rfl
@[simp] theorem Hive.sset_work (h : Hive) (n : Nat) (x : StreamSt) : (h.sset n x).work = h.work := rfl
@[simp] theorem Hive.hset_work (h : Hive) (n : Nat) (x : HalfSt) : (h.hset n x).work = h.work := rfl
@[simp] theorem Hive.setFlt_work (h : Hive) (n : Nat) (x : FaultRec) : (h.setFlt n x).work = h.work := rfl
@[simp] theorem Hive.wr_combs (h : Hive) (a : Nat) (v : Word) : (h.wr a v).combs = h.combs := rfl
@[simp] theorem Hive.set_combs (h : Hive) (f : RF) (v : Nat) : (h.set f v).combs = h.combs := rfl
@[simp] theorem Hive.setFlag_combs (h : Hive) (f : RF) (b : Bool) : (h.setFlag f b).combs = h.combs := rfl
@[simp] theorem Hive.hwSet_combs (h : Hive) (f : RF) : (h.hwSet f).combs = h.combs := rfl
@[simp] theorem Hive.markEdge_combs (h : Hive) (a b : Nat) : (h.markEdge a b).combs = h.combs := rfl
@[simp] theorem Hive.sset_combs (h : Hive) (n : Nat) (x : StreamSt) : (h.sset n x).combs = h.combs := rfl
@[simp] theorem Hive.hset_combs (h : Hive) (n : Nat) (x : HalfSt) : (h.hset n x).combs = h.combs := rfl
@[simp] theorem Hive.setFlt_combs (h : Hive) (n : Nat) (x : FaultRec) : (h.setFlt n x).combs = h.combs := rfl
@[simp] theorem Hive.wr_hist (h : Hive) (a : Nat) (v : Word) : (h.wr a v).hist = h.hist := rfl
@[simp] theorem Hive.set_hist (h : Hive) (f : RF) (v : Nat) : (h.set f v).hist = h.hist := rfl
@[simp] theorem Hive.setFlag_hist (h : Hive) (f : RF) (b : Bool) : (h.setFlag f b).hist = h.hist := rfl
@[simp] theorem Hive.hwSet_hist (h : Hive) (f : RF) : (h.hwSet f).hist = h.hist := rfl
@[simp] theorem Hive.markEdge_hist (h : Hive) (a b : Nat) : (h.markEdge a b).hist = h.hist := rfl
@[simp] theorem Hive.sset_hist (h : Hive) (n : Nat) (x : StreamSt) : (h.sset n x).hist = h.hist := rfl
@[simp] theorem Hive.hset_hist (h : Hive) (n : Nat) (x : HalfSt) : (h.hset n x).hist = h.hist := rfl
@[simp] theorem Hive.setFlt_hist (h : Hive) (n : Nat) (x : FaultRec) : (h.setFlt n x).hist = h.hist := rfl
@[simp] theorem Hive.wr_kdecl (h : Hive) (a : Nat) (v : Word) : (h.wr a v).kdecl = h.kdecl := rfl
@[simp] theorem Hive.set_kdecl (h : Hive) (f : RF) (v : Nat) : (h.set f v).kdecl = h.kdecl := rfl
@[simp] theorem Hive.setFlag_kdecl (h : Hive) (f : RF) (b : Bool) : (h.setFlag f b).kdecl = h.kdecl := rfl
@[simp] theorem Hive.hwSet_kdecl (h : Hive) (f : RF) : (h.hwSet f).kdecl = h.kdecl := rfl
@[simp] theorem Hive.markEdge_kdecl (h : Hive) (a b : Nat) : (h.markEdge a b).kdecl = h.kdecl := rfl
@[simp] theorem Hive.sset_kdecl (h : Hive) (n : Nat) (x : StreamSt) : (h.sset n x).kdecl = h.kdecl := rfl
@[simp] theorem Hive.hset_kdecl (h : Hive) (n : Nat) (x : HalfSt) : (h.hset n x).kdecl = h.kdecl := rfl
@[simp] theorem Hive.setFlt_kdecl (h : Hive) (n : Nat) (x : FaultRec) : (h.setFlt n x).kdecl = h.kdecl := rfl
@[simp] theorem Hive.wr_superSleep (h : Hive) (a : Nat) (v : Word) : (h.wr a v).superSleep = h.superSleep := rfl
@[simp] theorem Hive.set_superSleep (h : Hive) (f : RF) (v : Nat) : (h.set f v).superSleep = h.superSleep := rfl
@[simp] theorem Hive.setFlag_superSleep (h : Hive) (f : RF) (b : Bool) : (h.setFlag f b).superSleep = h.superSleep := rfl
@[simp] theorem Hive.hwSet_superSleep (h : Hive) (f : RF) : (h.hwSet f).superSleep = h.superSleep := rfl
@[simp] theorem Hive.markEdge_superSleep (h : Hive) (a b : Nat) : (h.markEdge a b).superSleep = h.superSleep := rfl
@[simp] theorem Hive.sset_superSleep (h : Hive) (n : Nat) (x : StreamSt) : (h.sset n x).superSleep = h.superSleep := rfl
@[simp] theorem Hive.hset_superSleep (h : Hive) (n : Nat) (x : HalfSt) : (h.hset n x).superSleep = h.superSleep := rfl
@[simp] theorem Hive.setFlt_superSleep (h : Hive) (n : Nat) (x : FaultRec) : (h.setFlt n x).superSleep = h.superSleep := rfl
@[simp] theorem Hive.wr_npm (h : Hive) (a : Nat) (v : Word) : (h.wr a v).npm = h.npm := rfl
@[simp] theorem Hive.set_npm (h : Hive) (f : RF) (v : Nat) : (h.set f v).npm = h.npm := rfl
@[simp] theorem Hive.setFlag_npm (h : Hive) (f : RF) (b : Bool) : (h.setFlag f b).npm = h.npm := rfl
@[simp] theorem Hive.hwSet_npm (h : Hive) (f : RF) : (h.hwSet f).npm = h.npm := rfl
@[simp] theorem Hive.markEdge_npm (h : Hive) (a b : Nat) : (h.markEdge a b).npm = h.npm := rfl
@[simp] theorem Hive.sset_npm (h : Hive) (n : Nat) (x : StreamSt) : (h.sset n x).npm = h.npm := rfl
@[simp] theorem Hive.hset_npm (h : Hive) (n : Nat) (x : HalfSt) : (h.hset n x).npm = h.npm := rfl
@[simp] theorem Hive.setFlt_npm (h : Hive) (n : Nat) (x : FaultRec) : (h.setFlt n x).npm = h.npm := rfl
@[simp] theorem Hive.wr_trk (h : Hive) (a : Nat) (v : Word) : (h.wr a v).trk = h.trk := rfl
@[simp] theorem Hive.set_trk (h : Hive) (f : RF) (v : Nat) : (h.set f v).trk = h.trk := rfl
@[simp] theorem Hive.setFlag_trk (h : Hive) (f : RF) (b : Bool) : (h.setFlag f b).trk = h.trk := rfl
@[simp] theorem Hive.hwSet_trk (h : Hive) (f : RF) : (h.hwSet f).trk = h.trk := rfl
@[simp] theorem Hive.markEdge_trk (h : Hive) (a b : Nat) : (h.markEdge a b).trk = h.trk := rfl
@[simp] theorem Hive.sset_trk (h : Hive) (n : Nat) (x : StreamSt) : (h.sset n x).trk = h.trk := rfl
@[simp] theorem Hive.hset_trk (h : Hive) (n : Nat) (x : HalfSt) : (h.hset n x).trk = h.trk := rfl
@[simp] theorem Hive.setFlt_trk (h : Hive) (n : Nat) (x : FaultRec) : (h.setFlt n x).trk = h.trk := rfl
@[simp] theorem Hive.wr_inband (h : Hive) (a : Nat) (v : Word) : (h.wr a v).inband = h.inband := rfl
@[simp] theorem Hive.set_inband (h : Hive) (f : RF) (v : Nat) : (h.set f v).inband = h.inband := rfl
@[simp] theorem Hive.setFlag_inband (h : Hive) (f : RF) (b : Bool) : (h.setFlag f b).inband = h.inband := rfl
@[simp] theorem Hive.hwSet_inband (h : Hive) (f : RF) : (h.hwSet f).inband = h.inband := rfl
@[simp] theorem Hive.markEdge_inband (h : Hive) (a b : Nat) : (h.markEdge a b).inband = h.inband := rfl
@[simp] theorem Hive.sset_inband (h : Hive) (n : Nat) (x : StreamSt) : (h.sset n x).inband = h.inband := rfl
@[simp] theorem Hive.hset_inband (h : Hive) (n : Nat) (x : HalfSt) : (h.hset n x).inband = h.inband := rfl
@[simp] theorem Hive.setFlt_inband (h : Hive) (n : Nat) (x : FaultRec) : (h.setFlt n x).inband = h.inband := rfl
@[simp] theorem Hive.wr_gbands (h : Hive) (a : Nat) (v : Word) : (h.wr a v).gbands = h.gbands := rfl
@[simp] theorem Hive.set_gbands (h : Hive) (f : RF) (v : Nat) : (h.set f v).gbands = h.gbands := rfl
@[simp] theorem Hive.setFlag_gbands (h : Hive) (f : RF) (b : Bool) : (h.setFlag f b).gbands = h.gbands := rfl
@[simp] theorem Hive.hwSet_gbands (h : Hive) (f : RF) : (h.hwSet f).gbands = h.gbands := rfl
@[simp] theorem Hive.markEdge_gbands (h : Hive) (a b : Nat) : (h.markEdge a b).gbands = h.gbands := rfl
@[simp] theorem Hive.sset_gbands (h : Hive) (n : Nat) (x : StreamSt) : (h.sset n x).gbands = h.gbands := rfl
@[simp] theorem Hive.hset_gbands (h : Hive) (n : Nat) (x : HalfSt) : (h.hset n x).gbands = h.gbands := rfl
@[simp] theorem Hive.setFlt_gbands (h : Hive) (n : Nat) (x : FaultRec) : (h.setFlt n x).gbands = h.gbands := rfl
@[simp] theorem Hive.wr_npmMutes (h : Hive) (a : Nat) (v : Word) : (h.wr a v).npmMutes = h.npmMutes := rfl
@[simp] theorem Hive.set_npmMutes (h : Hive) (f : RF) (v : Nat) : (h.set f v).npmMutes = h.npmMutes := rfl
@[simp] theorem Hive.setFlag_npmMutes (h : Hive) (f : RF) (b : Bool) : (h.setFlag f b).npmMutes = h.npmMutes := rfl
@[simp] theorem Hive.hwSet_npmMutes (h : Hive) (f : RF) : (h.hwSet f).npmMutes = h.npmMutes := rfl
@[simp] theorem Hive.markEdge_npmMutes (h : Hive) (a b : Nat) : (h.markEdge a b).npmMutes = h.npmMutes := rfl
@[simp] theorem Hive.sset_npmMutes (h : Hive) (n : Nat) (x : StreamSt) : (h.sset n x).npmMutes = h.npmMutes := rfl
@[simp] theorem Hive.hset_npmMutes (h : Hive) (n : Nat) (x : HalfSt) : (h.hset n x).npmMutes = h.npmMutes := rfl
@[simp] theorem Hive.setFlt_npmMutes (h : Hive) (n : Nat) (x : FaultRec) : (h.setFlt n x).npmMutes = h.npmMutes := rfl
@[simp] theorem Hive.wr_gmap (h : Hive) (a : Nat) (v : Word) : (h.wr a v).gmap = h.gmap := rfl
@[simp] theorem Hive.set_gmap (h : Hive) (f : RF) (v : Nat) : (h.set f v).gmap = h.gmap := rfl
@[simp] theorem Hive.setFlag_gmap (h : Hive) (f : RF) (b : Bool) : (h.setFlag f b).gmap = h.gmap := rfl
@[simp] theorem Hive.hwSet_gmap (h : Hive) (f : RF) : (h.hwSet f).gmap = h.gmap := rfl
@[simp] theorem Hive.markEdge_gmap (h : Hive) (a b : Nat) : (h.markEdge a b).gmap = h.gmap := rfl
@[simp] theorem Hive.sset_gmap (h : Hive) (n : Nat) (x : StreamSt) : (h.sset n x).gmap = h.gmap := rfl
@[simp] theorem Hive.hset_gmap (h : Hive) (n : Nat) (x : HalfSt) : (h.hset n x).gmap = h.gmap := rfl
@[simp] theorem Hive.setFlt_gmap (h : Hive) (n : Nat) (x : FaultRec) : (h.setFlt n x).gmap = h.gmap := rfl
@[simp] theorem Hive.wr_canc (h : Hive) (a : Nat) (v : Word) : (h.wr a v).canc = h.canc := rfl
@[simp] theorem Hive.set_canc (h : Hive) (f : RF) (v : Nat) : (h.set f v).canc = h.canc := rfl
@[simp] theorem Hive.setFlag_canc (h : Hive) (f : RF) (b : Bool) : (h.setFlag f b).canc = h.canc := rfl
@[simp] theorem Hive.hwSet_canc (h : Hive) (f : RF) : (h.hwSet f).canc = h.canc := rfl
@[simp] theorem Hive.markEdge_canc (h : Hive) (a b : Nat) : (h.markEdge a b).canc = h.canc := rfl
@[simp] theorem Hive.sset_canc (h : Hive) (n : Nat) (x : StreamSt) : (h.sset n x).canc = h.canc := rfl
@[simp] theorem Hive.hset_canc (h : Hive) (n : Nat) (x : HalfSt) : (h.hset n x).canc = h.canc := rfl
@[simp] theorem Hive.setFlt_canc (h : Hive) (n : Nat) (x : FaultRec) : (h.setFlt n x).canc = h.canc := rfl
@[simp] theorem Hive.wr_shapes (h : Hive) (a : Nat) (v : Word) : (h.wr a v).shapes = h.shapes := rfl
@[simp] theorem Hive.set_shapes (h : Hive) (f : RF) (v : Nat) : (h.set f v).shapes = h.shapes := rfl
@[simp] theorem Hive.setFlag_shapes (h : Hive) (f : RF) (b : Bool) : (h.setFlag f b).shapes = h.shapes := rfl
@[simp] theorem Hive.hwSet_shapes (h : Hive) (f : RF) : (h.hwSet f).shapes = h.shapes := rfl
@[simp] theorem Hive.markEdge_shapes (h : Hive) (a b : Nat) : (h.markEdge a b).shapes = h.shapes := rfl
@[simp] theorem Hive.sset_shapes (h : Hive) (n : Nat) (x : StreamSt) : (h.sset n x).shapes = h.shapes := rfl
@[simp] theorem Hive.hset_shapes (h : Hive) (n : Nat) (x : HalfSt) : (h.hset n x).shapes = h.shapes := rfl
@[simp] theorem Hive.setFlt_shapes (h : Hive) (n : Nat) (x : FaultRec) : (h.setFlt n x).shapes = h.shapes := rfl
@[simp] theorem Hive.wr_ugt (h : Hive) (a : Nat) (v : Word) : (h.wr a v).ugt = h.ugt := rfl
@[simp] theorem Hive.set_ugt (h : Hive) (f : RF) (v : Nat) : (h.set f v).ugt = h.ugt := rfl
@[simp] theorem Hive.setFlag_ugt (h : Hive) (f : RF) (b : Bool) : (h.setFlag f b).ugt = h.ugt := rfl
@[simp] theorem Hive.hwSet_ugt (h : Hive) (f : RF) : (h.hwSet f).ugt = h.ugt := rfl
@[simp] theorem Hive.markEdge_ugt (h : Hive) (a b : Nat) : (h.markEdge a b).ugt = h.ugt := rfl
@[simp] theorem Hive.sset_ugt (h : Hive) (n : Nat) (x : StreamSt) : (h.sset n x).ugt = h.ugt := rfl
@[simp] theorem Hive.hset_ugt (h : Hive) (n : Nat) (x : HalfSt) : (h.hset n x).ugt = h.ugt := rfl
@[simp] theorem Hive.setFlt_ugt (h : Hive) (n : Nat) (x : FaultRec) : (h.setFlt n x).ugt = h.ugt := rfl
@[simp] theorem Hive.wr_loops (h : Hive) (a : Nat) (v : Word) : (h.wr a v).loops = h.loops := rfl
@[simp] theorem Hive.set_loops (h : Hive) (f : RF) (v : Nat) : (h.set f v).loops = h.loops := rfl
@[simp] theorem Hive.setFlag_loops (h : Hive) (f : RF) (b : Bool) : (h.setFlag f b).loops = h.loops := rfl
@[simp] theorem Hive.hwSet_loops (h : Hive) (f : RF) : (h.hwSet f).loops = h.loops := rfl
@[simp] theorem Hive.markEdge_loops (h : Hive) (a b : Nat) : (h.markEdge a b).loops = h.loops := rfl
@[simp] theorem Hive.sset_loops (h : Hive) (n : Nat) (x : StreamSt) : (h.sset n x).loops = h.loops := rfl
@[simp] theorem Hive.hset_loops (h : Hive) (n : Nat) (x : HalfSt) : (h.hset n x).loops = h.loops := rfl
@[simp] theorem Hive.setFlt_loops (h : Hive) (n : Nat) (x : FaultRec) : (h.setFlt n x).loops = h.loops := rfl
@[simp] theorem Hive.wr_cons (h : Hive) (a : Nat) (v : Word) : (h.wr a v).cons = h.cons := rfl
@[simp] theorem Hive.set_cons (h : Hive) (f : RF) (v : Nat) : (h.set f v).cons = h.cons := rfl
@[simp] theorem Hive.setFlag_cons (h : Hive) (f : RF) (b : Bool) : (h.setFlag f b).cons = h.cons := rfl
@[simp] theorem Hive.hwSet_cons (h : Hive) (f : RF) : (h.hwSet f).cons = h.cons := rfl
@[simp] theorem Hive.markEdge_cons (h : Hive) (a b : Nat) : (h.markEdge a b).cons = h.cons := rfl
@[simp] theorem Hive.sset_cons (h : Hive) (n : Nat) (x : StreamSt) : (h.sset n x).cons = h.cons := rfl
@[simp] theorem Hive.hset_cons (h : Hive) (n : Nat) (x : HalfSt) : (h.hset n x).cons = h.cons := rfl
@[simp] theorem Hive.setFlt_cons (h : Hive) (n : Nat) (x : FaultRec) : (h.setFlt n x).cons = h.cons := rfl
@[simp] theorem Hive.wr_pins (h : Hive) (a : Nat) (v : Word) : (h.wr a v).pins = h.pins := rfl
@[simp] theorem Hive.set_pins (h : Hive) (f : RF) (v : Nat) : (h.set f v).pins = h.pins := rfl
@[simp] theorem Hive.setFlag_pins (h : Hive) (f : RF) (b : Bool) : (h.setFlag f b).pins = h.pins := rfl
@[simp] theorem Hive.hwSet_pins (h : Hive) (f : RF) : (h.hwSet f).pins = h.pins := rfl
@[simp] theorem Hive.markEdge_pins (h : Hive) (a b : Nat) : (h.markEdge a b).pins = h.pins := rfl
@[simp] theorem Hive.sset_pins (h : Hive) (n : Nat) (x : StreamSt) : (h.sset n x).pins = h.pins := rfl
@[simp] theorem Hive.hset_pins (h : Hive) (n : Nat) (x : HalfSt) : (h.hset n x).pins = h.pins := rfl
@[simp] theorem Hive.setFlt_pins (h : Hive) (n : Nat) (x : FaultRec) : (h.setFlt n x).pins = h.pins := rfl
@[simp] theorem Hive.wr_gceOld (h : Hive) (a : Nat) (v : Word) : (h.wr a v).gceOld = h.gceOld := rfl
@[simp] theorem Hive.set_gceOld (h : Hive) (f : RF) (v : Nat) : (h.set f v).gceOld = h.gceOld := rfl
@[simp] theorem Hive.setFlag_gceOld (h : Hive) (f : RF) (b : Bool) : (h.setFlag f b).gceOld = h.gceOld := rfl
@[simp] theorem Hive.hwSet_gceOld (h : Hive) (f : RF) : (h.hwSet f).gceOld = h.gceOld := rfl
@[simp] theorem Hive.markEdge_gceOld (h : Hive) (a b : Nat) : (h.markEdge a b).gceOld = h.gceOld := rfl
@[simp] theorem Hive.sset_gceOld (h : Hive) (n : Nat) (x : StreamSt) : (h.sset n x).gceOld = h.gceOld := rfl
@[simp] theorem Hive.hset_gceOld (h : Hive) (n : Nat) (x : HalfSt) : (h.hset n x).gceOld = h.gceOld := rfl
@[simp] theorem Hive.setFlt_gceOld (h : Hive) (n : Nat) (x : FaultRec) : (h.setFlt n x).gceOld = h.gceOld := rfl
@[simp] theorem Hive.wr_gceOldAt (h : Hive) (a : Nat) (v : Word) : (h.wr a v).gceOldAt = h.gceOldAt := rfl
@[simp] theorem Hive.set_gceOldAt (h : Hive) (f : RF) (v : Nat) : (h.set f v).gceOldAt = h.gceOldAt := rfl
@[simp] theorem Hive.setFlag_gceOldAt (h : Hive) (f : RF) (b : Bool) : (h.setFlag f b).gceOldAt = h.gceOldAt := rfl
@[simp] theorem Hive.hwSet_gceOldAt (h : Hive) (f : RF) : (h.hwSet f).gceOldAt = h.gceOldAt := rfl
@[simp] theorem Hive.markEdge_gceOldAt (h : Hive) (a b : Nat) : (h.markEdge a b).gceOldAt = h.gceOldAt := rfl
@[simp] theorem Hive.sset_gceOldAt (h : Hive) (n : Nat) (x : StreamSt) : (h.sset n x).gceOldAt = h.gceOldAt := rfl
@[simp] theorem Hive.hset_gceOldAt (h : Hive) (n : Nat) (x : HalfSt) : (h.hset n x).gceOldAt = h.gceOldAt := rfl
@[simp] theorem Hive.setFlt_gceOldAt (h : Hive) (n : Nat) (x : FaultRec) : (h.setFlt n x).gceOldAt = h.gceOldAt := rfl
@[simp] theorem Hive.wr_sys (h : Hive) (a : Nat) (v : Word) : (h.wr a v).sys = h.sys := rfl
@[simp] theorem Hive.set_sys (h : Hive) (f : RF) (v : Nat) : (h.set f v).sys = h.sys := rfl
@[simp] theorem Hive.setFlag_sys (h : Hive) (f : RF) (b : Bool) : (h.setFlag f b).sys = h.sys := rfl
@[simp] theorem Hive.hwSet_sys (h : Hive) (f : RF) : (h.hwSet f).sys = h.sys := rfl
@[simp] theorem Hive.markEdge_sys (h : Hive) (a b : Nat) : (h.markEdge a b).sys = h.sys := rfl
@[simp] theorem Hive.sset_sys (h : Hive) (n : Nat) (x : StreamSt) : (h.sset n x).sys = h.sys := rfl
@[simp] theorem Hive.hset_sys (h : Hive) (n : Nat) (x : HalfSt) : (h.hset n x).sys = h.sys := rfl
@[simp] theorem Hive.setFlt_sys (h : Hive) (n : Nat) (x : FaultRec) : (h.setFlt n x).sys = h.sys := rfl
@[simp] theorem Hive.wr_marks (h : Hive) (a : Nat) (v : Word) : (h.wr a v).marks = h.marks := rfl
@[simp] theorem Hive.set_marks (h : Hive) (f : RF) (v : Nat) : (h.set f v).marks = h.marks := rfl
@[simp] theorem Hive.setFlag_marks (h : Hive) (f : RF) (b : Bool) : (h.setFlag f b).marks = h.marks := rfl
@[simp] theorem Hive.hwSet_marks (h : Hive) (f : RF) : (h.hwSet f).marks = h.marks := rfl
@[simp] theorem Hive.markEdge_marks (h : Hive) (a b : Nat) : (h.markEdge a b).marks = h.marks := rfl
@[simp] theorem Hive.sset_marks (h : Hive) (n : Nat) (x : StreamSt) : (h.sset n x).marks = h.marks := rfl
@[simp] theorem Hive.hset_marks (h : Hive) (n : Nat) (x : HalfSt) : (h.hset n x).marks = h.marks := rfl
@[simp] theorem Hive.setFlt_marks (h : Hive) (n : Nat) (x : FaultRec) : (h.setFlt n x).marks = h.marks := rfl

@[simp] theorem Hive.sset_rd (h : Hive) (n : Nat) (x : StreamSt) (a : Nat) : (h.sset n x).rd a = h.rd a := rfl
@[simp] theorem Hive.hset_rd (h : Hive) (n : Nat) (x : HalfSt) (a : Nat) : (h.hset n x).rd a = h.rd a := rfl
@[simp] theorem Hive.gset_rd (h : Hive) (n : Nat) (x : GroupSt) (a : Nat) : (h.gset n x).rd a = h.rd a := rfl
@[simp] theorem Hive.setFlt_rd (h : Hive) (n : Nat) (x : FaultRec) (a : Nat) : (h.setFlt n x).rd a = h.rd a := rfl
@[simp] theorem Hive.markEdge_rd (h : Hive) (b c a : Nat) : (h.markEdge b c).rd a = h.rd a := rfl
@[simp] theorem Hive.hwSet_rd (h : Hive) (f : RF) (a : Nat) : (h.hwSet f).rd a = (h.setFlag f true).rd a := rfl
@[simp] theorem Hive.hwSet_get (h : Hive) (f g : RF) : (h.hwSet f).get g = (h.setFlag f true).get g := rfl
@[simp] theorem Hive.hwSet_flag (h : Hive) (f g : RF) : (h.hwSet f).flag g = (h.setFlag f true).flag g := rfl
@[simp] theorem Hive.draw_rd (h : Hive) (a : Nat) : h.draw.2.rd a = h.rd a := rfl

end Sys2Proof.Machine
end

