-- ==== Sys2Proof/Laws/Ops.lean ====
section
/-! SUPPORT. What the shared operations can do, said once: interrupts, the journal, completions and refusals are bookkeeping;
fault records, the hive state and its pins are fault handling; a fault raised is on. -/

namespace Sys2Proof.Machine

section
variable {p q : Hive → Hive} {R S : Nat → Bool} {h h₁ h₂ : Hive}

theorem Only.refl (p : Hive → Hive) (R : Nat → Bool) (h : Hive) : Only p R h h := ⟨rfl, fun _ _ => rfl⟩

theorem Only.trans (a : Only p R h h₁) (b : Only p R h₁ h₂) : Only p R h h₂ :=
  ⟨b.fields.trans a.fields, fun x hx => (b.regs x hx).trans (a.regs x hx)⟩

/-- A step after an update that touches no register and nothing that `p` keeps. -/
theorem Only.after (b : Only p R h₁ h₂) (e : p h₁ = p h) (r : ∀ a, h₁.rd a = h.rd a) : Only p R h h₂ :=
  ⟨b.fields.trans e, fun x hx => (b.regs x hx).trans (r x)⟩

/-- An update that touches no register and nothing that `p` keeps, after a step. -/
theorem Only.before (a : Only p R h h₁) (e : p h₂ = p h₁) (r : ∀ a, h₂.rd a = h₁.rd a) : Only p R h h₂ :=
  ⟨e.trans a.fields, fun x hx => (r x).trans (a.regs x hx)⟩

theorem Only.mono (a : Only p R h h₁) (hp : ∀ x y : Hive, p x = p y → q x = q y) (hR : ∀ x, S x = false → R x = false) :
    Only q S h h₁ := ⟨hp _ _ a.fields, fun x hx => a.regs x (hR x hx)⟩

theorem Only.get (a : Only p R h h₁) (f : RF) (hf : R f.a = false) : h₁.get f = h.get f := Hive.get_congr (a.regs _ hf)

theorem Only.flag (a : Only p R h h₁) (f : RF) (hf : R f.a = false) : h₁.flag f = h.flag f := Hive.flag_congr (a.regs _ hf)

/-- A chain of updates, each of which keeps within the bounds. -/
theorem Only.foldl {α : Type} {f : Hive → α → Hive} (hf : ∀ x a, Only p R x (f x a)) (l : List α) (h : Hive) :
    Only p R h (l.foldl f h) := by
  induction l generalizing h with
  | nil => exact Only.refl p R h
  | cons a l ih => exact (hf h a).trans (ih (f h a))

/-- The same where only the members of the list keep within them. -/
theorem Only.foldl_mem {α : Type} {f : Hive → α → Hive} (l : List α) (hf : ∀ x, ∀ a ∈ l, Only p R x (f x a)) (h : Hive) :
    Only p R h (l.foldl f h) := by
  induction l generalizing h with
  | nil => exact Only.refl p R h
  | cons a l ih =>
    exact (hf h a (List.mem_cons_self ..)).trans (ih (fun x b hb => hf x b (List.mem_cons_of_mem _ hb)) (f h a))

theorem Only.ite {c : Prop} [Decidable c] {x y : Hive} (hx : Only p R h x) (hy : Only p R h y) :
    Only p R h (if c then x else y) := by split <;> assumption

end

theorem LogOnly.wr (h : Hive) {a : Nat} (v : Word) (ha : logReg a = true) : LogOnly h (h.wr a v) :=
  ⟨rfl, fun x hx => Hive.rd_wr_ne h v (fun e => by subst e; rw [ha] at hx; cases hx)⟩

theorem LogOnly.set (h : Hive) {f : RF} (v : Nat) (ha : logReg f.a = true) : LogOnly h (h.set f v) := LogOnly.wr h _ ha

theorem FaultOnly.wr (h : Hive) {a : Nat} (v : Word) (ha : faultReg a = true) : FaultOnly h (h.wr a v) :=
  ⟨rfl, fun x hx => Hive.rd_wr_ne h v (fun e => by subst e; rw [ha] at hx; cases hx)⟩

theorem FaultOnly.set (h : Hive) {f : RF} (v : Nat) (ha : faultReg f.a = true) : FaultOnly h (h.set f v) :=
  FaultOnly.wr h _ ha

theorem logReg_fault {a : Nat} (ha : logReg a = true) : faultReg a = true := by simp only [faultReg, ha, Bool.true_or]

/-- Bookkeeping is within fault handling. -/
theorem LogOnly.fault {h h' : Hive} (a : LogOnly h h') : FaultOnly h h' :=
  a.mono (fun _ _ e => congrArg Hive.sansHandling e) (fun x hx => by
    cases hl : logReg x with
    | false => rfl
    | true => rw [logReg_fault hl] at hx; cases hx)

/-! ## Interrupts and the journal -/

/-- The mark of a bit set in this cycle. -/
theorem Hive.markEdge_log (h : Hive) (a b : Nat) : LogOnly h (h.markEdge a b) := ⟨rfl, fun _ _ => rfl⟩

/-- A W1C bit that hardware sets in a register of bookkeeping. -/
theorem Hive.hwSet_log (h : Hive) {f : RF} (ha : logReg f.a = true) : LogOnly h (h.hwSet f) :=
  (LogOnly.set h _ ha).trans (Hive.markEdge_log ..)

/-- A message request touches the pending bits or the message count. -/
theorem Hive.msixSend_log (h : Hive) (v : Nat) : LogOnly h (h.msixSend v) := by
  unfold Hive.msixSend
  split
  · exact LogOnly.wr h _ (by decide)
  · exact ⟨rfl, fun _ _ => rfl⟩

/-- A cause of R380 touches CMD.IRQ_STAT and the message machinery. -/
theorem Hive.setIrq_log (h : Hive) (v : Nat) : LogOnly h (h.setIrq v) := by
  unfold Hive.setIrq
  extract_lets c h1 h2
  have e1 : LogOnly h h1 := Hive.markEdge_log h _ _
  have e2 : LogOnly h1 h2 := LogOnly.set h1 _ (by decide)
  exact Only.ite e1 (Only.ite (e1.trans e2) ((e1.trans e2).trans (Hive.msixSend_log ..)))

theorem Hive.jAppend_log (h : Hive) : LogOnly h h.jAppend := by
  unfold Hive.jAppend
  split
  · exact Only.refl ..
  · split
    exact Only.ite (Only.after (Hive.setIrq_log ..) rfl (fun _ => rfl)) ⟨rfl, fun _ _ => rfl⟩

theorem Hive.jPush_log (h : Hive) (e : JEntry) : LogOnly h (h.jPush e) := by
  have hx : LogOnly h (if h.jq.length ≥ 256 then (h.bump F.queJrnStat_stalls 1).jAppend else h) :=
    Only.ite ((LogOnly.set h _ (by decide)).trans (Hive.jAppend_log _)) (Only.refl ..)
  exact hx.before rfl (fun _ => rfl)

/-- A journal entry is bookkeeping. -/
theorem Hive.journal_log (h : Hive) (source iface kind status : Nat) (ok : Bool) (target old new arg : Nat) :
    LogOnly h (h.journal source iface kind status ok target old new arg) := Hive.jPush_log ..

theorem Hive.jEvent_log (h : Hive) (source target new arg : Nat) : LogOnly h (h.jEvent source target new arg) :=
  Hive.jPush_log ..

theorem Hive.jWrite_log (h : Hive) (w : RegWrite) (status : Nat) (ok : Bool) (old : Word) :
    LogOnly h (h.jWrite w status ok old) := Hive.jPush_log ..

/-- A refused write is recorded and nothing else happens. -/
theorem Hive.refuse_log (h : Hive) (a status : Nat) : LogOnly h (h.refuse a status) := by
  unfold Hive.refuse
  split
  · exact LogOnly.set h _ (by decide)
  · exact (((LogOnly.set h _ (by decide)).trans (LogOnly.set _ _ (by decide))).trans (LogOnly.set _ _ (by decide))).trans
      (Hive.hwSet_log _ (by decide))

theorem Hive.wRefused_log (h : Hive) (w : RegWrite) (status : Nat) : LogOnly h (h.wRefused w status) :=
  (Hive.refuse_log ..).trans (Hive.jWrite_log ..)

/-! ## Commands -/

theorem LogOnly.cq (h : Hive) (n : Nat) (l : List Nat) : LogOnly h { h with cqCount := n, cqUnread := l } :=
  ⟨rfl, fun _ _ => rfl⟩

theorem LogOnly.mb (h : Hive) (t : Tbl (List Nat)) (n : Nat) : LogOnly h { h with mbox := t, alMb := n } :=
  ⟨rfl, fun _ _ => rfl⟩

theorem LogOnly.runningSet (h : Hive) (l : List CmdTok) : LogOnly h { h with running := l } := ⟨rfl, fun _ _ => rfl⟩

theorem Hive.complete_log (h : Hive) (k : CmdTok) (status result : Nat) : LogOnly h (h.complete k status result) := by
  unfold Hive.complete
  split
  · extract_lets i phase b h1 h2 h3 h4
    have hi : i < 64 := Nat.mod_lt _ (by decide)
    have hr : ∀ a, b ≤ a → a < b + 16 → logReg a = true := by
      intro a ha hd
      have hb : b = 0x10002000 + 16 * i := rfl
      simp only [logReg, Bool.or_eq_true, Bool.and_eq_true, decide_eq_true_eq]
      exact Or.inr ⟨by omega, by omega⟩
    have e1 : LogOnly h h1 := LogOnly.wr h _ (hr b (Nat.le_refl b) (Nat.lt_add_of_pos_right (by decide)))
    have e2 : LogOnly h1 h2 := (LogOnly.wr _ _ (hr (b + 4) (Nat.le_add_right b 4) (Nat.add_lt_add_left (by decide) b))).trans (LogOnly.wr _ _ (hr (b + 8) (Nat.le_add_right b 8) (Nat.add_lt_add_left (by decide) b)))
    have e3 : LogOnly h2 h3 := LogOnly.wr _ _ (hr (b + 12) (Nat.le_add_right b 12) (Nat.add_lt_add_left (by decide) b))
    have e4 : LogOnly h h4 := ((e1.trans e2).trans e3).trans (LogOnly.cq h3 _ _)
    exact Only.ite (e4.trans (Hive.setIrq_log ..)) e4
  · extract_lets h1 h2
    have e1 : LogOnly h h1 := LogOnly.set h _ (by decide)
    have e2 : LogOnly h1 h2 := LogOnly.set _ _ (by decide)
    exact (e1.trans e2).trans (LogOnly.mb h2 _ _)

theorem Hive.hold_log (h : Hive) (k : CmdTok) : LogOnly h (h.hold k) := ⟨rfl, fun _ _ => rfl⟩

theorem Hive.finish_log (h : Hive) (k : CmdTok) (status result : Nat) : LogOnly h (h.finish k status result) := by
  unfold Hive.finish
  split
  · exact Only.after (Hive.complete_log ..) rfl (fun _ => rfl)
  · exact Only.refl ..

theorem Hive.take_log (h : Hive) (c : CmdEntry) : LogOnly h (h.take c) := by
  unfold Hive.take
  split
  · split
    · exact Only.refl ..
    · exact LogOnly.set h _ (by decide)
  · exact LogOnly.set h _ (by decide)

/-- Entries of the ring that name no command complete with BAD_CMD: bookkeeping. -/
theorem Hive.skipBad_log (n : Nat) (h : Hive) : LogOnly h (h.skipBad n) := by
  induction n generalizing h with
  | zero => exact Only.refl ..
  | succ n ih =>
    unfold Hive.skipBad
    simp only
    split
    · exact (((LogOnly.set h _ (by decide)).trans (Hive.journal_log ..)).trans (Hive.complete_log ..)).trans (ih _)
    · exact Only.refl ..

/-- What every command does: bookkeeping, then nothing where its status is not OK, else `act` on a block that differs by
bookkeeping alone, then bookkeeping. -/
theorem Hive.command_cases (h : Hive) (c : CmdEntry) (f : CmdForm) (range : Bool) (chk : Nat)
    (act : Hive → CmdTok → Hive × Option Nat) :
    (h.take c).cmdStatus c f range chk ≠ 0 ∧ LogOnly h (h.command c f range chk act) ∨
      (h.take c).cmdStatus c f range chk = 0 ∧ ∃ (h₁ : Hive) (k : CmdTok), LogOnly h h₁ ∧
        k = tokOf c f.op (h₁.gtc % 2 ^ 32) ∧
        LogOnly (act h₁ k).1 (h.command c f range chk act) := by
  have tail : ∀ x y : Hive, LogOnly x y → LogOnly x (match c.via with | .queue => y.skipBad 64 | .mailbox _ => y) := by
    intro x y hxy
    split
    · exact hxy.trans (Hive.skipBad_log ..)
    · exact hxy
  unfold Hive.command
  extract_lets h1 k st h2 h3
  have e1 : LogOnly h h1 := Hive.take_log h c
  have e2 : LogOnly h h2 := e1.trans (Hive.journal_log ..)
  by_cases hs : st = 0
  · have e3 : LogOnly h (h2.hold k) := e2.trans (Hive.hold_log _ _)
    refine Or.inr ⟨hs, h2.hold k, k, e3, ?_, tail _ _ ?_⟩
    · have hg : (h2.hold k).gtc = h1.gtc := (congrArg Hive.gtc e3.fields).trans (congrArg Hive.gtc e1.fields).symm
      rw [hg]
    · show LogOnly _ (if st ≠ 0 then _ else _)
      rw [if_neg (not_not_intro hs)]
      generalize act (h2.hold k) k = r
      obtain ⟨x, o⟩ := r
      cases o
      · exact Only.refl ..
      · exact Hive.finish_log ..
  · refine Or.inl ⟨hs, tail _ _ ?_⟩
    show LogOnly _ (if st ≠ 0 then _ else _)
    rw [if_pos hs]
    exact e2.trans (Hive.complete_log ..)

/-- A command whose status is not OK is bookkeeping. -/
theorem Hive.command_refused (h : Hive) (c : CmdEntry) (f : CmdForm) (range : Bool) (chk : Nat)
    (act : Hive → CmdTok → Hive × Option Nat) (hs : (h.take c).cmdStatus c f range chk ≠ 0) :
    LogOnly h (h.command c f range chk act) := by
  rcases Hive.command_cases h c f range chk act with ⟨_, a⟩ | ⟨e, _⟩
  · exact a
  · exact absurd e hs

/-- A command whose status is OK is carried out. -/
theorem Hive.command_ok (h : Hive) (c : CmdEntry) (f : CmdForm) (range : Bool) (chk : Nat)
    (act : Hive → CmdTok → Hive × Option Nat) (hs : (h.take c).cmdStatus c f range chk = 0) :
    ∃ (h₁ : Hive) (k : CmdTok), LogOnly h h₁ ∧
        k = tokOf c f.op (h₁.gtc % 2 ^ 32) ∧ LogOnly (act h₁ k).1 (h.command c f range chk act) := by
  rcases Hive.command_cases h c f range chk act with ⟨e, _⟩ | ⟨_, a⟩
  · exact absurd hs e
  · exact a

/-! ## Host writes -/

/-- A write that every check lets pass takes effect and is journaled. -/
theorem Hive.hostWrite_ok (h : Hive) (w : RegWrite) (chk : Hive → Nat → Nat) (app : Hive → Nat → Hive) {d : RegDesc}
    (hf : wFull w = true) (hd : Regs.find (wKey w) = some d) (hw : descWritable d = true)
    (hr : (d.rwc && !rwcOk w.value) = false) (hc : chk h w.value.toNat = 0) :
    h.hostWrite w chk app = (app h w.value.toNat).jWrite w stOk true (h.rd (wKey w)) := by
  unfold Hive.hostWrite
  simp only [hf, hd, hw, hr, hc, Bool.not_true, Bool.false_eq_true, if_false, ne_eq, not_true_eq_false]

/-- A write of a part of a register is refused (R6). -/
theorem Hive.hostWrite_part (h : Hive) (w : RegWrite) (chk : Hive → Nat → Nat) (app : Hive → Nat → Hive)
    (hf : wFull w = false) : h.hostWrite w chk app = h.wRefused w stBadArg := by
  unfold Hive.hostWrite
  simp only [hf, Bool.not_false, if_true]

/-- A write that its register's own check turns away is refused with that status. -/
theorem Hive.hostWrite_refused (h : Hive) (w : RegWrite) (chk : Hive → Nat → Nat) (app : Hive → Nat → Hive) {d : RegDesc}
    (hf : wFull w = true) (hd : Regs.find (wKey w) = some d) (hw : descWritable d = true)
    (hr : (d.rwc && !rwcOk w.value) = false) (hc : chk h w.value.toNat ≠ 0) :
    h.hostWrite w chk app = h.wRefused w (chk h w.value.toNat) := by
  unfold Hive.hostWrite
  simp only [hf, hd, hw, hr, Bool.not_true, Bool.false_eq_true, if_false]
  rw [if_pos hc]

/-! ## Faults -/

theorem Hive.sendTree_fault (h : Hive) (msg : List Nat) : FaultOnly h (h.sendTree msg) :=
  Only.foldl (f := fun h k => h.sendLink k msg) (fun _ _ => ⟨rfl, fun _ _ => rfl⟩) h.treeLinks h

theorem Hive.flushInto_fault (h : Hive) (slot why : Nat) : FaultOnly h (h.flushInto slot why) := by
  unfold Hive.flushInto
  exact Only.after (FaultOnly.set _ _ (by decide)) rfl (fun _ => rfl)

theorem Hive.flushStart_fault (h : Hive) (why : Nat) : FaultOnly h (h.flushStart why) := by
  unfold Hive.flushStart
  split
  · exact Only.after (FaultOnly.set _ _ (by decide)) rfl (fun _ => rfl)
  · exact Hive.flushInto_fault ..

theorem Hive.alertFault_fault (h : Hive) (shown : Nat) : FaultOnly h (h.alertFault shown) := by
  unfold Hive.alertFault
  split
  · exact ⟨rfl, fun _ _ => rfl⟩
  · exact Only.refl ..

theorem Hive.setIrq_fault (h : Hive) (v : Nat) : FaultOnly h (h.setIrq v) := (Hive.setIrq_log h v).fault

theorem Hive.setFlt_fault (h : Hive) (i : Nat) (r : FaultRec) : FaultOnly h (h.setFlt i r) := ⟨rfl, fun _ _ => rfl⟩

/-- A lost fault counts in FLT.LOST. -/
theorem Hive.lostAdd_fault (h : Hive) (r : FaultRec) (hum : Nat) : FaultOnly h (h.lostAdd r hum) := by
  unfold Hive.lostAdd
  extract_lets m h1 h2 h3 h4 h5 h6
  have e1 : FaultOnly h h1 := ⟨rfl, fun _ _ => rfl⟩
  have e4 : FaultOnly h1 h4 := ((FaultOnly.set h1 _ (by decide)).trans (FaultOnly.set _ _ (by decide))).trans
    (FaultOnly.set _ _ (by decide))
  have e5 : FaultOnly h4 h5 := Only.ite (FaultOnly.set _ _ (by decide)) (Only.refl ..)
  have e6 : FaultOnly h5 h6 := FaultOnly.set _ _ (by decide)
  have e7 : ∀ x : Hive, FaultOnly x (x.hwSet F.fltLost_valid) := fun x =>
    (FaultOnly.set x _ (by decide)).trans (Hive.markEdge_log ..).fault
  exact ((((e1.trans e4).trans e5).trans e6).trans (e7 h6)).trans (Hive.setIrq_fault ..)

/-- A record's slot freed. -/
theorem Hive.fltFree_fault (h : Hive) (i : Nat) : FaultOnly h (h.fltFree i) := by
  have e1 : FaultOnly h (h.setFlt i { FaultRec.free with gen := (h.flt i).gen }) := Hive.setFlt_fault ..
  have e2 : ∀ (x : Hive) (l : List LostMark) (w : Word) (r : FaultRec),
      FaultOnly x ((({ x with lostMarks := l } : Hive).wr R.fltLost w).setFlt i r) := fun x l w r =>
    ((⟨rfl, fun _ _ => rfl⟩ : FaultOnly x { x with lostMarks := l }).trans (FaultOnly.wr _ _ (by decide))).trans
      (Hive.setFlt_fault ..)
  unfold Hive.fltFree
  dsimp only
  split
  · exact e1
  · exact (e1.trans (e2 ..)).trans (Only.foldl (f := fun h (m : LostMark) => h.lostAdd m.was m.hum)
      (fun x m => Hive.lostAdd_fault x m.was m.hum) _ _)

theorem Hive.fltMark_fault (h : Hive) (i : Nat) (r : FaultRec) (a : Option Nat) : FaultOnly h (h.fltMark i r a) :=
  ⟨rfl, fun _ _ => rfl⟩

theorem FaultOnly.marks (h : Hive) (l : List FltMark) : FaultOnly h { h with fltMarks := l } := ⟨rfl, fun _ _ => rfl⟩

theorem FaultOnly.queue (h : Hive) (l : List JEntry) : FaultOnly h { h with jq := l } := ⟨rfl, fun _ _ => rfl⟩

/-- A record that was acknowledged or freed in this cycle returns. -/
theorem Hive.fltReturn_fault (h : Hive) (cls cause source : Nat) : FaultOnly h (h.fltReturn cls cause source) := by
  unfold Hive.fltReturn
  split
  · exact Only.refl ..
  · rename_i m _
    have e1 : ∀ r : FaultRec, FaultOnly h (({ h with fltMarks := h.fltMarks.filter (fun x => x != m) } : Hive).setFlt m.slot r) :=
      fun r => (FaultOnly.marks h _).trans (Hive.setFlt_fault ..)
    refine Only.ite (Only.refl ..) ?_
    dsimp only
    split
    · exact e1 _
    · rename_i a _
      exact ((e1 _).trans (Hive.refuse_log _ a 3).fault).trans (FaultOnly.queue _ _)

theorem Hive.showUp_fault (h : Hive) (i shown : Nat) : FaultOnly h (h.showUp i shown) := by
  unfold Hive.showUp
  exact Only.ite (((Hive.setFlt_fault ..).trans (Hive.setIrq_fault ..)).trans (Hive.alertFault_fault ..)) (Only.refl ..)

/-- A record, its interrupt, its alert, its flush and its message are fault handling. -/
theorem Hive.record_fault (h : Hive) (cls cause source level arg : Nat) (selfc : Bool) :
    FaultOnly h (h.record cls cause source level arg selfc) := by
  have tail : ∀ (x : Hive) (later : List Nat), FaultOnly h x → FaultOnly h
      (let h := if level > 0 then later.foldl (fun (h : Hive) (i : Nat) => h.showUp i (min 5 ((h.flt i).level + 1))) x else x
       let h := if level ≥ 3 then h.flushStart 2 else h
       if level ≥ 4 then h.sendTree (h.faultMsg cls level) else h) := by
    intro x later hx
    extract_lets h3 h4
    have e3 : FaultOnly h h3 := Only.ite (hx.trans (Only.foldl
      (f := fun (h : Hive) (i : Nat) => h.showUp i (min 5 ((h.flt i).level + 1))) (fun x i => Hive.showUp_fault x i _) later x)) hx
    have e4 : FaultOnly h h4 := Only.ite (e3.trans (Hive.flushStart_fault ..)) e3
    exact Only.ite (e4.trans (Hive.sendTree_fault ..)) e4
  have e1 : FaultOnly h (h.fltReturn cls cause source) := Hive.fltReturn_fault ..
  unfold Hive.record
  refine tail _ _ ?_
  dsimp only
  split
  · exact e1.trans ((Hive.setFlt_fault ..).trans (Hive.showUp_fault ..))
  · split
    · exact e1.trans (((Hive.setFlt_fault ..).trans (Hive.setIrq_fault ..)).trans (Hive.alertFault_fault ..))
    · exact e1.trans (Hive.lostAdd_fault ..)

/-! ## The smoker and the hive state -/

theorem faultReg_iff (a : Nat) : faultReg a = true ↔ logReg a = true ∨ a = R.fltLost ∨ a = R.evrStat ∨ a = R.queInteg ∨
    (0x580000 ≤ a ∧ a < 0x588000) ∨ (0x220000 ≤ a ∧ a < 0x222000) ∨
    (0x300000 ≤ a ∧ a < 0x400000 ∧ a % 0x100 = 0x34) ∨ (0x4D0000 ≤ a ∧ a < 0x4F0000 ∧ 0x100 ≤ a % 0x200) := by
  have e : R.strSmoke 0 0 % 0x100 = 0x34 := by decide
  simp only [faultReg, e, Bool.or_eq_true, Bool.and_eq_true, decide_eq_true_eq, beq_iff_eq, or_assoc, and_assoc]

/-- A field of a stream's SMK registers or of its RTE.STATUS is one that fault handling may touch. -/
theorem faultReg_smk {a n : Nat} (hn : n < 2048) (h1 : 0x580000 + n * 0x10 ≤ a) (h2 : a < 0x580000 + n * 0x10 + 16) :
    faultReg a = true := (faultReg_iff a).mpr (by omega)

theorem faultReg_rte {a : Nat} (h1 : 0x220000 ≤ a) (h2 : a < 0x222000) : faultReg a = true := (faultReg_iff a).mpr (by omega)

theorem faultReg_rteStatus {n : Nat} (hn : n < 2048) : faultReg (R.rteStatus n) = true :=
  faultReg_rte (by unfold R.rteStatus; omega) (by unfold R.rteStatus; omega)

theorem FaultOnly.smk (h : Hive) {f : RF} {n : Nat} (v : Nat) (hn : n < 2048) (h1 : 0x580000 + n * 0x10 ≤ f.a)
    (h2 : f.a < 0x580000 + n * 0x10 + 16) : FaultOnly h (h.set f v) := FaultOnly.set h v (faultReg_smk hn h1 h2)

/-- Tactic-free form of the bounds of the four SMK registers. -/
theorem FaultOnly.smkCause (h : Hive) {n : Nat} (v : Nat) (hn : n < 2048) :
    FaultOnly h (h.set (F.smkCause_active n) v) ∧ FaultOnly h (h.set (F.smkCause_first n) v) :=
  ⟨FaultOnly.smk h v hn (by simp only [F.smkCause_active, R.smkCause]; omega)
      (by simp only [F.smkCause_active, R.smkCause]; omega),
    FaultOnly.smk h v hn (by simp only [F.smkCause_first, R.smkCause]; omega)
      (by simp only [F.smkCause_first, R.smkCause]; omega)⟩

theorem FaultOnly.smkStat (h : Hive) {n : Nat} (v : Nat) (hn : n < 2048) :
    FaultOnly h (h.set (F.smkStat_pos n) v) ∧ FaultOnly h (h.set (F.smkStat_ramp n) v) ∧
      FaultOnly h (h.set (F.smkStat_clipped n) v) :=
  ⟨FaultOnly.smk h v hn (by simp only [F.smkStat_pos, R.smkStat]; omega) (by simp only [F.smkStat_pos, R.smkStat]; omega),
    FaultOnly.smk h v hn (by simp only [F.smkStat_ramp, R.smkStat]; omega) (by simp only [F.smkStat_ramp, R.smkStat]; omega),
    FaultOnly.smk h v hn (by simp only [F.smkStat_clipped, R.smkStat]; omega)
      (by simp only [F.smkStat_clipped, R.smkStat]; omega)⟩

theorem FaultOnly.sset (h : Hive) (n : Nat) (x : StreamSt) : FaultOnly h (h.sset n x) := ⟨rfl, fun _ _ => rfl⟩

theorem FaultOnly.workPut (h : Hive) (t : Tbl WorkSt) : FaultOnly h { h with work := t } := ⟨rfl, fun _ _ => rfl⟩

theorem FaultOnly.modeSet (h : Hive) (m : Mode) (b : Bool) : FaultOnly h { h with mode := m, seenRun := b } :=
  ⟨rfl, fun _ _ => rfl⟩

theorem FaultOnly.humSet (h : Hive) (n : Nat) : FaultOnly h { h with hum := n } := ⟨rfl, fun _ _ => rfl⟩

theorem Hive.draw_fault (h : Hive) : FaultOnly h h.draw.2 := ⟨rfl, fun _ _ => rfl⟩

theorem Hive.probeStop_fault (h : Hive) (n : Nat) : FaultOnly h (h.probeStop n) := by
  unfold Hive.probeStop
  extract_lets c
  exact Only.foldl (fun x k => Only.ite (FaultOnly.workPut x _) (Only.refl ..)) _ _

theorem Hive.get_lt (h : Hive) (f : RF) : h.get f < 2 ^ f.w := bitsOf_lt _ _ _

theorem FaultOnly.npmSet (h : Hive) (n : Nat) (x : NpmSt) : FaultOnly h (h.npmSet n x) := ⟨rfl, fun _ _ => rfl⟩
theorem FaultOnly.loopSet (h : Hive) (n : Nat) (x : LoopSt) : FaultOnly h (h.loopSet n x) := ⟨rfl, fun _ _ => rfl⟩
theorem FaultOnly.ugtSetSlot (h : Hive) (g i : Nat) (x : UgtSlot) : FaultOnly h (h.ugtSetSlot g i x) := ⟨rfl, fun _ _ => rfl⟩

theorem Hive.ugtPause_fault (h : Hive) {g i : Nat} (runs : Bool) (hg : g < 256) (hi : i < 64) :
    FaultOnly h (h.ugtPause g i runs) := by
  have hr : faultReg (F.ugtIn_state g i).a = true := (faultReg_iff _).mpr (by simp only [F.ugtIn_state, R.ugtIn]; omega)
  unfold Hive.ugtPause
  extract_lets st sl
  exact Only.ite ((FaultOnly.ugtSetSlot ..).trans (FaultOnly.set _ _ hr)) (Only.ite (FaultOnly.set _ _ hr) (Only.refl ..))

theorem Hive.ugtFollow_fault (h : Hive) (n v : Nat) : FaultOnly h (h.ugtFollow n v) := by
  refine Only.foldl (fun x d => ?_) _ h
  extract_lets w
  split
  · rename_i hw
    exact Hive.ugtPause_fault x _ (bitsOf_lt _ _ _) hw.2.1
  · exact Only.refl ..

theorem Hive.loopsRun_fault (h : Hive) (n : Nat) (on : Bool) : FaultOnly h (h.loopsRun n on) := by
  refine Only.foldl (fun x s => ?_) _ h
  dsimp only
  split
  · exact Only.ite (FaultOnly.loopSet ..) (Only.refl ..)
  · exact Only.ite (Only.refl ..) (FaultOnly.loopSet ..)

/-- What the state of a stream drives is fault handling's. -/
theorem Hive.setSt_fault (h : Hive) {n : Nat} (v : Nat) (hn : n < 2048) : FaultOnly h (h.setSt n v) := by
  unfold Hive.setSt
  extract_lets h1 h2
  have e1 : FaultOnly h h1 := Only.ite (Hive.probeStop_fault ..) (Only.refl ..)
  have e2 : FaultOnly h1 h2 := Only.ite (FaultOnly.npmSet ..) (Only.ite (FaultOnly.npmSet ..) (Only.refl ..))
  exact (((e1.trans e2).trans (Hive.ugtFollow_fault ..)).trans (Hive.loopsRun_fault ..)).trans
    (FaultOnly.set _ _ (faultReg_rteStatus hn))

theorem Hive.lastSlice_lt (h : Hive) (n : Nat) : h.lastSlice n < 1024 := by
  unfold Hive.lastSlice
  split <;> exact bitsOf_lt _ _ 10

theorem Hive.lastHalf_lt (h : Hive) (n : Nat) : h.lastHalf n < 2 := by
  unfold Hive.lastHalf
  split <;> exact bitsOf_lt _ _ 1

theorem Hive.setMs_fault (h : Hive) (n m : Nat) : FaultOnly h (h.setMs n m) := by
  have hs := Hive.lastSlice_lt h n
  have hp := Hive.lastHalf_lt h n
  have hr : faultReg (F.strSmoke_mult (h.lastSlice n) (h.lastHalf n)).a = true :=
    (faultReg_iff _).mpr (by simp only [F.strSmoke_mult, R.strSmoke]; omega)
  exact (FaultOnly.sset h n _).trans (FaultOnly.set _ _ hr)

theorem Hive.rampStart_fault (h : Hive) {n : Nat} (pf force : Bool) (ms : Nat) (hn : n < 2048) :
    FaultOnly h (h.rampStart n pf force ms) := by
  have main : ∀ (x : StreamSt) (a b : Nat) (c : Bool), FaultOnly h
      ((((h.sset n x).set (F.smkStat_pos n) a).set (F.smkStat_ramp n) b).setFlag (F.smkStat_clipped n) c) := by
    intro x a b c
    exact (((FaultOnly.sset h n x).trans (FaultOnly.smkStat _ _ hn).1).trans (FaultOnly.smkStat _ _ hn).2.1).trans
      (FaultOnly.smkStat _ _ hn).2.2
  unfold Hive.rampStart
  split
  dsimp only
  exact Only.ite (Only.refl ..) (Only.ite ((main ..).trans (Hive.record_fault ..)) (main ..))

/-- A mismatch found at use: its counter, its journal entry, its fault (R299). -/
theorem Hive.mismNote_fault (h : Hive) (source a : Nat) (ns : List Nat) : FaultOnly h (h.mismNote source a ns) := by
  unfold Hive.mismNote
  extract_lets h1 h2 h3
  have e1 : FaultOnly h h1 := (FaultOnly.set h _ (by decide)).trans (FaultOnly.set _ _ (by decide))
  have e2 : FaultOnly h1 h2 := (Hive.journal_log ..).fault
  have e3 : FaultOnly h2 h3 := ⟨rfl, fun _ _ => rfl⟩
  exact ((e1.trans e2).trans e3).trans (Hive.record_fault ..)

theorem Hive.causeOn_fault (h : Hive) (bit : Nat) {n : Nat} (hn : n < 2048) : FaultOnly h (h.causeOn bit n) :=
  (FaultOnly.smkCause h _ hn).1

theorem Hive.firstNow_fault (h : Hive) {n : Nat} (hn : n < 2048) : FaultOnly h (h.firstNow n) :=
  (FaultOnly.smkCause h _ hn).2

theorem Hive.deadlineUse_fault (h : Hive) {n : Nat} (hn : n < 2048) : FaultOnly h (h.deadlineUse n) := by
  unfold Hive.deadlineUse
  extract_lets a
  exact Only.ite (Only.refl ..) ((Only.ite (Only.refl ..) (Hive.mismNote_fault ..)).trans (Hive.causeOn_fault _ _ hn))

theorem Hive.restatus_log (h : Hive) (k : CmdTok) (pos : Nat) : LogOnly h (h.restatus k pos) := by
  unfold Hive.restatus
  split
  · extract_lets w
    refine Only.ite (LogOnly.wr h _ ?_) (Only.refl ..)
    have : pos % 64 < 64 := Nat.mod_lt _ (by decide)
    simp only [logReg, Bool.or_eq_true, Bool.and_eq_true, decide_eq_true_eq]
    exact Or.inr ⟨by omega, by omega⟩
  · split
    · exact Only.ite ⟨rfl, fun _ _ => rfl⟩ (Only.refl ..)
    · exact Only.refl ..

/-- A stop or an unmute of this cycle taken back. -/
theorem Hive.cmdUndo_fault (h : Hive) {n : Nat} (hn : n < 2048) : FaultOnly h (h.cmdUndo n) := by
  unfold Hive.cmdUndo
  split
  · exact Only.refl ..
  · extract_lets h1 h2 h3
    have e1 : FaultOnly h h1 := ⟨rfl, fun _ _ => rfl⟩
    have e2 : FaultOnly h1 h2 := ((Hive.setSt_fault h1 _ hn).trans (FaultOnly.npmSet ..)).trans (FaultOnly.sset ..)
    have e3 : FaultOnly h2 h3 := ((Hive.setMs_fault ..).trans (FaultOnly.wr _ _ (faultReg_smk hn
      (by unfold R.smkStat; omega) (by unfold R.smkStat; omega)))).trans (FaultOnly.smkCause _ _ hn).1
    exact ((e1.trans e2).trans e3).trans (Hive.restatus_log ..).fault

theorem Hive.rampBegin_fault (h : Hive) {n : Nat} (bit : Nat) (pf toIdle : Bool) (hn : n < 2048) :
    FaultOnly h (h.rampBegin n bit pf toIdle) := by
  unfold Hive.rampBegin
  exact (((Hive.deadlineUse_fault h hn).trans (Hive.rampStart_fault _ _ _ _ hn)).trans (FaultOnly.sset ..)).trans
    (Hive.setSt_fault _ _ hn)

/-- A trigger for a stream is fault handling. -/
theorem Hive.trigger_fault (h : Hive) (bit : Nat) (pf : Bool) {n : Nat} (hn : n < 2048) :
    FaultOnly h (h.trigger bit pf n) := by
  have e1 : FaultOnly h ((h.cmdUndo n).causeOn bit n) := (Hive.cmdUndo_fault h hn).trans (Hive.causeOn_fault _ _ hn)
  unfold Hive.trigger
  dsimp only
  refine Only.ite ?_ (Only.ite ?_ (Only.ite (Only.ite (Only.ite ?_ ?_) ?_) e1))
  · exact (e1.trans (Hive.setSt_fault _ _ hn)).trans (Hive.firstNow_fault _ hn)
  · exact (e1.trans (Hive.rampBegin_fault _ _ _ _ hn)).trans (Hive.firstNow_fault _ hn)
  · exact (((e1.trans (Hive.deadlineUse_fault _ hn)).trans (Hive.rampStart_fault _ _ _ _ hn)).trans (FaultOnly.sset ..)).trans
      (Hive.firstNow_fault _ hn)
  · exact e1.trans (Hive.deadlineUse_fault _ hn)
  · exact (e1.trans (Hive.deadlineUse_fault _ hn)).trans (Hive.rampStart_fault _ _ _ _ hn)

theorem Hive.triggerAll_fault (h : Hive) (bit : Nat) (pf : Bool) (ns : List Nat) (hn : ∀ n ∈ ns, n < 2048) :
    FaultOnly h (h.triggerAll bit pf ns) :=
  Only.foldl_mem (f := fun h n => h.trigger bit pf n) ns (fun x n hx => Hive.trigger_fault x bit pf (hn n hx)) h

theorem Hive.image_lt {h : Hive} {n : Nat} (hn : n ∈ h.image) : n < 2048 := by
  simp only [Hive.image, List.mem_filter, decide_eq_true_eq] at hn; exact hn.2

theorem Hive.modeMsg_fault (h : Hive) (level : Nat) : FaultOnly h (h.modeMsg level) :=
  (Hive.draw_fault h).trans (Hive.sendTree_fault ..)

theorem Hive.enterHalt_fault (h : Hive) : FaultOnly h h.enterHalt := by
  unfold Hive.enterHalt
  extract_lets ns
  have hn : ∀ n ∈ ns, n < 2048 := fun n hm => Hive.image_lt (List.mem_filter.mp hm |>.1)
  exact ((FaultOnly.modeSet h Mode.halt h.seenRun).trans (Hive.triggerAll_fault _ 2 true ns hn)).trans
    (Hive.modeMsg_fault ..)

theorem Hive.humStop_fault (h : Hive) : FaultOnly h h.humStop := FaultOnly.humSet h _

/-- The hive's state following its faults is fault handling. -/
theorem Hive.settle_fault (h : Hive) : FaultOnly h h.settle := by
  unfold Hive.settle
  extract_lets own h1
  have e1 : FaultOnly h h1 := by
    refine Only.ite (Only.ite (Hive.enterHalt_fault h) (Only.ite (Only.ite (Only.refl ..) ?_) (Only.ite ?_ ?_))) (Only.refl ..)
    · exact (FaultOnly.modeSet h Mode.safe h.seenRun).trans (Hive.modeMsg_fault ..)
    · exact FaultOnly.modeSet h Mode.degraded true
    · exact FaultOnly.modeSet h Mode.run true
  exact e1.trans (Hive.humStop_fault h1)

/-- Raising a fault is fault handling and nothing else. -/
theorem Hive.raise_fault (h : Hive) (cls cause source level arg : Nat) : FaultOnly h (h.raise cls cause source level arg) :=
  (Hive.record_fault ..).trans (Hive.settle_fault _)

theorem Hive.raiseSC_fault (h : Hive) (cls cause source level arg : Nat) :
    FaultOnly h (h.raiseSC cls cause source level arg) := (Hive.record_fault ..).trans (Hive.settle_fault _)

/-- The end of a fault's condition is fault handling and nothing else. -/
theorem Hive.condEnd_fault (h : Hive) (cls cause source : Nat) : FaultOnly h (h.condEnd cls cause source) := by
  unfold Hive.condEnd
  split
  · exact Only.refl ..
  · extract_lets r r2
    exact Only.ite ((Only.ite ((Hive.fltMark_fault ..).trans (Hive.fltFree_fault ..)) (Hive.setFlt_fault ..)).trans
      (Hive.settle_fault _)) (Only.refl ..)

end Sys2Proof.Machine
end

