-- ==== Sys2Proof/Laws/Faults.lean ====
section
/-! SUPPORT. Faults that are on stay on through fault handling, and a fault raised is on. -/

namespace Sys2Proof.Machine

/-- The records and the lost aggregate are the same. -/
structure SameFaults (h h' : Hive) : Prop where
  faults : h'.faults = h.faults
  lost : h'.rd R.fltLost = h.rd R.fltLost

/-- Every fault that was on is on. -/
structure FaultsStay (h h' : Hive) : Prop where
  on : ∀ c k s l, h.faultOn c k s l = true → h'.faultOn c k s l = true

theorem Hive.faultOn_iff (h : Hive) (c k s l : Nat) : h.faultOn c k s l = true ↔
    (∃ i, i < 256 ∧ (h.flt i).hasKey c k s = true ∧ (h.flt i).active = true ∧ l ≤ (h.flt i).level) ∨
      (h.flag F.fltLost_valid = true ∧ l ≤ h.get F.fltLost_level) := by
  simp only [Hive.faultOn, Bool.or_eq_true, List.any_eq_true, List.mem_range, Bool.and_eq_true, decide_eq_true_eq, and_assoc]

theorem SameFaults.refl (h : Hive) : SameFaults h h := ⟨rfl, rfl⟩
theorem SameFaults.trans {a b c : Hive} (x : SameFaults a b) (y : SameFaults b c) : SameFaults a c :=
  ⟨y.faults.trans x.faults, y.lost.trans x.lost⟩
theorem SameFaults.after {h x h' : Hive} (b : SameFaults x h') (e : x.faults = h.faults) (r : x.regs = h.regs) :
    SameFaults h h' := ⟨b.faults.trans e, b.lost.trans (by unfold Hive.rd; rw [r])⟩
theorem SameFaults.ite {c : Prop} [Decidable c] {h x y : Hive} (hx : SameFaults h x) (hy : SameFaults h y) :
    SameFaults h (if c then x else y) := by split <;> assumption
theorem SameFaults.foldl {α : Type} {f : Hive → α → Hive} (hf : ∀ x a, SameFaults x (f x a)) (l : List α) (h : Hive) :
    SameFaults h (l.foldl f h) := by
  induction l generalizing h with
  | nil => exact SameFaults.refl h
  | cons a l ih => exact (hf h a).trans (ih (f h a))
theorem FaultsStay.refl (h : Hive) : FaultsStay h h := ⟨fun _ _ _ _ e => e⟩
theorem FaultsStay.trans {a b c : Hive} (x : FaultsStay a b) (y : FaultsStay b c) : FaultsStay a c :=
  ⟨fun _ _ _ _ e => y.on _ _ _ _ (x.on _ _ _ _ e)⟩
theorem FaultsStay.ite {c : Prop} [Decidable c] {h x y : Hive} (hx : FaultsStay h x) (hy : FaultsStay h y) :
    FaultsStay h (if c then x else y) := by split <;> assumption

theorem SameFaults.on {h h' : Hive} (a : SameFaults h h') (c k s l : Nat) : h'.faultOn c k s l = h.faultOn c k s l := by
  have e1 : ∀ i, h'.flt i = h.flt i := fun i => by simp only [Hive.flt, a.faults]
  have e2 : h'.flag F.fltLost_valid = h.flag F.fltLost_valid := Hive.flag_congr a.lost
  have e3 : h'.get F.fltLost_level = h.get F.fltLost_level := Hive.get_congr a.lost
  simp only [Hive.faultOn, e1, e2, e3]

theorem SameFaults.stay {h h' : Hive} (a : SameFaults h h') : FaultsStay h h' := ⟨fun c k s l e => by rw [a.on]; exact e⟩

/-- Bookkeeping leaves the faults. -/
theorem LogOnly.sameFaults {h h' : Hive} (a : LogOnly h h') : SameFaults h h' :=
  ⟨(congrArg Hive.faults a.fields : h'.sansLog.faults = h.sansLog.faults), a.regs _ (by decide)⟩

theorem SameFaults.set (h : Hive) {f : RF} (v : Nat) (hf : R.fltLost ≠ f.a) : SameFaults h (h.set f v) :=
  ⟨rfl, Hive.rd_set_ne h v hf⟩

theorem Hive.flushInto_sameFaults (h : Hive) (slot why : Nat) : SameFaults h (h.flushInto slot why) := by
  unfold Hive.flushInto
  exact SameFaults.after (SameFaults.set (f := F.evrStat_state) _ _ (by decide)) rfl rfl

theorem Hive.flushStart_sameFaults (h : Hive) (why : Nat) : SameFaults h (h.flushStart why) := by
  unfold Hive.flushStart
  split
  · exact SameFaults.after (SameFaults.set (f := F.evrStat_pending) _ _ (by decide)) rfl rfl
  · exact Hive.flushInto_sameFaults ..

theorem Hive.sendTree_sameFaults (h : Hive) (msg : List Nat) : SameFaults h (h.sendTree msg) := by
  have : ∀ (l : List Nat) (x : Hive), SameFaults x (l.foldl (fun h k => h.sendLink k msg) x) := by
    intro l
    induction l with
    | nil => exact SameFaults.refl
    | cons k l ih => intro x; exact SameFaults.trans (⟨rfl, rfl⟩ : SameFaults x (x.sendLink k msg)) (ih _)
  exact this _ h

theorem Hive.alertFault_sameFaults (h : Hive) (shown : Nat) : SameFaults h (h.alertFault shown) := by
  unfold Hive.alertFault
  exact SameFaults.ite ⟨rfl, rfl⟩ (SameFaults.refl _)

/-- A slot's record replaced by one that is on at no lower level keeps every fault on. -/
theorem Hive.setFlt_stay (h : Hive) (i : Nat) (r : FaultRec)
    (hr : ∀ c k s l, (h.flt i).hasKey c k s = true → (h.flt i).active = true → l ≤ (h.flt i).level →
      r.hasKey c k s = true ∧ r.active = true ∧ l ≤ r.level) : FaultsStay h (h.setFlt i r) := by
  refine ⟨?_⟩
  intro c k s l e
  rw [Hive.faultOn_iff] at e ⊢
  rcases e with ⟨j, hj, h1, h2, h3⟩ | e
  · refine Or.inl ⟨j, hj, ?_⟩
    rw [Hive.flt_setFlt]
    by_cases hji : j = i
    · subst hji
      rw [if_pos rfl]
      exact hr c k s l h1 h2 h3
    · rw [if_neg hji]; exact ⟨h1, h2, h3⟩
  · exact Or.inr e

theorem Hive.setFlt_on (h : Hive) {i : Nat} (hi : i < 256) (r : FaultRec) {c k s l : Nat} (hk : r.hasKey c k s = true)
    (ha : r.active = true) (hl : l ≤ r.level) : (h.setFlt i r).faultOn c k s l = true := by
  rw [Hive.faultOn_iff]
  refine Or.inl ⟨i, hi, ?_⟩
  rw [Hive.flt_setFlt, if_pos rfl]
  exact ⟨hk, ha, hl⟩

theorem Hive.fltFind_some {h : Hive} {c k s i : Nat} (e : h.fltFind c k s = some i) :
    i < 256 ∧ (h.flt i).hasKey c k s = true :=
  ⟨List.mem_range.mp (List.mem_of_find?_eq_some e), List.find?_some (p := fun i => (h.flt i).hasKey c k s) e⟩

theorem SameFaults.modeSet (h : Hive) (m : Mode) (b : Bool) : SameFaults h { h with mode := m, seenRun := b } := ⟨rfl, rfl⟩

theorem SameFaults.humSet (h : Hive) (n : Nat) : SameFaults h { h with hum := n } := ⟨rfl, rfl⟩

theorem SameFaults.workPut (h : Hive) (t : Tbl WorkSt) : SameFaults h { h with work := t } := ⟨rfl, rfl⟩

theorem SameFaults.sset (h : Hive) (n : Nat) (x : StreamSt) : SameFaults h (h.sset n x) := ⟨rfl, rfl⟩

theorem SameFaults.queue (h : Hive) (l : List JEntry) : SameFaults h { h with jq := l } := ⟨rfl, rfl⟩

theorem SameFaults.hwSet (h : Hive) {f : RF} (hf : R.fltLost ≠ f.a) : SameFaults h (h.hwSet f) :=
  (SameFaults.set (f := f) h 1 hf).trans ⟨rfl, rfl⟩

theorem FaultsStay.foldl_mem {α : Type} {f : Hive → α → Hive} (l : List α) (hf : ∀ x, ∀ a ∈ l, FaultsStay x (f x a)) (h : Hive) :
    FaultsStay h (l.foldl f h) := by
  induction l generalizing h with
  | nil => exact FaultsStay.refl h
  | cons a l ih =>
    exact (hf h a (List.mem_cons_self ..)).trans (ih (fun x b hb => hf x b (List.mem_cons_of_mem _ hb)) (f h a))

/-- A fault that is counted in FLT.LOST: the aggregate is valid at the higher of its level and the new one. -/
theorem Hive.lostAdd_spec (h : Hive) (r : FaultRec) (hum : Nat) (hl : r.level ≤ 7) :
    (h.lostAdd r hum).faults = h.faults ∧ (h.lostAdd r hum).flag F.fltLost_valid = true ∧
      (h.lostAdd r hum).get F.fltLost_level = max (h.get F.fltLost_level) r.level := by
  unfold Hive.lostAdd
  extract_lets m h1 h2 h3 h4 h5 h6
  have g1 : h2.get F.fltLost_level = h.get F.fltLost_level := Hive.get_set_ne h1 _ (by decide) (by decide)
  have hb : h2.get F.fltLost_level < 8 := bitsOf_lt _ _ _
  have g3 : h3.get F.fltLost_level = max (h2.get F.fltLost_level) r.level := by
    show (h2.set F.fltLost_level _).get _ = _
    rw [Hive.get_set_same h2 F.fltLost_level _ (by decide)]
    exact Nat.mod_eq_of_lt (Nat.max_lt.mpr ⟨hb, Nat.lt_succ_of_le hl⟩)
  have g4 : h4.get F.fltLost_level = h3.get F.fltLost_level := Hive.get_set_ne h3 _ (by decide) (by decide)
  have g5 : h5.get F.fltLost_level = h4.get F.fltLost_level ∧ h5.faults = h4.faults := by
    show (if _ then h4.setFlag F.fltLost_rf true else h4).get _ = _ ∧ (if _ then h4.setFlag F.fltLost_rf true else h4).faults = _
    split
    · exact ⟨Hive.get_setFlag_ne h4 _ (by decide) (by decide), Hive.setFlag_faults ..⟩
    · exact ⟨rfl, rfl⟩
  have g6 : h6.get F.fltLost_level = h5.get F.fltLost_level := Hive.get_set_ne h5 _ (by decide) (by decide)
  have g7 : (h6.hwSet F.fltLost_valid).get F.fltLost_level = h6.get F.fltLost_level := by
    rw [Hive.hwSet_get]; exact Hive.get_setFlag_ne h6 true (by decide) (by decide)
  have v7 : (h6.hwSet F.fltLost_valid).flag F.fltLost_valid = true := by
    rw [Hive.hwSet_flag]; exact Hive.flag_setFlag_same h6 _ true (by decide) rfl
  have f7 : (h6.hwSet F.fltLost_valid).faults = h.faults := by
    have f6 : (h6.hwSet F.fltLost_valid).faults = h6.faults := Hive.hwSet_faults ..
    have f5 : h6.faults = h5.faults := Hive.set_faults ..
    have f4 : h4.faults = h3.faults := Hive.set_faults ..
    have f3 : h3.faults = h2.faults := Hive.set_faults ..
    have f2 : h2.faults = h1.faults := Hive.set_faults ..
    rw [f6, f5, g5.2, f4, f3, f2]
  generalize h6.hwSet F.fltLost_valid = x at g7 v7 f7 ⊢
  have t := (Hive.setIrq_log x 1).sameFaults
  refine ⟨t.faults.trans f7, (Hive.flag_congr t.lost).trans v7, ?_⟩
  rw [Hive.get_congr t.lost, g7, g6, g5.1, g4, g3, g1]

theorem Hive.lostAdd_stay (h : Hive) (r : FaultRec) (hum : Nat) (hl : r.level ≤ 7) : FaultsStay h (h.lostAdd r hum) := by
  obtain ⟨ef, ev, lv⟩ := Hive.lostAdd_spec h r hum hl
  refine ⟨fun c k s l e => ?_⟩
  rw [Hive.faultOn_iff] at e ⊢
  rcases e with ⟨j, hj, e⟩ | e
  · have ff : (h.lostAdd r hum).flt j = h.flt j := by unfold Hive.flt; rw [ef]
    exact Or.inl ⟨j, hj, by rw [ff]; exact e⟩
  · exact Or.inr ⟨ev, by rw [lv]; exact Nat.le_trans e.2 (Nat.le_max_left ..)⟩

theorem Hive.showUp_stay (h : Hive) (i shown : Nat) : FaultsStay h (h.showUp i shown) := by
  unfold Hive.showUp
  dsimp only
  refine FaultsStay.ite ?_ (FaultsStay.refl h)
  have e1 : FaultsStay h (h.setFlt i { h.flt i with shown := shown }) := Hive.setFlt_stay h i _ (fun c k s l a b d => ⟨a, b, d⟩)
  exact (e1.trans (Hive.setIrq_log _ 1).sameFaults.stay).trans (Hive.alertFault_sameFaults ..).stay

/-- A record that returns is on wherever it was on. -/
theorem Hive.fltReturn_stay (h : Hive) (cls cause source : Nat) : FaultsStay h (h.fltReturn cls cause source) := by
  unfold Hive.fltReturn
  split
  · exact FaultsStay.refl h
  · rename_i m hm
    have hk : m.was.hasKey cls cause source = true := by
      have := List.find?_some hm
      simp only [Bool.and_eq_true] at this
      exact this.2
    dsimp only
    split
    · exact FaultsStay.refl h
    · rename_i hn
      have e1 : ∀ r : FaultRec, (∀ c k s l, (h.flt m.slot).hasKey c k s = true → (h.flt m.slot).active = true →
          l ≤ (h.flt m.slot).level → r.hasKey c k s = true ∧ r.active = true ∧ l ≤ r.level) →
          FaultsStay h (({ h with fltMarks := h.fltMarks.filter (fun x => x != m) } : Hive).setFlt m.slot r) := fun r hr =>
        (⟨rfl, rfl⟩ : SameFaults h { h with fltMarks := h.fltMarks.filter (fun x => x != m) }).stay.trans
          (Hive.setFlt_stay _ _ _ hr)
      have e2 : FaultsStay h (({ h with fltMarks := h.fltMarks.filter (fun x => x != m) } : Hive).setFlt m.slot
          (if (h.flt m.slot).valid then { m.was with
            level := max m.was.level (h.flt m.slot).level, active := m.was.active || (h.flt m.slot).active,
            gen := (h.flt m.slot).gen }
          else { m.was with gen := (h.flt m.slot).gen })) := by
        refine e1 _ (fun c k s l a b d => ?_)
        have hv : (h.flt m.slot).valid = true := by
          simp only [FaultRec.hasKey, Bool.and_eq_true] at a
          exact a.1.1.1
        rw [if_pos hv]
        rw [hv, Bool.true_and] at hn
        have hs : (h.flt m.slot).hasKey cls cause source = true := by simpa using hn
        simp only [FaultRec.hasKey, Bool.and_eq_true, beq_iff_eq] at a hs hk ⊢
        exact ⟨⟨⟨⟨hk.1.1.1, by rw [hk.1.1.2, ← hs.1.1.2, a.1.1.2]⟩, by rw [hk.1.2, ← hs.1.2, a.1.2]⟩, by rw [hk.2, ← hs.2, a.2]⟩,
          by rw [b, Bool.or_true], Nat.le_trans d (Nat.le_max_right ..)⟩
      split
      · exact e2
      · rename_i a _
        exact (e2.trans (Hive.refuse_log _ a 3).sameFaults.stay).trans (SameFaults.queue _ _).stay

/-- A recorded fault is on, and every fault that was on stays on. -/
theorem Hive.record_spec (h : Hive) (cls cause source level arg : Nat) (selfc : Bool) (hl : level ≤ 7) :
    (h.record cls cause source level arg selfc).faultOn cls cause source level = true ∧
      FaultsStay h (h.record cls cause source level arg selfc) := by
  have tail : ∀ (x : Hive) (later : List Nat), x.faultOn cls cause source level = true ∧ FaultsStay h x →
      Hive.faultOn
      (let h := if level > 0 then later.foldl (fun (h : Hive) (i : Nat) => h.showUp i (min 5 ((h.flt i).level + 1))) x else x
       let h := if level ≥ 3 then h.flushStart 2 else h
       if level ≥ 4 then h.sendTree (h.faultMsg cls level) else h) cls cause source level = true ∧ FaultsStay h
      (let h := if level > 0 then later.foldl (fun (h : Hive) (i : Nat) => h.showUp i (min 5 ((h.flt i).level + 1))) x else x
       let h := if level ≥ 3 then h.flushStart 2 else h
       if level ≥ 4 then h.sendTree (h.faultMsg cls level) else h) := by
    intro x later hx
    extract_lets h3 h4
    have e3 : FaultsStay x h3 := FaultsStay.ite (FaultsStay.foldl_mem
      (f := fun (h : Hive) (i : Nat) => h.showUp i (min 5 ((h.flt i).level + 1))) later
      (fun x i _ => Hive.showUp_stay x i _) x) (FaultsStay.refl x)
    have e4 : FaultsStay x h4 := e3.trans (FaultsStay.ite (Hive.flushStart_sameFaults ..).stay (FaultsStay.refl _))
    have e5 := e4.trans (FaultsStay.ite (c := level ≥ 4) (Hive.sendTree_sameFaults h4 (h4.faultMsg cls level)).stay
      (FaultsStay.refl _))
    exact ⟨e5.on _ _ _ _ hx.1, hx.2.trans e5⟩
  have e1 : FaultsStay h (h.fltReturn cls cause source) := Hive.fltReturn_stay ..
  unfold Hive.record
  refine tail _ _ ?_
  dsimp only
  generalize h.fltReturn cls cause source = g at e1 ⊢
  split
  · rename_i i hi
    obtain ⟨hlt, hk⟩ := Hive.fltFind_some hi
    have s1 := Hive.showUp_stay
    refine ⟨(s1 _ _ _).on _ _ _ _ (Hive.setFlt_on g hlt _ hk rfl (Nat.le_max_right ..)), e1.trans (FaultsStay.trans
      (Hive.setFlt_stay g i _ ?_) (s1 _ _ _))⟩
    intro c k s l a _ b
    exact ⟨a, rfl, Nat.le_trans b (Nat.le_max_left ..)⟩
  · split
    · rename_i i hi
      have hlt : i < 256 := List.mem_range.mp (List.mem_of_find?_eq_some hi)
      have hv : (g.flt i).valid = false := by
        have := List.find?_some hi
        simpa using this
      have s1 : ∀ (x : Hive) (n : Nat), FaultsStay x ((x.setIrq 1).alertFault n) := fun x n =>
        ((Hive.setIrq_log x 1).sameFaults.trans (Hive.alertFault_sameFaults _ n)).stay
      refine ⟨(s1 _ _).on _ _ _ _ (Hive.setFlt_on g hlt _ (by simp [FaultRec.hasKey]) rfl (Nat.le_refl _)),
        e1.trans (FaultsStay.trans (Hive.setFlt_stay g i _ ?_) (s1 _ _))⟩
      intro c k s l a
      simp [FaultRec.hasKey, hv] at a
    · refine ⟨?_, e1.trans (Hive.lostAdd_stay _ _ _ hl)⟩
      rw [Hive.faultOn_iff]
      exact Or.inr ⟨(Hive.lostAdd_spec g _ _ hl).2.1, by
        rw [(Hive.lostAdd_spec g _ _ hl).2.2]; exact Nat.le_max_right ..⟩

theorem Hive.probeStop_sameFaults (h : Hive) (n : Nat) : SameFaults h (h.probeStop n) := by
  unfold Hive.probeStop
  extract_lets c
  exact SameFaults.foldl (fun x k => SameFaults.ite (SameFaults.workPut x _) (SameFaults.refl x)) _ _

theorem Hive.ugtFollow_sameFaults (h : Hive) (n v : Nat) : SameFaults h (h.ugtFollow n v) := by
  refine SameFaults.foldl (fun x d => ?_) _ h
  extract_lets w
  split
  · rename_i hw
    have hg : bitsOf w 4 8 < 256 := bitsOf_lt _ _ _
    have hr : ∀ (x : Hive) (v : Nat), SameFaults x (x.set (F.ugtIn_state (bitsOf w 4 8) (bitsOf w 12 12)) v) := fun x v =>
      SameFaults.set x v (by simp only [F.ugtIn_state, R.ugtIn, R.fltLost]; omega)
    unfold Hive.ugtPause
    extract_lets st sl
    exact SameFaults.ite ((⟨rfl, rfl⟩ : SameFaults x (x.ugtSetSlot _ _ _)).trans (hr _ _))
      (SameFaults.ite (hr _ _) (SameFaults.refl _))
  · exact SameFaults.refl _

theorem Hive.loopsRun_sameFaults (h : Hive) (n : Nat) (on : Bool) : SameFaults h (h.loopsRun n on) := by
  refine SameFaults.foldl (fun x s => ?_) _ h
  dsimp only
  split
  · exact SameFaults.ite ⟨rfl, rfl⟩ (SameFaults.refl _)
  · exact SameFaults.ite (SameFaults.refl _) ⟨rfl, rfl⟩

theorem Hive.setSt_sameFaults (h : Hive) {n : Nat} (v : Nat) (hn : n < 2048) : SameFaults h (h.setSt n v) := by
  unfold Hive.setSt
  extract_lets h1 h2
  have e1 : SameFaults h h1 := SameFaults.ite (Hive.probeStop_sameFaults ..) (SameFaults.refl _)
  have e2 : SameFaults h1 h2 := SameFaults.ite ⟨rfl, rfl⟩ (SameFaults.ite ⟨rfl, rfl⟩ (SameFaults.refl _))
  exact (((e1.trans e2).trans (Hive.ugtFollow_sameFaults ..)).trans (Hive.loopsRun_sameFaults ..)).trans
    (SameFaults.set _ _ (by simp only [F.rteStatus_state, R.rteStatus, R.fltLost]; omega))

theorem Hive.setMs_sameFaults (h : Hive) (n m : Nat) : SameFaults h (h.setMs n m) := by
  have hs := Hive.lastSlice_lt h n
  have hp := Hive.lastHalf_lt h n
  exact (⟨rfl, rfl⟩ : SameFaults h (h.sset n { h.sget n with ms := m })).trans
    (SameFaults.set _ _ (by simp only [F.strSmoke_mult, R.strSmoke, R.fltLost]; omega))

theorem SameFaults.smk (h : Hive) {f : RF} (v : Nat) (h2 : f.a < 0x588000) : SameFaults h (h.set f v) :=
  SameFaults.set h v (by unfold R.fltLost; omega)

theorem Hive.smkCause_same (h : Hive) {n : Nat} (v : Nat) (hn : n < 2048) :
    SameFaults h (h.set (F.smkCause_active n) v) ∧ SameFaults h (h.set (F.smkCause_first n) v) :=
  ⟨SameFaults.smk h v (by simp only [F.smkCause_active, R.smkCause]; omega),
    SameFaults.smk h v (by simp only [F.smkCause_first, R.smkCause]; omega)⟩

theorem Hive.rampStart_stay (h : Hive) {n : Nat} (pf force : Bool) (ms : Nat) (hn : n < 2048) :
    FaultsStay h (h.rampStart n pf force ms) := by
  have main : ∀ (x : StreamSt) (a b : Nat) (c : Bool), FaultsStay h
      ((((h.sset n x).set (F.smkStat_pos n) a).set (F.smkStat_ramp n) b).setFlag (F.smkStat_clipped n) c) := by
    intro x a b c
    have e1 : SameFaults h (h.sset n x) := ⟨rfl, rfl⟩
    exact (((e1.trans (SameFaults.smk _ _ (by simp only [F.smkStat_pos, R.smkStat]; omega))).trans
      (SameFaults.smk _ _ (by simp only [F.smkStat_ramp, R.smkStat]; omega))).trans
      (SameFaults.smk (f := F.smkStat_clipped n) _ _ (by simp only [F.smkStat_clipped, R.smkStat]; omega))).stay
  unfold Hive.rampStart
  split
  dsimp only
  exact FaultsStay.ite (FaultsStay.refl h)
    (FaultsStay.ite ((main ..).trans (Hive.record_spec _ _ _ _ _ _ _ (by decide)).2) (main ..))

theorem Hive.mismNote_stay (h : Hive) (source a : Nat) (ns : List Nat) : FaultsStay h (h.mismNote source a ns) := by
  unfold Hive.mismNote
  extract_lets h1 h2 h3
  have e1 : SameFaults h h1 := (SameFaults.set (f := F.queInteg_count) h _ (by decide)).trans
    (SameFaults.set (f := F.queInteg_source) _ _ (by decide))
  have e2 : SameFaults h1 h2 := (Hive.journal_log ..).sameFaults
  have e3 : SameFaults h2 h3 := ⟨rfl, rfl⟩
  exact ((e1.trans e2).trans e3).stay.trans (Hive.record_spec _ _ _ _ _ _ _ (by decide)).2

theorem Hive.deadlineUse_stay (h : Hive) {n : Nat} (hn : n < 2048) : FaultsStay h (h.deadlineUse n) := by
  unfold Hive.deadlineUse
  extract_lets a
  exact FaultsStay.ite (FaultsStay.refl h)
    ((FaultsStay.ite (FaultsStay.refl h) (Hive.mismNote_stay ..)).trans (Hive.smkCause_same _ _ hn).1.stay)

theorem Hive.cmdUndo_sameFaults (h : Hive) {n : Nat} (hn : n < 2048) : SameFaults h (h.cmdUndo n) := by
  unfold Hive.cmdUndo
  split
  · exact SameFaults.refl h
  · extract_lets h1 h2 h3
    have e1 : SameFaults h h1 := ⟨rfl, rfl⟩
    have e2 : SameFaults h1 h2 := (Hive.setSt_sameFaults h1 _ hn).trans ⟨rfl, rfl⟩
    have e3 : ∀ (x : Hive) (w : Word), SameFaults x (x.wr (R.smkStat n) w) := fun x w =>
      ⟨rfl, Hive.rd_wr_ne x w (by unfold R.smkStat R.fltLost; omega)⟩
    exact (((e1.trans e2).trans ((Hive.setMs_sameFaults ..).trans (e3 _ _))).trans (Hive.smkCause_same _ _ hn).1).trans
      (Hive.restatus_log ..).sameFaults

theorem Hive.rampBegin_stay (h : Hive) {n : Nat} (bit : Nat) (pf toIdle : Bool) (hn : n < 2048) :
    FaultsStay h (h.rampBegin n bit pf toIdle) := by
  unfold Hive.rampBegin
  exact (((Hive.deadlineUse_stay h hn).trans (Hive.rampStart_stay _ _ _ _ hn)).trans
    (SameFaults.sset ..).stay).trans (Hive.setSt_sameFaults _ _ hn).stay

theorem Hive.trigger_stay (h : Hive) (bit : Nat) (pf : Bool) {n : Nat} (hn : n < 2048) :
    FaultsStay h (h.trigger bit pf n) := by
  have e1 : FaultsStay h ((h.cmdUndo n).causeOn bit n) :=
    ((Hive.cmdUndo_sameFaults h hn).trans (Hive.smkCause_same _ _ hn).1).stay
  have f1 : ∀ x : Hive, FaultsStay x (x.firstNow n) := fun x => (Hive.smkCause_same x _ hn).2.stay
  unfold Hive.trigger
  dsimp only
  refine FaultsStay.ite ?_ (FaultsStay.ite ?_ (FaultsStay.ite (FaultsStay.ite (FaultsStay.ite ?_ ?_) ?_) e1))
  · exact (e1.trans (Hive.setSt_sameFaults _ _ hn).stay).trans (f1 _)
  · exact (e1.trans (Hive.rampBegin_stay _ _ _ _ hn)).trans (f1 _)
  · exact (((e1.trans (Hive.deadlineUse_stay _ hn)).trans (Hive.rampStart_stay _ _ _ _ hn)).trans
      (SameFaults.sset ..).stay).trans (f1 _)
  · exact e1.trans (Hive.deadlineUse_stay _ hn)
  · exact (e1.trans (Hive.deadlineUse_stay _ hn)).trans (Hive.rampStart_stay _ _ _ _ hn)

theorem Hive.triggerAll_stay (h : Hive) (bit : Nat) (pf : Bool) (ns : List Nat) (hn : ∀ n ∈ ns, n < 2048) :
    FaultsStay h (h.triggerAll bit pf ns) :=
  FaultsStay.foldl_mem (f := fun h n => h.trigger bit pf n) ns (fun x n hx => Hive.trigger_stay x bit pf (hn n hx)) h

theorem Hive.modeMsg_sameFaults (h : Hive) (level : Nat) : SameFaults h (h.modeMsg level) :=
  SameFaults.trans (⟨rfl, rfl⟩ : SameFaults h h.draw.2) (Hive.sendTree_sameFaults ..)

theorem Hive.settle_stay (h : Hive) : FaultsStay h h.settle := by
  unfold Hive.settle
  extract_lets own h1
  have e1 : FaultsStay h h1 := by
    refine FaultsStay.ite (FaultsStay.ite ?_ (FaultsStay.ite (FaultsStay.ite (FaultsStay.refl h) ?_)
      (FaultsStay.ite (SameFaults.modeSet h .degraded true).stay (SameFaults.modeSet h .run true).stay))) (FaultsStay.refl h)
    · unfold Hive.enterHalt
      extract_lets ns
      have hn : ∀ n ∈ ns, n < 2048 := fun n hm => Hive.image_lt (List.mem_filter.mp hm |>.1)
      exact (SameFaults.modeSet h .halt h.seenRun).stay.trans ((Hive.triggerAll_stay _ 2 true ns hn).trans
        (Hive.modeMsg_sameFaults ..).stay)
    · exact (SameFaults.modeSet h .safe h.seenRun).stay.trans (Hive.modeMsg_sameFaults ..).stay
  exact e1.trans (SameFaults.humSet h1 _).stay

/-- A fault raised is on, and every fault that was on stays on. -/
theorem Hive.raise_spec (h : Hive) (cls cause source level arg : Nat) (hl : level ≤ 7) :
    (h.raise cls cause source level arg).faultOn cls cause source level = true ∧
      FaultsStay h (h.raise cls cause source level arg) := by
  have r := Hive.record_spec h cls cause source level arg false hl
  have s := Hive.settle_stay (h.record cls cause source level arg false)
  exact ⟨s.on _ _ _ _ r.1, r.2.trans s⟩

theorem Hive.raiseSC_spec (h : Hive) (cls cause source level arg : Nat) (hl : level ≤ 7) :
    (h.raiseSC cls cause source level arg).faultOn cls cause source level = true ∧
      FaultsStay h (h.raiseSC cls cause source level arg) := by
  have r := Hive.record_spec h cls cause source level arg true hl
  have s := Hive.settle_stay (h.record cls cause source level arg true)
  exact ⟨s.on _ _ _ _ r.1, r.2.trans s⟩

end Sys2Proof.Machine
end

