-- ==== Sys2Proof/Laws/Route.lean ====
section
/-! SUPPORT. What the fault map, switches of source and the evaluation of sources can do: bookkeeping, fault handling, the
streams' routing status and the recorded switches. -/

namespace Sys2Proof.Machine

theorem FaultOnly.route {h h' : Hive} (a : FaultOnly h h') : RouteOnly h h' :=
  a.mono (fun _ _ e => congrArg (fun x : Hive => { x with sched := [], grp := [] }) e)
    (fun x hx => by simp only [routeReg, Bool.or_eq_false_iff] at hx; exact hx.1)

theorem LogOnly.route {h h' : Hive} (a : LogOnly h h') : RouteOnly h h' := a.fault.route

theorem RouteOnly.wr (h : Hive) {a : Nat} (v : Word) (ha : routeReg a = true) : RouteOnly h (h.wr a v) :=
  ⟨rfl, fun x hx => Hive.rd_wr_ne h v (fun e => by subst e; rw [ha] at hx; cases hx)⟩

theorem RouteOnly.set (h : Hive) {f : RF} (v : Nat) (ha : routeReg f.a = true) : RouteOnly h (h.set f v) :=
  RouteOnly.wr h _ ha

theorem routeReg_rteStatus {n : Nat} (hn : n < 2048) : routeReg (R.rteStatus n) = true := by
  simp only [routeReg, faultReg_rteStatus hn, Bool.true_or]

/-- A field of a stream's RTE.STATUS. -/
theorem RouteOnly.rte (h : Hive) {f : RF} {n : Nat} (v : Nat) (hn : n < 2048) (hf : f.a = R.rteStatus n) :
    RouteOnly h (h.set f v) := RouteOnly.set h v (by rw [hf]; exact routeReg_rteStatus hn)

theorem RouteOnly.sset (h : Hive) (n : Nat) (x : StreamSt) : RouteOnly h (h.sset n x) := ⟨rfl, fun _ _ => rfl⟩
theorem RouteOnly.gset (h : Hive) (n : Nat) (x : GroupSt) : RouteOnly h (h.gset n x) := ⟨rfl, fun _ _ => rfl⟩
theorem RouteOnly.schedSet (h : Hive) (l : List SchedOp) : RouteOnly h { h with sched := l } := ⟨rfl, fun _ _ => rfl⟩

theorem Hive.setFit_route (h : Hive) {f : RF} (v : Int) (ha : routeReg f.a = true) : RouteOnly h (h.setFit f v) := by
  unfold Hive.setFit
  exact Only.ite (RouteOnly.set h _ ha) ((Hive.draw_fault h).route.trans (RouteOnly.set _ _ ha))

/-! ## Latency -/

theorem Hive.groupMembers_lt {h : Hive} {g : Nat} {p : Nat × Nat} (hp : p ∈ h.groupMembers g) : p.1 < 2048 := by
  simp only [Hive.groupMembers, List.mem_flatMap, List.mem_map] at hp
  obtain ⟨n, hn, d, _, rfl⟩ := hp
  exact Hive.image_lt hn

theorem Hive.asetMembers_lt {h : Hive} {g : Nat} {p : Nat × Nat} (hp : p ∈ h.asetMembers g) : p.1 < 2048 := by
  simp only [Hive.asetMembers, List.mem_map, List.mem_filter] at hp
  obtain ⟨n, hn, rfl⟩ := hp
  exact Hive.image_lt hn.1

theorem Hive.setsOf_lt {h : Hive} {n : Nat} {l : List (Nat × Nat)} (hl : l ∈ h.setsOf n) : ∀ p ∈ l, p.1 < 2048 := by
  intro p hp
  simp only [Hive.setsOf, List.mem_append, List.mem_map] at hl
  rcases hl with ⟨d, _, rfl⟩ | hl
  · exact Hive.groupMembers_lt hp
  · split at hl
    · cases hl
    · simp only [List.mem_singleton] at hl; subst hl; exact Hive.asetMembers_lt hp

theorem Hive.residSet_route (h : Hive) (l : List (Nat × Nat)) (hl : ∀ p ∈ l, p.1 < 2048) : RouteOnly h (h.residSet l) := by
  unfold Hive.residSet
  extract_lets top
  have hr : ∀ p ∈ l, routeReg (F.rteStatus_resid p.1).a = true := fun p hp => routeReg_rteStatus (hl p hp)
  exact Only.foldl_mem l (fun x p hp => Hive.setFit_route (f := F.rteStatus_resid p.1) x _ (hr p hp)) h

/-- The residues that follow a change of latency are routing status. -/
theorem Hive.latChanged_route (h : Hive) (n : Nat) : RouteOnly h (h.latChanged n) :=
  Only.foldl_mem (f := fun h set => h.residSet set) (h.setsOf n) (fun x l hl => Hive.residSet_route x l (Hive.setsOf_lt hl)) h

/-! ## Switches -/

theorem Hive.switchDone_route (h : Hive) (n result : Nat) (auto : Bool) : RouteOnly h (h.switchDone n result auto) := by
  unfold Hive.switchDone
  extract_lets h1
  have e1 : RouteOnly h h1 := ((RouteOnly.set h _ (by decide)).trans (RouteOnly.set _ _ (by decide))).trans
    (RouteOnly.set _ _ (by decide))
  have e2 : ∀ x : Hive, RouteOnly x (x.hwSet F.swLast_valid) := fun x =>
    (RouteOnly.set x _ (by decide)).trans (Hive.markEdge_log ..).route
  exact (e1.trans (e2 h1)).trans (Hive.jEvent_log ..).route

theorem Hive.standbyEval_route (h : Hive) {n : Nat} (hn : n < 2048) : RouteOnly h (h.standbyEval n) := by
  unfold Hive.standbyEval
  extract_lets ok
  exact RouteOnly.rte h _ hn rfl

theorem Hive.uncause_fault (h : Hive) (bit : Nat) {n : Nat} (hn : n < 2048) : FaultOnly h (h.uncause bit n) :=
  (FaultOnly.smkCause h _ hn).1

theorem Hive.dieCauseEnd_fault (h : Hive) (ns : List Nat) (hn : ∀ n ∈ ns, n < 2048) : FaultOnly h (h.dieCauseEnd ns) := by
  unfold Hive.dieCauseEnd
  exact Only.ite (Only.refl ..) (Only.foldl_mem _ (fun x n hx => Hive.uncause_fault x 2 (hn n (List.mem_filter.mp hx).1)) h)

theorem Hive.switchOver_route (h : Hive) {n : Nat} (hn : n < 2048) : RouteOnly h (h.switchOver n) := by
  unfold Hive.switchOver
  have e1 : RouteOnly h (h.setFlag (F.rteStatus_active n) (!h.flag (F.rteStatus_active n))) := RouteOnly.rte h _ hn rfl
  exact ((e1.trans (Hive.standbyEval_route _ hn)).trans (Hive.latChanged_route ..)).trans
    (Hive.dieCauseEnd_fault _ _ (fun m hm => by rw [List.mem_singleton.mp hm]; exact hn)).route

theorem Hive.switchSupersede_route (h : Hive) (n : Nat) : RouteOnly h (h.switchSupersede n) := by
  unfold Hive.switchSupersede
  exact Only.ite ((RouteOnly.schedSet h _).trans (Hive.switchDone_route ..)) (Only.refl ..)

/-! ## The fault map -/

theorem Hive.raise_route (h : Hive) (cls cause source level arg : Nat) : RouteOnly h (h.raise cls cause source level arg) :=
  (Hive.raise_fault ..).route

theorem Hive.raiseSC_route (h : Hive) (cls cause source level arg : Nat) :
    RouteOnly h (h.raiseSC cls cause source level arg) := (Hive.raiseSC_fault ..).route

theorem Hive.fmapMute_route (h : Hive) {n : Nat} (c : Nat) (hn : n < 2048) : RouteOnly h (h.fmapMute n c) :=
  (RouteOnly.sset h n _).trans (Hive.trigger_fault _ 7 false hn).route

theorem Hive.bypassTake_route (h : Hive) {n : Nat} (hn : n < 2048) : RouteOnly h (h.bypassTake n) := by
  unfold Hive.bypassTake
  extract_lets t more top st want h1 h2
  have e1 : RouteOnly h h1 := RouteOnly.sset h n _
  have e2 : RouteOnly h1 h2 := Only.ite (RouteOnly.rte h1 _ hn rfl) (Only.refl ..)
  exact Only.ite (Only.refl ..) ((e1.trans e2).trans (Hive.latChanged_route ..))

theorem Hive.tenantStreams_lt {h : Hive} {t n : Nat} (hn : n ∈ h.tenantStreams t) : n < 2048 :=
  Hive.image_lt (List.mem_filter.mp hn).1

/-- An action of the fault map. -/
theorem Hive.fmapTake_route (h : Hive) (c : Nat) {n : Nat} (hn : n < 2048) : RouteOnly h (h.fmapTake c n) := by
  have hr : ∀ (x : Hive) (l : Nat), RouteOnly h x → RouteOnly h (x.raise 0x02 (3 + c) (srcNoStream n) l n) := fun x l e =>
    e.trans (Hive.raise_route x ..)
  unfold Hive.fmapTake
  dsimp only
  split
  · exact hr _ _ (Hive.bypassTake_route h hn)
  · exact Only.ite (hr _ _ (((Hive.switchOver_route h hn).trans (Hive.switchDone_route ..)).trans (Hive.switchSupersede_route ..)))
      (hr _ _ (((Hive.switchDone_route ..).trans (Hive.switchSupersede_route ..)).trans (Hive.fmapMute_route _ c hn)))
  · exact Only.ite (hr _ _ (RouteOnly.gset ..)) (hr _ _ (Only.refl ..))
  · exact hr _ _ (Only.refl ..)
  · exact hr _ _ ((RouteOnly.sset h n _).trans
      (Hive.triggerAll_fault _ 6 false _ (fun m hm => Hive.tenantStreams_lt hm)).route)
  · exact hr _ _ (Hive.fmapMute_route h c hn)

theorem Hive.fmapRun_route (h : Hive) (c : Nat) {n : Nat} (hn : n < 2048) : RouteOnly h (h.fmapRun c n) := by
  unfold Hive.fmapRun
  extract_lets was h1
  have e1 : RouteOnly h h1 := Hive.fmapTake_route h c hn
  exact Only.ite ((e1.trans (RouteOnly.sset h1 n _)).trans (Hive.fmapTake_route _ 5 hn)) e1

/-- A situation of the fault map arising. -/
theorem Hive.sitOn_route (h : Hive) (c : Nat) {n : Nat} (hn : n < 2048) : RouteOnly h (h.sitOn c n) := by
  unfold Hive.sitOn
  extract_lets u h1
  have e1 : RouteOnly h h1 := RouteOnly.sset h n _
  exact Only.ite (Only.refl ..) (Only.ite (e1.trans (Hive.fmapRun_route h1 c hn)) e1)

/-- A situation of the fault map ending. -/
theorem Hive.sitOff_route (h : Hive) (c : Nat) {n : Nat} (hn : n < 2048) : RouteOnly h (h.sitOff c n) := by
  unfold Hive.sitOff
  extract_lets st st2 h1
  have e1 : RouteOnly h h1 := RouteOnly.sset h n _
  exact Only.ite (e1.trans (Hive.uncause_fault h1 7 hn).route) e1

/-- A stream's sources looked at again. -/
theorem Hive.srcEval_route (h : Hive) {n : Nat} (hn : n < 2048) : RouteOnly h (h.srcEval n) := by
  unfold Hive.srcEval
  extract_lets h1 h2
  have e1 : RouteOnly h h1 := Hive.standbyEval_route h hn
  have e2 : RouteOnly h1 h2 := Hive.sitOn_route h1 0 hn
  refine Only.ite e1 (Only.ite (Only.ite (e1.trans (Hive.sitOff_route h1 0 hn)) e1) ?_)
  exact Only.ite ((e1.trans e2).trans (Hive.sitOff_route h2 0 hn)) (e1.trans e2)

/-- A stream's destinations looked at again. -/
theorem Hive.destEval_route (h : Hive) {n : Nat} (hn : n < 2048) : RouteOnly h (h.destEval n) :=
  Only.ite (Hive.sitOn_route h 3 hn) (Only.ite (Hive.sitOff_route h 3 hn) (Only.refl ..))

theorem Hive.srcEvalAll_route (h : Hive) (p : Nat → Bool) : RouteOnly h (h.srcEvalAll p) := by
  refine Only.foldl_mem _ (fun x n hn => ?_) h
  have e1 := Hive.srcEval_route x (Hive.image_lt hn)
  have e2 := fun y => Hive.destEval_route y (Hive.image_lt hn)
  exact Only.ite ((Only.ite e1 (Only.refl ..)).trans (e2 _)) (Only.ite e1 (Only.refl ..))

/-- A stream's group looked at again. -/
theorem Hive.inputEval_route (h : Hive) {n : Nat} (hn : n < 2048) : RouteOnly h (h.inputEval n) := by
  have off := Only.ite (c := bitOf (h.sget n).sit 4 = true) (Hive.sitOff_route h 4 hn) (Only.refl ..)
  unfold Hive.inputEval
  split
  · exact off
  · exact Only.ite (Hive.sitOn_route h 4 hn) off

theorem Hive.feedEval_route (h : Hive) (n : Nat) : RouteOnly h (h.feedEval n) :=
  Only.foldl_mem _ (fun x _ hk => Hive.inputEval_route x (Hive.image_lt (List.mem_filter.mp hk).1)) h

/-- A stream that goes to FAULTED, and one that leaves it. -/
theorem Hive.toFaulted_route (h : Hive) {n : Nat} (hn : n < 2048) : RouteOnly h (h.toFaulted n) := by
  have e : FaultOnly h ((((h.setMs n 0).setSt n stFaulted).set (F.smkStat_ramp n) 0).set (F.smkStat_pos n) 0) :=
    (((Hive.setMs_fault ..).trans (Hive.setSt_fault _ _ hn)).trans (FaultOnly.smkStat _ _ hn).2.1).trans
      (FaultOnly.smkStat _ _ hn).1
  exact e.route.trans (Hive.feedEval_route ..)

theorem Hive.fromFaulted_route (h : Hive) {n : Nat} (hn : n < 2048) : RouteOnly h (h.fromFaulted n) :=
  (FaultOnly.route ((Hive.setSt_fault h _ hn).trans (FaultOnly.smkCause _ _ hn).2)).trans (Hive.feedEval_route ..)

/-! ## Faults stay on -/

theorem SameFaults.rte (h : Hive) {f : RF} {n : Nat} (v : Nat) (hn : n < 2048) (hf : f.a = R.rteStatus n) :
    SameFaults h (h.set f v) :=
  SameFaults.set h v (by rw [hf]; unfold R.rteStatus R.fltLost; omega)

theorem SameFaults.gset (h : Hive) (n : Nat) (x : GroupSt) : SameFaults h (h.gset n x) := ⟨rfl, rfl⟩
theorem SameFaults.schedSet (h : Hive) (l : List SchedOp) : SameFaults h { h with sched := l } := ⟨rfl, rfl⟩

theorem Hive.residSet_stay (h : Hive) (l : List (Nat × Nat)) (hl : ∀ p ∈ l, p.1 < 2048) : FaultsStay h (h.residSet l) := by
  unfold Hive.residSet
  extract_lets top
  have hr : ∀ p ∈ l, ∀ (x : Hive) (v : Int), FaultsStay x (x.setFit (F.rteStatus_resid p.1) v) := by
    intro p hp x v
    unfold Hive.setFit
    exact FaultsStay.ite (SameFaults.rte x _ (hl p hp) rfl).stay
      ((⟨rfl, rfl⟩ : SameFaults x x.draw.2).trans (SameFaults.rte _ _ (hl p hp) rfl)).stay
  exact FaultsStay.foldl_mem l (fun x p hp => hr p hp x _) h

theorem Hive.latChanged_stay (h : Hive) (n : Nat) : FaultsStay h (h.latChanged n) :=
  FaultsStay.foldl_mem (f := fun h set => h.residSet set) (h.setsOf n) (fun x l hl => Hive.residSet_stay x l (Hive.setsOf_lt hl)) h

theorem Hive.switchDone_stay (h : Hive) (n result : Nat) (auto : Bool) : FaultsStay h (h.switchDone n result auto) := by
  unfold Hive.switchDone
  extract_lets h1
  have a : ∀ (x : Hive) (f : RF) (v : Nat), R.fltLost ≠ f.a → SameFaults x (x.set f v) := fun x f v e => SameFaults.set x v e
  have e1 : SameFaults h h1 := ((a h F.swLast_stream _ (by decide)).trans (a _ F.swLast_result _ (by decide))).trans
    (a _ F.swLast_auto _ (by decide))
  have e2 : ∀ x : Hive, SameFaults x (x.hwSet F.swLast_valid) := fun x => SameFaults.hwSet x (by decide)
  exact ((e1.trans (e2 h1)).trans (Hive.jEvent_log ..).sameFaults).stay

theorem Hive.standbyEval_same (h : Hive) {n : Nat} (hn : n < 2048) : SameFaults h (h.standbyEval n) := by
  unfold Hive.standbyEval
  extract_lets ok
  exact SameFaults.rte h _ hn rfl

theorem Hive.uncause_same (h : Hive) (bit : Nat) {n : Nat} (hn : n < 2048) : SameFaults h (h.uncause bit n) :=
  SameFaults.smk h _ (by simp only [F.smkCause_active, R.smkCause]; omega)

theorem Hive.dieCauseEnd_stay (h : Hive) (ns : List Nat) (hn : ∀ n ∈ ns, n < 2048) : FaultsStay h (h.dieCauseEnd ns) := by
  unfold Hive.dieCauseEnd
  exact FaultsStay.ite (FaultsStay.refl h) (FaultsStay.foldl_mem _ (fun x n hx =>
    (Hive.uncause_same x 2 (hn n (List.mem_filter.mp hx).1)).stay) h)

theorem Hive.switchOver_stay (h : Hive) {n : Nat} (hn : n < 2048) : FaultsStay h (h.switchOver n) := by
  unfold Hive.switchOver
  have e1 : SameFaults h (h.setFlag (F.rteStatus_active n) (!h.flag (F.rteStatus_active n))) := SameFaults.rte h _ hn rfl
  exact ((e1.trans (Hive.standbyEval_same _ hn)).stay.trans (Hive.latChanged_stay ..)).trans
    (Hive.dieCauseEnd_stay _ _ (fun m hm => by rw [List.mem_singleton.mp hm]; exact hn))

theorem Hive.switchSupersede_stay (h : Hive) (n : Nat) : FaultsStay h (h.switchSupersede n) := by
  unfold Hive.switchSupersede
  exact FaultsStay.ite ((SameFaults.schedSet h _).stay.trans (Hive.switchDone_stay ..)) (FaultsStay.refl h)

theorem Hive.fmapMute_stay (h : Hive) {n : Nat} (c : Nat) (hn : n < 2048) : FaultsStay h (h.fmapMute n c) :=
  (SameFaults.sset h n _).stay.trans (Hive.trigger_stay _ 7 false hn)

theorem Hive.bypassTake_stay (h : Hive) {n : Nat} (hn : n < 2048) : FaultsStay h (h.bypassTake n) := by
  unfold Hive.bypassTake
  extract_lets t more top st want h1 h2
  have e1 : SameFaults h h1 := SameFaults.sset h n _
  have e2 : SameFaults h1 h2 := SameFaults.ite (SameFaults.rte h1 _ hn rfl) (SameFaults.refl _)
  exact FaultsStay.ite (FaultsStay.refl h) ((e1.trans e2).stay.trans (Hive.latChanged_stay ..))

theorem Hive.fmapTake_stay (h : Hive) (c : Nat) {n : Nat} (hn : n < 2048) : FaultsStay h (h.fmapTake c n) := by
  have hr : ∀ (x : Hive) (l : Nat), FaultsStay h x → l ≤ 7 → FaultsStay h (x.raise 0x02 (3 + c) (srcNoStream n) l n) :=
    fun x l e hl => e.trans (Hive.raise_spec x _ _ _ _ _ hl).2
  unfold Hive.fmapTake
  dsimp only
  split
  · exact hr _ _ (Hive.bypassTake_stay h hn) (by decide)
  · exact FaultsStay.ite (hr _ _ (((Hive.switchOver_stay h hn).trans (Hive.switchDone_stay ..)).trans
        (Hive.switchSupersede_stay ..)) (by decide))
      (hr _ _ (((Hive.switchDone_stay ..).trans (Hive.switchSupersede_stay ..)).trans (Hive.fmapMute_stay _ c hn)) (by decide))
  · exact FaultsStay.ite (hr _ _ (SameFaults.gset ..).stay (by decide)) (hr _ _ (FaultsStay.refl h) (by decide))
  · exact hr _ _ (FaultsStay.refl h) (by decide)
  · exact hr _ _ ((SameFaults.sset h n _).stay.trans
      (Hive.triggerAll_stay _ 6 false _ (fun m hm => Hive.tenantStreams_lt hm))) (by decide)
  · exact hr _ _ (Hive.fmapMute_stay h c hn) (by decide)

theorem Hive.fmapRun_stay (h : Hive) (c : Nat) {n : Nat} (hn : n < 2048) : FaultsStay h (h.fmapRun c n) := by
  unfold Hive.fmapRun
  extract_lets was h1
  have e1 : FaultsStay h h1 := Hive.fmapTake_stay h c hn
  exact FaultsStay.ite ((e1.trans (SameFaults.sset h1 n _).stay).trans (Hive.fmapTake_stay _ 5 hn)) e1

theorem Hive.sitOn_stay (h : Hive) (c : Nat) {n : Nat} (hn : n < 2048) : FaultsStay h (h.sitOn c n) := by
  unfold Hive.sitOn
  extract_lets u h1
  have e1 : FaultsStay h h1 := (SameFaults.sset h n _).stay
  exact FaultsStay.ite (FaultsStay.refl h) (FaultsStay.ite (e1.trans (Hive.fmapRun_stay h1 c hn)) e1)

theorem Hive.sitOff_stay (h : Hive) (c : Nat) {n : Nat} (hn : n < 2048) : FaultsStay h (h.sitOff c n) := by
  unfold Hive.sitOff
  extract_lets st st2 h1
  have e1 : SameFaults h h1 := SameFaults.sset h n _
  exact FaultsStay.ite (e1.trans (Hive.uncause_same h1 7 hn)).stay e1.stay

theorem Hive.srcEval_stay (h : Hive) {n : Nat} (hn : n < 2048) : FaultsStay h (h.srcEval n) := by
  unfold Hive.srcEval
  extract_lets h1 h2
  have e1 : FaultsStay h h1 := (Hive.standbyEval_same h hn).stay
  have e2 : FaultsStay h1 h2 := Hive.sitOn_stay h1 0 hn
  refine FaultsStay.ite e1 (FaultsStay.ite (FaultsStay.ite (e1.trans (Hive.sitOff_stay h1 0 hn)) e1) ?_)
  exact FaultsStay.ite ((e1.trans e2).trans (Hive.sitOff_stay h2 0 hn)) (e1.trans e2)

theorem Hive.destEval_stay (h : Hive) {n : Nat} (hn : n < 2048) : FaultsStay h (h.destEval n) :=
  FaultsStay.ite (Hive.sitOn_stay h 3 hn) (FaultsStay.ite (Hive.sitOff_stay h 3 hn) (FaultsStay.refl h))

theorem Hive.srcEvalAll_stay (h : Hive) (p : Nat → Bool) : FaultsStay h (h.srcEvalAll p) := by
  refine FaultsStay.foldl_mem _ (fun x n hn => ?_) h
  have e1 := Hive.srcEval_stay x (Hive.image_lt hn)
  have e2 := fun y => Hive.destEval_stay y (Hive.image_lt hn)
  exact FaultsStay.ite ((FaultsStay.ite e1 (FaultsStay.refl x)).trans (e2 _)) (FaultsStay.ite e1 (FaultsStay.refl x))

end Sys2Proof.Machine
end

