-- ==== Sys2Proof/Laws/Exec.lean ====
section
/-! SUPPORT. How a completion is shown: a meaning that changes only the block, and a good write to a register. -/

namespace Sys2Proof.Machine

/-- A meaning that changes only the block completes. -/
theorem Completes.upd {i : Instr} {s : State} {P : Hive → Prop} (f : Hive → Hive) (e : exec i s = s.upd f) (p : P (f s.hive)) :
    Completes i s P := ⟨_, e, p⟩

theorem Completes.mono {i : Instr} {s : State} {P Q : Hive → Prop} (c : Completes i s P) (h : ∀ x, P x → Q x) :
    Completes i s Q := c.elim (fun x hx => ⟨x, hx.1, h x hx.2⟩)

/-- What a good write is. -/
theorem goodWrite_spec {w : RegWrite} {a : Nat} {rwc : Bool} (g : goodWrite w a rwc = true) (h4 : a % 4 = 0) :
    w.bar2 = false ∧ wFull w = true ∧ wKey w = a ∧ (rwc = true → rwcOk w.value = true) := by
  simp only [goodWrite, Bool.and_eq_true, Bool.not_eq_true', beq_iff_eq, Bool.or_eq_true] at g
  obtain ⟨⟨⟨hb, ho⟩, hs⟩, hr⟩ := g
  refine ⟨hb, ?_, ?_, ?_⟩
  · simp [wFull, hs, ho, h4]
  · simp [wKey, hb, ho, h4]
  · intro h; rw [h] at hr; simpa using hr

/-- A good write that passes the register's own check takes effect and is journaled. -/
theorem Hive.hostWrite_good (h : Hive) {w : RegWrite} {a : Nat} {d : RegDesc} (chk : Hive → Nat → Nat) (app : Hive → Nat → Hive)
    (g : goodWrite w a d.rwc = true) (h4 : a % 4 = 0) (hd : Regs.find a = some d) (hw : descWritable d = true)
    (hc : chk h w.value.toNat = 0) :
    LogOnly (app h w.value.toNat) (h.hostWrite w chk app) := by
  obtain ⟨_, hf, hk, hr⟩ := goodWrite_spec g h4
  rw [Hive.hostWrite_ok h w chk app hf (by rw [hk]; exact hd) hw (by
    cases hq : d.rwc with
    | false => rfl
    | true => rw [hr hq]; rfl) hc]
  exact Hive.jWrite_log ..

/-- A good write that the register's own check turns away is bookkeeping. -/
theorem Hive.hostWrite_turned (h : Hive) {w : RegWrite} {a : Nat} {d : RegDesc} (chk : Hive → Nat → Nat)
    (app : Hive → Nat → Hive) (g : goodWrite w a d.rwc = true) (h4 : a % 4 = 0) (hd : Regs.find a = some d)
    (hw : descWritable d = true) (hc : chk h w.value.toNat ≠ 0) :
    h.hostWrite w chk app = h.wRefused w (chk h w.value.toNat) := by
  obtain ⟨_, hf, hk, hr⟩ := goodWrite_spec g h4
  exact Hive.hostWrite_refused h w chk app hf (by rw [hk]; exact hd) hw (by
    cases hq : d.rwc with
    | false => rfl
    | true => rw [hr hq]; rfl) hc

/-- A refused write shows in HIVE.WR_REFUSE: valid, and its status where nothing was recorded before (R11). -/
theorem Hive.refuse_valid (h : Hive) (a status : Nat) : (h.refuse a status).flag F.wrRefuse_valid = true := by
  unfold Hive.refuse
  split
  · rename_i hv
    rw [Hive.flag_setFlag_ne h true (by decide) (by decide)]; exact hv
  · dsimp only
    rw [Hive.hwSet_flag]
    exact Hive.flag_setFlag_same _ _ true (by decide) rfl

theorem Hive.refuse_status (h : Hive) (a status : Nat) (hv : h.flag F.wrRefuse_valid = false) (hs : status < 16) :
    (h.refuse a status).get F.wrRefuse_status = status := by
  unfold Hive.refuse
  rw [if_neg (by rw [hv]; decide)]
  extract_lets b2 h1
  rw [Hive.hwSet_get, Hive.get_setFlag_ne _ true (by decide) (by decide), Hive.get_set_same _ _ _ (by decide)]
  exact Nat.mod_eq_of_lt hs

theorem Hive.rd_ite {c : Prop} [Decidable c] {x y : Hive} {a : Nat} {v : Word} (hx : x.rd a = v) (hy : y.rd a = v) :
    (if c then x else y).rd a = v := by split <;> assumption

theorem Hive.wRefused_valid (h : Hive) (w : RegWrite) (status : Nat) :
    (h.wRefused w status).rd R.wrRefuse = (h.refuse (wKey w) status).rd R.wrRefuse := by
  have key : ∀ (x : Hive) (e : JEntry), (x.jPush e).rd R.wrRefuse = x.rd R.wrRefuse := by
    have irq : ∀ (x : Hive) (v : Nat), (x.setIrq v).rd R.wrRefuse = x.rd R.wrRefuse := by
      have send : ∀ (x : Hive) (v : Nat), (x.msixSend v).rd R.wrRefuse = x.rd R.wrRefuse := by
        intro x v
        unfold Hive.msixSend
        split
        · exact Hive.rd_wr_ne x _ (by decide)
        · rfl
      intro x v
      unfold Hive.setIrq
      dsimp only
      split
      · rfl
      · split
        · exact Hive.rd_set_ne (f := F.cmdIrqStat_cause) _ _ (by decide)
        · rw [send]; exact Hive.rd_set_ne (f := F.cmdIrqStat_cause) _ _ (by decide)
    have app : ∀ x : Hive, x.jAppend.rd R.wrRefuse = x.rd R.wrRefuse := by
      intro x
      unfold Hive.jAppend
      split
      · rfl
      · split
        exact Hive.rd_ite ((irq _ 6).trans rfl) rfl
    intro x e
    unfold Hive.jPush
    extract_lets y
    show y.rd _ = _
    show (if x.jq.length ≥ 256 then (x.bump F.queJrnStat_stalls 1).jAppend else x).rd R.wrRefuse = _
    split
    · rw [app]; exact Hive.rd_set_ne x _ (by decide)
    · rfl
  exact key ..

/-- The plain effect of a write on an RWC register: it holds the word written. -/
theorem Hive.applyTypes_rwc (h : Hive) {a : Nat} {d : RegDesc} (hd : Regs.find a = some d) (hr : d.rwc = true)
    (hs : d.w1s = 0) (v : Nat) : h.applyTypes a v = h.wr a (BitVec.ofNat 32 v) := by
  have hb : Nat.land v d.w1s = 0 := by rw [hs]; exact Nat.and_zero v
  unfold Hive.applyTypes
  rw [hd]
  dsimp only
  rw [hb]
  simp [applyMasks, hr, show bitList 0 32 = [] from by decide]

theorem BitVec.ofNat_toNat32 (w : Word) : BitVec.ofNat 32 w.toNat = w := by simp

end Sys2Proof.Machine
end

