-- ==== Sys2Proof/Laws/Lists.lean ====
section
/-! SUPPORT. Sorting neither loses nor invents an element. -/

namespace Sys2Proof.Laws
open Sys2Proof.Machine

/-- Inserting adds exactly the new element. -/
@[simp] theorem mem_insertBy {α : Type} (le : α → α → Bool) (x y : α) (l : List α) :
    y ∈ insertBy le x l ↔ y = x ∨ y ∈ l := by
  induction l with
  | nil => simp [insertBy]
  | cons z zs ih => by_cases h : le x z <;> simp [insertBy, h, ih, or_left_comm]

/-- A sorted list has the elements of the list. -/
@[simp] theorem mem_sortBy {α : Type} (le : α → α → Bool) (y : α) (l : List α) : y ∈ sortBy le l ↔ y ∈ l := by
  induction l with
  | nil => simp [sortBy]
  | cons z zs ih => simpa [sortBy] using or_congr Iff.rfl ih

/-- A sorted list is as long as the list. -/
@[simp] theorem length_sortBy {α : Type} (le : α → α → Bool) (l : List α) : (sortBy le l).length = l.length := by
  have ins : ∀ (x : α) (l : List α), (insertBy le x l).length = l.length + 1 := by
    intro x l
    induction l with
    | nil => rfl
    | cons z zs ih => by_cases h : le x z <;> simp [insertBy, h, ih]
  induction l with
  | nil => rfl
  | cons z zs ih => simp only [sortBy, List.foldr_cons, ins, List.length_cons] at *; omega

end Sys2Proof.Laws
end

