-- ==== Sys2Proof/Laws/Mem.lean ====
section
/-! SUPPORT. Every operation on the byte memories keeps their canonical form. -/

namespace Sys2Proof.Machine

/-- Leaving entries out keeps the canonical form. -/
theorem Tbl.filter_wfFrom {α : Type} [DecidableEq α] {d : Nat → α} (p : Nat × α → Bool) (t : Tbl α) :
    ∀ {b : Nat}, Tbl.wfFrom d b t = true → Tbl.wfFrom d b (t.filter p) = true := by
  induction t with
  | nil => intro b _; rfl
  | cons c t ih =>
    obtain ⟨k, v⟩ := c
    intro b h
    simp only [Tbl.wfFrom, Bool.and_eq_true, decide_eq_true_eq] at h
    by_cases hp : p (k, v) = true
    · rw [List.filter_cons_of_pos hp]
      simp only [Tbl.wfFrom, Bool.and_eq_true, decide_eq_true_eq]
      exact ⟨h.1, ih h.2⟩
    · rw [List.filter_cons_of_neg hp]
      exact ih (Tbl.wfFrom_mono h.2 (Nat.le_succ_of_le h.1.1))

theorem cellsClear_wf {d : Nat → Byte} {m : List Host.Cell} (lo hi : Nat) (h : Tbl.wf d m = true) :
    Tbl.wf d (cellsClear lo hi m) = true := Tbl.filter_wfFrom _ m h

theorem Mem.wf_iff (m : Mem) : m.wf = true ↔ Tbl.wf Mem.ramByte m.store = true ∧ Tbl.wf Mem.ramByte m.comb = true ∧
    Tbl.wf Mem.ramByte m.wdata = true ∧ Tbl.wf Mem.ramByte m.kstore = true ∧ Tbl.wf Mem.flashByte m.flash = true := by
  simp only [Mem.wf, Bool.and_eq_true, and_assoc]

/-- A chain of operations that each keep the form. -/
theorem Mem.foldl_wf {α : Type} {f : Mem → α → Mem} (hf : ∀ m a, m.wf = true → (f m a).wf = true) (l : List α) {m : Mem}
    (h : m.wf = true) : (l.foldl f m).wf = true := by
  induction l generalizing m with
  | nil => exact h
  | cons a l ih => exact ih (hf m a h)

/-! ## Stores, comb memories and data memories -/

theorem Mem.storePut_wf {m : Mem} (h : m.wf = true) (a : Nat) (bytes : List Nat) : (m.storePut a bytes).wf = true := by
  rw [Mem.wf_iff] at h ⊢
  exact ⟨Tbl.putList_wf _ a h.1, h.2⟩

theorem Mem.blockPut_wf {m : Mem} (h : m.wf = true) (a b : Nat) (blk : List Sample) : (m.blockPut a b blk).wf = true :=
  Mem.storePut_wf h ..

theorem Mem.combPut_wf {m : Mem} (h : m.wf = true) (a : Nat) (bytes : List Nat) : (m.combPut a bytes).wf = true := by
  rw [Mem.wf_iff] at h ⊢
  exact ⟨h.1, Tbl.putList_wf _ a h.2.1, h.2.2⟩

theorem Mem.clearWorker_wf {m : Mem} (h : m.wf = true) (w : Nat) : (m.clearWorker w).wf = true := by
  rw [Mem.wf_iff] at h ⊢
  exact ⟨h.1, h.2.1, cellsClear_wf _ _ h.2.2.1, h.2.2.2⟩

theorem Mem.clearComb_wf {m : Mem} (h : m.wf = true) (c : Nat) : (m.clearComb c).wf = true := by
  rw [Mem.wf_iff] at h ⊢
  exact ⟨h.1, cellsClear_wf _ _ h.2.1, cellsClear_wf _ _ h.2.2.1, cellsClear_wf _ _ h.2.2.2.1, h.2.2.2.2⟩

theorem Mem.copyWorker_wf {m : Mem} (h : m.wf = true) (a b len : Nat) : (m.copyWorker a b len).wf = true := by
  rw [Mem.wf_iff] at h ⊢
  refine ⟨h.1, h.2.1, ?_, h.2.2.2⟩
  have : ∀ (l : List Host.Cell) (t : List Host.Cell), Tbl.wf Mem.ramByte t = true →
      Tbl.wf Mem.ramByte (l.foldl (fun t c => Tbl.put Mem.ramByte t (c.1 - a * 65536 + b * 65536) c.2) t) = true := by
    intro l
    induction l with
    | nil => intro t ht; exact ht
    | cons c l ih => intro t ht; exact ih _ (Tbl.put_wf ht _ _)
  exact this _ _ (cellsClear_wf _ _ h.2.2.1)

theorem Mem.storeClear_wf {m : Mem} (h : m.wf = true) (lo hi : Nat) :
    ({ m with store := cellsClear lo hi m.store } : Mem).wf = true := by
  rw [Mem.wf_iff] at h ⊢
  exact ⟨cellsClear_wf _ _ h.1, h.2⟩

theorem Mem.combsLost_wf {m : Mem} (h : m.wf = true) : ({ m with comb := [], wdata := [], kstore := [] } : Mem).wf = true := by
  rw [Mem.wf_iff] at h ⊢
  exact ⟨h.1, rfl, rfl, rfl, h.2.2.2.2⟩

theorem Mem.resetClear_wf {m : Mem} (h : m.wf = true) (level unit : Nat) : (m.resetClear level unit).wf = true := by
  unfold Mem.resetClear
  split
  · exact Mem.clearWorker_wf h _
  · split
    · exact Mem.storeClear_wf h _ _
    · exact Mem.foldl_wf (fun m c hm => Mem.clearComb_wf hm c) _ h

/-- Writing a kernel's code keeps the form. -/
theorem Mem.codeLoad_wf (h : Hive) (ws : List Nat) {m : Mem} (b : m.wf = true) : (m.codeLoad h ws).wf = true := by
  refine Mem.foldl_wf (fun m w hm => ?_) ws b
  dsimp only
  split
  · split
    · rw [Mem.wf_iff] at hm ⊢
      exact ⟨hm.1, Tbl.putList_wf _ _ hm.2.1, hm.2.2.1, Tbl.putList_wf _ _ hm.2.2.2.1, hm.2.2.2.2⟩
    · exact hm
  · exact hm

theorem Mem.kernelsCopy_wf {m : Mem} (b : m.wf = true) (old h : Hive) : (m.kernelsCopy old h).wf = true := by
  refine Mem.foldl_wf (fun m w hm => ?_) _ b
  split
  · exact Mem.copyWorker_wf hm _ _ _
  · exact hm

theorem Mem.eccAct_wf {m : Mem} (b : m.wf = true) (h : Hive) (o : EccOwner) (word : Nat) : (m.eccAct h o word).wf = true := by
  cases o with
  | workerData w => exact Mem.codeLoad_wf _ _ (Mem.clearWorker_wf b _)
  | kernelStore w => exact Mem.codeLoad_wf _ _ (Mem.clearWorker_wf b _)
  | combMem c => exact Mem.codeLoad_wf _ _ (Mem.clearComb_wf b _)
  | store d n => exact Mem.storePut_wf b ..
  | _ => exact b

theorem Mem.mainClear_wf {m : Mem} (h : m.wf = true) : m.mainClear.wf = true := by
  rw [Mem.wf_iff] at h ⊢
  exact ⟨rfl, rfl, rfl, rfl, h.2.2.2.2⟩

/-! ## The boot flash -/

theorem Mem.flPut_wf {m : Mem} (h : m.wf = true) (a : Nat) (bytes : List Nat) : (m.flPut a bytes).wf = true := by
  rw [Mem.wf_iff] at h ⊢
  exact ⟨h.1, h.2.1, h.2.2.1, h.2.2.2.1, Tbl.putList_wf _ a h.2.2.2.2⟩

theorem Mem.flProgram_wf {m : Mem} (h : m.wf = true) (a : Nat) (bytes : List Nat) : (m.flProgram a bytes).wf = true :=
  Mem.flPut_wf h ..

theorem Mem.flErase_wf {m : Mem} (h : m.wf = true) (lo hi : Nat) :
    ({ m with flash := cellsClear lo hi m.flash } : Mem).wf = true := by
  rw [Mem.wf_iff] at h ⊢
  exact ⟨h.1, h.2.1, h.2.2.1, h.2.2.2.1, cellsClear_wf _ _ h.2.2.2.2⟩

theorem Mem.chainMark_wf {m : Mem} (h : m.wf = true) (i bit : Nat) : (m.chainMark i bit).wf = true := by
  unfold Mem.chainMark
  split
  · exact Mem.flProgram_wf h ..
  · exact h

theorem Mem.chainAppend_wf {m : Mem} (h : m.wf = true) (i off len : Nat) : (m.chainAppend i off len).wf = true := by
  unfold Mem.chainAppend
  split
  · exact Mem.flProgram_wf h ..
  · exact h

theorem Mem.chainDiscard_wf {m : Mem} (h : m.wf = true) : m.chainDiscard.wf = true := by
  unfold Mem.chainDiscard
  split
  · refine Mem.foldl_wf (fun m i hm => ?_) _ h
    dsimp only
    split
    · exact Mem.chainMark_wf hm ..
    · exact hm
  · exact h

theorem Mem.dirRewrite_wf {m : Mem} (h : m.wf = true) (pref : Nat) : (m.dirRewrite pref).wf = true := by
  unfold Mem.dirRewrite
  split
  · exact h
  · exact Mem.flPut_wf h ..

theorem Mem.patchStop_wf {m : Mem} (b : m.wf = true) (h : Hive) (p : Nat) : (m.patchStop h p).wf = true := by
  unfold Mem.patchStop
  split
  · exact Mem.chainMark_wf b ..
  · exact b

/-! ## Samples into the stores -/

/-- A chain of steps on the block and the memories, each of which keeps the form. -/
theorem pair_foldl_wf {α : Type} {f : Hive × Mem → α → Hive × Mem} (hf : ∀ r a, r.2.wf = true → (f r a).2.wf = true)
    (l : List α) {r : Hive × Mem} (b : r.2.wf = true) : (l.foldl f r).2.wf = true := by
  induction l generalizing r with
  | nil => exact b
  | cons a l ih => exact ih (hf r a b)

theorem Hive.storeFill_wf (g : Hive) {m : Mem} (b : m.wf = true) (n k : Nat) (x : Sample) (blk : List Sample) (st : StreamSt) :
    (g.storeFill m n k x blk st).1.wf = true := by
  unfold Hive.storeFill
  dsimp only
  split
  · exact b
  · split
    · split
      · exact Mem.blockPut_wf b ..
      · exact b
    · exact Mem.storePut_wf b ..

theorem Hive.storeWrite_wf (h : Hive) {m : Mem} (b : m.wf = true) (n : Nat) (x : Sample) :
    (h.storeWrite m n x).2.1.wf = true := by
  have fill : ∀ (o : Option Hive) (k : Nat) (blk : List Sample) (st : StreamSt),
      (match o with | some g => g.storeFill m n k x blk st | none => (m, st)).1.wf = true := by
    intro o k blk st
    cases o with
    | none => exact b
    | some g => exact Hive.storeFill_wf g b ..
  unfold Hive.storeWrite
  dsimp only
  split
  · exact fill ..
  · split
    · split
      · exact Mem.blockPut_wf (fill ..) ..
      · exact fill ..
    · exact Mem.storePut_wf (fill ..) ..

theorem Hive.emit_wf (h : Hive) {m : Mem} (b : m.wf = true) (n : Nat) (x : Sample) : (h.emit m n x).2.wf = true :=
  Hive.storeWrite_wf h b n x

theorem Hive.finishSample_wf (h : Hive) {m : Mem} (b : m.wf = true) (n s p : Nat) (y : Sample × Bool) :
    (h.finishSample m n s p y).2.wf = true := by
  unfold Hive.finishSample
  exact Hive.emit_wf _ b ..

theorem Hive.strain_wf (h : Hive) {m : Mem} (b : m.wf = true) (s p : Nat) (x : Sample) : (h.strain m s p x).2.wf = true := by
  unfold Hive.strain
  split
  · exact b
  · split
    · exact b
    · dsimp only
      split
      · exact pair_foldl_wf (fun r y hr => Hive.finishSample_wf _ hr ..) _ b
      · exact b

theorem Hive.ingressPut_wf (h : Hive) {m : Mem} (b : m.wf = true) (n : Nat) (alt : Bool) (x : Sample) :
    (h.ingressPut m n alt x).2.wf = true := by
  unfold Hive.ingressPut
  dsimp only
  split
  · split
    · exact Mem.blockPut_wf b ..
    · exact b
  · exact Mem.storePut_wf b ..

theorem Hive.ingress_wf (h : Hive) {m : Mem} (b : m.wf = true) : (h.ingress m).2.wf = true :=
  pair_foldl_wf (fun _ _ hr => Hive.ingressPut_wf _ hr ..) _ b

theorem Mem.linePut_wf {m : Mem} (b : m.wf = true) (a len p : Nat) (fmt : Bool) (v : List (Int × Int)) :
    (m.linePut a len p fmt v).wf = true := by
  unfold Mem.linePut
  split
  · exact Mem.foldl_wf (fun _ _ hm => Mem.blockPut_wf hm ..) _ b
  · exact Mem.foldl_wf (fun _ _ hm => Mem.storePut_wf hm ..) _ b

theorem Hive.lineTake_wf (h : Hive) {m : Mem} (b : m.wf = true) (k g i : Nat) (x : SubBlk) :
    (h.lineTake m k g i x).2.wf = true := by
  unfold Hive.lineTake
  dsimp only
  split
  · split <;> exact Mem.linePut_wf b ..
  · exact Mem.linePut_wf b ..

theorem Hive.subFlow_wf (h : Hive) {m : Mem} (b : m.wf = true) : (h.subFlow m).2.wf = true := by
  refine pair_foldl_wf (fun r e hr => ?_) _ b
  dsimp only
  split
  · exact hr
  · split
    · exact Hive.lineTake_wf _ hr ..
    · exact hr

theorem Hive.flow_wf (h : Hive) {m : Mem} (b : m.wf = true) : (h.flow m).2.wf = true :=
  Hive.ingress_wf _ (Hive.subFlow_wf h b)

theorem Mem.reset_wf : Mem.reset.wf = true := by decide

end Sys2Proof.Machine
end

