-- ==== Sys2Proof/WellFormed.lean ====
section
/-! DEFINITION. Well-formed commands: the relations between operands that their types do not state. -/

namespace Sys2Proof

/-- A register write names a word of its BAR, and its bytes lie within that word (R6, R377). -/
def wfWrite (w : RegWrite) : Bool :=
  decide (w.off < (if w.bar2 then 0x40000 else 0x4000000)) && decide (1 ≤ w.size.val) && decide (w.off % 4 + w.size.val ≤ 4)

/-- An access names bytes within its BAR (R377). -/
def wfBytes (bar2 : Bool) (off n : Nat) : Bool := decide (1 ≤ n) && decide (off + n ≤ (if bar2 then 0x40000 else 0x4000000))

/-- The byte offset of the word that a write falls in. -/
def wordOff (w : RegWrite) : Nat := w.off - w.off % 4

/-- A write to one of the `n` BAR0 registers at `base`, `stride` bytes apart. -/
def wfAt (w : RegWrite) (base n stride : Nat) : Bool :=
  wfWrite w && !w.bar2 && decide (base ≤ wordOff w) && decide ((wordOff w - base) / stride < n) &&
    (wordOff w - base) % stride == 0

/-- A write to one of two rows of registers within `n` units. -/
def wfAt2 (w : RegWrite) (b1 b2 n stride : Nat) : Bool := wfAt w b1 n stride || wfAt w b2 n stride

/-- A write within a BAR0 window. -/
def wfIn (w : RegWrite) (lo hi : Nat) : Bool := wfWrite w && !w.bar2 && decide (lo ≤ w.off) && decide (w.off < hi)

/-- A write to a BAR2 register. -/
def wfBar2 (w : RegWrite) (o : Nat) : Bool := wfWrite w && w.bar2 && wordOff w == o

/-- A write to QUE.CMD. -/
def wfQue (w : RegWrite) : Bool := wfAt w 0x800050 1 4

/-- A write to a worker's WRK.CTL: combs 0x4000 apart, workers 0x400 apart (R15). -/
def wfWrkCtl (w : RegWrite) : Bool :=
  wfIn w 0x600000 0x700000 && decide (0x2000 ≤ (wordOff w - 0x600000) % 0x4000) && (wordOff w - 0x600000) % 0x400 == 0x24

/-- Samples are 16-bit pairs; the hive never holds -32,768 (R4). -/
def wfSample (x : Sample) : Bool := decide (x.i.natAbs ≤ 32767) && decide (x.q.natAbs ≤ 32767)

/-- A coefficient set: N from 1 to 256, stored folded or whole, 18-bit coefficients (R99). -/
def wfSet (c : CoefSet) : Bool :=
  decide (1 ≤ c.n) && decide (c.n ≤ 256) && decide (c.coefs.length = if c.sym then (c.n + 1) / 2 else c.n) &&
    c.coefs.all (fun v => decide (-131072 ≤ v) && decide (v ≤ 131071))

/-- A JESD204C link: 1-8 lanes on one brood die, M 1-16, N 12-16, CS 0-2, E 1-16, release buffer delay 0-255 frames (R63). -/
def wfConv (p : Nat × ConvLink) : Bool :=
  let k := p.2
  decide (p.1 < 32) && decide (1 ≤ k.lanes.length) && decide (k.lanes.length ≤ 8) &&
    k.lanes.all (fun l => decide (l < 144) && l / 72 == k.lanes.headD 0 / 72) && decide (1 ≤ k.m) && decide (k.m ≤ 16) &&
    decide (12 ≤ k.n) && decide (k.n ≤ 16) && decide (k.cs ≤ 2) && decide (1 ≤ k.e) && decide (k.e ≤ 16) && decide (k.rbd ≤ 255)

/-- A file's body names words of BAR0 registers and streams and frames that exist (R261, R266). -/
def wfFile (f : TolFile) : Bool :=
  f.body.words.all (fun p => decide (p.1 < 0x1000000) && decide (p.2 < 2 ^ 32)) &&
    f.body.streams.all (fun n => decide (n < 2048)) && decide (f.body.frames < 2 ^ 8) &&
    f.body.banks.all (fun p => decide (p.1 < 2048) && wfSet p.2) && f.body.swaps.all (fun i => decide (i < 2048)) &&
    f.body.convs.all wfConv && f.body.rclk.all (fun p => (p.1 == 12 || p.1 == 13) && decide (p.2 < 144)) && f.body.maps.all (fun p => decide (p.1 < 576))

/-- The operands' lengths and ranges that the spec gives a command. -/
def WellFormed : Instr → Bool
  | .registerWrite w => wfBytes w.bar2 w.off w.bytes.length
  | .wrRefuseClear w => wfAt w 0x4 1 4
  | .eccRecordClear w => wfAt w 0x2C 1 4
  | .swLastClear w => wfAt w 0x22500C 1 4
  | .storeWinWrite w => wfAt w 0x225008 1 4
  | .storeWindowWrite w => wfIn w 0x1000000 0x3000000
  | .rsPhaseWrite w => wfAt2 w 0x300114 0x300214 1024 0x400
  | .maLenWrite w => wfAt2 w 0x30012C 0x30022C 1024 0x400
  | .mtrCtlWrite w => wfAt w 0x480000 2048 0x20
  | .ugtRelearn w => wfIn w 0x4D0100 0x4F0000 && decide (0x100 ≤ (wordOff w - 0x4D0000) % 0x200)
  | .loopOpen w | .loopClose w | .loopHold w | .loopRelease w => wfAt w 0x500008 2048 0x20
  | .kpKiWrite w => wfAt2 w 0x50000C 0x500010 2048 0x20
  | .setpWrite w => wfAt w 0x500014 2048 0x20
  | .gceLimitWrite w => wfAt2 w 0x51000C 0x510010 2048 0x20
  | .slewWrite w => wfAt2 w 0x510004 0x510008 2048 0x20
  | .setpRangeWrite w => wfAt2 w 0x520004 0x520008 4 0x10
  | .deadlineWrite w => wfAt w 0x580004 2048 0x10
  | .startMeasurement w | .stopMeasurement w | .moveToSpare w => wfWrkCtl w
  | .resultWindowWrite w =>
    wfIn w 0x600000 0x700000 && decide (0x1000 ≤ (w.off - 0x600000) % 0x4000) && decide ((w.off - 0x600000) % 0x4000 < 0x2000)
  | .sleepCtlWrite w => wfAt w 0x600004 64 0x4000
  | .watchWrite w => wfAt w 0x600008 64 0x4000
  | .gtcLoadPps w | .gtcLoadNow w | .gtcLoadUpstream w => wfAt w 0x700030 1 4
  | .todOfsHiWrite w => wfAt w 0x700024 1 4
  | .waggleHostArrive w => wfAt w 0x700064 1 4
  | .patchSlotFree w => wfAt w 0x840100 4 0x10
  | .challenge w | .tokenDebugUnlock w _ | .tokenEnterRma w _ | .tokenRevokeSlot w _ | .tokenAddSlot w _ | .quote w
  | .provision w | .deploy w | .rollbackCommit w | .rmaFromBlank w => wfQue w
  | .journalRingWrite w => wfIn w 0x820000 0x840000
  | .referenceForce w => wfAt w 0x790020 1 4
  | .thresholdWrite w => wfAt w 0x780210 3 4
  | .fanRestart w => wfAt w 0x788000 4 0x20
  | .faultAck w => wfAt w 0x7C102C 256 0x40
  | .lostAggregateClear w => wfAt w 0x7C0004 1 4
  | .evrFlushCommand w => wfAt w 0x7E0004 1 4
  | .usageControlWrite w => wfAt w 0x7E8000 16 4
  | .sqTailWrite w => wfBar2 w 0
  | .irqMaskWrite w => wfBar2 w 0x10
  | .msixUnmask w => wfWrite w && w.bar2
  | .recorderWindowWrite w => wfIn w 0x7F0000 0x800000
  | .lowWordRead r | .highWordRead r => wfBytes r.bar2 r.off r.en.length
  | .rlfCodewordReceived _ p _ _ => decide (p < 2 ^ 5140)
  | .ecpriIqMessageReceived _ _ _ xs => decide (xs.length ≤ 1024)
  | .ecpriRtcMessageReceived _ f _ | .ptpFrameReceived _ f _ | .esmcFrameReceived _ f _ => decide (f.length ≤ 2024)
  | .managementMessageReceived _ m => decide (m.length ≤ 1024)
  | .strainerSample _ _ x => wfSample x
  | .pwmPeriodComplete _ high period => decide (high ≤ period)
  | .spectAverageComplete _ bins _ => decide (bins.length ≤ 32768)
  | .timeMessageReceived _ ts _ _ _ _ => decide (ts < 2 ^ 64)
  | .faultMessageReceived _ _ _ _ _ stamp => decide (stamp < 2 ^ 64)
  | .imageVerify _ f | .patchLoad _ f | .rebase _ f | .firmwareAbSwitch _ f => wfFile f
  | .imageLoadComplete f replay => wfFile f && replay.all wfFile
  | .housekeepingRoundEnd raw rail tach =>
    decide (raw.length = 96) && decide (rail.length = 64) && decide (tach.length = 4) && raw.all (fun v => decide (-65536 ≤ v) && decide (v ≤ 65535))
  | .selfTestComplete fail => decide (fail.length = 64)
  | .quoteNonce bytes _ => decide (bytes.length ≤ 255)
  | .addr _ bytes _ => decide (bytes.length ≤ 255)
  | .dataRead _ k => decide (k ≤ 255)
  | .dataWrite _ bytes _ => decide (bytes.length ≤ 255)
  | .submit _ bytes _ => decide (bytes.length ≤ 255)
  | _ => true

end Sys2Proof
end

