-- ==== Sys2Proof/Tests/Slice0.lean ====
section
/-! SUPPORT. The tests of the model: what the well-formedness checks refuse, the spec's own worked values, and for every
statement with hypotheses a state and operands that meet them, clause by clause. -/

namespace Sys2Proof.Tests
open Sys2Proof.Machine

set_option maxRecDepth 100000
set_option Elab.async false

/-! ## States and operands -/

/-- The state after reset with its block changed. -/
def at' (f : Hive → Hive) : State := { State.reset with hive := f State.reset.hive }

/-- A PCIe write of a BAR0 register. -/
def wq (a v : Nat) : RegWrite := ⟨.pcie, false, a, 4, BitVec.ofNat 32 v⟩

/-- A PCIe write of a BAR2 register. -/
def w2 (a v : Nat) : RegWrite := ⟨.pcie, true, a, 4, BitVec.ofNat 32 v⟩

/-- A queue entry without T. -/
def ce (a0 a1 a2 : Nat) : CmdEntry :=
  ⟨.queue, 1, false, true, false, 7, BitVec.ofNat 32 a0, BitVec.ofNat 32 a1, BitVec.ofNat 32 a2, 0, false⟩

/-- A queue entry with T. -/
def ceT (a0 a1 a2 t : Nat) : CmdEntry := { ce a0 a1 a2 with timed := true, t := BitVec.ofNat 64 t }

/-- Fields set. -/
def sets (l : List (RF × Nat)) (h : Hive) : Hive := l.foldl (fun h p => h.set p.1 p.2) h

/-- The block in RUN with the queen up and SCLK locked. -/
def runs (l : List (RF × Nat)) (h : Hive) : Hive :=
  sets ((F.pwrClkStat_sclk_lock, 1) :: l) { h with mode := .run, seenRun := true, queenUp := true, keeperAlive := true }

/-- Whether one of the four patch slots holds a patch of a kind can be decided. -/
def decPatch {P : Nat → PatchSt → Prop} [∀ k q, Decidable (P k q)] (o : Nat → Option PatchSt) :
    Decidable (∃ k q, k < 4 ∧ o k = some q ∧ P k q) :=
  decidable_of_iff (∃ k, k < 4 ∧ ∃ q, o k = some q ∧ P k q)
    ⟨fun ⟨k, h, q, e⟩ => ⟨k, q, h, e⟩, fun ⟨k, q, h, e⟩ => ⟨k, h, q, e⟩⟩

/-- Whether a table lists an address can be decided. -/
def decKey (k : Nat) (l : List (Nat × Word)) : Decidable (∃ w, (k, w) ∈ l) :=
  decidable_of_iff (∃ x ∈ l, x.1 = k) ⟨fun ⟨x, h, e⟩ => ⟨x.2, e ▸ h⟩, fun ⟨w, h⟩ => ⟨(k, w), h, rfl⟩⟩

/-- Whether an activity's own rule admits its start can be decided. -/
def decRule (h : Hive) (act unit : Nat) : Decidable (h.maintRule act unit) := by
  unfold Hive.maintRule
  split <;> infer_instance


/-! ## Registers, sources, bridges, memory errors, sleep and cancellers -/

def aS (f : Hive → Hive) : State := at' (fun h => f (runs [] h))
/-- The descriptor of a register. -/
def descOf (a : Nat) : RegDesc := (Regs.find a).getD ⟨0, [], 0, 0, 0, 0, 0, false, 0⟩
/-- A write of two bytes. -/
def aHalf : RegWrite := ⟨.pcie, false, R.scrubCtl, 2, 5⟩
def aWin : State := aS (fun h => { h with caps := [] })
def aRd : State := aS (fun h => { h with storeReads := true })
/-- The bytes of a write of the host link. -/
def hw (w : RegWrite) : HostWrite :=
  ⟨w.req, w.bar2, w.off, (List.range w.size.val).map (fun i => some (BitVec.ofNat 8 (w.value.toNat / 2 ^ (8 * i))))⟩
/-- A read of a word. -/
def hr (a : Nat) : HostRead := ⟨.pcie, false, a, [true, true, true, true]⟩
def rS (l : List (RF × Nat)) (u : StreamSt → StreamSt) (k : Nat) : State := aS (fun h =>
    { (sets l h).sset 2047 (u (h.sget 2047)) with
    sched := if k = 0 then [] else [⟨0, .streamSwitch 2047⟩], storeReads := h.storeReads })
def rEq : State := rS [(F.steDelay_eq_auto 2047, 1)] (fun u => { u with eqDiff := 2, eqWant := 1 }) 0
def rIn : State := rS [(F.steInMax_in_max 2047, 9)] (fun u => { u with inDiff := 2, inWant := (1, 2) }) 0
def rSw : State := rS [(⟨R.dieState, 0, 16⟩, 0x2222), (F.steValid_valid 2047, 1), (F.rteStatus_standby_ready 2047,
    1), (F.steAlt_alt 2047, 3), (F.steSrc_kind 2047, 3)] id 1
def rNo : State := rS [(F.steValid_valid 2047, 1), (F.steAlt_alt 2047, 3)] id 1
def rNone : State := rS [(F.steValid_valid 2047, 1)] id 1
def bUp (wg sp : Bool) : State := aS (fun h => { (h.set F.dieState_bridge_up 0xFF).brSet 0 ⟨wg, sp, false, [2047],
    [], [2047]⟩ with streams := [2047] })
def bSt : State := aS (fun h => { ((sets [(F.dieState_bridge_up, 0xFF), (F.steSlice_slice0 2047, 600),
    (F.steSrc_kind 2047, 1)] h).brSet 6 ⟨false, false, false, [2047], [], []⟩).brSet 0 ⟨false, false, false,
    [2047], [2047], []⟩ with streams := [2047] })
def bDie (m : Mode) : State := at' (fun h =>
    { ((h.setDieSt 1 2).setDieSt 3 2).set (F.steSlice_slice0 2047) 600 with mode := m, streams := [2047] })
def cSl : State := aS (fun h => ({ (sets [(F.wrkSleepCtl_mode 63, 1), (F.wrkSleepCtl_watch_en 63, 1),
    (F.wrkSleepCtl_idle_ms 63, 1)] h).setDieSt 3 2 with ticks := 983040 }).combSet 63 { h.combGet 63 with
    idleAt := some 0 })
def cScr : State := aS (fun h => (h.setDieSt 3 2).combSet 63 { h.combGet 63 with scrub := true })
def cFbc : State := aS (fun h => sets [(F.wrkDesc7_valid 63 7, 1), (F.wrkDesc0_kid 63 7, 1)] h)
def cEn (m p : Nat) : State := aS (fun h => { sets [(F.wrkSleepCtl_mode 63, m), (F.wrkCombStat_power 63, p),
    (F.scrubCtl_sleep_scrub_min, 1)] h with ticks := 60 * 983040000 })
def cWk : State := aS (fun h => h.combSet 63 { h.combGet 63 with waking := true })
/-- Canceller slot 3 works on stream 5. -/
def kS (st g : Nat) (u : CancSt → CancSt) : State :=
  aS (fun h => { ((sets [(F.fbcCtl_en 3, 1), (F.fbcStat_state 3, st), (F.fbcCtl_stream 3, 5), (F.fbcIso_valid 3,
      1), (F.fbcIso_value 3, 0)] h).setDieSt 2 2).wr (R.fbcCollapse 3) 0xFFFF0000 |>.setSt 5 stLive with
      gtc := g, ticks := 2000 }.cancSet 3 (u (h.cancGet 3)))
/-- The same with a sample that waits for its block's step. -/
def kBlk : State := kS 3 512 (fun u => { u with e := { u.e with vcur := [⟨1, 0, false⟩] } })
/-- The same with a detection window that has ended. -/
def kDet (at_ sw : Nat) (dfast dres : Int) : State := kS 3 0 (fun u => { u with
    swapAt := sw, res := some ⟨at_, some dfast, some dres, 0, 0⟩ })
/-- The same with updates and adapting blocks made. -/
def kN (st g upd adapt : Nat) : State := kS st g (fun u => { u with upd := upd, adapt := adapt })
/-- Detections of a canceller: blind, early, late, and below the collapse. -/
def fbBlind : FbRes := ⟨976, some 0, some 767, 0, 0⟩
def fbEarly : FbRes := ⟨977, some 0, some 0, 0, 0⟩
def fbLate : FbRes := ⟨976, some 0, some 0, 0, 0⟩
def fbBelow : FbRes := ⟨976, some (-1), some 768, 0, 0⟩

/-- States and operands that meet the hypotheses of RegisterAccess, clause by clause. -/
theorem meets_RegisterAccess :
    ((4 + [some 1, none, none, some 5].length) % 4 = 0 ∧
      (wq R.scrubCtl 5).bar2 = false ∧
      wFull (wq R.scrubCtl 5) = true ∧
      roWindow (wKey (wq R.scrubCtl 5)) = false ∧
      State.reset.hive.writeSpecial (wq R.scrubCtl 5) = none ∧
      onlyPart (hw (wq R.scrubCtl 5)) (wq R.scrubCtl 5) ∧
      Regs.find (wKey (wq R.scrubCtl 5)) = some (descOf R.scrubCtl) ∧
      descWritable (descOf R.scrubCtl) = true ∧
      ((descOf R.scrubCtl).rwc && !rwcOk (wq R.scrubCtl 5).value) = false ∧
      plainReg (wKey (wq R.scrubCtl 5)) = true ∧
      (ruleOf (wKey (wq R.scrubCtl 5))).fst State.reset.hive (BitVec.toNat (wq R.scrubCtl 5).value) = stOk ∧
      aHalf.bar2 = false ∧
      roWindow (wKey aHalf) = false ∧
      State.reset.hive.writeSpecial aHalf = none ∧
      onlyPart (hw aHalf) aHalf ∧
      (wFull aHalf = false ∨ Regs.find (wKey aHalf) = none) ∧
      (w2 196608 3).bar2 = true ∧
      bar2Mem (w2 196608 3).off = false ∧
      Regs.find (wKey (w2 196608 3)) = none ∧
      onlyPart (hw (w2 196608 3)) (w2 196608 3) ∧
      goodWrite (wq R.wrRefuse 2147483648) R.wrRefuse false = true ∧
      (4 + [true, false, true, true].length) % 4 = 0 ∧
      pairLow R.timGtcLo = true ∧
      (hr R.timGtcLo).bar2 = false ∧
      hrWords (hr R.timGtcLo) = [R.timGtcLo] ∧
      goodWrite (wq R.storeWin 0) R.storeWin false = true ∧
      (bitOf (BitVec.toNat (wq R.storeWin 0).value) 0 = false ∨ State.reset.hive.storeReads = true)) ∧
      ((wq (R.laneEyeCtl 3) 255).bar2 = false ∧
      wFull (wq (R.laneEyeCtl 3) 255) = true ∧
      roWindow (wKey (wq (R.laneEyeCtl 3) 255)) = false ∧
      State.reset.hive.writeSpecial (wq (R.laneEyeCtl 3) 255) = none ∧
      onlyPart (hw (wq (R.laneEyeCtl 3) 255)) (wq (R.laneEyeCtl 3) 255) ∧
      Regs.find (wKey (wq (R.laneEyeCtl 3) 255)) = some (descOf (R.laneEyeCtl 3)) ∧
      descWritable (descOf (R.laneEyeCtl 3)) = true ∧
      ((descOf (R.laneEyeCtl 3)).rwc && !rwcOk (wq (R.laneEyeCtl 3) 255).value) = false ∧
      (ruleOf (wKey (wq (R.laneEyeCtl 3) 255))).fst State.reset.hive (BitVec.toNat (wq (R.laneEyeCtl 3) 255).value) = 2 ∧
      2 ≠ stOk ∧
      2 < 16 ∧
      (wq R.hiveIdent 5).bar2 = false ∧
      roWindow (wKey (wq R.hiveIdent 5)) = false ∧
      State.reset.hive.writeSpecial (wq R.hiveIdent 5) = none ∧
      onlyPart (hw (wq R.hiveIdent 5)) (wq R.hiveIdent 5) ∧
      wFull (wq R.hiveIdent 5) = true ∧
      Regs.find (wKey (wq R.hiveIdent 5)) = some (descOf R.hiveIdent) ∧
      descWritable (descOf R.hiveIdent) = false ∧
      pairLow R.timGtcLo = true ∧
      (hr R.timGtcHi).bar2 = false ∧
      hrWords (hr R.timGtcHi) = [R.timGtcLo + 4] ∧
      (Tbl.get (fun x => none) State.reset.hive.caps (capKey (hr R.timGtcHi).req R.timGtcLo) = none) ∧
      goodWrite (wq R.storeWin 1) R.storeWin false = true ∧
      bitOf (BitVec.toNat (wq R.storeWin 1).value) 0 = true ∧
      State.reset.hive.storeReads = false) ∧
      ((wq (R.smkDeadline 3) 7).bar2 = false ∧
      roWindow (wKey (wq (R.smkDeadline 3) 7)) = false ∧
      State.reset.hive.writeSpecial (wq (R.smkDeadline 3) 7) = none ∧
      onlyPart (hw (wq (R.smkDeadline 3) 7)) (wq (R.smkDeadline 3) 7) ∧
      wFull (wq (R.smkDeadline 3) 7) = true ∧
      Regs.find (wKey (wq (R.smkDeadline 3) 7)) = some (descOf (R.smkDeadline 3)) ∧
      (descOf (R.smkDeadline 3)).rwc = true ∧
      rwcOk (wq (R.smkDeadline 3) 7).value = false ∧
      State.reset.hive.flag F.storeWin_rd_en = false ∧
      16777216 ≤ 16777216 ∧
      16777216 < 50331648) := by
  (repeat' apply And.intro) <;> first
    | decide | rfl | (intro _; rfl) | exact .inl ⟨rfl, rfl⟩ | exact .inl rfl | exact ⟨0, by decide⟩

/-- States and operands that meet the hypotheses of SourceSwitching, clause by clause. -/
theorem meets_SourceSwitching :
    (rEq.hive.flag (F.steDelay_eq_auto 2047) = true ∧
      2 ≤ (rEq.hive.sget 2047).eqDiff ∧
      ((rEq.hive.sget 2047).eqAt = 0 ∨ (rEq.hive.sget 2047).eqAt + rEq.hive.eqTicks ≤ rEq.hive.ticks)) ∧
      ((State.reset.hive.flag (F.steDelay_eq_auto 2047) = false ∨
        State.reset.hive.delayNow 2047 = (State.reset.hive.sget 2047).eqWant) ∧
      goodWrite (wq R.swLast 0) R.swLast false = true) ∧
      (2 ≤ (rIn.hive.sget 2047).inDiff ∧
      ((rIn.hive.sget 2047).inAt = 0 ∨ (rIn.hive.sget 2047).inAt + rIn.hive.eqTicks ≤ rIn.hive.ticks)) ∧
      (admits rSw.hive.mode CmdGroup.timed = true ∧
      rSw.hive.isStream 2047 = true ∧
      goodEntry (ceT 2047 0 0 (2 ^ 40)) 6 true 2047 0 0 = true ∧
      rSw.hive.leadOk (ceT 2047 0 0 (2 ^ 40)).t.toNat false = true ∧
      rSw.hive.flag (F.rteStatus_standby_ready 2047) = true ∧
      rSw.hive.flag F.timStat_load_pend = false ∧
      rSw.hive.sched.length < 256 ∧
      rSw.hive.due (SchedKind.streamSwitch 2047) = true ∧
      rSw.hive.patchFirst 2047 = false ∧
      srcKind (rSw.hive.get (F.steAlt_alt 2047)) ≠ 0 ∧
      rSw.hive.srcUp (rSw.hive.srcStandby 2047) = true) ∧
      (admits rNo.hive.mode CmdGroup.timed = true ∧
      rNo.hive.isStream 2047 = true ∧
      goodEntry (ceT 2047 0 0 (2 ^ 40)) 6 true 2047 0 0 = true ∧
      rNo.hive.leadOk (ceT 2047 0 0 (2 ^ 40)).t.toNat false = true ∧
      rNo.hive.flag (F.rteStatus_standby_ready 2047) = false ∧
      rNo.hive.due (SchedKind.streamSwitch 2047) = true ∧
      rNo.hive.patchFirst 2047 = false ∧
      srcKind (rNo.hive.get (F.steAlt_alt 2047)) ≠ 0) ∧
      (rNone.hive.due (SchedKind.streamSwitch 2047) = true ∧
      rNone.hive.patchFirst 2047 = false ∧
      srcKind (rNone.hive.get (F.steAlt_alt 2047)) = 0) := by decide

/-- States and operands that meet the hypotheses of BridgeEvents, clause by clause. -/
theorem meets_BridgeEvents :
    (bSt.hive.bridgeUp 0 = true ∧
      (bSt.hive.brGet 0).wgFail = false ∧
      (bSt.hive.brGet 0).spare = false ∧
      (Instr.bridgeFail 0 = Instr.bridgeFail 0 ∨
        Instr.bridgeFail 0 = Instr.wireGroupFail 0 ∧
          ((bSt.hive.brGet 0).wgFail = true ∨ (bSt.hive.brGet 0).spare = true)) ∧
      2047 ∈ bSt.hive.image ∧
      (2047 ∈ (bSt.hive.brGet 0).carry ∨ 2047 ∈ (bSt.hive.brGet 0).det)) ∧
      (State.reset.hive.bridgeUp 0 = false) ∧
      ((bUp true false).hive.bridgeUp 0 = true ∧
      ((bUp true false).hive.brGet 0).wgFail = true) ∧
      (2047 ∈ bSt.hive.image ∧
      2047 ∈ (bSt.hive.brGet 6).moving ∧
      6 ∈ bSt.hive.pairsOf 2047) := by decide

/-- States and operands that meet the hypotheses of DieFaults, clause by clause. -/
theorem meets_DieFaults :
    ((bDie Mode.run).hive.dieSt 1 ≠ 0 ∧
      (bDie Mode.run).hive.dieSt 1 ≠ 4 ∧
      (bDie Mode.run).hive.preRun = false ∧
      ((bridgeEnds 2).fst = 1 ∨ (bridgeEnds 2).snd = 1) ∧
      2047 ∈ (bDie Mode.run).hive.image ∧
      (bDie Mode.run).hive.home 2047 = 1 ∧
      true = true ∧
      (bDie Mode.run).hive.dieSt (2 + 1) ≠ 0 ∧
      (bDie Mode.run).hive.dieSt (2 + 1) ≠ 4 ∧
      ((bridgeEnds 2).fst = 2 + 1 ∨ (bridgeEnds 2).snd = 2 + 1)) ∧
      (State.reset.hive.dieSt 1 ≠ 0 ∧
      State.reset.hive.dieSt 1 ≠ 4 ∧
      State.reset.hive.preRun = true ∧
      State.reset.hive.dieSt (2 + 1) ≠ 0 ∧
      State.reset.hive.dieSt (2 + 1) ≠ 4) ∧
      (((at' fun h => (h.setDieSt 1 4).setDieSt 3 0).hive.dieSt 1 = 0 ∨
        (at' fun h => (h.setDieSt 1 4).setDieSt 3 0).hive.dieSt 1 = 4) ∧
      ((at' fun h => (h.setDieSt 1 4).setDieSt 3 0).hive.dieSt (2 + 1) = 0 ∨
        (at' fun h => (h.setDieSt 1 4).setDieSt 3 0).hive.dieSt (2 + 1) = 4)) := by decide

/-- States and operands that meet the hypotheses of MemoryErrors, clause by clause. -/
theorem meets_MemoryErrors :
    State.reset.hive.flag F.eccLastWhere_valid = false ∧
      (511 * 65536 < 16777216 * (1 + 1) + 8 * 2097151 ∨ 16777216 * (1 + 1) + 8 * 2097151 + 8 ≤ 511 * 65536) ∧
      16777216 * (1 + 1) + 8 * 2097151 ≤ 33554432 + 8 * 2097151 ∧
      33554432 + 8 * 2097151 < 16777216 * (1 + 1) + 8 * 2097151 + 8 ∧
      511 * 65536 ≤ 511 * 65536 ∧
      511 * 65536 < 511 * 65536 + 65536 ∧
      goodWrite (wq R.eccLastWhere 2147483648) R.eccLastWhere false = true := by decide

/-- States and operands that meet the hypotheses of CombSleepAndScrub, clause by clause. -/
theorem meets_CombSleepAndScrub :
    (cSl.hive.get (F.wrkCombStat_power 63) = 0 ∧
      cSl.hive.combAwake 63 = true ∧
      (cSl.hive.combGet 63).scrub = false ∧
      cSl.hive.sleepOk 63 = true ∧
      cSl.hive.idleLong 63 = true ∧
      (cSl.hive.combGet 63).trigAt ≠ cSl.hive.ticks + 1) ∧
      ((cEn 1 3).hive.get (F.wrkCombStat_power 63) = 3 ∧
      (cEn 1 3).hive.get (F.wrkSleepCtl_mode 63) ≠ 2) ∧
      (((cEn 1 1).hive.get (F.wrkCombStat_power 63) = 1 ∨ (cEn 1 1).hive.get (F.wrkCombStat_power 63) = 2) ∧
      (cEn 1 1).hive.get F.scrubCtl_sleep_scrub_min ≠ 0 ∧
      ((cEn 1 1).hive.combGet 63).waking = false ∧
      ((cEn 1 1).hive.combGet 63).sleptAt + (cEn 1 1).hive.get F.scrubCtl_sleep_scrub_min * 60 * Config.secTicks ≤
        (cEn 1 1).hive.ticks ∧
      goodWrite (wq (R.wrkSleepCtl 63) 0) (R.wrkSleepCtl 63) false = true ∧
      BitVec.toNat (wq (R.wrkSleepCtl 63) 0).value % 4 = 0) ∧
      ((cWk.hive.combGet 63).waking = true) ∧
      (cScr.hive.get (F.wrkCombStat_power 63) = 0 ∧
      cScr.hive.combAwake 63 = true ∧
      (cScr.hive.combGet 63).scrub = true) ∧
      (goodWrite (wq (R.wrkSleepCtl 63) 1) (R.wrkSleepCtl 63) false = true ∧
      (BitVec.toNat (wq (R.wrkSleepCtl 63) 1).value % 4 = 1 ∨
        BitVec.toNat (wq (R.wrkSleepCtl 63) 1).value % 4 = 2 ∧ State.reset.hive.combHasFbc 63 = false)) ∧
      (goodWrite (wq (R.wrkSleepCtl 63) 0) (R.wrkSleepCtl 63) false = true ∧
      BitVec.toNat (wq (R.wrkSleepCtl 63) 0).value % 4 = 0) ∧
      (goodWrite (wq (R.wrkSleepCtl 63) 3) (R.wrkSleepCtl 63) false = true ∧
      BitVec.toNat (wq (R.wrkSleepCtl 63) 3).value % 4 = 3) ∧
      (goodWrite (wq (R.wrkSleepCtl 63) 2) (R.wrkSleepCtl 63) false = true ∧
      BitVec.toNat (wq (R.wrkSleepCtl 63) 2).value % 4 = 2 ∧
      cFbc.hive.combHasFbc 63 = true) := by decide

/-- States and operands that meet the hypotheses of CancellerBlocks, clause by clause. -/
theorem meets_CancellerBlocks :
    ((kS 3 513 id).hive.fbWorks 3 = true ∧
      ((kS 3 513 id).hive.gtc % max 1 ((kS 3 513 id).hive.fbBlock 3) ≠ 0 ∨
        ((kS 3 513 id).hive.cancGet 3).e.ready ((kS 3 513 id).hive.gtc / max 1 ((kS 3 513 id).hive.fbBlock 3)) = none)) ∧
      (kBlk.hive.fbWorks 3 = true ∧
      kBlk.hive.gtc % max 1 (kBlk.hive.fbBlock 3) = 0 ∧
      (kBlk.hive.cancGet 3).e.ready (kBlk.hive.gtc / max 1 (kBlk.hive.fbBlock 3)) =
        some ([{ i := 1, q := 0, ovr := false }], 0)) ∧
      ((kN 3 32768 0 31).hive.fbWorks 3 = true ∧
      (kN 3 32768 0 31).hive.gtc % max 1 (64 * (kN 3 32768 0 31).hive.fbBlock 3) = 0 ∧
      (kN 3 32768 0 31).hive.st ((kN 3 32768 0 31).hive.get (F.fbcCtl_stream 3)) ≠ stMuted ∧
      (((kN 3 32768 0 31).hive.fbDo 3).cancGet 3).adapt < 32) ∧
      ((kN 1 32768 0 32).hive.fbWorks 3 = true ∧
      (kN 1 32768 0 32).hive.gtc % max 1 (64 * (kN 1 32768 0 32).hive.fbBlock 3) = 0 ∧
      (kN 1 32768 0 32).hive.st ((kN 1 32768 0 32).hive.get (F.fbcCtl_stream 3)) ≠ stMuted ∧
      32 ≤ (((kN 1 32768 0 32).hive.fbDo 3).cancGet 3).adapt ∧
      (((kN 1 32768 0 32).hive.fbDo 3).cancGet 3).win.win + 1 =
        (kN 1 32768 0 32).hive.gtc / max 1 (64 * (kN 1 32768 0 32).hive.fbBlock 3) ∧
      ((kN 1 32768 0 32).hive.cancGet 3).bound = none ∧
      ((kN 1 32768 0 32).hive.get (F.fbcStat_state 3) = fbAcquiring ∧
          rwcOk ((kN 1 32768 0 32).hive.rd (R.fbcIsoDesign 3)) = true ∨
        (kN 1 32768 0 32).hive.get (F.fbcStat_state 3) = fbConverged) ∧
      (clampS 16
          (if (kN 1 32768 0 32).hive.get (F.fbcStat_state 3) = fbAcquiring then
            (kN 1 32768 0 32).hive.rwcS (R.fbcIsoDesign 3)
          else ((((kN 1 32768 0 32).hive.fbDo 3).fbMean 3).fbWeakest 3).snd.snd.fst) =
        if (kN 1 32768 0 32).hive.get (F.fbcStat_state 3) = fbAcquiring then
          (kN 1 32768 0 32).hive.rwcS (R.fbcIsoDesign 3)
        else ((((kN 1 32768 0 32).hive.fbDo 3).fbMean 3).fbWeakest 3).snd.snd.fst) ∧
      (clampS 16
          (if (kN 1 32768 0 32).hive.get (F.fbcStat_state 3) = fbAcquiring then 0
          else ((((kN 1 32768 0 32).hive.fbDo 3).fbMean 3).fbWeakest 3).snd.snd.snd) =
        if (kN 1 32768 0 32).hive.get (F.fbcStat_state 3) = fbAcquiring then 0
        else ((((kN 1 32768 0 32).hive.fbDo 3).fbMean 3).fbWeakest 3).snd.snd.snd) ∧
      (clampS 16
          (((if (kN 1 32768 0 32).hive.get (F.fbcStat_state 3) = fbAcquiring then
                (kN 1 32768 0 32).hive.rwcS (R.fbcIsoDesign 3)
              else ((((kN 1 32768 0 32).hive.fbDo 3).fbMean 3).fbWeakest 3).snd.snd.fst) +
              if (kN 1 32768 0 32).hive.get (F.fbcStat_state 3) = fbAcquiring then 0
              else ((((kN 1 32768 0 32).hive.fbDo 3).fbMean 3).fbWeakest 3).snd.snd.snd) -
            (kN 1 32768 0 32).hive.getS (F.gceG_in_force ((kN 1 32768 0 32).hive.get (F.fbcCtl_stream 3)))) =
        ((if (kN 1 32768 0 32).hive.get (F.fbcStat_state 3) = fbAcquiring then
              (kN 1 32768 0 32).hive.rwcS (R.fbcIsoDesign 3)
            else ((((kN 1 32768 0 32).hive.fbDo 3).fbMean 3).fbWeakest 3).snd.snd.fst) +
            if (kN 1 32768 0 32).hive.get (F.fbcStat_state 3) = fbAcquiring then 0
            else ((((kN 1 32768 0 32).hive.fbDo 3).fbMean 3).fbWeakest 3).snd.snd.snd) -
          (kN 1 32768 0 32).hive.getS (F.gceG_in_force ((kN 1 32768 0 32).hive.get (F.fbcCtl_stream 3))))) := by decide

/-- States and operands that meet the hypotheses of CancellerStates, clause by clause. -/
theorem meets_CancellerStates :
    (((kS 1 0 fun u =>
                { upd := 64000000, adapt := u.adapt, bound := u.bound, latest := u.latest, okPubs := u.okPubs,
                  probe := u.probe, e := u.e, est := u.est, win := u.win, g := u.g, gN := u.gN, taps := u.taps,
                  det := u.det, res := u.res, swapAt := u.swapAt }).hive.get
          (F.fbcStat_state 3) =
        fbAcquiring) ∧
      ((kS 1 0 fun u =>
                { upd := 64000000, adapt := u.adapt, bound := u.bound, latest := u.latest, okPubs := u.okPubs,
                  probe := u.probe, e := u.e, est := u.est, win := u.win, g := u.g, gN := u.gN, taps := u.taps,
                  det := u.det, res := u.res, swapAt := u.swapAt }).hive.fbCount
          3 ≤
        ((kS 1 0 fun u =>
                  { upd := 64000000, adapt := u.adapt, bound := u.bound, latest := u.latest, okPubs := u.okPubs,
                    probe := u.probe, e := u.e, est := u.est, win := u.win, g := u.g, gN := u.gN, taps := u.taps,
                    det := u.det, res := u.res, swapAt := u.swapAt }).hive.cancGet
            3).upd) ∧
      ((kS 1 0 fun u =>
                { upd := 64000000, adapt := u.adapt, bound := u.bound, latest := u.latest, okPubs := u.okPubs,
                  probe := u.probe, e := u.e, est := u.est, win := u.win, g := u.g, gN := u.gN, taps := u.taps,
                  det := u.det, res := u.res, swapAt := u.swapAt }).hive.st
          ((kS 1 0 fun u =>
                  { upd := 64000000, adapt := u.adapt, bound := u.bound, latest := u.latest, okPubs := u.okPubs,
                    probe := u.probe, e := u.e, est := u.est, win := u.win, g := u.g, gN := u.gN, taps := u.taps,
                    det := u.det, res := u.res, swapAt := u.swapAt }).hive.get
            (F.fbcCtl_stream 3)) ≠
        stMuted)) ∧
      ((kN 3 0 64000000 0).hive.get (F.fbcStat_state 3) = fbReacquiring ∧
      (kN 3 0 64000000 0).hive.fbCount 3 ≤ ((kN 3 0 64000000 0).hive.cancGet 3).upd ∧
      (kN 3 0 64000000 0).hive.st ((kN 3 0 64000000 0).hive.get (F.fbcCtl_stream 3)) ≠ stMuted ∧
      (kN 3 0 64000000 0).hive.maintOfAct 3 = none) ∧
      (((kS 2 0 id).hive.cancGet 3).res = none) ∧
      (((kDet 977 0 0 0).hive.cancGet 3).res = some fbEarly ∧
      (kDet 977 0 0 0).hive.ticks < fbEarly.at_ + 1024) ∧
      (((kDet 976 977 0 0).hive.cancGet 3).res = some fbLate ∧
      fbLate.at_ + 1024 ≤ (kDet 976 977 0 0).hive.ticks ∧
      ((kDet 976 977 0 0).hive.st ((kDet 976 977 0 0).hive.get (F.fbcCtl_stream 3)) = stMuted ∨
        ((kDet 976 977 0 0).hive.cancGet 3).swapAt = fbLate.at_ + 1)) ∧
      (((kDet 976 0 0 767).hive.cancGet 3).res = some fbBlind ∧
      fbBlind.at_ + 1024 ≤ (kDet 976 0 0 767).hive.ticks ∧
      (kDet 976 0 0 767).hive.fbWorks 3 = true ∧
      (kDet 976 0 0 767).hive.st ((kDet 976 0 0 767).hive.get (F.fbcCtl_stream 3)) ≠ stMuted ∧
      ((kDet 976 0 0 767).hive.cancGet 3).swapAt ≠ fbBlind.at_ + 1 ∧
      rwcOk ((kDet 976 0 0 767).hive.rd (R.fbcCollapse 3)) = true ∧
      fbBlind.dfast = some 0 ∧
      fbBlind.dres = some 767 ∧
      767 <
        (kDet 976 0 0 767).hive.getS (F.gceG_in_force ((kDet 976 0 0 767).hive.get (F.fbcCtl_stream 3))) -
                (kDet 976 0 0 767).hive.fbIso 3 +
              fbBlind.tgt -
            fbBlind.col +
          768 ∧
      (kDet 976 0 0 767).hive.flag (F.fbcStat_blind 3) = false) ∧
      (((kDet 976 0 (-1) 768).hive.cancGet 3).res = some fbBelow ∧
      fbBelow.at_ + 1024 ≤ (kDet 976 0 (-1) 768).hive.ticks ∧
      (kDet 976 0 (-1) 768).hive.fbWorks 3 = true ∧
      (kDet 976 0 (-1) 768).hive.st ((kDet 976 0 (-1) 768).hive.get (F.fbcCtl_stream 3)) ≠ stMuted ∧
      ((kDet 976 0 (-1) 768).hive.cancGet 3).swapAt ≠ fbBelow.at_ + 1 ∧
      rwcOk ((kDet 976 0 (-1) 768).hive.rd (R.fbcCollapse 3)) = true ∧
      fbBelow.dfast = some (-1) ∧
      fbBelow.dres = some 768 ∧
      (kDet 976 0 (-1) 768).hive.getS (F.gceG_in_force ((kDet 976 0 (-1) 768).hive.get (F.fbcCtl_stream 3))) -
                (kDet 976 0 (-1) 768).hive.fbIso 3 +
              fbBelow.tgt -
            fbBelow.col +
          768 ≤
        768 ∧
      (kDet 976 0 (-1) 768).hive.fbIso 3 + -1 -
          (kDet 976 0 (-1) 768).hive.getS (F.gceG_in_force ((kDet 976 0 (-1) 768).hive.get (F.fbcCtl_stream 3))) <
        fbBelow.tgt - fbBelow.col ∧
      (kDet 976 0 (-1) 768).hive.gminOf ((kDet 976 0 (-1) 768).hive.get (F.fbcCtl_stream 3)) ≤
        clampS 16
          (min ((kDet 976 0 (-1) 768).hive.getS (F.fbcCeil_ceiling 3))
            ((kDet 976 0 (-1) 768).hive.getS (F.gceG_in_force ((kDet 976 0 (-1) 768).hive.get (F.fbcCtl_stream 3))) -
              (fbBelow.tgt -
                  ((kDet 976 0 (-1) 768).hive.fbIso 3 + -1 -
                    (kDet 976 0 (-1) 768).hive.getS
                      (F.gceG_in_force ((kDet 976 0 (-1) 768).hive.get (F.fbcCtl_stream 3)))) +
                1536)))) := by
  (repeat' apply And.intro) <;> first
    | decide | rfl | (intro _; rfl) | exact .inl ⟨rfl, rfl⟩ | exact .inl rfl | exact ⟨0, by decide⟩

/-! ## Slices -/

def hw16 (v : Nat) : Word := BitVec.ofNat 32 (v % 65536 + (65535 - v % 65536) * 65536)
def hS (st : Nat) (u : StreamSt → StreamSt) (l : List (RF × Nat)) : State := at' (fun h =>
    let h := runs ([(F.steValid_valid 2047, 1), (F.steSrc_kind 2047, 1), (F.laneStat_state 0, 7),
      (F.laneCtl_mode 0, 3), (F.steSlice_slice0 2047, 1023), (F.steSlice_phase0 2047, 1), (F.strCfg_use 1023, 2),
      (F.strCfg_stream1 1023, 2047), (F.strGain_mult 1023 1, 65536), (⟨R.steDest 2047 0, 0, 24⟩,
      1 + 16 * 143 + 4096 * 4095), (⟨R.dieState, 0, 16⟩, 0x2222)] ++ l) h;
    { (h.setSt 2047 st).sset 2047 (u (h.sget 2047)) with streams := [2047], gtc := 1 })
def hLive : State := hS stLive (fun u => { u with ms := 65536 }) []
def hOdd : State := { hLive with hive := { hLive.hive with gtc := 2 } }
def hLive2 : State := hS stLive (fun u => { u with ms := 65536 }) [(F.strGain_mult 1023 1, 65536)]
def hRup : State := hS stRampUp (fun u => { u with ms := 5, len := 8 }) [(F.smkStat_pos 2047, 3)]
def hDn : State := hS stRampDown (fun u => { u with ms := 5, len := 8 }) [(F.smkStat_pos 2047, 3)]
def hSet : State := hS stLive id [(F.strTaint_left 1023 1, 7), (F.strRsCtl_trim 1023 1, 1)] |> fun s => { s with
    hive := s.hive.hset 2047 { s.hive.hget 2047 with settleLeft := 1 } }
def bkS (l : List (RF × Nat)) (due : Nat) : State := at' (fun h =>
    let h := runs ([(F.strCfg_use 1023, 2), (F.strCfg_stream1 1023, 2047), (F.strFirCtl_a_valid 1023 1, 1),
      (F.strFirCtl_b_valid 1023 1, 1), (F.strFirCtl_minph 1023 1, 1), (F.steSlice_slice0 2047, 1023),
      (F.steSlice_phase0 2047, 1)] ++ l) h;
    { h with sched := if due = 0 then [] else [⟨0, .bankSwap 2047⟩] })

/-- States and operands that meet the hypotheses of StrainerPath, clause by clause. -/
theorem meets_StrainerPath :
    (hOdd.hive.accepts 1023 1 = false) ∧
      (State.reset.hive.accepts 1023 1 = true ∧
      State.reset.hive.halfStream 1023 1 = none ∧
      State.reset.hive.inNew = [] ∧
      State.reset.hive.subNew = [] ∧
      (State.reset.hive.hget (2 * 1023 + 1)).settleLeft = 0 ∧
      State.reset.hive.get (F.strTaint_left (State.reset.hive.lastSlice 2047) (State.reset.hive.lastHalf 2047)) = 0 ∧
      goodWrite (wq (R.strRsPhase 1023 1) 63487) (R.strRsPhase 1023 1) false = true ∧
      (sext 16 (BitVec.toNat (wq (R.strRsPhase 1023 1) 63487).value) < -2048 ∨
        2048 < sext 16 (BitVec.toNat (wq (R.strRsPhase 1023 1) 63487).value)) ∧
      goodWrite (wq (R.strMaCtl 1023 1) 4095) (R.strMaCtl 1023 1) false = true) ∧
      (hLive.hive.accepts 1023 1 = true ∧
      hLive.hive.broodActs (1023 / 512) = true ∧
      hLive.hive.isCasc 1023 1 = false ∧
      hLive.hive.inNew = [] ∧
      hLive.hive.subNew = [] ∧
      hLive.hive.get (F.strDcCtl_m 1023 1) = 0 ∧
      hLive.hive.get (F.strNcoFtw_ftw 1023 1) = 0 ∧
      hLive.hive.flag (F.strRsCtl_active 1023 1) = false ∧
      hLive.hive.get (F.strFirCtl_taps 1023 1) = 0 ∧
      hLive.hive.bankFor 1023 1 = hLive.hive.flag (F.strFirCtl_bank 1023 1) ∧
      hLive.hive.halfStream 1023 1 = some 2047 ∧
      hLive.hive.lastSlice 2047 = 1023 ∧
      hLive.hive.lastHalf 2047 = 1 ∧
      hLive.hive.dualHomed 2047 = false ∧
      (hLive.hive.sget 2047).inPri = [] ∧
      (hLive.hive.sget 2047).inAlt = [] ∧
      (srcKind (hLive.hive.srcNow 2047) = 1 →
        hLive.hive.laneUp (hLive.hive.carrier (srcA (hLive.hive.srcNow 2047))) = true) ∧
      (srcKind (hLive.hive.srcNow 2047) = 4 → hLive.hive.linkUp (srcA (hLive.hive.srcNow 2047)) = true) ∧
      ¬2047 ∈ hLive.hive.zeroed ∧
      hLive.hive.onFaulted (hLive.hive.srcNow 2047) = false ∧
      hLive.hive.flag (F.steKern_kern_en 2047) = false ∧
      hLive.hive.bufLen 2047 = 0 ∧
      hLive.hive.bufNext 2047 = none ∧
      srcKind (hLive.hive.dest 2047 0) = 1 ∧
      srcA (hLive.hive.dest 2047 0) < 144 ∧
      hLive.hive.lmode (srcA (hLive.hive.dest 2047 0)) ≠ 2 ∧
      hLive.hive.reaches 2047 (hLive.hive.dest 2047 0) = true ∧
      (∀ (d : Fin 4), d ≠ 0 → srcKind (hLive.hive.dest 2047 ↑d) = 0)) ∧
      ((hSet.hive.hget (2 * 1023 + 1)).settleLeft ≠ 0 ∧
      hSet.hive.get (F.strTaint_left (hSet.hive.lastSlice 2047) (hSet.hive.lastHalf 2047)) ≠ 0 ∧
      goodWrite (wq (R.strRsPhase 1023 1) 63488) (R.strRsPhase 1023 1) false = true ∧
      -2048 ≤ sext 16 (BitVec.toNat (wq (R.strRsPhase 1023 1) 63488).value) ∧
      sext 16 (BitVec.toNat (wq (R.strRsPhase 1023 1) 63488).value) ≤ 2048 ∧
      hSet.hive.flag (F.strRsCtl_trim 1023 1) = true ∧
      hSet.hive.halfStream 1023 1 = some 2047) ∧
      (goodWrite (wq (R.strRsPhase 1023 1) 63488) (R.strRsPhase 1023 1) false = true ∧
      -2048 ≤ sext 16 (BitVec.toNat (wq (R.strRsPhase 1023 1) 63488).value) ∧
      sext 16 (BitVec.toNat (wq (R.strRsPhase 1023 1) 63488).value) ≤ 2048 ∧
      State.reset.hive.flag (F.strRsCtl_trim 1023 1) = false) := by
  (repeat' apply And.intro) <;> first
    | decide | rfl | (intro _; rfl) | exact .inl ⟨rfl, rfl⟩ | exact .inl rfl | exact ⟨0, by decide⟩

/-- States and operands that meet the hypotheses of BankSwaps, clause by clause. -/
theorem meets_BankSwaps :
    (admits (bkS [] 0).hive.mode CmdGroup.timed = true ∧
      goodEntry (ceT (1023 + 1024) 0 0 (2 ^ 40)) 7 true (1023 + 1024 * 1) 0 0 = true ∧
      (bkS [] 0).hive.leadOk (ceT (1023 + 1024) 0 0 (2 ^ 40)).t.toNat false = true ∧
      (bkS [] 0).hive.halfStream 1023 1 ≠ none ∧
      (bkS [] 0).hive.flag (bankFlag 1023 1 !(bkS [] 0).hive.flag (F.strFirCtl_bank 1023 1)) = true ∧
      (bkS [] 0).hive.flag F.timStat_load_pend = false ∧
      (bkS [] 0).hive.sched.length < 256 ∧
      (bkS [] 0).hive.flag (F.strFirCtl_minph 1023 1) = true ∧
      (bkS [] 0).hive.halfStream 1023 1 = some 2047 ∧
      16 * ((bkS [] 0).hive.tIn 1023 1 2047).fst * (bkS [] 0).hive.halfRatio 1023 1 <
        (Int.ofNat 16777215 - Int.ofNat ((bkS [] 0).hive.get (F.strGd_gd 1023 1))).natAbs *
            ((bkS [] 0).hive.tIn 1023 1 2047).snd *
          2 ^ 32) ∧
      (admits (bkS [(F.strFirCtl_b_valid 1023 1, 0)] 0).hive.mode CmdGroup.timed = true ∧
      goodEntry (ceT (1023 + 1024) 0 0 (2 ^ 40)) 7 true (1023 + 1024 * 1) 0 0 = true ∧
      (bkS [(F.strFirCtl_b_valid 1023 1, 0)] 0).hive.leadOk (ceT (1023 + 1024) 0 0 (2 ^ 40)).t.toNat false = true ∧
      ((bkS [(F.strFirCtl_b_valid 1023 1, 0)] 0).hive.halfStream 1023 1 = none ∨
        (bkS [(F.strFirCtl_b_valid 1023 1, 0)] 0).hive.flag
            (bankFlag 1023 1 !(bkS [(F.strFirCtl_b_valid 1023 1, 0)] 0).hive.flag (F.strFirCtl_bank 1023 1)) =
          false)) ∧
      ((bkS [(F.strFirCtl_swap_pend 1023 1, 1)] 1).hive.due (SchedKind.bankSwap (2 * 1023 + 1)) = true ∧
      (∀ (n : Nat),
        (bkS [(F.strFirCtl_swap_pend 1023 1, 1)] 1).hive.halfStream 1023 1 = some n →
          (bkS [(F.strFirCtl_swap_pend 1023 1, 1)] 1).hive.patchFirst n = false) ∧
      (bkS [(F.strFirCtl_swap_pend 1023 1, 1)] 1).hive.flag
          (bankFlag 1023 1 !(bkS [(F.strFirCtl_swap_pend 1023 1, 1)] 1).hive.flag (F.strFirCtl_bank 1023 1)) =
        true ∧
      (bkS [(F.strFirCtl_swap_pend 1023 1, 1)] 1).hive.halfStream 1023 1 ≠ none) ∧
      ((bkS [(F.strFirCtl_b_valid 1023 1, 0)] 1).hive.due (SchedKind.bankSwap (2 * 1023 + 1)) = true ∧
      (∀ (n : Nat),
        (bkS [(F.strFirCtl_b_valid 1023 1, 0)] 1).hive.halfStream 1023 1 = some n →
          (bkS [(F.strFirCtl_b_valid 1023 1, 0)] 1).hive.patchFirst n = false) ∧
      (bkS [(F.strFirCtl_b_valid 1023 1, 0)] 1).hive.flag
          (bankFlag 1023 1 !(bkS [(F.strFirCtl_b_valid 1023 1, 0)] 1).hive.flag (F.strFirCtl_bank 1023 1)) =
        false) ∧
      (State.reset.hive.due (SchedKind.bankSwap (2 * 1023 + 1)) = false ∧
      (State.reset.hive.halfStream 1023 1 = none ∨ State.reset.hive.flag (F.strFirCtl_minph 1023 1) = false) ∧
      (State.reset.hive.sieveFills 511 = false ∨ (State.reset.hive.sieveGet 511).fill ≠ 0)) ∧
      ((bkS [(F.sivStat_state 511, 1)] 0).hive.sieveFills 511 = true ∧
      ((bkS [(F.sivStat_state 511, 1)] 0).hive.sieveGet 511).fill = 0) := by decide

/-! ## Protection, meters, streams and mutes -/

def dS (n : Nat) (l : List (RF × Nat)) (st : Nat) (u : NpmSt → NpmSt) : State := at' (fun h =>
    let h := runs (l ++ [(F.npmCtl_crit_en n, 15)]) h;
    { ((h.setSt n st).npmSet n (u (h.npmGet n))).wr R.npmBackoff (rwcWord 256) with streams := [n] })
def dHold (ks : List Nat) (u : NpmSt) : NpmSt := { u with holds := ks.map (fun k => (k, 0, 2 ^ 50)) }
def dAll : State := dS 2047 [] stLive (dHold (List.range 14))
def dLim : State := dS 2047 [] stLive (dHold [2, 3, 6])
def dMute : State := dS 2047 [(F.npmStat_crit 2047, 0x55), (F.steSrc_kind 2047, 3)] stLive (dHold (List.range 14))
def dMuted : State := dS 2047 [(F.npmStat_crit 2047, 2)] stMuted id
def dDonor : State := dS 2047 [(F.npmStat_crit 2047, 0xC0), (F.steSrc_kind 2047, 3)] stLive (dHold [13])
def dOk : State := at' (fun h => { runs [] (h.setSt 2047 stLive) with ticks := 2 ^ 50 })
def dLearn : State := dS 2047 [(F.npmStat_learning 2047, 1), (F.steValid_valid 2047, 1)] stLive (fun u => { u with
    learnN := 2, learnSum := 3, learnT := 2 ^ 101 })
def tW (v : Bool) (k : Nat) : SpecWindow := ⟨v, 0, List.replicate 512 k⟩
def tS (l : List (RF × Nat)) (f : Hive → Hive) : State := at' (fun h => f (runs ([(F.steValid_valid 2047, 1),
    (F.mtrCtl_spec_en 2047, 1), (F.sivStat_state 0, 2)] ++ l) h))
def tOn : State := tS [] id
def tOdd : State := tS [] (fun h => { h with gtc := 1023 })
def tIn : State := tS [] (fun h => { h with inband := [(2047, [5, 6])] })
def tTrk (r : Nat) : State := tS [(F.trkStat_valid 255, 1), (F.trkStat_stream 255, 2047), (F.npmFloor_floor 2047,
    0x7000), (F.trkCar_state 255 15, 2)] (fun h => { h with ticks := 2 ^ 40 }.trkSet 255 { h.trkGet 255 with
    away := if r = 0 then [] else [(15, 0)], release := 0 })
def tSkip : State := tS [(F.trkStat_valid 255, 1), (F.trkStat_stream 255, 2047)] (fun h =>
    h.trkSet 255 { h.trkGet 255 with skip := true })
def tWin (w : SpecWindow) (s : State) : State := { s with
    hive := s.hive.sieveSet 0 { s.hive.sieveGet 0 with wdone := some w, wmeter := true, wtrk := true } }
def eS (st : Nat) (l : List (RF × Nat)) : State := at' (fun h => { (runs ([(F.steValid_valid 2047, 1),
    (F.steSrc_kind 2047, 3), (⟨R.dieState, 0, 16⟩, 0x2222)] ++ l) h).setSt 2047 st with streams := [2047] })
def eFull : State := { eS stRampUp [] with
    hive := (eS stRampUp []).hive.sset 2047 { (eS stRampUp []).hive.sget 2047 with ms := 131072 } }
def eEnv (us : Nat) : State := at' (fun h => { runs [] h with envT := [(1, 1)], wcopy := [(4, rwcWord us)] })

/-- States and operands that meet the hypotheses of ProtectionActions, clause by clause. -/
theorem meets_ProtectionActions :
    (rwcOk (dAll.hive.rd R.npmBackoff) = true ∧
      (dAll.hive.critOn 2047 (if 9 ≤ 1 then 0 else if 9 ≤ 5 then 1 else if 9 ≤ 8 then 2 else 3) = true) ∧
      (dAll.hive.npmRuns 2047 = true ∨ (if 9 ≤ 1 then 0 else if 9 ≤ 5 then 1 else if 9 ≤ 8 then 2 else 3) = 3) ∧
      dAll.hive.holdDue 2047 9 = true ∧
      (dAll.hive.critSt 2047 (if 9 ≤ 1 then 0 else if 9 ≤ 5 then 1 else if 9 ≤ 8 then 2 else 3) < 2) ∧
      ((if (if 9 ≤ 1 then 0 else if 9 ≤ 5 then 1 else if 9 ≤ 8 then 2 else 3) = 1 then
          dAll.hive.holdDue 2047 4 || dAll.hive.holdDue 2047 5
        else
          if (if 9 ≤ 1 then 0 else if 9 ≤ 5 then 1 else if 9 ≤ 8 then 2 else 3) = 2 then
            dAll.hive.holdDue 2047 7 || dAll.hive.holdDue 2047 8
          else true) =
        true) ∧
      2047 ∈ dAll.hive.image) ∧
      (rwcOk (dLim.hive.rd R.npmBackoff) = true ∧
      (dLim.hive.critOn 2047 (if 2 ≤ 1 then 0 else if 2 ≤ 5 then 1 else if 2 ≤ 8 then 2 else 3) = true) ∧
      (dLim.hive.npmRuns 2047 = true ∨ (if 2 ≤ 1 then 0 else if 2 ≤ 5 then 1 else if 2 ≤ 8 then 2 else 3) = 3) ∧
      dLim.hive.holdDue 2047 2 = true ∧
      (dLim.hive.critSt 2047 (if 2 ≤ 1 then 0 else if 2 ≤ 5 then 1 else if 2 ≤ 8 then 2 else 3) < 2) ∧
      ((if (if 2 ≤ 1 then 0 else if 2 ≤ 5 then 1 else if 2 ≤ 8 then 2 else 3) = 1 then
          dLim.hive.holdDue 2047 4 || dLim.hive.holdDue 2047 5
        else
          if (if 2 ≤ 1 then 0 else if 2 ≤ 5 then 1 else if 2 ≤ 8 then 2 else 3) = 2 then
            dLim.hive.holdDue 2047 7 || dLim.hive.holdDue 2047 8
          else true) =
        false) ∧
      (dLim.hive.critSt 2047 (if 2 ≤ 1 then 0 else if 2 ≤ 5 then 1 else if 2 ≤ 8 then 2 else 3) = 0) ∧
      dLim.hive.gminOf 2047 ≤
        clampS 16
          (min (dLim.hive.getS (F.npmStat_ceiling 2047))
            (dLim.hive.getS (F.gceG_in_force 2047) - dLim.hive.rwcS R.npmBackoff))) := by decide

/-- States and operands that meet the hypotheses of ProtectionReturns, clause by clause. -/
theorem meets_ProtectionReturns :
    (dMuted.hive.critSt 2047 0 ≠ 0 ∧
      (0 ≠ 3 ∨ dMuted.hive.srcUp (dMuted.hive.srcNow 2047) = true) ∧
      (((dMuted.hive.clearConds 2047 0).all fun j =>
          dMuted.hive.clearDue 2047 j
            (if 0 = 3 then msOf (dMuted.hive.get F.npmTimes2_donor_ms) else secOf (dMuted.hive.get F.npmTimes_clear))) =
        true) ∧
      0 ≠ 3 ∧
      (∀ (d : Fin 4), d ≠ 0 → dMuted.hive.critSt 2047 ↑d < 2) ∧
      dMuted.hive.get (F.npmCtl_donor_grp 2047) = 0) ∧
      (dOk.hive.st 2047 = stLive ∧
      (∀ (c : Fin 4), dOk.hive.critSt 2047 ↑c = 0) ∧
      max ((dOk.hive.npmGet 2047).okAt.getD 0) (dOk.hive.sget 2047).liveAt + secOf (dOk.hive.get F.npmTimes_clear) ≤
        dOk.hive.ticks) ∧
      (dLearn.hive.flag (F.npmStat_learning 2047) = true ∧
      (dLearn.hive.npmGet 2047).learnN ≠ 0 ∧
      secOf (dLearn.hive.get F.npmTimes2_learn_s) * tick64 ≤ (dLearn.hive.npmGet 2047).learnT ∧
      clampS 16 (roundEven (dLearn.hive.npmGet 2047).learnSum (dLearn.hive.npmGet 2047).learnN) =
        roundEven (dLearn.hive.npmGet 2047).learnSum (dLearn.hive.npmGet 2047).learnN ∧
      admits dLearn.hive.mode CmdGroup.timed = true ∧
      dLearn.hive.isStream 2047 = true ∧
      goodEntry (ce 2047 0 0) 8 false 2047 0 0 = true) := by decide

/-- States and operands that meet the hypotheses of MeterResults, clause by clause. -/
theorem meets_MeterResults :
    (tOdd.hive.gtc % 1024 ≠ 0) ∧
      (tOn.hive.gtc % 1024 = 0 ∧
      tOn.hive.isStream 2047 = true ∧
      (tOn.hive.sget 2047).ms = 0) ∧
      ((State.reset.hive.flag (F.mtrCtl_spec_en 2047) = false ∨
        (State.reset.hive.sieveGet (State.reset.hive.get (F.mtrCtl_spec_bank 2047))).wmeter = false ∨
          (State.reset.hive.sieveGet (State.reset.hive.get (F.mtrCtl_spec_bank 2047))).wdone = none) ∧
      goodWrite (wq (R.mtrCtl 2047) (20 + 24 * 32 + 24 * 1024 + 10 * 32768)) (R.mtrCtl 2047) false = true ∧
      bitsOf (BitVec.toNat (wq (R.mtrCtl 2047) (20 + 24 * 32 + 24 * 1024 + 10 * 32768)).value) 0 5 ≤ 20 ∧
      bitsOf (BitVec.toNat (wq (R.mtrCtl 2047) (20 + 24 * 32 + 24 * 1024 + 10 * 32768)).value) 5 5 ≤ 24 ∧
      bitsOf (BitVec.toNat (wq (R.mtrCtl 2047) (20 + 24 * 32 + 24 * 1024 + 10 * 32768)).value) 10 5 ≤ 24 ∧
      bitsOf (BitVec.toNat (wq (R.mtrCtl 2047) (20 + 24 * 32 + 24 * 1024 + 10 * 32768)).value) 15 4 ≤ 10 ∧
      (State.reset.hive.flag (F.trkStat_valid 255) = false ∨
        State.reset.hive.flag (F.mtrCtl_spec_en (State.reset.hive.get (F.trkStat_stream 255))) = false ∨
          (State.reset.hive.sieveGet
                  (State.reset.hive.get (F.mtrCtl_spec_bank (State.reset.hive.get (F.trkStat_stream 255))))).wtrk =
              false ∨
            (State.reset.hive.sieveGet
                  (State.reset.hive.get (F.mtrCtl_spec_bank (State.reset.hive.get (F.trkStat_stream 255))))).wdone =
              none) ∧
      (State.reset.hive.get (F.trkCar_state 255 15) ≠ 2 ∨
        ((State.reset.hive.trkGet 255).away.any fun p =>
            p.fst == 15 && decide (p.snd + msOf (State.reset.hive.trkGet 255).release ≤ State.reset.hive.ticks)) =
          false)) ∧
      ((tWin (tW true 0) tIn).hive.flag (F.mtrCtl_spec_en 2047) = true ∧
      ((tWin (tW true 0) tIn).hive.sieveGet ((tWin (tW true 0) tIn).hive.get (F.mtrCtl_spec_bank 2047))).wmeter = true ∧
      ((tWin (tW true 0) tIn).hive.sieveGet ((tWin (tW true 0) tIn).hive.get (F.mtrCtl_spec_bank 2047))).wdone =
        some (tW true 0) ∧
      (tW true 0).valid = true ∧
      (tWin (tW true 0) tIn).hive.inbandOf 2047 ≠ [] ∧
      (floorOf
          (List.map (fun p => p.snd)
            (List.filter (fun p => !((tWin (tW true 0) tIn).hive.carrierBands 2047).contains p.fst)
              (((tWin (tW true 0) tIn).hive.inbandOf 2047).zip
                (List.map (fun k => bandLevel (tW true 0) [k]) ((tWin (tW true 0) tIn).hive.inbandOf 2047))))) =
        some (-30720))) ∧
      ((tWin (tW false 0) tOn).hive.flag (F.mtrCtl_spec_en 2047) = true ∧
      ((tWin (tW false 0) tOn).hive.sieveGet ((tWin (tW false 0) tOn).hive.get (F.mtrCtl_spec_bank 2047))).wmeter = true ∧
      ((tWin (tW false 0) tOn).hive.sieveGet ((tWin (tW false 0) tOn).hive.get (F.mtrCtl_spec_bank 2047))).wdone =
        some (tW false 0) ∧
      (tW false 0).valid = false) ∧
      (goodWrite (wq (R.mtrCtl 2047) 21) (R.mtrCtl 2047) false = true ∧
      (20 < bitsOf (BitVec.toNat (wq (R.mtrCtl 2047) 21).value) 0 5 ∨
        24 < bitsOf (BitVec.toNat (wq (R.mtrCtl 2047) 21).value) 5 5 ∨
          24 < bitsOf (BitVec.toNat (wq (R.mtrCtl 2047) 21).value) 10 5 ∨
            10 < bitsOf (BitVec.toNat (wq (R.mtrCtl 2047) 21).value) 15 4)) ∧
      ((tWin (tW true 0) tSkip).hive.flag (F.trkStat_valid 255) = true ∧
      (tWin (tW true 0) tSkip).hive.flag (F.mtrCtl_spec_en ((tWin (tW true 0) tSkip).hive.get (F.trkStat_stream 255))) =
        true ∧
      ((tWin (tW true 0) tSkip).hive.sieveGet
            ((tWin (tW true 0) tSkip).hive.get
              (F.mtrCtl_spec_bank ((tWin (tW true 0) tSkip).hive.get (F.trkStat_stream 255))))).wtrk =
        true ∧
      ((tWin (tW true 0) tSkip).hive.sieveGet
            ((tWin (tW true 0) tSkip).hive.get
              (F.mtrCtl_spec_bank ((tWin (tW true 0) tSkip).hive.get (F.trkStat_stream 255))))).wdone =
        some (tW true 0) ∧
      (((tWin (tW true 0) tSkip).hive.trkGet 255).skip = true ∨ (tW true 0).valid = false)) ∧
      ((tWin (tW true 0) (tTrk 0)).hive.flag (F.trkStat_valid 255) = true ∧
      (tWin (tW true 0) (tTrk 0)).hive.flag
          (F.mtrCtl_spec_en ((tWin (tW true 0) (tTrk 0)).hive.get (F.trkStat_stream 255))) =
        true ∧
      ((tWin (tW true 0) (tTrk 0)).hive.sieveGet
            ((tWin (tW true 0) (tTrk 0)).hive.get
              (F.mtrCtl_spec_bank ((tWin (tW true 0) (tTrk 0)).hive.get (F.trkStat_stream 255))))).wtrk =
        true ∧
      ((tWin (tW true 0) (tTrk 0)).hive.sieveGet
            ((tWin (tW true 0) (tTrk 0)).hive.get
              (F.mtrCtl_spec_bank ((tWin (tW true 0) (tTrk 0)).hive.get (F.trkStat_stream 255))))).wdone =
        some (tW true 0) ∧
      ((tWin (tW true 0) (tTrk 0)).hive.trkGet 255).skip = false ∧
      (tW true 0).valid = true ∧
      (tWin (tW true 0) (tTrk 0)).hive.get
          (F.npmFloor_floor ((tWin (tW true 0) (tTrk 0)).hive.get (F.trkStat_stream 255))) ≠
        32768 ∧
      (∀ (k : Fin 512),
        bandLevel (tW true 0) [↑k] <
          (tWin (tW true 0) (tTrk 0)).hive.getS
              (F.npmFloor_floor ((tWin (tW true 0) (tTrk 0)).hive.get (F.trkStat_stream 255))) +
            ((tWin (tW true 0) (tTrk 0)).hive.trkGet 255).detect)) ∧
      ((tWin (tW true 0) (tTrk 1)).hive.get (F.trkCar_state 255 15) = 2 ∧
      ((((tWin (tW true 0) (tTrk 1)).hive.trkGet 255).away.any fun p =>
          p.fst == 15 &&
            decide
              (p.snd + msOf ((tWin (tW true 0) (tTrk 1)).hive.trkGet 255).release ≤
                (tWin (tW true 0) (tTrk 1)).hive.ticks)) =
        true)) := by
  decide +kernel

/-- States and operands that meet the hypotheses of StreamStates, clause by clause. -/
theorem meets_StreamStates :
    (admits (eS stIdle []).hive.mode CmdGroup.start = true ∧
      (eS stIdle []).hive.isStream 2047 = true ∧
      goodEntry (ce 2047 0 0) 1 false 2047 0 0 = true ∧
      (eS stIdle []).hive.st 2047 = stIdle ∧
      (eS stIdle []).hive.flag F.timStat_load_pend = false ∧
      admits (eS stIdle []).hive.mode CmdGroup.stop = true ∧
      goodEntry (ce 2047 0 0) 2 false 2047 0 0 = true ∧
      ((eS stIdle []).hive.st 2047 = stIdle ∨
        (eS stIdle []).hive.st 2047 = stRampDown ∨ (eS stIdle []).hive.st 2047 = stFaulted) ∧
      ((eS stIdle []).hive.srcUp ((eS stIdle []).hive.srcNow 2047) = false ∨ (eS stIdle []).hive.st 2047 ≠ stArmed) ∧
      ((eS stIdle []).hive.st 2047 ≠ stRampUp ∨ ((eS stIdle []).hive.sget 2047).ms ≠ 131072) ∧
      ((eS stIdle []).hive.st 2047 ≠ stRampDown ∨ ((eS stIdle []).hive.sget 2047).ms ≠ 0)) ∧
      (admits (eS stArmed []).hive.mode CmdGroup.start = true ∧
      (eS stArmed []).hive.isStream 2047 = true ∧
      goodEntry (ce 2047 0 0) 1 false 2047 0 0 = true ∧
      (eS stArmed []).hive.st 2047 ≠ stIdle ∧
      admits (eS stArmed []).hive.mode CmdGroup.stop = true ∧
      goodEntry (ce 2047 0 0) 2 false 2047 0 0 = true ∧
      (eS stArmed []).hive.unmarked 2047 ∧
      ((eS stArmed []).hive.st 2047 = stArmed ∨ (eS stArmed []).hive.st 2047 = stMuted) ∧
      (eS stArmed []).hive.st 2047 = stArmed ∧
      (eS stArmed []).hive.srcUp ((eS stArmed []).hive.srcNow 2047) = true ∧
      (eS stArmed []).hive.get (F.smkCause_active 2047) = 0 ∧
      ((eS stArmed []).hive.sget 2047).sit = 0) ∧
      (admits eFull.hive.mode CmdGroup.stop = true ∧
      eFull.hive.isStream 2047 = true ∧
      goodEntry (ce 2047 0 0) 2 false 2047 0 0 = true ∧
      eFull.hive.unmarked 2047 ∧
      rwcOk (eFull.hive.rd (R.smkDeadline 2047)) = true ∧
      eFull.hive.ownMax < 5 ∧
      (eFull.hive.st 2047 = stRampUp ∨ eFull.hive.st 2047 = stLive) ∧
      eFull.hive.st 2047 = stRampUp ∧
      (eFull.hive.sget 2047).ms = 131072) ∧
      ((eS stRampDown []).hive.st 2047 = stRampDown ∧
      ((eS stRampDown []).hive.sget 2047).ms = 0) := by decide

/-- States and operands that meet the hypotheses of MuteCommands, clause by clause. -/
theorem meets_MuteCommands :
    (2047 ∈ (eS stLive [(F.smkCfg_pin_en 2047, 1)]).hive.image ∧
      (eS stLive [(F.smkCfg_pin_en 2047, 1)]).hive.flag (F.smkCfg_pin_en 2047) = true ∧
      (eS stLive [(F.smkCfg_pin_en 2047, 1)]).hive.unmarked 2047 ∧
      ((eS stLive [(F.smkCfg_pin_en 2047, 1)]).hive.st 2047 = stRampUp ∨
        (eS stLive [(F.smkCfg_pin_en 2047, 1)]).hive.st 2047 = stLive) ∧
      0 ≠ 8 ∧
      admits (eS stLive [(F.smkCfg_pin_en 2047, 1)]).hive.mode CmdGroup.stop = true ∧
      1 ≤ 1 ∧
      2047 + 1 ≤ 2048 ∧
      goodEntry (ce 2047 1 0) 3 false 2047 1 0 = true ∧
      2047 ≤ 2047 ∧
      2047 < 2047 + 1 ∧
      admits (eS stLive [(F.smkCfg_pin_en 2047, 1)]).hive.mode CmdGroup.start = true ∧
      (eS stLive [(F.smkCfg_pin_en 2047, 1)]).hive.isStream 2047 = true ∧
      goodEntry (ce 2047 0 0) 4 false 2047 0 0 = true ∧
      ((eS stLive [(F.smkCfg_pin_en 2047, 1)]).hive.st 2047 ≠ stMuted ∨
        ∃ b, b < 9 ∧ (eS stLive [(F.smkCfg_pin_en 2047, 1)]).hive.hasCause b 2047 = true) ∧
      (eS stLive [(F.smkCfg_pin_en 2047, 1)]).hive.bandClear 0 0 = true ∧
      goodEntry (ce (0 + 16 * 0) 0 0) 5 false (0 + 16 * 0) 0 0 = true ∧
      2047 ∈ (eS stLive [(F.smkCfg_pin_en 2047, 1)]).hive.tenantStreams 0 ∧
      (eS stLive [(F.smkCfg_pin_en 2047, 1)]).hive.rangeOf 2047 = 0 ∧
      goodWrite (wq (R.smkDeadline 2047) (BitVec.toNat (rwcWord 16))) (R.smkDeadline 2047) true = true ∧
      16 ≤ BitVec.toNat (wq (R.smkDeadline 2047) (BitVec.toNat (rwcWord 16))).value % 65536 ∧
      BitVec.toNat (wq (R.smkDeadline 2047) (BitVec.toNat (rwcWord 16))).value % 65536 ≤ 16000 ∧
      ((eS stLive [(F.smkCfg_pin_en 2047, 1)]).hive.envUsed ((eS stLive [(F.smkCfg_pin_en 2047, 1)]).hive.tenant 2047) =
          true →
        BitVec.toNat (wq (R.smkDeadline 2047) (BitVec.toNat (rwcWord 16))).value % 65536 ≤
          (eS stLive [(F.smkCfg_pin_en 2047, 1)]).hive.wcVal ((eS stLive [(F.smkCfg_pin_en 2047, 1)]).hive.tenant 2047)
            4)) ∧
      (admits (eS stArmed []).hive.mode CmdGroup.stop = true ∧
      1 ≤ 1 ∧
      2047 + 1 ≤ 2048 ∧
      goodEntry (ce 2047 1 0) 3 false 2047 1 0 = true ∧
      2047 ∈ (eS stArmed []).hive.image ∧
      2047 ≤ 2047 ∧
      2047 < 2047 + 1 ∧
      (eS stArmed []).hive.unmarked 2047 ∧
      (eS stArmed []).hive.st 2047 = stArmed) ∧
      (admits (eS stMuted []).hive.mode CmdGroup.start = true ∧
      (eS stMuted []).hive.isStream 2047 = true ∧
      goodEntry (ce 2047 0 0) 4 false 2047 0 0 = true ∧
      (eS stMuted []).hive.st 2047 = stMuted ∧
      (∀ (b : Nat), b < 9 → (eS stMuted []).hive.hasCause b 2047 = false)) ∧
      (goodWrite (wq (R.smkDeadline 2047) (BitVec.toNat (rwcWord 15))) (R.smkDeadline 2047) true = true ∧
      (BitVec.toNat (wq (R.smkDeadline 2047) (BitVec.toNat (rwcWord 15))).value % 65536 < 16 ∨
        16000 < BitVec.toNat (wq (R.smkDeadline 2047) (BitVec.toNat (rwcWord 15))).value % 65536)) ∧
      (goodWrite (wq (R.smkDeadline 2047) (BitVec.toNat (rwcWord 16000))) (R.smkDeadline 2047) true = true ∧
      16 ≤ BitVec.toNat (wq (R.smkDeadline 2047) (BitVec.toNat (rwcWord 16000))).value % 65536 ∧
      BitVec.toNat (wq (R.smkDeadline 2047) (BitVec.toNat (rwcWord 16000))).value % 65536 ≤ 16000 ∧
      (eEnv 15999).hive.envUsed ((eEnv 15999).hive.tenant 2047) = true ∧
      (eEnv 15999).hive.wcVal ((eEnv 15999).hive.tenant 2047) 4 <
        BitVec.toNat (wq (R.smkDeadline 2047) (BitVec.toNat (rwcWord 16000))).value % 65536) := by decide

/-! ## Gated groups -/

def iSub (f h a : Nat) : UgtSub := ⟨if f = 0 then none else some (floorPack (f, 3)), h, a, false, false, 0⟩
def iTile : TileSt := ⟨0, List.replicate 63 [] ++ [[1000, 40, 40]], [], [], [], 1536, 3, false, [2]⟩
def iTileF : TileSt := { iTile with force := true }
def iUgt (t : Bool) : UgtSt := ⟨List.replicate 63 ⟨[], 0, 0, [], 0⟩ ++ [⟨[iSub 100 0 70000, iSub 1000 1 5,
    iSub 1000 4 1000000], 4, 2, [], 2048⟩], if t then some iTile else none, 3, 7, (3, 2), (2, 5), 5⟩
def iS (l : List (RF × Nat)) (f : Hive → Hive) : State := at' (fun h =>
    let h := runs ([(F.steValid_valid 2047, 1), (⟨R.steDest 2047 0, 0, 24⟩, 3 + 16 * 255 + 4096 * 63),
      (F.ugtCtl_en 255, 1), (⟨R.ugtThr 255, 0, 32⟩, (rwcWord 1536).toNat), (F.ugtIn_state 255 63, 2),
      (F.ugtHang_hang 255, 3), (F.ugtLearn_a_learn 255, 2), (F.ugtLearn_a_track 255, 5)] ++ l) h;
    f { (h.ugtSet 255 (iUgt true)) with inband := [(4096 + 255, [0, 1, 2, 3])], streams := [2047], gtc := 32768 })
def iOn : State := iS [] id
def iOdd : State := iS [] (fun h => { h with gtc := 32769 })
def iForce : State := iS [] (fun h => h.ugtSet 255 { iUgt true with tile := some iTileF })
def iNone : State := iS [] (fun h => h.ugtSet 255 (iUgt false))
def iAcc : State := iS [(F.sivCtl_en 511, 1), (F.sivCtl_grouped 511, 1), (F.sivCtl_group 511, 255),
    (F.sivCtl_stream 511, 2047)] (fun h => (h.ugtSet 255 (iUgt false)).sieveSet 511 { h.sieveGet 511 with
    acc := [5, 6, 7], accTile := 0 })
def iLate : State := iS [] (fun h => { h with gtc := 2 ^ 20 })
def iLrn : State := iS [(F.ugtIn_state 255 63, 1), (F.ugtLearn_learn_t 255, 4)] id
def iStk (l : Nat) : State := iS [(F.ugtLearn_stuck_s 255, l)] id
def iRep (f : UgtSt → UgtSt) : State := iS [] (fun h => { (h.ugtSet 255 (f (iUgt true))) with gtc := 33554432 })
def iRep0 : State := iRep (fun u => { u with act := 0 })
def iRep1 : State := iRep id
def iRepC : State := iRep (fun u => { u with ones := 0 })

/-- States and operands that meet the hypotheses of UgtTiles, clause by clause. -/
theorem meets_UgtTiles :
    (iNone.hive.flag (F.ugtCtl_en 255) = true ∧
      iNone.hive.gtc % 32768 = 0 ∧
      iNone.hive.gtc ≠ 0 ∧
      (iNone.hive.ugtGet 255).tile = none ∧
      rwcOk (iNone.hive.rd (R.ugtThr 255)) = true) ∧
      (iAcc.hive.flag (F.ugtCtl_en 255) = true ∧
      iAcc.hive.gtc % 32768 = 0 ∧
      iAcc.hive.gtc ≠ 0 ∧
      (iAcc.hive.ugtGet 255).tile = none ∧
      rwcOk (iAcc.hive.rd (R.ugtThr 255)) = true ∧
      (iAcc.hive.sieveGet 511).accTile = iAcc.hive.gtc / 32768 - 1 ∧
      iAcc.hive.analysisOf 255 2047 = some 511 ∧
      iAcc.hive.slotStream 255 63 = some 2047) ∧
      ((State.reset.hive.flag (F.ugtCtl_en 255) = false ∨ State.reset.hive.gtc % 32768 ≠ 0 ∨ State.reset.hive.gtc = 0) ∧
      (State.reset.hive.flag (F.ugtCtl_en 255) = false ∨ (State.reset.hive.ugtGet 255).tile = none)) ∧
      (iOn.hive.flag (F.ugtCtl_en 255) = true ∧
      (iOn.hive.ugtGet 255).tile = some iTile ∧
      iOn.hive.gtc ≤ iTile.due ∧
      iOn.hive.get (F.ugtIn_state 255 63) ≠ inPaused ∧
      iOn.hive.get (F.ugtIn_state 255 63) ≠ 0 ∧
      ¬63 ∈ iTile.relearn ∧
      iOn.hive.slotStream 255 63 = some 2047 ∧
      ¬511 ∈ iOn.hive.ugtBands 255 ∧
      iOn.hive.gtc < iTile.due) ∧
      (iForce.hive.flag (F.ugtCtl_en 255) = true ∧
      (iForce.hive.ugtGet 255).tile = some iTileF ∧
      iForce.hive.gtc ≤ iTileF.due ∧
      iForce.hive.get (F.ugtIn_state 255 63) ≠ inPaused ∧
      iForce.hive.get (F.ugtIn_state 255 63) ≠ 0 ∧
      ¬63 ∈ iTileF.relearn ∧
      iForce.hive.slotStream 255 63 = some 2047 ∧
      0 ∈ iForce.hive.ugtBands 255 ∧
      (iForce.hive.get (F.ugtIn_state 255 63) == inLearning ||
              (iTileF.tainted.getD 63 false || iTileF.filling.getD 63 false) ||
            iTileF.force ||
          iForce.hive.flag (F.ugtStat_trk_lost 255)) =
        true) ∧
      (iOn.hive.flag (F.ugtCtl_en 255) = true ∧
      (iOn.hive.ugtGet 255).tile = some iTile ∧
      iOn.hive.gtc ≤ iTile.due ∧
      iOn.hive.get (F.ugtIn_state 255 63) ≠ inPaused ∧
      iOn.hive.get (F.ugtIn_state 255 63) ≠ 0 ∧
      ¬63 ∈ iTile.relearn ∧
      iOn.hive.slotStream 255 63 = some 2047 ∧
      0 ∈ iOn.hive.ugtBands 255 ∧
      (iOn.hive.get (F.ugtIn_state 255 63) == inLearning ||
              (iTile.tainted.getD 63 false || iTile.filling.getD 63 false) ||
            iTile.force ||
          iOn.hive.flag (F.ugtStat_trk_lost 255)) =
        false ∧
      ¬0 ∈ iTile.res ∧
      tileAbove (4 * (iTile.sums.getD 63 []).getD 0 0, iOn.hive.tileLog 2047)
          (Option.map floorFrac ((iOn.hive.ugtSlot 255 63).subs.getD 0 UgtSub.init).floor) iTile.thr =
        true) ∧
      (iOn.hive.flag (F.ugtCtl_en 255) = true ∧
      (iOn.hive.ugtGet 255).tile = some iTile ∧
      iOn.hive.gtc ≤ iTile.due ∧
      iOn.hive.get (F.ugtIn_state 255 63) ≠ inPaused ∧
      iOn.hive.get (F.ugtIn_state 255 63) ≠ 0 ∧
      ¬63 ∈ iTile.relearn ∧
      iOn.hive.slotStream 255 63 = some 2047 ∧
      3 ∈ iOn.hive.ugtBands 255 ∧
      tileAbove (4 * (iTile.sums.getD 63 []).getD 3 0, iOn.hive.tileLog 2047)
          (Option.map floorFrac ((iOn.hive.ugtSlot 255 63).subs.getD 3 UgtSub.init).floor) iTile.thr =
        false ∧
      (iTile.tainted.getD 63 false || iTile.filling.getD 63 false) = false ∧
      ¬3 ∈ iTile.res ∧
      iOn.hive.flag (F.ugtStat_trk_lost 255) = false ∧
      ((iOn.hive.ugtSlot 255 63).subs.getD 3 UgtSub.init).floor = none) ∧
      (iOn.hive.flag (F.ugtCtl_en 255) = true ∧
      (iOn.hive.ugtGet 255).tile = some iTile ∧
      iOn.hive.gtc ≤ iTile.due ∧
      iOn.hive.get (F.ugtIn_state 255 63) ≠ inPaused ∧
      iOn.hive.get (F.ugtIn_state 255 63) ≠ 0 ∧
      ¬63 ∈ iTile.relearn ∧
      iOn.hive.slotStream 255 63 = some 2047 ∧
      1 ∈ iOn.hive.ugtBands 255 ∧
      tileAbove (4 * (iTile.sums.getD 63 []).getD 1 0, iOn.hive.tileLog 2047)
          (Option.map floorFrac ((iOn.hive.ugtSlot 255 63).subs.getD 1 UgtSub.init).floor) iTile.thr =
        false ∧
      (iTile.tainted.getD 63 false || iTile.filling.getD 63 false) = false ∧
      ¬1 ∈ iTile.res ∧
      iOn.hive.flag (F.ugtStat_trk_lost 255) = false ∧
      ((iOn.hive.ugtSlot 255 63).subs.getD 1 UgtSub.init).floor = some (floorPack (1000, 3))) ∧
      (iLate.hive.flag (F.ugtCtl_en 255) = true ∧
      (iLate.hive.ugtGet 255).tile = some iTile ∧
      iTile.due ≤ iLate.hive.gtc ∧
      iLate.hive.get (F.ugtIn_state 255 63) ≠ inPaused ∧
      iLate.hive.get (F.ugtIn_state 255 63) ≠ 0 ∧
      ¬63 ∈ iTile.relearn ∧
      iLate.hive.slotStream 255 63 = some 2047) := by
  (repeat' apply And.intro) <;> first
    | decide | rfl | (intro _; rfl) | exact .inl ⟨rfl, rfl⟩ | exact .inl rfl | exact ⟨0, by decide⟩

/-- States and operands that meet the hypotheses of UgtLearning, clause by clause. -/
theorem meets_UgtLearning :
    (goodWrite (wq (R.ugtIn 255 63) 4) (R.ugtIn 255 63) false = true ∧
      (State.reset.hive.get (F.ugtIn_state 255 63) ≠ inLearning ∨
        (State.reset.hive.ugtSlot 255 63).cnt < max 1 (State.reset.hive.get (F.ugtLearn_learn_t 255))) ∧
      ((State.reset.hive.ugtSlot 255 63).subs.getD 0 UgtSub.init).above <
        State.reset.hive.get (F.ugtLearn_stuck_s 255) * 30000 ∧
      (State.reset.hive.flag (F.ugtCtl_en 255) = false ∨ State.reset.hive.gtc % 33554432 ≠ 0)) ∧
      (iLrn.hive.get (F.ugtIn_state 255 63) = inLearning ∧
      max 1 (iLrn.hive.get (F.ugtLearn_learn_t 255)) ≤ (iLrn.hive.ugtSlot 255 63).cnt) ∧
      ((iStk 2).hive.get (F.ugtLearn_stuck_s 255) ≠ 0 ∧
      (((iStk 2).hive.ugtSlot 255 63).subs.getD 0 UgtSub.init).stuck = false ∧
      (iStk 2).hive.get (F.ugtLearn_stuck_s 255) * 30000 ≤
        (((iStk 2).hive.ugtSlot 255 63).subs.getD 0 UgtSub.init).above ∧
      (iStk 2).hive.get (F.ugtIn_stuck 255 63) < 512 ∧
      (iStk 2).hive.get (F.ugtIn_stuck 255 63) = 0) ∧
      (iRep0.hive.flag (F.ugtCtl_en 255) = true ∧
      iRep0.hive.gtc % 33554432 = 0 ∧
      ((iRep0.hive.ugtGet 255).act = 0 ∨ (iRep0.hive.ugtGet 255).tiles * (iRep0.hive.ugtBands 255).length = 0)) ∧
      (iRep1.hive.flag (F.ugtCtl_en 255) = true ∧
      iRep1.hive.gtc % 33554432 = 0 ∧
      (iRep1.hive.ugtGet 255).act ≠ 0 ∧
      (iRep1.hive.ugtGet 255).tiles * (iRep1.hive.ugtBands 255).length ≠ 0 ∧
      roundEvenN (256 * (iRep1.hive.ugtGet 255).ones) ((iRep1.hive.ugtGet 255).tiles * (iRep1.hive.ugtBands 255).length) <
        65536 ∧
      (iRep1.hive.ugtGet 255).ones ≠ 0 ∧
      dbPower ((iRep1.hive.ugtGet 255).sumF.fst * 2 ^ (iRep1.hive.ugtGet 255).sumEF.snd)
          ((iRep1.hive.ugtGet 255).sumEF.fst * 2 ^ (iRep1.hive.ugtGet 255).sumF.snd) =
        some 2763) ∧
      (iRepC.hive.flag (F.ugtCtl_en 255) = true ∧
      iRepC.hive.gtc % 33554432 = 0 ∧
      (iRepC.hive.ugtGet 255).act ≠ 0 ∧
      (iRepC.hive.ugtGet 255).tiles * (iRepC.hive.ugtBands 255).length ≠ 0 ∧
      (iRepC.hive.ugtGet 255).ones = 0) := by decide

/-! ## Loops and set-point pins -/

def jw (v : Int) : Nat := (rwcWord (v % 65536).toNat).toNat
def jS (l : List (RF × Nat)) (st : Nat) (f : Hive → Hive) : State := at' (fun h =>
    let h := runs ([(F.steValid_valid 2047, 1), (F.gceConCfg_n 2047, 2), (F.steCfg_loop0 2047, 2047),
      (F.steCfg_nloops 2047, 1), (F.gceLoopCfg_type 2047, 3), (F.gceLoopCfg_stream 2047, 2047),
      (F.gceLoopState_state 2047, lpClosed), (F.npmStat_learned 2047, 1), (F.npmFloor_floor 2047, 300),
      (F.npmFloor_ref 2047, 0), (F.npmStat_ceiling 2047, 0x7FFF), (⟨R.gceSetp 2047, 0, 32⟩, jw 256),
      (⟨R.gceKp 2047, 0, 32⟩, 256), (⟨R.gceKi 2047, 0, 32⟩, 64), (⟨R.gceGExact 2047, 0, 32⟩, 100 * 65536),
      (⟨R.gceSlewUp 2047, 0, 32⟩, jw 256), (⟨R.gceSlewDn 2047, 0, 32⟩, jw 256), (⟨R.gceLimHi 2047, 0, 32⟩,
      jw 2000), (⟨R.gceLimLo 2047, 0, 32⟩, jw (-2000))] ++ l) h;
    f { ((h.setSt 2047 st).loopSet 2047 ⟨100 * 2 ^ 24 / 256, 100, true, true, 0, none, 0, 0, 0⟩) with
    streams := [2047], gtc := 2048, wcopy := [(0, rwcWord 0), (1, rwcWord 0)] })
def jLive : State := jS [] stLive id
def jUp : State := jS [(F.steCfg_nloops 2047, 0)] stRampUp id
def jDn : State := jS [] stRampDown id
def jIdle : State := jS [] stIdle id
def jOdd : State := jS [] stLive (fun h => { h with gtc := 2047 })
def jNot : State := jS [] stLive (fun h => h.loopSet 2047 { h.loopGet 2047 with ready := false })
def jCmd : State := jS [] stLive (fun h => h.loopSet 2047 { h.loopGet 2047 with cmd := 1, cmdAt := 5 })
def jA : Entrant := ⟨0, 5, none⟩
def jB : Entrant := ⟨1, 5, some 3⟩
def jAB : List Entrant := [jA, jB]
def jT (ty st : Nat) (l : List (RF × Nat)) (f : Hive → Hive) : State := jS ([(F.gceLoopCfg_type 2047, ty),
    (F.gceLoopState_state 2047, st)] ++ l) stLive f
def jE (ty : Nat) : State := jT ty 0 [] (fun h => { h with
    envT := [(1, 1)], wcopy := [(0, rwcWord 64936), (1, rwcWord 600), (2, rwcWord 500)] })
def jSt : State := jT 1 lpClosed [] (fun h => h.loopSet 2047 { h.loopGet 2047 with quiet := 2 ^ 40 })
def jC (v : Nat) : RegWrite := wq (R.gceLoopCtl 2047) v
def jP (v : Nat) : RegWrite := wq (R.gceSetp 2047) (rwcWord v).toNat
def jPin : State := jT 5 lpClosed [(F.gceLoopCfg_pin 2047, 3)] (fun h => { h with
    envT := [(1, 1)], wcopy := [(0, rwcWord 64936), (1, rwcWord 600), (2, rwcWord 500)] })
def jK (l : List (RF × Nat)) (c : PinSt) : State := jT 5 lpClosed ([(F.gceLoopCfg_pin 2047, 3), (F.gceSetpCtl_en 3,
    1), (F.gceSetpCtl_avg 3, 8), (⟨R.gceSetpLo 3, 0, 32⟩, jw (-100)), (⟨R.gceSetpHi 3, 0, 32⟩,
    jw 100)] ++ l) (fun h => h.pinSet 3 c)
def jPwm : State := jK [] ⟨65535, 3, [], none⟩
def jPwmH : State := jK [(F.gceSetpVal_held 3, 1), (F.gceSetpVal_raw 3, 4096)] ⟨65535, 2, [], none⟩
def jAna : State := jK [(F.gceSetpCtl_mode 3, 1)] ⟨65535, 3, [4095, 0], some 60⟩
def jAnaH : State := jK [(F.gceSetpCtl_mode 3, 1), (F.gceSetpVal_held 3, 1), (F.gceSetpVal_raw 3, 4095)] ⟨65535, 3,
    [4095, 0], none⟩
def jRail : State := jK [(F.gceSetpCtl_mode 3, 1)] ⟨65535, 3, [4095, 4095], none⟩
def jFlt : State := { jPwm with hive := (jPwmH.hive.raiseSC 0x07 0x02 0x23 2 0) }

/-- States and operands that meet the hypotheses of LoopBoundary, clause by clause. -/
theorem meets_LoopBoundary :
    ((State.reset.hive.get (F.gceConCfg_n 2047) * 1024 = 0 ∨
        State.reset.hive.gtc % (State.reset.hive.get (F.gceConCfg_n 2047) * 1024) ≠ 0 ∨
          State.reset.hive.isStream 2047 = false) ∧
      (List.Pairwise (fun (a c : Entrant) => a.slot < c.slot) jAB) ∧
      winnerOf jAB = some jA ∧
      jA ∈ jAB ∧
      jA.u = jA.u) ∧
      (jLive.hive.get (F.gceConCfg_n 2047) * 1024 ≠ 0 ∧
      jLive.hive.gtc % (jLive.hive.get (F.gceConCfg_n 2047) * 1024) = 0 ∧
      jLive.hive.isStream 2047 = true ∧
      jLive.hive.get (F.steCfg_loop0 2047) + jLive.hive.get (F.steCfg_nloops 2047) ≤ 2048 ∧
      6553600 = min (sext 32 (BitVec.toNat (jLive.hive.rd (R.gceGExact 2047)))) (jLive.hive.ceilOf 2047 * 65536) ∧
      34953 = slewStep (jLive.hive.gceVal (R.gceSlewUp 2047)) (jLive.hive.get (F.gceConCfg_n 2047)) ∧
      34953 = slewStep (jLive.hive.gceVal (R.gceSlewDn 2047)) (jLive.hive.get (F.gceConCfg_n 2047)) ∧
      (rwcOk (jLive.hive.rd (R.gceSlewUp 2047)) && rwcOk (jLive.hive.rd (R.gceSlewDn 2047)) &&
                rwcOk (jLive.hive.rd (R.gceLimHi 2047)) &&
              rwcOk (jLive.hive.rd (R.gceLimLo 2047)) &&
            rwcOk (jLive.hive.wc (jLive.hive.tenant 2047) 0) &&
          rwcOk (jLive.hive.wc (jLive.hive.tenant 2047) 1)) =
        true ∧
      (jLive.hive.st 2047 = stRampUp ∨ jLive.hive.st 2047 = stLive) ∧
      jLive.hive.get (F.steCfg_nloops 2047) = 1 ∧
      jLive.hive.get (F.steCfg_loop0 2047) = 2047 ∧
      jLive.hive.get (F.gceLoopState_state 2047) = lpClosed ∧
      (jLive.hive.loopGet 2047).cmd = 0 ∧
      (jLive.hive.loopGet 2047).cmdPrev = 0 ∧
      isPi (jLive.hive.get (F.gceLoopCfg_type 2047)) = true ∧
      jLive.hive.flag (F.gceLoopState_dormant 2047) = false ∧
      rwcOk (jLive.hive.rd (R.gceSetp 2047)) = true ∧
      jLive.hive.loopReading 2047 2047 (roundEven 6553600 65536) = some 300 ∧
      (jLive.hive.loopGet 2047).ready = true) ∧
      (jIdle.hive.get (F.gceConCfg_n 2047) * 1024 ≠ 0 ∧
      jIdle.hive.gtc % (jIdle.hive.get (F.gceConCfg_n 2047) * 1024) = 0 ∧
      jIdle.hive.isStream 2047 = true ∧
      jIdle.hive.get (F.steCfg_loop0 2047) + jIdle.hive.get (F.steCfg_nloops 2047) ≤ 2048 ∧
      6553600 = min (sext 32 (BitVec.toNat (jIdle.hive.rd (R.gceGExact 2047)))) (jIdle.hive.ceilOf 2047 * 65536) ∧
      34953 = slewStep (jIdle.hive.gceVal (R.gceSlewUp 2047)) (jIdle.hive.get (F.gceConCfg_n 2047)) ∧
      34953 = slewStep (jIdle.hive.gceVal (R.gceSlewDn 2047)) (jIdle.hive.get (F.gceConCfg_n 2047)) ∧
      (rwcOk (jIdle.hive.rd (R.gceSlewUp 2047)) && rwcOk (jIdle.hive.rd (R.gceSlewDn 2047)) &&
                rwcOk (jIdle.hive.rd (R.gceLimHi 2047)) &&
              rwcOk (jIdle.hive.rd (R.gceLimLo 2047)) &&
            rwcOk (jIdle.hive.wc (jIdle.hive.tenant 2047) 0) &&
          rwcOk (jIdle.hive.wc (jIdle.hive.tenant 2047) 1)) =
        true ∧
      jIdle.hive.npmRuns 2047 = false) ∧
      (jDn.hive.get (F.gceConCfg_n 2047) * 1024 ≠ 0 ∧
      jDn.hive.gtc % (jDn.hive.get (F.gceConCfg_n 2047) * 1024) = 0 ∧
      jDn.hive.isStream 2047 = true ∧
      jDn.hive.get (F.steCfg_loop0 2047) + jDn.hive.get (F.steCfg_nloops 2047) ≤ 2048 ∧
      6553600 = min (sext 32 (BitVec.toNat (jDn.hive.rd (R.gceGExact 2047)))) (jDn.hive.ceilOf 2047 * 65536) ∧
      34953 = slewStep (jDn.hive.gceVal (R.gceSlewUp 2047)) (jDn.hive.get (F.gceConCfg_n 2047)) ∧
      34953 = slewStep (jDn.hive.gceVal (R.gceSlewDn 2047)) (jDn.hive.get (F.gceConCfg_n 2047)) ∧
      (rwcOk (jDn.hive.rd (R.gceSlewUp 2047)) && rwcOk (jDn.hive.rd (R.gceSlewDn 2047)) &&
                rwcOk (jDn.hive.rd (R.gceLimHi 2047)) &&
              rwcOk (jDn.hive.rd (R.gceLimLo 2047)) &&
            rwcOk (jDn.hive.wc (jDn.hive.tenant 2047) 0) &&
          rwcOk (jDn.hive.wc (jDn.hive.tenant 2047) 1)) =
        true ∧
      jDn.hive.st 2047 = stRampDown) ∧
      (jUp.hive.get (F.gceConCfg_n 2047) * 1024 ≠ 0 ∧
      jUp.hive.gtc % (jUp.hive.get (F.gceConCfg_n 2047) * 1024) = 0 ∧
      jUp.hive.isStream 2047 = true ∧
      jUp.hive.get (F.steCfg_loop0 2047) + jUp.hive.get (F.steCfg_nloops 2047) ≤ 2048 ∧
      6553600 = min (sext 32 (BitVec.toNat (jUp.hive.rd (R.gceGExact 2047)))) (jUp.hive.ceilOf 2047 * 65536) ∧
      34953 = slewStep (jUp.hive.gceVal (R.gceSlewUp 2047)) (jUp.hive.get (F.gceConCfg_n 2047)) ∧
      34953 = slewStep (jUp.hive.gceVal (R.gceSlewDn 2047)) (jUp.hive.get (F.gceConCfg_n 2047)) ∧
      (rwcOk (jUp.hive.rd (R.gceSlewUp 2047)) && rwcOk (jUp.hive.rd (R.gceSlewDn 2047)) &&
                rwcOk (jUp.hive.rd (R.gceLimHi 2047)) &&
              rwcOk (jUp.hive.rd (R.gceLimLo 2047)) &&
            rwcOk (jUp.hive.wc (jUp.hive.tenant 2047) 0) &&
          rwcOk (jUp.hive.wc (jUp.hive.tenant 2047) 1)) =
        true ∧
      (jUp.hive.st 2047 = stRampUp ∨ jUp.hive.st 2047 = stLive) ∧
      jUp.hive.get (F.steCfg_nloops 2047) = 0) ∧
      (jNot.hive.get (F.gceConCfg_n 2047) * 1024 ≠ 0 ∧
      jNot.hive.gtc % (jNot.hive.get (F.gceConCfg_n 2047) * 1024) = 0 ∧
      jNot.hive.isStream 2047 = true ∧
      jNot.hive.get (F.steCfg_loop0 2047) + jNot.hive.get (F.steCfg_nloops 2047) ≤ 2048 ∧
      6553600 = min (sext 32 (BitVec.toNat (jNot.hive.rd (R.gceGExact 2047)))) (jNot.hive.ceilOf 2047 * 65536) ∧
      34953 = slewStep (jNot.hive.gceVal (R.gceSlewUp 2047)) (jNot.hive.get (F.gceConCfg_n 2047)) ∧
      34953 = slewStep (jNot.hive.gceVal (R.gceSlewDn 2047)) (jNot.hive.get (F.gceConCfg_n 2047)) ∧
      (rwcOk (jNot.hive.rd (R.gceSlewUp 2047)) && rwcOk (jNot.hive.rd (R.gceSlewDn 2047)) &&
                rwcOk (jNot.hive.rd (R.gceLimHi 2047)) &&
              rwcOk (jNot.hive.rd (R.gceLimLo 2047)) &&
            rwcOk (jNot.hive.wc (jNot.hive.tenant 2047) 0) &&
          rwcOk (jNot.hive.wc (jNot.hive.tenant 2047) 1)) =
        true ∧
      (jNot.hive.st 2047 = stRampUp ∨ jNot.hive.st 2047 = stLive) ∧
      jNot.hive.get (F.steCfg_nloops 2047) = 1 ∧
      jNot.hive.get (F.steCfg_loop0 2047) = 2047 ∧
      jNot.hive.get (F.gceLoopState_state 2047) = lpClosed ∧
      (jNot.hive.loopGet 2047).cmd = 0 ∧
      (jNot.hive.loopGet 2047).cmdPrev = 0 ∧
      isPi (jNot.hive.get (F.gceLoopCfg_type 2047)) = true ∧
      jNot.hive.flag (F.gceLoopState_dormant 2047) = false ∧
      rwcOk (jNot.hive.rd (R.gceSetp 2047)) = true ∧
      jNot.hive.loopReading 2047 2047 (roundEven 6553600 65536) = some 300 ∧
      (jNot.hive.loopGet 2047).ready = false) ∧
      (jCmd.hive.get (F.gceConCfg_n 2047) * 1024 ≠ 0 ∧
      jCmd.hive.gtc % (jCmd.hive.get (F.gceConCfg_n 2047) * 1024) = 0 ∧
      jCmd.hive.isStream 2047 = true ∧
      jCmd.hive.get (F.steCfg_loop0 2047) + jCmd.hive.get (F.steCfg_nloops 2047) ≤ 2048 ∧
      6553600 = min (sext 32 (BitVec.toNat (jCmd.hive.rd (R.gceGExact 2047)))) (jCmd.hive.ceilOf 2047 * 65536) ∧
      34953 = slewStep (jCmd.hive.gceVal (R.gceSlewUp 2047)) (jCmd.hive.get (F.gceConCfg_n 2047)) ∧
      34953 = slewStep (jCmd.hive.gceVal (R.gceSlewDn 2047)) (jCmd.hive.get (F.gceConCfg_n 2047)) ∧
      (rwcOk (jCmd.hive.rd (R.gceSlewUp 2047)) && rwcOk (jCmd.hive.rd (R.gceSlewDn 2047)) &&
                rwcOk (jCmd.hive.rd (R.gceLimHi 2047)) &&
              rwcOk (jCmd.hive.rd (R.gceLimLo 2047)) &&
            rwcOk (jCmd.hive.wc (jCmd.hive.tenant 2047) 0) &&
          rwcOk (jCmd.hive.wc (jCmd.hive.tenant 2047) 1)) =
        true ∧
      (jCmd.hive.st 2047 = stRampUp ∨ jCmd.hive.st 2047 = stLive) ∧
      2047 ∈ jCmd.hive.slotsOf 2047 ∧
      (jCmd.hive.loopGet 2047).cmd = 1 ∧
      (jCmd.hive.loopGet 2047).cmdAt ≠ jCmd.hive.gtc) := by
  (repeat' apply And.intro) <;> first
    | decide | rfl | (intro _; rfl) | exact .inl ⟨rfl, rfl⟩ | exact .inl rfl | exact ⟨0, by decide⟩

/-- States and operands that meet the hypotheses of LoopWrites, clause by clause. -/
theorem meets_LoopWrites :
    (goodWrite (jC 0) (R.gceLoopCtl 2047) false = true ∧
      Instr.loopOpen (jC 0) ∈
        [Instr.loopOpen (jC 0), Instr.loopClose (jC 0), Instr.loopHold (jC 0), Instr.loopRelease (jC 0)] ∧
      (State.reset.hive.get (F.gceLoopCfg_type 2047) = 0 ∨
        BitVec.toNat (jC 0).value % 8 = 0 ∨ 4 < BitVec.toNat (jC 0).value % 8) ∧
      (isPi (State.reset.hive.get (F.gceLoopCfg_type 2047)) = false ∨
        State.reset.hive.get (F.gceLoopState_state 2047) ≠ lpClosed ∨
          (State.reset.hive.loopGet 2047).quiet + 0 < 100 * Config.msTicks)) ∧
      (goodWrite (jC 2) (R.gceLoopCtl 2047) false = true ∧
      Instr.loopOpen (jC 2) ∈
        [Instr.loopOpen (jC 2), Instr.loopClose (jC 2), Instr.loopHold (jC 2), Instr.loopRelease (jC 2)] ∧
      (jT 3 lpClosed [] id).hive.get (F.gceLoopCfg_type 2047) ≠ 0 ∧
      BitVec.toNat (jC 2).value % 8 ≠ 0 ∧
      BitVec.toNat (jC 2).value % 8 ≤ 4 ∧
      ((jT 3 lpClosed [] id).hive.get (F.gceLoopState_state 2047) == lpOpen ||
          (jT 3 lpClosed [] id).hive.get (F.gceLoopState_state 2047) == lpHeld) =
        false) ∧
      (goodWrite (jC 1) (R.gceLoopCtl 2047) false = true ∧
      Instr.loopOpen (jC 1) ∈
        [Instr.loopOpen (jC 1), Instr.loopClose (jC 1), Instr.loopHold (jC 1), Instr.loopRelease (jC 1)] ∧
      (jT 3 lpClosed [] id).hive.get (F.gceLoopCfg_type 2047) ≠ 0 ∧
      BitVec.toNat (jC 1).value % 8 ≠ 0 ∧
      BitVec.toNat (jC 1).value % 8 ≤ 4 ∧
      ((jT 3 lpClosed [] id).hive.get (F.gceLoopState_state 2047) == lpClosed ||
          (jT 3 lpClosed [] id).hive.get (F.gceLoopState_state 2047) == lpHeld) =
        true) ∧
      (R.gceKp 2047 ∈ [R.gceKp 2047, R.gceKi 2047] ∧
      goodWrite (wq (R.gceKp 2047) 65535) (R.gceKp 2047) false = true ∧
      State.reset.hive.get (F.gceLoopCfg_type 2047) = 0) ∧
      (R.gceKp 2047 ∈ [R.gceKp 2047, R.gceKi 2047] ∧
      goodWrite (wq (R.gceKp 2047) 65535) (R.gceKp 2047) false = true ∧
      (jT 3 lpClosed [] id).hive.get (F.gceLoopCfg_type 2047) ≠ 0 ∧
      (jT 3 lpClosed [] id).hive.get (F.gceLoopState_state 2047) ≠ lpOpen) ∧
      (R.gceKp 2047 ∈ [R.gceKp 2047, R.gceKi 2047] ∧
      goodWrite (wq (R.gceKp 2047) 65535) (R.gceKp 2047) false = true ∧
      (jT 3 lpOpen [] id).hive.get (F.gceLoopCfg_type 2047) ≠ 0 ∧
      (jT 3 lpOpen [] id).hive.get (F.gceLoopState_state 2047) = lpOpen) ∧
      (goodWrite (jP 501) (R.gceSetp 2047) true = true ∧
      (jE 1).hive.get (F.gceLoopCfg_type 2047) = 1 ∧
      (jE 1).hive.envUsed ((jE 1).hive.tenant ((jE 1).hive.get (F.gceLoopCfg_stream 2047))) = true ∧
      (jE 1).hive.wcS ((jE 1).hive.tenant ((jE 1).hive.get (F.gceLoopCfg_stream 2047))) 2 <
        sext 16 (BitVec.toNat (jP 501).value)) ∧
      (goodWrite (jP 10240) (R.gceSetp 2047) true = true ∧
      (jE 6).hive.get (F.gceLoopCfg_type 2047) = 6 ∧
      ¬((jE 6).hive.gminOf ((jE 6).hive.get (F.gceLoopCfg_stream 2047)) ≤ sext 16 (BitVec.toNat (jP 10240).value) ∧
          sext 16 (BitVec.toNat (jP 10240).value) ≤ (jE 6).hive.gmaxOf ((jE 6).hive.get (F.gceLoopCfg_stream 2047)))) ∧
      (goodWrite (jP 0) (R.gceSetp 2047) true = true ∧
      (State.reset.hive.get (F.gceLoopCfg_type 2047) = 2 ∧
          ¬(0 ≤ sext 16 (BitVec.toNat (jP 0).value) ∧ sext 16 (BitVec.toNat (jP 0).value) ≤ 10240) ∨
        State.reset.hive.get (F.gceLoopCfg_type 2047) = 3 ∧
            ¬(128 ≤ sext 16 (BitVec.toNat (jP 0).value) ∧ sext 16 (BitVec.toNat (jP 0).value) ≤ 5120) ∨
          State.reset.hive.get (F.gceLoopCfg_type 2047) = 4 ∧
              ¬(15360 ≤ sext 16 (BitVec.toNat (jP 0).value) ∧ sext 16 (BitVec.toNat (jP 0).value) ≤ 32000) ∨
            State.reset.hive.get (F.gceLoopCfg_type 2047) = 0 ∨
              State.reset.hive.get (F.gceLoopCfg_type 2047) = 5 ∨ State.reset.hive.get (F.gceLoopCfg_type 2047) = 7)) ∧
      (goodWrite (jP 501) (R.gceSetp 2047) true = true ∧
      ((jT 3 lpClosed [] id).hive.get (F.gceLoopCfg_type 2047) = 1 ∧
          ((jT 3 lpClosed [] id).hive.envUsed
                ((jT 3 lpClosed [] id).hive.tenant ((jT 3 lpClosed [] id).hive.get (F.gceLoopCfg_stream 2047))) =
              false ∨
            sext 16 (BitVec.toNat (jP 501).value) ≤
              (jT 3 lpClosed [] id).hive.wcS
                ((jT 3 lpClosed [] id).hive.tenant ((jT 3 lpClosed [] id).hive.get (F.gceLoopCfg_stream 2047))) 2) ∨
        (jT 3 lpClosed [] id).hive.get (F.gceLoopCfg_type 2047) = 2 ∧
            0 ≤ sext 16 (BitVec.toNat (jP 501).value) ∧ sext 16 (BitVec.toNat (jP 501).value) ≤ 10240 ∨
          (jT 3 lpClosed [] id).hive.get (F.gceLoopCfg_type 2047) = 3 ∧
              128 ≤ sext 16 (BitVec.toNat (jP 501).value) ∧ sext 16 (BitVec.toNat (jP 501).value) ≤ 5120 ∨
            (jT 3 lpClosed [] id).hive.get (F.gceLoopCfg_type 2047) = 4 ∧
                15360 ≤ sext 16 (BitVec.toNat (jP 501).value) ∧ sext 16 (BitVec.toNat (jP 501).value) ≤ 32000 ∨
              (jT 3 lpClosed [] id).hive.get (F.gceLoopCfg_type 2047) = 6 ∧
                (jT 3 lpClosed [] id).hive.gminOf ((jT 3 lpClosed [] id).hive.get (F.gceLoopCfg_stream 2047)) ≤
                    sext 16 (BitVec.toNat (jP 501).value) ∧
                  sext 16 (BitVec.toNat (jP 501).value) ≤
                    (jT 3 lpClosed [] id).hive.gmaxOf ((jT 3 lpClosed [] id).hive.get (F.gceLoopCfg_stream 2047)))) ∧
      ((goodWrite (wq (R.gceLimHi 2047) (BitVec.toNat (rwcWord 32768)))
          (if true = true then R.gceLimHi 2047 else R.gceLimLo 2047) true =
        true) ∧
      (¬if true = true then
          (jT 3 lpClosed [] id).hive.rwcS (R.gceLimLo 2047) ≤
            sext 16 (BitVec.toNat (wq (R.gceLimHi 2047) (BitVec.toNat (rwcWord 32768))).value)
        else
          sext 16 (BitVec.toNat (wq (R.gceLimHi 2047) (BitVec.toNat (rwcWord 32768))).value) ≤
            (jT 3 lpClosed [] id).hive.rwcS (R.gceLimHi 2047)) ∧
      ((sext 16 (BitVec.toNat (wq (R.gceLimHi 2047) (BitVec.toNat (rwcWord 32768))).value) =
          if true = true then 32767 else -32768) ∨
        (jT 3 lpClosed [] id).hive.gminOf 2047 ≤
            sext 16 (BitVec.toNat (wq (R.gceLimHi 2047) (BitVec.toNat (rwcWord 32768))).value) ∧
          sext 16 (BitVec.toNat (wq (R.gceLimHi 2047) (BitVec.toNat (rwcWord 32768))).value) ≤
            (jT 3 lpClosed [] id).hive.gmaxOf 2047)) ∧
      ((goodWrite (wq (R.gceLimHi 2047) (BitVec.toNat (rwcWord 601)))
          (if true = true then R.gceLimHi 2047 else R.gceLimLo 2047) true =
        true) ∧
      (if true = true then
        (jE 1).hive.rwcS (R.gceLimLo 2047) ≤
          sext 16 (BitVec.toNat (wq (R.gceLimHi 2047) (BitVec.toNat (rwcWord 601))).value)
      else
        sext 16 (BitVec.toNat (wq (R.gceLimHi 2047) (BitVec.toNat (rwcWord 601))).value) ≤
          (jE 1).hive.rwcS (R.gceLimHi 2047)) ∧
      (¬((sext 16 (BitVec.toNat (wq (R.gceLimHi 2047) (BitVec.toNat (rwcWord 601))).value) =
            if true = true then 32767 else -32768) ∨
          (jE 1).hive.gminOf 2047 ≤ sext 16 (BitVec.toNat (wq (R.gceLimHi 2047) (BitVec.toNat (rwcWord 601))).value) ∧
            sext 16 (BitVec.toNat (wq (R.gceLimHi 2047) (BitVec.toNat (rwcWord 601))).value) ≤
              (jE 1).hive.gmaxOf 2047))) ∧
      ((goodWrite (wq (R.gceLimHi 2047) (BitVec.toNat (rwcWord 600)))
          (if true = true then R.gceLimHi 2047 else R.gceLimLo 2047) true =
        true) ∧
      (if true = true then
        State.reset.hive.rwcS (R.gceLimLo 2047) ≤
          sext 16 (BitVec.toNat (wq (R.gceLimHi 2047) (BitVec.toNat (rwcWord 600))).value)
      else
        sext 16 (BitVec.toNat (wq (R.gceLimHi 2047) (BitVec.toNat (rwcWord 600))).value) ≤
          State.reset.hive.rwcS (R.gceLimHi 2047)) ∧
      ((sext 16 (BitVec.toNat (wq (R.gceLimHi 2047) (BitVec.toNat (rwcWord 600))).value) =
          if true = true then 32767 else -32768) ∨
        State.reset.hive.gminOf 2047 ≤ sext 16 (BitVec.toNat (wq (R.gceLimHi 2047) (BitVec.toNat (rwcWord 600))).value) ∧
          sext 16 (BitVec.toNat (wq (R.gceLimHi 2047) (BitVec.toNat (rwcWord 600))).value) ≤
            State.reset.hive.gmaxOf 2047)) ∧
      (R.gceSlewUp 2047 ∈ [R.gceSlewUp 2047, R.gceSlewDn 2047] ∧
      goodWrite (wq (R.gceSlewUp 2047) (BitVec.toNat (rwcWord 0))) (R.gceSlewUp 2047) true = true ∧
      BitVec.toNat (wq (R.gceSlewUp 2047) (BitVec.toNat (rwcWord 0))).value % 65536 = 0) ∧
      (R.gceSlewUp 2047 ∈ [R.gceSlewUp 2047, R.gceSlewDn 2047] ∧
      goodWrite (wq (R.gceSlewUp 2047) (BitVec.toNat (rwcWord 1))) (R.gceSlewUp 2047) true = true ∧
      BitVec.toNat (wq (R.gceSlewUp 2047) (BitVec.toNat (rwcWord 1))).value % 65536 ≠ 0) ∧
      (R.gceSetpLo 3 ∈ [R.gceSetpLo 3, R.gceSetpHi 3] ∧
      goodWrite (wq (R.gceSetpLo 3) (BitVec.toNat (rwcWord 600))) (R.gceSetpLo 3) true = true ∧
      (∀ (m : Nat),
        m ∈ State.reset.hive.pinStreams 3 →
          State.reset.hive.gminOf m ≤ sext 16 (BitVec.toNat (wq (R.gceSetpLo 3) (BitVec.toNat (rwcWord 600))).value) ∧
            sext 16 (BitVec.toNat (wq (R.gceSetpLo 3) (BitVec.toNat (rwcWord 600))).value) ≤ State.reset.hive.gmaxOf m)) ∧
      (R.gceSetpLo 3 ∈ [R.gceSetpLo 3, R.gceSetpHi 3] ∧
      goodWrite (wq (R.gceSetpLo 3) (BitVec.toNat (rwcWord 601))) (R.gceSetpLo 3) true = true ∧
      ¬∀ (m : Nat),
          m ∈ jPin.hive.pinStreams 3 →
            jPin.hive.gminOf m ≤ sext 16 (BitVec.toNat (wq (R.gceSetpLo 3) (BitVec.toNat (rwcWord 601))).value) ∧
              sext 16 (BitVec.toNat (wq (R.gceSetpLo 3) (BitVec.toNat (rwcWord 601))).value) ≤ jPin.hive.gmaxOf m) ∧
      (isPi (jSt.hive.get (F.gceLoopCfg_type 2047)) = true ∧
      jSt.hive.get (F.gceLoopState_state 2047) = lpClosed ∧
      (jSt.hive.st (jSt.hive.get (F.gceLoopCfg_stream 2047)) = stRampUp ∨
        jSt.hive.st (jSt.hive.get (F.gceLoopCfg_stream 2047)) = stLive) ∧
      jSt.hive.flag (F.gceLoopState_stale 2047) = false ∧
      jSt.hive.flag (F.gceLoopState_dormant 2047) = false ∧
      jSt.hive.heldBySleep (jSt.hive.get (F.gceLoopCfg_stream 2047)) = false ∧
      100 * Config.msTicks ≤ (jSt.hive.loopGet 2047).quiet + 0) := by
  (repeat' apply And.intro) <;> first
    | decide | rfl | (intro _; rfl) | exact .inl ⟨rfl, rfl⟩ | exact .inl rfl | exact ⟨0, by decide⟩

/-- States and operands that meet the hypotheses of SetpointPins, clause by clause. -/
theorem meets_SetpointPins :
    (rwcOk (State.reset.hive.rd (R.gceSetpLo 3)) = true ∧
      rwcOk (State.reset.hive.rd (R.gceSetpHi 3)) = true ∧
      0 ≤ 9831 ∧
      (State.reset.hive.flag (F.gceSetpCtl_en 3) = false ∨ State.reset.hive.flag (F.gceSetpCtl_mode 3) = true) ∧
      (∀ (c : Nat), c ∈ (State.reset.hive.pinGet 3).conv → c ≤ 4095) ∧
      (State.reset.hive.flag (F.gceSetpCtl_en 3) = false ∨ State.reset.hive.flag (F.gceSetpCtl_mode 3) = false) ∧
      (State.reset.hive.flag (F.gceSetpCtl_en 3) = false ∨
        State.reset.hive.flag (F.gceSetpVal_held 3) = true ∨
          State.reset.hive.flag (F.gceSetpCtl_mode 3) = true ∧ (State.reset.hive.pinGet 3).before = none) ∧
      State.reset.hive.flag (F.gceSetpVal_held 3) = false) ∧
      (rwcOk (jPwm.hive.rd (R.gceSetpLo 3)) = true ∧
      rwcOk (jPwm.hive.rd (R.gceSetpHi 3)) = true ∧
      0 ≤ 9831 ∧
      jPwm.hive.flag (F.gceSetpCtl_en 3) = true ∧
      jPwm.hive.flag (F.gceSetpCtl_mode 3) = false ∧
      98304 ≤ 10 * 9831 ∧
      9831 ≤ 983040 ∧
      jPwm.hive.flag (F.gceSetpVal_held 3) = false ∧
      (jPwm.hive.flag (F.gceSetpCtl_mode 3) = false ∨ ∃ v, (jPwm.hive.pinGet 3).before = some v ∧ v < 65536)) ∧
      (rwcOk (jPwmH.hive.rd (R.gceSetpLo 3)) = true ∧
      rwcOk (jPwmH.hive.rd (R.gceSetpHi 3)) = true ∧
      0 ≤ 9831 ∧
      jPwmH.hive.flag (F.gceSetpCtl_en 3) = true ∧
      jPwmH.hive.flag (F.gceSetpCtl_mode 3) = false ∧
      98304 ≤ 10 * 9831 ∧
      9831 ≤ 983040 ∧
      jPwmH.hive.flag (F.gceSetpVal_held 3) = true ∧
      (jPwmH.hive.get (F.gceSetpVal_raw 3) ≤ if jPwmH.hive.flag (F.gceSetpCtl_mode 3) = true then 4095 else 4096) ∧
      (if jPwmH.hive.flag (F.gceSetpCtl_mode 3) = true then
        (jPwmH.hive.pinGet 3).before = none ∧ (jPwmH.hive.pinGet 3).conv ≠ []
      else 2 ≤ (jPwmH.hive.pinGet 3).run)) ∧
      (rwcOk (jPwm.hive.rd (R.gceSetpLo 3)) = true ∧
      rwcOk (jPwm.hive.rd (R.gceSetpHi 3)) = true ∧
      0 ≤ 983041 ∧
      jPwm.hive.flag (F.gceSetpCtl_en 3) = true ∧
      jPwm.hive.flag (F.gceSetpCtl_mode 3) = false ∧
      (10 * 983041 < 98304 ∨ 983040 < 983041)) ∧
      (rwcOk (jAna.hive.rd (R.gceSetpLo 3)) = true ∧
      rwcOk (jAna.hive.rd (R.gceSetpHi 3)) = true ∧
      (∀ (c : Nat), c ∈ (jAna.hive.pinGet 3).conv → c ≤ 4095) ∧
      jAna.hive.flag (F.gceSetpCtl_en 3) = true ∧
      jAna.hive.flag (F.gceSetpCtl_mode 3) = true ∧
      jAna.hive.flag (F.gceSetpVal_held 3) = false ∧
      (jAna.hive.flag (F.gceSetpVal_valid 3) = true ∨
        roundEvenN (List.take (2 ^ min 8 (jAna.hive.get (F.gceSetpCtl_avg 3))) (4095 :: (jAna.hive.pinGet 3).conv)).sum
              (List.take (2 ^ min 8 (jAna.hive.get (F.gceSetpCtl_avg 3))) (4095 :: (jAna.hive.pinGet 3).conv)).length ≠
            0 ∧
          roundEvenN (List.take (2 ^ min 8 (jAna.hive.get (F.gceSetpCtl_avg 3))) (4095 :: (jAna.hive.pinGet 3).conv)).sum
              (List.take (2 ^ min 8 (jAna.hive.get (F.gceSetpCtl_avg 3))) (4095 :: (jAna.hive.pinGet 3).conv)).length ≠
            4095)) ∧
      (rwcOk (jAnaH.hive.rd (R.gceSetpLo 3)) = true ∧
      rwcOk (jAnaH.hive.rd (R.gceSetpHi 3)) = true ∧
      (∀ (c : Nat), c ∈ (jAnaH.hive.pinGet 3).conv → c ≤ 4095) ∧
      jAnaH.hive.flag (F.gceSetpCtl_en 3) = true ∧
      jAnaH.hive.flag (F.gceSetpCtl_mode 3) = true ∧
      jAnaH.hive.flag (F.gceSetpVal_held 3) = true) ∧
      (rwcOk (jRail.hive.rd (R.gceSetpLo 3)) = true ∧
      rwcOk (jRail.hive.rd (R.gceSetpHi 3)) = true ∧
      (∀ (c : Nat), c ∈ (jRail.hive.pinGet 3).conv → c ≤ 4095) ∧
      jRail.hive.flag (F.gceSetpCtl_en 3) = true ∧
      jRail.hive.flag (F.gceSetpCtl_mode 3) = true ∧
      jRail.hive.flag (F.gceSetpVal_held 3) = false ∧
      jRail.hive.flag (F.gceSetpVal_valid 3) = false ∧
      (roundEvenN (List.take (2 ^ min 8 (jRail.hive.get (F.gceSetpCtl_avg 3))) (4095 :: (jRail.hive.pinGet 3).conv)).sum
            (List.take (2 ^ min 8 (jRail.hive.get (F.gceSetpCtl_avg 3))) (4095 :: (jRail.hive.pinGet 3).conv)).length =
          0 ∨
        roundEvenN (List.take (2 ^ min 8 (jRail.hive.get (F.gceSetpCtl_avg 3))) (4095 :: (jRail.hive.pinGet 3).conv)).sum
            (List.take (2 ^ min 8 (jRail.hive.get (F.gceSetpCtl_avg 3))) (4095 :: (jRail.hive.pinGet 3).conv)).length =
          4095)) := by
  (repeat' apply And.intro) <;> first
    | decide | rfl | (intro _; rfl) | exact .inl ⟨rfl, rfl⟩ | exact .inl rfl | exact ⟨0, by decide⟩

/-! ## Workers -/

def wS (k : Nat) (l : List (RF × Nat)) (f : WorkSt → WorkSt) (g : Hive → Hive) : State := at' (fun h =>
    let h := runs ([(F.wrkDesc7_valid 63 7, 1), (F.wrkDesc0_kid 63 7, k), (F.wrkDesc1_stream 63 7, 3),
      (F.wrkDesc0_spare_ok 63 7, 1), (F.wrkStat_state 63 7, 2), (F.wrkCombStat_spare 63, 1),
      (F.wrkCombStat_spare_idx 63, 6), (F.steValid_valid 3, 1), (⟨R.dieState, 0, 16⟩, 0x2222)] ++ l) h;
    g { (h.wset 511 (f (h.wget 511))) with streams := [3] })
def wPlain : State := wS 0 [] id id
def wK (k : Nat) : State := wS k [(F.steKern_kern_en 3, 1), (F.steKern_kern_worker 3, 511)] id id
def wMiss (k n : Nat) : State := wS k [] (fun u => { u with missRun := n }) id
def wLost : State := wS 1 [] (fun u => { u with lost := true }) id
def wTrk : State := wS 3 [(F.trkStat_valid 255, 1)] (fun u => { u with missRun := 0 }) (fun h => { h with
    trkWorker := [(255, 511)] })
def wPth (b : Bool) (n : Nat) : State := wS 1 [(F.steKern_kern_en 3, 1), (F.steKern_kern_worker 3, 511)] (fun u =>
    { u with lost := b, missRun := n }) id
def wDecl : KernDecl := ⟨1, 0, 0, 0, 0, 0, 0, 5, [], 0⟩
def wPat (n : Nat) : State := wS 16 [] (fun u => { u with missRun := n }) (fun h => { h with
    kdecl := [(16, some wDecl)] })
def wMst : State := wS 7 [] id (fun h => { h with kpar := [(63 * 524288, 3 + 2048)] })
def wOdd : State := wS 7 [] id (fun h => { h with gtc := 1 })
def wMe (k : Nat) (b : Bool) (g : Nat) : State := wS k [(F.gceG_in_force 3, g)] (fun u => { u with meas := b }) (fun h =>
    { (h.setSt 3 stLive) with kpar := [(63 * 524288, 3), (63 * 524288 + 12, 900)] })
def wX (v : Nat) : RegWrite := wq (R.wrkCtl 63 7) v
def wFl : State := wS 1 [(F.wrkStat_state 63 7, 5)] (fun u => { u with moveTo := some 510 }) id
def wFl2 : State := wS 1 [(F.wrkStat_state 63 7, 5), (F.wrkDesc7_valid 63 6, 1)] (fun u => { u with
    moveTo := some 510 }) id
def wSp : State := wS 1 [(F.wrkCombStat_spare_idx 63, 7)] id id
def wUsed : State := wS 1 [(F.wrkCombStat_spare_used 63, 1)] id id
def wDue : State := wS 1 [] id (fun h => { h with sched := [⟨0, .sparing 511⟩] })
def wSlp : State := wS 1 [(F.wrkCombStat_power 63, 1)] id id
def wDueN : State := wS 1 [(F.wrkDesc7_valid 63 7, 0), (F.wrkStat_state 63 6, 1)] (fun u => { u with
    moveTo := some 510 }) (fun h => { h with sched := [⟨0, .sparing 511⟩] })
def wDueM : State := wS 1 [] (fun u => { u with moveTo := some 510 }) (fun h => { h with
    sched := [⟨0, .sparing 511⟩] })
def wFlG : State := wS 2 [(F.wrkStat_state 63 7, 5)] (fun u => { u with moveTo := some 510 }) id
def wBist : State := at' (fun h => (h.mset 15 (some ⟨7, 63, ⟨.queue, 1, false, 9, 0x0D, 5⟩, none, 0, 0, 0, 0, 0,
    []⟩)).set (F.cmdMaint_state 15) 2)
def wOwn : State := wS 1 [(F.trkStat_valid 255, 1), (F.trkStat_stream 255, 3), (F.steKern_kern_en 3, 1),
    (F.steKern_kern_worker 3, 511)] id id

/-- States and operands that meet the hypotheses of KernelFailures, clause by clause. -/
theorem meets_KernelFailures :
    ((State.reset.hive.kvalid 511 = false ∨
        [1, 2, 3, 4, 7].contains (State.reset.hive.kid 511) = false ∨ State.reset.hive.combAwake (511 / 8) = false) ∧
      ((State.reset.hive.wget 511).lost = false ∨ State.reset.hive.kvalid 511 = false) ∧
      (State.reset.hive.kid 511 ≠ 7 ∨
        State.reset.hive.kvalid 511 = false ∨
          (State.reset.hive.wget 511).lost = true ∨ State.reset.hive.gtc % State.reset.hive.stepTicks 511 ≠ 0)) ∧
      ((wK 1).hive.kvalid 511 = true ∧
      (wK 1).hive.combAwake (511 / 8) = true ∧
      [1, 2, 3, 4, 7].contains ((wK 1).hive.kid 511) = true ∧
      ((wK 1).hive.wget 511).missRun < 2 ∧
      ((wK 1).hive.kid 511 = 1 ∨ (wK 1).hive.kid 511 = 4)) ∧
      (wTrk.hive.kvalid 511 = true ∧
      wTrk.hive.combAwake (511 / 8) = true ∧
      [1, 2, 3, 4, 7].contains (wTrk.hive.kid 511) = true ∧
      (wTrk.hive.wget 511).missRun < 2 ∧
      wTrk.hive.kid 511 = 3 ∧
      255 ∈ wTrk.hive.slotsOfWorker 511) ∧
      ((wK 2).hive.kvalid 511 = true ∧
      (wK 2).hive.combAwake (511 / 8) = true ∧
      [1, 2, 3, 4, 7].contains ((wK 2).hive.kid 511) = true ∧
      ((wK 2).hive.wget 511).missRun < 2 ∧
      (wK 2).hive.kid 511 = 2) ∧
      ((wMiss 1 2).hive.kvalid 511 = true ∧
      (wMiss 1 2).hive.combAwake (511 / 8) = true ∧
      [1, 2, 3, 4, 7].contains ((wMiss 1 2).hive.kid 511) = true ∧
      2 ≤ ((wMiss 1 2).hive.wget 511).missRun ∧
      ((wMiss 1 2).hive.wget 511).lostAt = 0 ∧
      (true = false ∨ (wMiss 1 2).hive.kdeclOf 511 = none)) ∧
      ((wPth false 2).hive.kvalid 511 = true ∧
      (wPth false 2).hive.combAwake (511 / 8) = true ∧
      [1, 2, 3, 4, 7].contains ((wPth false 2).hive.kid 511) = true ∧
      2 ≤ ((wPth false 2).hive.wget 511).missRun ∧
      3 ∈ (wPth false 2).hive.pathStreams 511) ∧
      ((wPat 2).hive.kvalid 511 = true ∧
      (wPat 2).hive.combAwake (511 / 8) = true ∧
      (wDecl.deadline != 0) = true ∧
      2 ≤ ((wPat 2).hive.wget 511).missRun ∧
      ((wPat 2).hive.wget 511).lostAt = 0 ∧
      true = true ∧
      (wPat 2).hive.kdeclOf 511 ≠ none) ∧
      (wLost.hive.kvalid 511 = true ∧
      (wLost.hive.wget 511).lost = true ∧
      wLost.hive.wrkSt 511 ≠ 5 ∧
      wLost.hive.wrkSt 511 ≠ 6) ∧
      ((wPth true 0).hive.kvalid 511 = true ∧
      ((wPth true 0).hive.wget 511).lost = true ∧
      (wPth true 0).hive.wrkSt 511 ≠ 5 ∧
      (wPth true 0).hive.wrkSt 511 ≠ 6 ∧
      3 ∈ (wPth true 0).hive.pathStreams 511) ∧
      (wPlain.hive.kvalid 511 = true ∧
      (true = false ∨ wPlain.hive.kdeclOf 511 = none)) ∧
      ((wK 7).hive.kid 511 = 7 ∧
      (wK 7).hive.kvalid 511 = true ∧
      ((wK 7).hive.wget 511).lost = false ∧
      (wK 7).hive.gtc % (wK 7).hive.stepTicks 511 = 0) ∧
      (wMst.hive.kid 511 = 7 ∧
      wMst.hive.kvalid 511 = true ∧
      (wMst.hive.wget 511).lost = false ∧
      wMst.hive.gtc % wMst.hive.stepTicks 511 = 0 ∧
      3 ∈ wMst.hive.mstatStreams 511) := by
  (repeat' apply And.intro) <;> first
    | decide | rfl | (intro _; rfl) | exact .inl ⟨rfl, rfl⟩ | exact .inl rfl | exact ⟨0, by decide⟩

/-- States and operands that meet the hypotheses of WorkerMeasurements, clause by clause. -/
theorem meets_WorkerMeasurements :
    (goodWrite (wX 1) (R.wrkCtl (511 / 8) (511 % 8)) false = true ∧
      Instr.startMeasurement (wX 1) ∈ [Instr.startMeasurement (wX 1), Instr.stopMeasurement (wX 1)] ∧
      (BitVec.toNat (wX 1).value % 8 = 1 ∨ BitVec.toNat (wX 1).value % 8 = 2) ∧
      (State.reset.hive.kvalid 511 &&
          (State.reset.hive.kid 511 == 4 || State.reset.hive.kid 511 == 5 || State.reset.hive.kid 511 == 6)) =
        false ∧
      (State.reset.hive.kid 511 ≠ 4 ∨ (State.reset.hive.wget 511).meas = false) ∧
      (State.reset.hive.kid 511 ≠ 5 ∨ (State.reset.hive.wget 511).meas = false) ∧
      (State.reset.hive.kid 511 ≠ 6 ∨ (State.reset.hive.wget 511).meas = false)) ∧
      (goodWrite (wX 1) (R.wrkCtl (511 / 8) (511 % 8)) false = true ∧
      Instr.startMeasurement (wX 1) ∈ [Instr.startMeasurement (wX 1), Instr.stopMeasurement (wX 1)] ∧
      BitVec.toNat (wX 1).value % 8 = 1 ∧
      ((wMe 4 true 0).hive.kvalid 511 &&
          ((wMe 4 true 0).hive.kid 511 == 4 || (wMe 4 true 0).hive.kid 511 == 5 || (wMe 4 true 0).hive.kid 511 == 6)) =
        true ∧
      ((wMe 4 true 0).hive.wget 511).meas = true ∧
      (wMe 4 true 0).hive.kid 511 = 4 ∧
      clampS 16 (-32768) = -32768 ∧
      clampS 16 32767 = 32767) ∧
      (goodWrite (wX 1) (R.wrkCtl (511 / 8) (511 % 8)) false = true ∧
      Instr.startMeasurement (wX 1) ∈ [Instr.startMeasurement (wX 1), Instr.stopMeasurement (wX 1)] ∧
      BitVec.toNat (wX 1).value % 8 = 1 ∧
      ((wMe 4 false 0).hive.kvalid 511 &&
          ((wMe 4 false 0).hive.kid 511 == 4 || (wMe 4 false 0).hive.kid 511 == 5 || (wMe 4 false 0).hive.kid 511 == 6)) =
        true ∧
      ((wMe 4 false 0).hive.wget 511).meas = false ∧
      ¬((wMe 4 false 0).hive.kid 511 = 4 →
          (wMe 4 false 0).hive.st (bitsOf ((wMe 4 false 0).hive.par 511 0) 0 11) = stLive ∧
            (wMe 4 false 0).hive.getS (F.gceG_in_force (bitsOf ((wMe 4 false 0).hive.par 511 0) 0 11)) + 2560 ≤
              sext 16 ((wMe 4 false 0).hive.par 511 3))) ∧
      (goodWrite (wX 1) (R.wrkCtl (511 / 8) (511 % 8)) false = true ∧
      Instr.startMeasurement (wX 1) ∈ [Instr.startMeasurement (wX 1), Instr.stopMeasurement (wX 1)] ∧
      BitVec.toNat (wX 1).value % 8 = 1 ∧
      ((wMe 4 false 59536).hive.kvalid 511 &&
          ((wMe 4 false 59536).hive.kid 511 == 4 || (wMe 4 false 59536).hive.kid 511 == 5 ||
            (wMe 4 false 59536).hive.kid 511 == 6)) =
        true ∧
      ((wMe 4 false 59536).hive.wget 511).meas = false ∧
      ((wMe 4 false 59536).hive.kid 511 = 4 →
        (wMe 4 false 59536).hive.st (bitsOf ((wMe 4 false 59536).hive.par 511 0) 0 11) = stLive ∧
          (wMe 4 false 59536).hive.getS (F.gceG_in_force (bitsOf ((wMe 4 false 59536).hive.par 511 0) 0 11)) + 2560 ≤
            sext 16 ((wMe 4 false 59536).hive.par 511 3))) ∧
      (goodWrite (wX 2) (R.wrkCtl (511 / 8) (511 % 8)) false = true ∧
      Instr.startMeasurement (wX 2) ∈ [Instr.startMeasurement (wX 2), Instr.stopMeasurement (wX 2)] ∧
      BitVec.toNat (wX 2).value % 8 = 2 ∧
      ((wMe 4 false 59536).hive.kvalid 511 &&
          ((wMe 4 false 59536).hive.kid 511 == 4 || (wMe 4 false 59536).hive.kid 511 == 5 ||
            (wMe 4 false 59536).hive.kid 511 == 6)) =
        true) ∧
      ((wMe 5 true 0).hive.kid 511 = 5 ∧
      ((wMe 5 true 0).hive.wget 511).meas = true ∧
      clampS 16 32767 = 32767) ∧
      ((wMe 6 true 0).hive.kid 511 = 6 ∧
      ((wMe 6 true 0).hive.wget 511).meas = true) := by decide

/-- States and operands that meet the hypotheses of WorkerSparing, clause by clause. -/
theorem meets_WorkerSparing :
    (63 = 511 / 8 ∧
      goodWrite (wX 3) (R.wrkCtl (511 / 8) (511 % 8)) false = true ∧
      BitVec.toNat (wX 3).value % 8 = 3 ∧
      (wFl.hive.wrkSt 511 = 5 ∨ wFl.hive.wrkSt 511 = 6) ∧
      wFl.hive.wrkSt 511 = 5 ∧
      (wFl.hive.wget 511).waits = false ∧
      ((wFl.hive.sched.any fun o => o.kind == SchedKind.sparing 511) = false) ∧
      510 ≠ 511 ∧
      (wFl.hive.wget 511).moveTo = some 510) ∧
      (63 = 511 / 8 ∧
      goodWrite (wX 3) (R.wrkCtl (511 / 8) (511 % 8)) false = true ∧
      BitVec.toNat (wX 3).value % 8 = 3 ∧
      wSp.hive.wrkSt 511 ≠ 5 ∧
      wSp.hive.wrkSt 511 ≠ 6 ∧
      wSp.hive.spareOfComb 63 = some 511 ∧
      wSp.hive.flag (F.wrkCombStat_spare_used 63) = false) ∧
      (63 = 511 / 8 ∧
      goodWrite (wX 3) (R.wrkCtl (511 / 8) (511 % 8)) false = true ∧
      BitVec.toNat (wX 3).value % 8 = 3 ∧
      State.reset.hive.wrkSt 511 ≠ 5 ∧
      State.reset.hive.wrkSt 511 ≠ 6 ∧
      (State.reset.hive.spareOfComb 63 ≠ some 511 ∨ State.reset.hive.flag (F.wrkCombStat_spare_used 63) = true) ∧
      State.reset.hive.kvalid 511 = false ∧
      (State.reset.hive.due (SchedKind.sparing 511) = false ∨ State.reset.hive.combPatchFirst 63 = true) ∧
      ((State.reset.hive.wget 511).moveTo = none ∨
        State.reset.hive.wrkSt 511 ≠ 5 ∨
          (State.reset.hive.wget 511).waits = true ∨
            (State.reset.hive.sched.any fun o => o.kind == SchedKind.sparing 511) = true) ∧
      State.reset.hive.maintOf 7 63 = none ∧
      goodWrite (wq (R.wrkWatch 63) 4278190080) (R.wrkWatch 63) false = true ∧
      ¬∃ i : Fin 4,
          State.reset.hive.flag
                (F.trkStat_valid (bitsOf (BitVec.toNat (wq (R.wrkWatch 63) 4278190080).value) (8 * ↑i) 8)) =
              true ∧
            State.reset.hive.flag
                  (F.steKern_kern_en
                    (State.reset.hive.get
                      (F.trkStat_stream (bitsOf (BitVec.toNat (wq (R.wrkWatch 63) 4278190080).value) (8 * ↑i) 8)))) =
                true ∧
              State.reset.hive.get
                    (F.steKern_kern_worker
                      (State.reset.hive.get
                        (F.trkStat_stream (bitsOf (BitVec.toNat (wq (R.wrkWatch 63) 4278190080).value) (8 * ↑i) 8)))) /
                  8 =
                63) ∧
      (63 = 511 / 8 ∧
      goodWrite (wX 3) (R.wrkCtl (511 / 8) (511 % 8)) false = true ∧
      BitVec.toNat (wX 3).value % 8 = 3 ∧
      wSlp.hive.wrkSt 511 ≠ 5 ∧
      wSlp.hive.wrkSt 511 ≠ 6 ∧
      (wSlp.hive.spareOfComb 63 ≠ some 511 ∨ wSlp.hive.flag (F.wrkCombStat_spare_used 63) = true) ∧
      wSlp.hive.kvalid 511 = true ∧
      wSlp.hive.flag (F.wrkDesc0_spare_ok 63 (511 % 8)) = true ∧
      wSlp.hive.get (F.wrkCombStat_power 63) ≠ 0 ∧
      510 ≠ 511 ∧
      wSlp.hive.spareUsable 63 = some 510) ∧
      (63 = 511 / 8 ∧
      goodWrite (wX 3) (R.wrkCtl (511 / 8) (511 % 8)) false = true ∧
      BitVec.toNat (wX 3).value % 8 = 3 ∧
      (wK 1).hive.wrkSt 511 ≠ 5 ∧
      (wK 1).hive.wrkSt 511 ≠ 6 ∧
      ((wK 1).hive.spareOfComb 63 ≠ some 511 ∨ (wK 1).hive.flag (F.wrkCombStat_spare_used 63) = true) ∧
      (wK 1).hive.kvalid 511 = true ∧
      (wK 1).hive.flag (F.wrkDesc0_spare_ok 63 (511 % 8)) = true ∧
      (wK 1).hive.get (F.wrkCombStat_power 63) = 0 ∧
      510 ≠ 511 ∧
      (wK 1).hive.spareUsable 63 = some 510) ∧
      (63 = 511 / 8 ∧
      goodWrite (wX 3) (R.wrkCtl (511 / 8) (511 % 8)) false = true ∧
      BitVec.toNat (wX 3).value % 8 = 3 ∧
      wUsed.hive.wrkSt 511 ≠ 5 ∧
      wUsed.hive.wrkSt 511 ≠ 6 ∧
      (wUsed.hive.spareOfComb 63 ≠ some 511 ∨ wUsed.hive.flag (F.wrkCombStat_spare_used 63) = true) ∧
      wUsed.hive.kvalid 511 = true ∧
      (wUsed.hive.flag (F.wrkDesc0_spare_ok 63 (511 % 8)) = false ∨ wUsed.hive.spareUsable 63 = none)) ∧
      (63 = 511 / 8 ∧
      wDue.hive.due (SchedKind.sparing 511) = true ∧
      wDue.hive.combPatchFirst 63 = false ∧
      (wDue.hive.wget 511).moveTo = none) ∧
      (63 = 511 / 8 ∧
      wDueN.hive.due (SchedKind.sparing 511) = true ∧
      wDueN.hive.combPatchFirst 63 = false ∧
      wDueN.hive.kvalid 511 = false ∧
      (wDueN.hive.wget 511).moveTo = some 510 ∧
      (wDueN.hive.kvalid 511 = true ∨ wDueN.hive.wrkSt 510 = 1) ∧
      wDueN.hive.wrkSt 510 = 1) ∧
      (63 = 511 / 8 ∧
      wDueM.hive.due (SchedKind.sparing 511) = true ∧
      wDueM.hive.combPatchFirst 63 = false ∧
      (wDueM.hive.wget 511).moveTo = some 510 ∧
      wDueM.hive.kvalid 511 = true) ∧
      (63 = 511 / 8 ∧
      wFlG.hive.wrkSt 511 = 5 ∧
      (wFlG.hive.wget 511).waits = false ∧
      ((wFlG.hive.sched.any fun o => o.kind == SchedKind.sparing 511) = false) ∧
      510 ≠ 511 ∧
      (wFlG.hive.wget 511).moveTo = some 510 ∧
      wFlG.hive.kid 511 = 2) ∧
      (63 = 511 / 8 ∧
      wFl2.hive.wrkSt 511 = 5 ∧
      (wFl2.hive.wget 511).waits = false ∧
      ((wFl2.hive.sched.any fun o => o.kind == SchedKind.sparing 511) = false) ∧
      510 ≠ 511 ∧
      (wFl2.hive.wget 511).moveTo = some 510 ∧
      wFl2.hive.kvalid 510 = true) ∧
      (63 = 511 / 8 ∧
      wBist.hive.maintOf 7 63 = some 15) ∧
      (63 = 511 / 8 ∧
      goodWrite (wq (R.wrkWatch 63) 4278190080) (R.wrkWatch 63) false = true ∧
      (∃ i : Fin 4,
        wOwn.hive.flag (F.trkStat_valid (bitsOf (BitVec.toNat (wq (R.wrkWatch 63) 4278190080).value) (8 * ↑i) 8)) = true ∧
          wOwn.hive.flag
                (F.steKern_kern_en
                  (wOwn.hive.get
                    (F.trkStat_stream (bitsOf (BitVec.toNat (wq (R.wrkWatch 63) 4278190080).value) (8 * ↑i) 8)))) =
              true ∧
            wOwn.hive.get
                  (F.steKern_kern_worker
                    (wOwn.hive.get
                      (F.trkStat_stream (bitsOf (BitVec.toNat (wq (R.wrkWatch 63) 4278190080).value) (8 * ↑i) 8)))) /
                8 =
              63)) := by
  (repeat' apply And.intro) <;> first
    | decide | rfl | (intro _; rfl) | exact .inl ⟨rfl, rfl⟩ | exact .inl rfl | exact ⟨0, by decide⟩

/-! ## Time -/

def tSl (l : List (RF × Nat)) (f : Hive → Hive) : State := at' (fun h => f { runs l h with
    gtc := 983040000 * 3, treeDown := [17], apiaryMask := 0x8001 })
def tSrc (src st : Nat) : State := tSl [(F.timCtl_src, src), (F.timStat_state, st), (F.topo_root, 1)] id
def tBusy : State := tSl [(F.timCtl_src, 3)] (fun h => { (h.setSt 3 stLive) with streams := [3] })
def tPrev (src st p c : Nat) : State := tSl [(F.timCtl_src, src), (F.timStat_state, st), (F.topo_root,
    1)] (fun h => { h with ppsPrev := some p, loadCmd := c })
def tBusyP : State := tSl [(F.timCtl_src, 1), (F.topo_root, 1)] (fun h => { (h.setSt 3 stLive) with
    streams := [3], ppsPrev := some 0, loadCmd := 1 })
def tPpsOut : State := tSl [] (fun h => { h with ppsOut := true, ticks := 98304000 })
def tLate (st : Nat) : State := tSl [(F.timCtl_src, 1), (F.timStat_state, st), (F.timStat_pps_ok, 1)] (fun h =>
    { h with ticks := 2000000000 })
def tOff : State := tSl [(F.timCtl_src, 1), (F.timStat_state, 2)] (fun h => { h with gtc := h.gtc + 100000 })
def tOut : State := tSl [(F.timCtl_pps_out, 1)] id
def tC (v : Nat) : RegWrite := wq R.timCmd v
def tUp (st c bad : Nat) (f : Hive → Hive) : State := tSl [(F.timCtl_src, 3), (F.timCtl_up_link, 17),
    (F.timStat_state, st), (F.laneDlyUp_ticks 143, 30)] (fun h => f { h with
    links := [(17, [143])], loadCmd := c, epsBad := bad, ticks := 983040 })
def tFlt : State := tUp 3 0 0 (fun h => h.raiseSC 0x0E 0x02 0x5 1 0)
def tMsg : State := tSl [] (fun h => { h with gtc := 98304 * 11 })
def nS (l : List (RF × Nat)) (f : Hive → Hive) : State := tSl ([(F.topo_hive_id, 15), (F.topo_root, 1)] ++ l) f
def nOpen (c : Nat) (ap : Bool) : State := nS [(F.timWagStat_state 63, 1), (F.timWagStat_cond 63, c),
    (F.timWagStat_scope 63, if ap then 1 else 0)] (fun h => h.bset 63 ⟨2 ^ 15, none, 0, false⟩)
def nSub : State := nS [(F.topo_root, 0), (F.timWagStat_state 63, 1), (F.timWagStat_scope 63, 1)] (fun h =>
    h.bset 63 ⟨2 ^ 15, none, 0, false⟩)
def nLate : State := nS [(F.timWagStat_state 63, 1), (F.timWagCtl_timeout, 1)] (fun h => { h.bset 63 ⟨0, none, 0,
    false⟩ with ticks := 983040 })
def nLateA : State := nS [(F.timWagStat_state 63, 1), (F.timWagCtl_timeout, 1), (F.timWagStat_scope 63,
    1)] (fun h => { h.bset 63 ⟨0, none, 0, false⟩ with ticks := 983040 })
def nFull : State := nS [] (fun h => { h with sched := List.replicate 256 ⟨2 ^ 30, .snapshot⟩ })
def nDue : State := nS [(F.ugtCtl_en 255, 1), (F.wrkCombStat_power 63, 2)] (fun h => { h with
    sched := [⟨0, .snapshot⟩] })
def nHeld : State := nS [(F.timSnapCtl_state, 1)] id

/-- States and operands that meet the hypotheses of GtcLoads, clause by clause. -/
theorem meets_GtcLoads :
    (goodWrite (tC 0) R.timCmd false = true ∧
      Instr.gtcLoadPps (tC 0) ∈ [Instr.gtcLoadPps (tC 0), Instr.gtcLoadNow (tC 0), Instr.gtcLoadUpstream (tC 0)] ∧
      (BitVec.toNat (tC 0).value % 8 = 0 ∨ 3 < BitVec.toNat (tC 0).value % 8) ∧
      State.reset.hive.loadCmd ≠ 1 ∧
      State.reset.hive.get F.timStat_state = 0 ∧
      State.reset.hive.ppsPrev = none ∧
      ¬(State.reset.hive.flag F.timStat_pps_ok = true ∧ State.reset.hive.ppsAt + 1474560000 ≤ State.reset.hive.ticks) ∧
      goodWrite (wq R.timTodOfsHi 4294967295) R.timTodOfsHi false = true ∧
      (State.reset.hive.flag F.timCtl_pps_out = false ∨
        (State.reset.hive.gtc + State.reset.hive.tod) % 2 ^ 64 % 983040000 ≠ 0) ∧
      (State.reset.hive.ppsOut = false ∨ State.reset.hive.ticks < State.reset.hive.ppsOutAt + 98304000)) ∧
      (goodWrite (tC 1) R.timCmd false = true ∧
      Instr.gtcLoadPps (tC 1) ∈ [Instr.gtcLoadPps (tC 1), Instr.gtcLoadNow (tC 1), Instr.gtcLoadUpstream (tC 1)] ∧
      (BitVec.toNat (tC 1).value % 8 = 1 ∧ State.reset.hive.get F.timCtl_src ≠ 1 ∨
        BitVec.toNat (tC 1).value % 8 = 2 ∧
            State.reset.hive.get F.timCtl_src ≠ 0 ∧ State.reset.hive.get F.timCtl_src ≠ 2 ∨
          BitVec.toNat (tC 1).value % 8 = 3 ∧ State.reset.hive.get F.timCtl_src ≠ 3 ∨
            1 ≤ BitVec.toNat (tC 1).value % 8 ∧ BitVec.toNat (tC 1).value % 8 ≤ 3 ∧ State.reset.hive.quiet = false)) ∧
      (goodWrite (tC 1) R.timCmd false = true ∧
      Instr.gtcLoadPps (tC 1) ∈ [Instr.gtcLoadPps (tC 1), Instr.gtcLoadNow (tC 1), Instr.gtcLoadUpstream (tC 1)] ∧
      (BitVec.toNat (tC 1).value % 8 = 1 ∧ (tSrc 1 1).hive.get F.timCtl_src = 1 ∨
        BitVec.toNat (tC 1).value % 8 = 3 ∧ (tSrc 1 1).hive.get F.timCtl_src = 3) ∧
      (tSrc 1 1).hive.quiet = true ∧
      (tSrc 1 1).hive.loadCmd ≠ 1 ∧
      (tSrc 1 1).hive.get F.timStat_state ≠ 0 ∧
      ((tSrc 1 1).hive.ppsPhase (16 * (tSrc 1 1).hive.gtc + 15)).natAbs < 2 ^ 23 ∧
      ((tSrc 1 1).hive.ppsPhase (16 * (tSrc 1 1).hive.gtc + 15)).natAbs ≤ 16 * 983) ∧
      (goodWrite (tC 2) R.timCmd false = true ∧
      Instr.gtcLoadPps (tC 2) ∈ [Instr.gtcLoadPps (tC 2), Instr.gtcLoadNow (tC 2), Instr.gtcLoadUpstream (tC 2)] ∧
      BitVec.toNat (tC 2).value % 8 = 2 ∧
      (State.reset.hive.get F.timCtl_src = 0 ∨ State.reset.hive.get F.timCtl_src = 2) ∧
      State.reset.hive.quiet = true) ∧
      ((tPrev 1 0 (16 * 983040000 * 2) 0).hive.loadCmd ≠ 1 ∧
      (tPrev 1 0 (16 * 983040000 * 2) 0).hive.get F.timStat_state = 0 ∧
      (tPrev 1 0 (16 * 983040000 * 2) 0).hive.ppsPrev = some (16 * 983040000 * 2) ∧
      Int.ofNat (16 * (tPrev 1 0 (16 * 983040000 * 2) 0).hive.gtc + 15) - Int.ofNat (16 * 983040000 * 2) -
          16 * 983040000 ≤
        16 * 983 ∧
      -(16 * 983) ≤
        Int.ofNat (16 * (tPrev 1 0 (16 * 983040000 * 2) 0).hive.gtc + 15) - Int.ofNat (16 * 983040000 * 2) -
          16 * 983040000) ∧
      (tOff.hive.loadCmd ≠ 1 ∧
      tOff.hive.get F.timStat_state ≠ 0 ∧
      tOff.hive.get F.timCtl_src = 1 ∧
      16 * tOff.hive.tol < (tOff.hive.ppsPhase (16 * tOff.hive.gtc + 15)).natAbs) ∧
      ((tPrev 1 0 0 1).hive.loadCmd = 1 ∧
      (tPrev 1 0 0 1).hive.quiet = true) ∧
      (tBusyP.hive.loadCmd = 1 ∧
      tBusyP.hive.quiet = false) ∧
      (((tLate 2).hive.flag F.timStat_pps_ok = true ∧ (tLate 2).hive.ppsAt + 1474560000 ≤ (tLate 2).hive.ticks) ∧
      (tLate 2).hive.get F.timCtl_src = 1 ∧
      (tLate 2).hive.get F.timStat_state ≠ 0 ∧
      (tLate 2).hive.flag F.topo_root = true) ∧
      (((tLate 0).hive.flag F.timStat_pps_ok = true ∧ (tLate 0).hive.ppsAt + 1474560000 ≤ (tLate 0).hive.ticks) ∧
      ((tLate 0).hive.get F.timCtl_src ≠ 1 ∨
        (tLate 0).hive.get F.timStat_state = 0 ∨ (tLate 0).hive.flag F.topo_root = false)) ∧
      (tOut.hive.flag F.timCtl_pps_out = true ∧
      (tOut.hive.gtc + tOut.hive.tod) % 2 ^ 64 % 983040000 = 0) ∧
      (tPpsOut.hive.ppsOut = true ∧
      tPpsOut.hive.ppsOutAt + 98304000 ≤ tPpsOut.hive.ticks) := by
  (repeat' apply And.intro) <;> first
    | decide | rfl | (intro _; rfl) | exact .inl ⟨rfl, rfl⟩ | exact .inl rfl | exact ⟨0, by decide⟩

/-- States and operands that meet the hypotheses of TimeDistribution, clause by clause. -/
theorem meets_TimeDistribution :
    ((tUp 0 0 0 id).hive.gtc % 98304 = 0 ∧
      17 ∈ (tUp 0 0 0 id).hive.treeDown ∧
      (tUp 0 0 0 id).hive.get F.timCtl_src = 3 ∧
      (tUp 0 0 0 id).hive.get F.timCtl_up_link = 17 ∧
      (Int.ofNat (16 * (tUp 0 0 0 id).hive.gtc + 0) -
            Int.ofNat (16 * (983040000 * 3 - 30 + (tUp 0 0 0 id).hive.get (F.laneDlyUp_ticks 143)))).natAbs <
        2 ^ 23 ∧
      (Tbl.get (fun x => 0) (tUp 0 0 0 id).hive.linkProp 17 + 16 < (tUp 0 0 0 id).hive.get (F.laneDlyUp_ticks 143)) ∧
      ((tUp 0 0 0 id).hive.get F.timStat_state = 0 ∨ (tUp 0 0 0 id).hive.loadCmd = 3) ∧
      (tUp 0 0 0 id).hive.quiet = true) ∧
      ((State.reset.hive.gtc % 98304 ≠ 0 ∨ ¬17 ∈ State.reset.hive.treeDown) ∧
      (true = false ∨ State.reset.hive.get F.timCtl_src ≠ 3 ∨ State.reset.hive.get F.timCtl_up_link ≠ 17) ∧
      (State.reset.hive.get F.timCtl_src ≠ 3 ∨
        State.reset.hive.get F.timStat_state ≠ 2 ∨ State.reset.hive.ticks < State.reset.hive.timeAt + 983040)) ∧
      ((tUp 2 0 0 id).hive.get F.timCtl_src = 3 ∧
      (tUp 2 0 0 id).hive.get F.timCtl_up_link = 17 ∧
      (tUp 2 0 0 id).hive.loadCmd ≠ 3 ∧
      (tUp 2 0 0 id).hive.get F.timStat_state ≠ 0 ∧
      (tUp 2 0 0 id).hive.get F.timStat_state = 2 ∧
      (Int.ofNat (16 * (tUp 2 0 0 id).hive.gtc + 0) -
            Int.ofNat (16 * (983040000 * 3 - 30 + (tUp 2 0 0 id).hive.get (F.laneDlyUp_ticks 143)))).natAbs ≤
        16 * (tUp 2 0 0 id).hive.tol) ∧
      ((tUp 2 0 0 id).hive.get F.timCtl_src = 3 ∧
      (tUp 2 0 0 id).hive.get F.timCtl_up_link = 17 ∧
      (tUp 2 0 0 id).hive.loadCmd ≠ 3 ∧
      (tUp 2 0 0 id).hive.get F.timStat_state = 2 ∧
      16 * (tUp 2 0 0 id).hive.tol <
        (Int.ofNat (16 * (tUp 2 0 0 id).hive.gtc + 0) -
            Int.ofNat (16 * (983040000 * 3 - 3000 + (tUp 2 0 0 id).hive.get (F.laneDlyUp_ticks 143)))).natAbs) ∧
      ((tUp 2 0 2 id).hive.get F.timCtl_src = 3 ∧
      (tUp 2 0 2 id).hive.get F.timCtl_up_link = 17 ∧
      (tUp 2 0 2 id).hive.loadCmd ≠ 3 ∧
      (tUp 2 0 2 id).hive.get F.timStat_state = 2 ∧
      16 * (tUp 2 0 2 id).hive.tol <
        (Int.ofNat (16 * (tUp 2 0 2 id).hive.gtc + 0) -
            Int.ofNat (16 * (983040000 * 3 - 3000 + (tUp 2 0 2 id).hive.get (F.laneDlyUp_ticks 143)))).natAbs ∧
      2 ≤ (tUp 2 0 2 id).hive.epsBad) ∧
      ((tUp 3 0 0 id).hive.get F.timCtl_src = 3 ∧
      (tUp 3 0 0 id).hive.get F.timCtl_up_link = 17 ∧
      (tUp 3 0 0 id).hive.loadCmd ≠ 3 ∧
      (tUp 3 0 0 id).hive.get F.timStat_state = 3) ∧
      ((tUp 3 0 0 id).hive.get F.timCtl_src = 3 ∧
      (tUp 3 0 0 id).hive.get F.timCtl_up_link = 17 ∧
      (tUp 3 0 0 id).hive.loadCmd ≠ 3 ∧
      (tUp 3 0 0 id).hive.get F.timStat_state = 3 ∧
      16 * (tUp 3 0 0 id).hive.tol <
        (Int.ofNat (16 * (tUp 3 0 0 id).hive.gtc + 0) -
            Int.ofNat (16 * (983040000 * 3 - 3000 + (tUp 3 0 0 id).hive.get (F.laneDlyUp_ticks 143)))).natAbs) ∧
      ((tUp 4 0 0 id).hive.get F.timCtl_src = 3 ∧
      (tUp 4 0 0 id).hive.get F.timCtl_up_link = 17 ∧
      (tUp 4 0 0 id).hive.loadCmd ≠ 3 ∧
      (tUp 4 0 0 id).hive.get F.timStat_state = 4) ∧
      ((tUp 2 3 0 id).hive.get F.timCtl_src = 3 ∧
      (tUp 2 3 0 id).hive.get F.timStat_state = 2 ∧
      (tUp 2 3 0 id).hive.timeAt + 983040 ≤ (tUp 2 3 0 id).hive.ticks) := by decide

/-- States and operands that meet the hypotheses of Barriers, clause by clause. -/
theorem meets_Barriers :
    (admits (nS [] id).hive.mode CmdGroup.timed = true ∧
      32 ≤ 63 ∧
      (goodEntry (ce 63 0 0) 10 false ((63 + if false = true then 256 else 0) + 512 * 0) 0 0 = true) ∧
      (nS [] id).hive.get (F.timWagStat_state 63) ≠ 1 ∧
      false = false ∧
      true = true) ∧
      (admits (nS [] id).hive.mode CmdGroup.timed = true ∧
      32 ≤ 63 ∧
      (goodEntry (ce (63 + 256) 0 0) 10 false ((63 + if true = true then 256 else 0) + 512 * 0) 0 0 = true) ∧
      (nS [] id).hive.get (F.timWagStat_state 63) ≠ 1 ∧
      true = true ∧
      (nS [] id).hive.flag F.topo_root = true ∧
      (∃ i, i < 16 ∧ i ≠ (nS [] id).hive.get F.topo_hive_id ∧ bitOf (nS [] id).hive.apiaryMask i = true) ∧
      17 ∈ (nS [] id).hive.treeDown ∧
      17 < 256) ∧
      (goodWrite (wq R.timWagArrive 2147483648) R.timWagArrive false = true ∧
      32 ≤ 63 ∧
      State.reset.hive.get (F.timWagStat_state 63) ≠ 1 ∧
      (State.reset.hive.get (F.timWagStat_state 63) ≠ 1 ∨
        State.reset.hive.barLate 63 = false ∨
          State.reset.hive.flag (F.timWagStat_scope 63) = true ∧ State.reset.hive.flag F.topo_root = false)) ∧
      (goodWrite (wq R.timWagArrive 2147483648) R.timWagArrive false = true ∧
      32 ≤ 63 ∧
      (nOpen 3 false).hive.get (F.timWagStat_state 63) = 1 ∧
      (nOpen 3 false).hive.flag (F.timWagStat_scope 63) = false ∧
      (nOpen 3 false).hive.get (F.timWagStat_cond 63) = 3 ∧
      bitOf (BitVec.toNat (wq R.timWagArrive 2147483648).value) (63 - 32) = true ∧
      17 ∈ (nOpen 3 false).hive.treeDown) ∧
      ((nOpen 0 true).hive.get (F.timWagStat_state 63) = 1 ∧
      (nOpen 0 true).hive.flag (F.timWagStat_scope 63) = true ∧
      (nOpen 0 true).hive.flag F.topo_root = true ∧
      (nOpen 0 true).hive.arrivedHere 63 = true) ∧
      ((nOpen 0 true).hive.get (F.timWagStat_state 63) = 1 ∧
      (nOpen 0 true).hive.flag (F.timWagStat_scope 63) = true ∧
      (nOpen 0 true).hive.flag F.topo_root = true ∧
      (nOpen 0 true).hive.arrivedHere 63 = true ∧
      (setBit (setBit ((nOpen 0 true).hive.bget 63).arrived 3 true) ((nOpen 0 true).hive.get F.topo_hive_id) true).land
          (nOpen 0 true).hive.apiaryMask ≠
        (nOpen 0 true).hive.apiaryMask) ∧
      (nSub.hive.get (F.timWagStat_state 63) = 1 ∧
      nSub.hive.flag (F.timWagStat_scope 63) = true ∧
      nSub.hive.flag F.topo_root = false ∧
      nSub.hive.arrivedHere 63 = true ∧
      (setBit (setBit (nSub.hive.bget 63).arrived 0 true) (nSub.hive.get F.topo_hive_id) true).land nSub.hive.subMask =
        nSub.hive.subMask ∧
      (nSub.hive.bget 63).sent = false) ∧
      (nLate.hive.get (F.timWagStat_state 63) = 1 ∧
      nLate.hive.barLate 63 = true ∧
      (nLate.hive.flag (F.timWagStat_scope 63) = false ∨ nLate.hive.flag F.topo_root = true) ∧
      0 < 16) ∧
      (nLateA.hive.get (F.timWagStat_state 63) = 1 ∧
      nLateA.hive.barLate 63 = true ∧
      (nLateA.hive.flag (F.timWagStat_scope 63) = false ∨ nLateA.hive.flag F.topo_root = true) ∧
      nLateA.hive.flag (F.timWagStat_scope 63) = true ∧
      17 ∈ nLateA.hive.treeDown ∧
      17 < 256) := by
  (repeat' apply And.intro) <;> first
    | decide | rfl | (intro _; rfl) | exact .inl ⟨rfl, rfl⟩ | exact .inl rfl | exact ⟨0, by decide⟩

/-- States and operands that meet the hypotheses of SnapshotsAndBroadcasts, clause by clause. -/
theorem meets_SnapshotsAndBroadcasts :
    (admits nHeld.hive.mode CmdGroup.timed = true ∧
      nHeld.hive.leadOk (ceT 255 0 0 2949500000).t.toNat false = true ∧
      (false = true → (ceT 255 0 0 2949500000).t.toNat ≤ nHeld.hive.gtc + 1966080000) ∧
      (goodEntry (ceT 255 0 0 2949500000) 9 true (255 + if false = true then 256 else 0) 0 0 = true) ∧
      nHeld.hive.get F.timSnapCtl_state = 1) ∧
      (admits (nS [] id).hive.mode CmdGroup.timed = true ∧
      (nS [] id).hive.leadOk (ceT 255 0 0 2949500000).t.toNat false = true ∧
      (false = true → (ceT 255 0 0 2949500000).t.toNat ≤ (nS [] id).hive.gtc + 1966080000) ∧
      (goodEntry (ceT 255 0 0 2949500000) 9 true (255 + if false = true then 256 else 0) 0 0 = true) ∧
      (nS [] id).hive.get F.timSnapCtl_state ≠ 1 ∧
      (false = true → (nS [] id).hive.flag F.topo_root = true) ∧
      (nS [] id).hive.flag F.timStat_load_pend = false ∧
      (nS [] id).hive.sched.length < 256 ∧
      (3 < 0 ∨ 0 = 0) ∧
      17 ∈ (nS [] id).hive.treeDown) ∧
      ((State.reset.hive.due SchedKind.snapshot = false ∨ State.reset.hive.patchDue = true) ∧
      (3 < 0 ∨ 0 = 0) ∧
      (∃ i, i < 256 ∧ (State.reset.hive.flt i).valid = false)) ∧
      (nDue.hive.due SchedKind.snapshot = true ∧
      nDue.hive.patchDue = false ∧
      (nDue.hive.get (F.wrkCombStat_power 63) = 1 ∨ nDue.hive.get (F.wrkCombStat_power 63) = 2) ∧
      255 ∈ nDue.hive.snapUnits 2 ∧
      (nDue.hive.snapItems 2 255)[2]? = some (some (R.cgStat 255))) ∧
      (1 = 1 ∧
      State.reset.hive.gtc < State.reset.hive.fullT 2000000000 ∧
      State.reset.hive.sched.length < 256) ∧
      (1 = 1 ∧
      (nS [] id).hive.gtc < (nS [] id).hive.fullT 3000000000 ∧
      (nS [] id).hive.sched.length < 256 ∧
      17 ∈ (nS [] id).hive.treeDown) ∧
      (1 = 1 ∧
      nFull.hive.gtc < nFull.hive.fullT 3000000000 ∧
      256 ≤ nFull.hive.sched.length) ∧
      (1 = 1 ∧
      State.reset.hive.fullT 3000000000 ≤ State.reset.hive.gtc) ∧
      (2 = 2) ∧
      (3 = 3 ∧
      (nOpen 0 true).hive.get (F.timWagStat_state (63 % 64)) = 1) := by
  (repeat' apply And.intro) <;> first
    | decide | rfl | (intro _; rfl) | exact .inl ⟨rfl, rfl⟩ | exact .inl rfl | exact ⟨0, by decide⟩

/-! ## Resets -/

def mS (l : List (RF × Nat)) (f : Hive → Hive) : State := at' (fun h => f { (runs ([(F.wrkDesc7_valid 63 7, 1),
    (F.wrkDesc0_kid 63 7, 1), (F.wrkDesc1_stream 63 7, 3), (F.wrkStat_state 63 7, 2), (F.steKern_kern_en 3, 1),
    (F.steKern_kern_worker 3, 511), (F.steValid_valid 3, 1), (F.steSlice_slice0 3, 1023), (⟨R.dieState, 0, 16⟩,
    0x2222)] ++ l) h) with streams := [3], sys := { h.sys with resets := [] } })
def mRes (l u : Nat) (bg : Bool) : State := mS [(F.wrkStat_state 63 7, if bg then 1 else 2)] (fun h =>
    { h.setSt 3 (if bg then stFaulted else stLive) with
    ticks := 2 ^ 40, sched := [⟨5, .snapshot⟩], sys := { h.sys with
      resets := [⟨l, u, ⟨.queue, 1, false, 9, 0x0B, 5⟩, false, bg, 0⟩] } })
def mWait (l u : Nat) : State := mS [] (fun h => { h.setSt 3 stRampDown with
    sys := { h.sys with resets := [⟨l, u, ⟨.queue, 1, false, 9, 0x0B, 5⟩, false, false, 0⟩] } })
def mDecl : KernDecl := ⟨1, 0, 0, 0, 0, 0, 0, 5, [], 0⟩
def mPat : State := mS [(F.wrkDesc0_kid 63 7, 16), (F.wrkStat_state 63 7, 1)] (fun h => { h with
    kdecl := [(16, some mDecl)], sys := { h.sys with
      resets := [⟨0, 511, ⟨.queue, 1, false, 9, 0x0B, 5⟩, false, true, 0⟩] } })
/-- Resets that wait and that have begun. -/
def mUn0 : ResetSt := ⟨0, 511, ⟨.queue, 1, false, 9, 0x0B, 5⟩, false, false, 0⟩
def mBe0 : ResetSt := ⟨0, 511, ⟨.queue, 1, false, 9, 0x0B, 5⟩, false, true, 0⟩
def mUn3 : ResetSt := ⟨3, 1, ⟨.queue, 1, false, 9, 0x0B, 5⟩, false, false, 0⟩
def mBe3 : ResetSt := ⟨3, 1, ⟨.queue, 1, false, 9, 0x0B, 5⟩, false, true, 0⟩
def noWorkers : List WorkerId := []
def opSnap : SchedOp := ⟨5, .snapshot⟩
def mSlot (q : Nat) (c : Bool) : SlotSt := { SlotSt.empty with
    magic := true, crcGood := true, complete := c, seq := q }
def mSl : State := at' (fun h => { h with slots := [(0, mSlot 5 true), (3, mSlot 6 false)] })
def mBoot : State := at' (fun h => { sets [(F.pwrStat_main_good, 1), (F.pwrClkStat_sclk_lock, 1)] h with
    mode := .boot, ticks := 1966080, sys := { h.sys with otpProv := 15 } })

/-- States and operands that meet the hypotheses of UnitResets, clause by clause. -/
theorem meets_UnitResets :
    (511 < resetUnits 0 ∧
      admits (mRes 0 511 false).hive.mode CmdGroup.timed = true ∧
      (0, Instr.resetWorker (ce (4 * 511) 0 0)) ∈
        [(0, Instr.resetWorker (ce (4 * 511) 0 0)), (1, Instr.resetComb (ce (4 * 511) 0 0)),
          (2, Instr.resetFrame (ce (4 * 511) 0 0)), (3, Instr.resetDie (ce (4 * 511) 0 0))] ∧
      (((mRes 0 511 false).hive.sys.resets.any fun r => r.covers 0 511) = true) ∧
      goodEntry (ce (4 * 511) 0 0) 11 false (0 + 4 * 511) 0 0 = true ∧
      511 = 511 ∧
      (List.find? (fun r => r.level == 0 && r.unit == 511 && !r.begun) (mRes 0 511 false).hive.sys.resets = some mUn0) ∧
      (mRes 0 511 false).hive.resetDue mUn0 = true ∧
      0 = 0 ∧
      (mRes 0 511 false).hive.kvalid 511 = true ∧
      (mRes 0 511 false).hive.wrkSt 511 < 5) ∧
      (511 < resetUnits 0 ∧
      admits (mS [] id).hive.mode CmdGroup.timed = true ∧
      (0, Instr.resetWorker (ce (4 * 511) 0 0)) ∈
        [(0, Instr.resetWorker (ce (4 * 511) 0 0)), (1, Instr.resetComb (ce (4 * 511) 0 0)),
          (2, Instr.resetFrame (ce (4 * 511) 0 0)), (3, Instr.resetDie (ce (4 * 511) 0 0))] ∧
      (((mS [] id).hive.sys.resets.any fun r => r.covers 0 511) = false) ∧
      goodEntry (ce (4 * 511) 0 0) 11 false (0 + 4 * 511) 0 0 = true ∧
      511 ∈ resetWorkers 0 511 ∧
      (mS [] id).hive.kvalid 511 = true ∧
      (mS [] id).hive.wrkSt 511 ≠ 6 ∧
      3 ∈ (mS [] id).hive.pathStreams 511 ∧
      511 = 511 ∧
      (List.find? (fun r => r.level == 0 && r.unit == 511 && !r.begun) (mS [] id).hive.sys.resets = none) ∧
      (List.find? (fun r => r.level == 0 && r.unit == 511 && r.begun) (mS [] id).hive.sys.resets = none)) ∧
      (1 < resetUnits 3 ∧
      admits (mS [] id).hive.mode CmdGroup.timed = true ∧
      (3, Instr.resetDie (ce 7 0 0)) ∈
        [(0, Instr.resetWorker (ce 7 0 0)), (1, Instr.resetComb (ce 7 0 0)), (2, Instr.resetFrame (ce 7 0 0)),
          (3, Instr.resetDie (ce 7 0 0))] ∧
      (((mS [] id).hive.sys.resets.any fun r => r.covers 3 1) = false) ∧
      goodEntry (ce 7 0 0) 11 false (3 + 4 * 1) 0 0 = true ∧
      3 = 3 ∧
      1 < 2 ∧
      3 ∈ (mS [] id).hive.image ∧
      (mS [] id).hive.onDie 3 1 = true) ∧
      (511 < resetUnits 0 ∧
      admits (mS [] id).hive.mode CmdGroup.timed = true ∧
      (0, Instr.resetWorker (ceT (4 * 511) 0 0 (2 ^ 40))) ∈
        [(0, Instr.resetWorker (ceT (4 * 511) 0 0 (2 ^ 40))), (1, Instr.resetComb (ceT (4 * 511) 0 0 (2 ^ 40))),
          (2, Instr.resetFrame (ceT (4 * 511) 0 0 (2 ^ 40))), (3, Instr.resetDie (ceT (4 * 511) 0 0 (2 ^ 40)))] ∧
      (((mS [] id).hive.sys.resets.any fun r => r.covers 0 511) = false) ∧
      0 < 3 ∧
      goodEntry (ceT (4 * 511) 0 0 (2 ^ 40)) 11 true (0 + 4 * 511) 0 0 = true ∧
      (mS [] id).hive.leadOk (ceT (4 * 511) 0 0 (2 ^ 40)).t.toNat false = true ∧
      (mS [] id).hive.flag F.timStat_load_pend = false ∧
      (mS [] id).hive.sched.length < 256) ∧
      (1 < resetUnits 3 ∧
      1 = 1 ∧
      (List.find? (fun r => r.level == 3 && r.unit == 1 && !r.begun) (mRes 3 1 false).hive.sys.resets = some mUn3) ∧
      (mRes 3 1 false).hive.resetDue mUn3 = true ∧
      3 = 3 ∧
      1 < 2 ∧
      3 ∈ (mRes 3 1 false).hive.image ∧
      (mRes 3 1 false).hive.home 3 = 1) ∧
      (511 < resetUnits 0 ∧
      511 = 511 ∧
      (List.find? (fun r => r.level == 0 && r.unit == 511 && !r.begun) (mWait 0 511).hive.sys.resets = some mUn0) ∧
      (mWait 0 511).hive.resetDue mUn0 = false) ∧
      (511 < resetUnits 0 ∧
      511 = 511 ∧
      (List.find? (fun r => r.level == 0 && r.unit == 511 && r.begun) (mRes 0 511 true).hive.sys.resets = some mBe0) ∧
      511 ∈ resetWorkers 0 511 ∧
      (mRes 0 511 true).hive.wrkSt 511 = 1 ∧
      (mRes 0 511 true).hive.kvalid 511 = true ∧
      (mRes 0 511 true).hive.wrkSt 511 ≠ 5 ∧
      (mRes 0 511 true).hive.wrkSt 511 ≠ 6 ∧
      (noWorkers = [] ∨ (mRes 0 511 true).hive.kdeclOf 511 = none)) ∧
      (1 < resetUnits 3 ∧
      1 = 1 ∧
      (List.find? (fun r => r.level == 3 && r.unit == 1 && r.begun) (mRes 3 1 true).hive.sys.resets = some mBe3) ∧
      3 = 3 ∧
      1 < 2 ∧
      3 ∈ (mRes 3 1 true).hive.image ∧
      (mRes 3 1 true).hive.home 3 = 1 ∧
      (mRes 3 1 true).hive.st 3 = stFaulted) ∧
      (511 < resetUnits 0 ∧
      511 = 511 ∧
      (List.find? (fun r => r.level == 0 && r.unit == 511 && r.begun) mPat.hive.sys.resets = some mBe0) ∧
      511 ∈ resetWorkers 0 511 ∧
      mPat.hive.kvalid 511 = true ∧
      mPat.hive.wrkSt 511 ≠ 5 ∧
      mPat.hive.wrkSt 511 ≠ 6 ∧
      (511 ∈ List.map (fun v => ↑v) [511]) ∧
      mPat.hive.kdeclOf 511 ≠ none) := by
  (repeat' apply And.intro) <;> first
    | decide | rfl | (intro _; rfl) | exact .inl ⟨rfl, rfl⟩ | exact .inl rfl | exact ⟨0, by decide⟩

/-- States and operands that meet the hypotheses of HiveResets, clause by clause. -/
theorem meets_HiveResets :
    (¬R.scrubCtl ∈ hiveKept ∧
      (State.reset.hive.get F.hiveIdent_grade = 2 → ¬R.scrubCtl ∈ [R.hskThr 0, R.hskThr 1, R.hskThr 2]) ∧
      State.reset.hive.slotBest 15 = none ∧
      ¬R.scrubCtl ∈ coldKept ∧
      faultReg R.scrubCtl = false ∧
      inRange (R.useTCtl 0) 128 R.scrubCtl = false ∧
      R.scrubCtl ≠ R.pwrBakStat ∧
      R.scrubCtl ≠ R.pwrClkStat ∧
      (State.reset.hive.flag F.pwrStat_main_good = false ∨
        State.reset.hive.ticks < State.reset.hive.sys.mainAt + 1966080 ∨
          State.reset.hive.flag F.pwrClkStat_sclk_lock = false ∨
            State.reset.hive.queenUp = true ∨ State.reset.hive.mode ≠ Mode.cold ∧ State.reset.hive.mode ≠ Mode.boot)) ∧
      (mSl.hive.slotBest 15 = some 0 ∧
      (∃ j : Fin 4,
        (mSl.hive.slotAt ↑j).magic = true ∧
          (mSl.hive.slotAt ↑j).complete = false ∧ (mSl.hive.slotAt 0).seq < (mSl.hive.slotAt ↑j).seq)) ∧
      (mBoot.hive.flag F.pwrStat_main_good = true ∧
      mBoot.hive.sys.mainAt + 1966080 ≤ mBoot.hive.ticks ∧
      mBoot.hive.flag F.pwrClkStat_sclk_lock = true ∧
      mBoot.hive.queenUp = false ∧
      (mBoot.hive.mode = Mode.cold ∨ mBoot.hive.mode = Mode.boot) ∧
      bitOf mBoot.hive.sys.otpProv 0 = true ∧
      bitOf 0 0 = false) ∧
      (mBoot.hive.flag F.pwrStat_main_good = true ∧
      mBoot.hive.sys.mainAt + 1966080 ≤ mBoot.hive.ticks ∧
      mBoot.hive.flag F.pwrClkStat_sclk_lock = true ∧
      mBoot.hive.queenUp = false ∧
      (mBoot.hive.mode = Mode.cold ∨ mBoot.hive.mode = Mode.boot) ∧
      false = false) := by
  (repeat' apply And.intro) <;> first
    | decide | rfl | (intro _; rfl) | exact .inl ⟨rfl, rfl⟩ | exact .inl rfl | exact ⟨0, by decide⟩

/-! ## Power -/

def pS (l : List (RF × Nat)) (f : Hive → Hive) : State := at' (fun h => f { (runs ([(F.steValid_valid 2047,
    1)] ++ l) h).setSt 2047 stLive with streams := [2047], sched := [⟨0, .snapshot⟩, ⟨5000000, .sparing 1⟩] })
def pTaskM (act : Nat) : MaintSt := ⟨act, 0, ⟨.queue, 1, false, 9, 0x0D, 5⟩, none, 0, 0, 0, 0, 0, []⟩
def pTask (act : Nat) (h : Hive) : Hive := (h.mset 15 (some ⟨act, 0, ⟨.queue, 1, false, 9, 0x0D, 5⟩, none, 0, 0, 0,
    0, 0, []⟩)).set (F.cmdMaint_state 15) (if act = 6 then 2 else 1)
def pRun : State := pS [(F.pwrStat_main_good, 1)] (pTask 1)
def pFl : State := pS [] (fun h => { h with flush := some (3, 4) })
def pArm : State := pS [] (fun h => h.setSt 2047 stArmed)
def pPf : State := pS [] (fun h => { h with safeBy := 1 })
def pBoot : State := pS [] (fun h => { h with mode := .boot })
def opSnap0 : SchedOp := ⟨0, .snapshot⟩
def pMt : State := pS [] (pTask 6)
def pTaskN : MaintSt := { pTaskM 6 with a2 := 300 }
def pMtN : State := pS [] (fun h => { (h.mset 15 (some pTaskN)).set (F.cmdMaint_state 15) 2 with
    ticks := 117964800000 })
def pCalm (cap c mv : Nat) : State := pS [(F.pwrBakStat_cap, cap), (F.pwrBakCap_c_uf, c), (F.pwrBakStat_vbak_mv,
    mv)] (fun h => { h with ticks := 9830400000 })
def pCold : State := at' (fun h => { h with ticks := 98304000 })
def pBk (l : List (RF × Nat)) : State := pS (l ++ [(F.smbAlertCfg_bak, 1)]) (fun h => h.raiseSC 0x0D 0x01 0x1 2 0)
def pRf (act a b ho wtr : Nat) : State := pS [(F.pwrRefStat_active, act), (F.pwrRefStat_a_qual, a),
    (F.pwrRefStat_b_qual, b), (F.pwrRefStat_holdover, ho), (F.pwrRefStat_wtr_run, wtr), (F.pwrRefCtl_revert,
    wtr)] (fun h => { h with ticks := 2 ^ 40 })
def pNo : State := pS [(F.pwrClkStat_sclk_lock, 0), (F.pwrRefStat_a_qual, 1), (F.pwrStat_main_good, 1)] (fun h =>
    { h with mode := .cold, sys := { h.sys with railsGood := 127 } })
def pOne : State := pS [] (fun h => { h with sys := { h.sys with railsGood := 128 } })

/-- States and operands that meet the hypotheses of PowerFail, clause by clause. -/
theorem meets_PowerFail :
    ((true = true ∧ Instr.powerFail = Instr.powerFail ∨
        true = false ∧ ∃ r, Instr.powerFail = Instr.railPowerFailTrigger r) ∧
      bitOf pPf.hive.safeBy 0 = true) ∧
      ((true = true ∧ Instr.powerFail = Instr.powerFail ∨
        true = false ∧ ∃ r, Instr.powerFail = Instr.railPowerFailTrigger r) ∧
      bitOf State.reset.hive.safeBy 0 = false ∧
      (State.reset.hive.mode = Mode.cold ∨ State.reset.hive.mode = Mode.boot ∧ State.reset.hive.queenUp = false)) ∧
      ((true = true ∧ Instr.powerFail = Instr.powerFail ∨
        true = false ∧ ∃ r, Instr.powerFail = Instr.railPowerFailTrigger r) ∧
      bitOf pRun.hive.safeBy 0 = false ∧
      pRun.hive.mode ≠ Mode.cold ∧
      (pRun.hive.mode = Mode.boot → pRun.hive.queenUp = true) ∧
      2047 ∈ pRun.hive.image ∧
      pRun.hive.unmarked 2047 ∧
      (pRun.hive.st 2047 = stLive ∨ pRun.hive.st 2047 = stRampUp) ∧
      (∀ (n : Nat), n ∈ pRun.hive.image → rwcOk (pRun.hive.rd (R.smkDeadline n)) = true) ∧
      pRun.hive.mState 15 = 1 ∧
      pRun.hive.mget 15 ≠ none ∧
      15 < 16 ∧
      (pRun.hive.mode = Mode.run ∨ pRun.hive.mode = Mode.degraded ∨ pRun.hive.mode = Mode.safe)) ∧
      ((true = true ∧ Instr.powerFail = Instr.powerFail ∨
        true = false ∧ ∃ r, Instr.powerFail = Instr.railPowerFailTrigger r) ∧
      bitOf pArm.hive.safeBy 0 = false ∧
      pArm.hive.mode ≠ Mode.cold ∧
      (pArm.hive.mode = Mode.boot → pArm.hive.queenUp = true) ∧
      2047 ∈ pArm.hive.image ∧
      pArm.hive.unmarked 2047 ∧
      pArm.hive.st 2047 = stArmed) ∧
      ((true = true ∧ Instr.powerFail = Instr.powerFail ∨
        true = false ∧ ∃ r, Instr.powerFail = Instr.railPowerFailTrigger r) ∧
      bitOf pBoot.hive.safeBy 0 = false ∧
      pBoot.hive.mode ≠ Mode.cold ∧
      (pBoot.hive.mode = Mode.boot → pBoot.hive.queenUp = true) ∧
      (pBoot.hive.mode = Mode.boot ∨ pBoot.hive.mode = Mode.verify)) := by
  (repeat' apply And.intro) <;> first
    | decide | rfl | (intro _; rfl) | exact .inl ⟨rfl, rfl⟩ | exact .inl rfl | exact ⟨0, by decide⟩

/-- States and operands that meet the hypotheses of BackupAndKeeper, clause by clause. -/
theorem meets_BackupAndKeeper :
    (pRun.hive.flag F.pwrStat_main_good = true) ∧
      (State.reset.hive.flag F.pwrStat_main_good = false ∧
      State.reset.hive.flag F.smbAlertCfg_bak = true ∧
      (State.reset.hive.calm = false ∨ State.reset.hive.ticks < State.reset.hive.sys.calmAt + 9830400000) ∧
      State.reset.hive.maintOfAct 6 = none ∧
      (State.reset.hive.sys.railsGood ≠ 0 ∨
        State.reset.hive.mode ≠ Mode.cold ∨
          State.reset.hive.flush ≠ none ∨
            State.reset.hive.sys.rung0 = true ∨ State.reset.hive.ticks < State.reset.hive.sys.smbAt + 98304000) ∧
      State.reset.hive.flag F.pwrStat_keep_src = false) ∧
      (pMt.hive.maintOfAct 6 = some 15 ∧
      pMt.hive.mget 15 = some (pTaskM 6) ∧
      (pTaskM 6).a2 < pMt.hive.get F.pwrBakStat_vbak_mv + 250 ∧
      pMt.hive.ticks < (pTaskM 6).since + 117964800000) ∧
      ((pCalm 3 5 2500).hive.calm = true ∧
      (pCalm 3 5 2500).hive.sys.calmAt + 9830400000 ≤ (pCalm 3 5 2500).hive.ticks ∧
      (pCalm 3 5 2500).hive.get F.pwrBakStat_cap = 3) ∧
      (pMtN.hive.calm = true ∧
      pMtN.hive.sys.calmAt + 9830400000 ≤ pMtN.hive.ticks ∧
      pMtN.hive.get F.pwrBakStat_cap ≠ 3 ∧
      pMtN.hive.get F.pwrBakCap_c_uf = 0 ∧
      pMtN.hive.maintOfAct 6 = some 15 ∧
      pMtN.hive.mget 15 = some pTaskN ∧
      pMtN.hive.get F.pwrBakStat_vbak_mv + 250 ≤ pTaskN.a2 ∧
      roundEvenN (4 * (pMtN.hive.sys.learnQ - pMtN.hive.sys.qAcc).natAbs) 1024 < 2 ^ 24 ∧
      pTaskN.since + 117964800000 ≤ pMtN.hive.ticks) ∧
      ((pCalm 0 1000 4000).hive.calm = true ∧
      (pCalm 0 1000 4000).hive.sys.calmAt + 9830400000 ≤ (pCalm 0 1000 4000).hive.ticks ∧
      (pCalm 0 1000 4000).hive.get F.pwrBakStat_cap ≠ 3 ∧
      (pCalm 0 1000 4000).hive.get F.pwrBakCap_c_uf ≠ 0 ∧
      0 <
        Int.ofNat ((pCalm 0 1000 4000).hive.get F.pwrBakCap_c_uf) *
          (Int.ofNat ((pCalm 0 1000 4000).hive.get F.pwrBakStat_vbak_mv) - 2500)) ∧
      (pCold.hive.sys.railsGood = 0 ∧
      pCold.hive.mode = Mode.cold ∧
      pCold.hive.flush = none ∧
      pCold.hive.flushNext = none ∧
      pCold.hive.maintOfAct 6 = none ∧
      pCold.hive.sys.rung0 = false ∧
      pCold.hive.sys.smbAt + 98304000 ≤ pCold.hive.ticks) ∧
      ((pBk [(F.pwrStat_keep_src, 1)]).hive.flag F.pwrStat_keep_src = true) := by decide

/-- States and operands that meet the hypotheses of RailsAndReferences, clause by clause. -/
theorem meets_RailsAndReferences :
    ((setBit State.reset.hive.sys.railsGood 7 true ≠ 0 ∨ State.reset.hive.mode = Mode.cold) ∧
      true = true ∧
      State.reset.hive.mode = Mode.cold ∧
      (((railsBefore 7).any fun k => !bitOf State.reset.hive.sys.railsGood k) = true) ∧
      State.reset.hive.get F.pwrRefStat_active ≠ 0 + 1 ∧
      goodWrite (wq R.pwrRefCtl 1024) R.pwrRefCtl false = true ∧
      bitsOf (BitVec.toNat (wq R.pwrRefCtl 1024).value) 10 2 = 0 + 1 ∧
      State.reset.hive.flag (refQual 0) = false ∧
      (State.reset.hive.get F.pwrRefStat_active = 0 ∨ State.reset.hive.get F.pwrRefStat_active = 3) ∧
      (State.reset.hive.flag F.pwrRefStat_wtr_run = false ∨
        State.reset.hive.flag F.pwrRefCtl_revert = false ∨
          State.reset.hive.flag (refQual State.reset.hive.refPref) = false ∨
            State.reset.hive.ticks <
              State.reset.hive.sys.wtrAt + max 1 (State.reset.hive.get F.pwrRefCtl_wtr) * 983040000) ∧
      goodWrite (wq R.pwrRefCtl 3072) R.pwrRefCtl false = true ∧
      bitsOf (BitVec.toNat (wq R.pwrRefCtl 3072).value) 10 2 = 3 ∧
      State.reset.hive.flag F.pwrClkStat_xtal_ok = false) ∧
      ((setBit pNo.hive.sys.railsGood 7 true ≠ 0 ∨ pNo.hive.mode = Mode.cold) ∧
      true = true ∧
      setBit pNo.hive.sys.railsGood 7 true = 255 ∧
      pNo.hive.flag F.pwrClkStat_sclk_lock = false ∧
      (pNo.hive.flag F.pwrRefStat_a_qual = true ∨ pNo.hive.flag F.pwrRefStat_b_qual = true) ∧
      pNo.hive.flag F.pwrRefStat_holdover = false ∧
      pNo.hive.flag F.pwrStat_main_good = true) ∧
      (setBit pOne.hive.sys.railsGood 7 false = 0 ∧
      pOne.hive.mode ≠ Mode.cold ∧
      pOne.hive.flag F.pwrRefStat_holdover = false ∧
      pOne.hive.flag F.pwrClkStat_sclk_lock = true) ∧
      ((pRf 0 0 0 1 0).hive.flag F.pwrRefStat_holdover = true) ∧
      ((pRf 1 1 1 0 1).hive.get F.pwrRefStat_active = 0 + 1 ∧
      (pRf 1 1 1 0 1).hive.flag (refQual (1 - 0)) = true ∧
      (pRf 1 1 1 0 1).hive.flag F.pwrRefStat_wtr_run = true ∧
      (pRf 1 1 1 0 1).hive.flag F.pwrRefCtl_revert = true ∧
      (pRf 1 1 1 0 1).hive.refPref = 0 ∧
      (pRf 1 1 1 0 1).hive.flag (refQual 0) = true ∧
      (pRf 1 1 1 0 1).hive.sys.wtrAt + max 1 ((pRf 1 1 1 0 1).hive.get F.pwrRefCtl_wtr) * 983040000 ≤
        (pRf 1 1 1 0 1).hive.ticks ∧
      goodWrite (wq R.pwrRefCtl 1024) R.pwrRefCtl false = true ∧
      bitsOf (BitVec.toNat (wq R.pwrRefCtl 1024).value) 10 2 = 0 + 1 ∧
      (pRf 1 1 1 0 1).hive.flag F.pwrClkStat_sclk_lock = true) ∧
      ((pRf 1 1 0 0 0).hive.get F.pwrRefStat_active = 0 + 1 ∧
      (pRf 1 1 0 0 0).hive.flag (refQual (1 - 0)) = false) ∧
      (goodWrite (wq R.pwrRefCtl 0) R.pwrRefCtl false = true ∧
      bitsOf (BitVec.toNat (wq R.pwrRefCtl 0).value) 10 2 = 0) ∧
      ((pS [(F.pwrClkStat_xtal_ok, 1)] id).hive.flag F.pwrClkStat_xtal_ok = true) := by decide

/-! ## Housekeeping -/

def qRaw (d : Nat) (v : Int) : List Int :=
    List.replicate (16 * d) 5000 ++ List.replicate 16 v ++ List.replicate (48 - 16 * d) 5000 ++ [750, 750, 750,
    800, 800, 900, 1200, 1800, 1700]
def qw (v : Nat) : Nat := (rwcWord v).toNat
def qS (l : List (RF × Nat)) (f : Hive → Hive) : State := at' (fun h => f { (runs ([(⟨R.hskThr 0, 0, 32⟩,
    qw 20000), (⟨R.hskThr 1, 0, 32⟩, qw 22000), (⟨R.hskThr 2, 0, 32⟩, qw 24000), (F.hskHyst_warn, 3),
    (F.hskHyst_throt, 3), (F.hskHyst_shut, 3), (F.hskThrCtl_grace, 1), (F.hskThrCtl_step_s, 1),
    (F.steValid_valid 3, 1), (⟨R.dieState, 0, 16⟩, 0x2222)] ++ l) h) with streams := [3], gtc := 23592960 })
def qRun : State := qS [(F.fanCtl_en 3, 1), (F.fanStat_state 3, 2)] id
def qOff : State := qS [] (fun h => h.setDieSt 3 0)
def qOdd : State := qS [] (fun h => { h with gtc := 1 })
def qGr : State := qS [(F.hskThrStat_grace_run, 1)] id
def qLd (v : Nat) (hot : Bool) (l : LadderSt → LadderSt) (x : Hive → Hive) : State := qS [(F.hskThrStat_level, v),
    (F.hskDieT_valid 3, 1), (F.hskDieT_t 3, if hot then 23000 else 5000), (F.hskThrStat_grace_run, if v = 0 then
    1 else 0)] (fun h => x { h with
    envT := [(1, 1)], sys.ladder := l { h.sys.ladder with
      above := if hot then 2 ^ 10 else 0, step := 100, grace := 100, out := if hot then none else some 50 } })
def qUp (v : Nat) : State := qLd v true id (fun h => sets [(F.gceLoopCfg_type 0, 4), (F.gceLoopCfg_stream 0, 3),
    (F.steCfg_nloops 3, 1), (F.gceLoopState_dormant 0, 1)] h)
def qDn (v : Nat) : State := qLd v false (fun l => { l with acts := [(6, true, 0), (5, false, 0)] }) id
def qDnS : State := qLd 5 false (fun l => { l with out := some 1 }) id
def qDnN : State := qLd 5 false (fun l => { l with out := none }) id
/-- A self-test that runs. -/
def qTest : MaintSt := ⟨4, 0, ⟨.queue, 1, false, 9, 0x0D, 5⟩, none, 0, 0, 0, 0, 0, []⟩
def qSelf : State := qS [] (fun h =>
    ((h.mset 15 (some qTest)).set (F.cmdMaint_state 15) 2).senSet 62 { h.senGet 62 with
    held := true, broken := true })
def qW : RegWrite := wq (R.hskThr 2) (qw 30720)
def qX : RegWrite := wq (R.hskThr 2) (qw 17919)
def qTh (s : State) (w : RegWrite) (k j : Nat) : Int := if j = k then sext 16 w.value.toNat else s.hive.thrVal j
def qRnd (x : State) : State := { x with
    hive := { x.hive with sys := { x.hive.sys with roundAt := some x.hive.ticks } } }
def qLate (x : State) : State := { x with hive := { x.hive with ticks := 10 ^ 11 } }
def qF (st duty : Nat) (l : List (RF × Nat)) (f : FanSt → FanSt) (x : Hive → Hive) : State := qS ([(F.fanCtl_en 3,
    1), (F.fanStat_state 3, st), (F.fanStat_duty 3, duty), (F.fanCtl_en 2, 1), (F.fanStat_state 2, 2),
    (F.fanLearn_rpm_max 3, 5000)] ++ l) (fun h => x (h.fanSet 3 (f (h.fanGet 3))))
def qFan (st duty : Nat) (l : List (RF × Nat)) : State := qF st duty l id id
def qTr : State := qF 2 100 [] (fun u => { u with trend := some (5, 0) }) id
def qLc (k : Nat) (f : Nat) : State := qS [(F.fanCtl_en f, 1), (F.fanCtl_en 3, 1)] (fun h => (h.mset 15 (some ⟨5,
    0, ⟨.queue, 1, false, 9, 0x0D, 5⟩, none, 0, 0, k, 0, 0, []⟩)).set (F.cmdMaint_state 15) 2)
def qCf : State := qF 3 0 [] id (fun h => h.raiseSC 0x0B 0x01 0x4 2 0)
def qMt (k : Nat) : MaintSt := ⟨5, 0, ⟨.queue, 1, false, 9, 0x0D, 5⟩, none, 0, 0, k, 0, 0, []⟩
def qStl : State := qF 3 0 [] (fun u => { u with stall := 1 }) (fun h => h.raiseSC 0x0B 0x01 0x4 2 0)
def qSlw : State := qF 2 100 [] (fun u => { u with slowAt := some 0 }) id

/-- States and operands that meet the hypotheses of HousekeepingRound, clause by clause. -/
theorem meets_HousekeepingRound :
    ((State.reset.hive.mode = Mode.cold ∨
        State.reset.hive.gtc % 23592960 ≠ 0 ∨ State.reset.hive.gtc = 0 ∨ State.reset.hive.atRound = true)) ∧
      (qRun.hive.mode ≠ Mode.cold ∧
      qRun.hive.gtc % 23592960 = 0 ∧
      qRun.hive.gtc ≠ 0 ∧
      qRun.hive.atRound = false ∧
      0 ≤ (qRaw 3 24000).getD 88 0 ∧
      (qRaw 3 24000).getD 88 0 < 8192 ∧
      63 < 96 ∧
      qRun.hive.chOff 63 = false ∧
      63 ≠ 89 ∧
      qRun.hive.dieSt 3 ≠ 0 ∧
      ((if [3000, 0, 0, 8000000].getD 3 0 = 0 then 0
        else roundEvenN 471859200000 ([3000, 0, 0, 8000000].getD 3 0 * (qRun.hive.get (F.fanCtl_ppr 3) + 1))) <
        65536) ∧
      qRun.hive.flag (F.fanCtl_en 3) = true ∧
      (qRun.hive.fanGet 3).learn = none ∧
      (qRun.hive.fanSt 3 = 2 ∨ qRun.hive.fanSt 3 = 5)) ∧
      (qRun.hive.mode ≠ Mode.cold ∧
      qRun.hive.gtc % 23592960 = 0 ∧
      qRun.hive.gtc ≠ 0 ∧
      qRun.hive.atRound = false ∧
      89 < 96 ∧
      qRun.hive.chOff 89 = false ∧
      89 = 89 ∧
      clampS 16
          { qRun.hive with sys := { qRun.hive.sys with isns := (qRaw 3 24000).getD 89 0 } }.shuntCur =
        { qRun.hive with sys := { qRun.hive.sys with isns := (qRaw 3 24000).getD 89 0 } }.shuntCur) ∧
      (qOff.hive.mode ≠ Mode.cold ∧
      qOff.hive.gtc % 23592960 = 0 ∧
      qOff.hive.gtc ≠ 0 ∧
      qOff.hive.atRound = false ∧
      qOff.hive.dieSt 3 = 0) := by
  (repeat' apply And.intro) <;> first
    | decide | rfl | (intro _; rfl) | exact .inl ⟨rfl, rfl⟩ | exact .inl rfl | exact ⟨0, by decide⟩

/-- States and operands that meet the hypotheses of ThrottleLadder, clause by clause. -/
theorem meets_ThrottleLadder :
    ((qRnd (qUp 0)).hive.atRound = true ∧
      (qRnd (qUp 0)).hive.flag F.hskThrStat_grace_run = true ∧
      (qRnd (qUp 0)).hive.graceRounds ≤ (qRnd (qUp 0)).hive.sys.ladder.grace ∧
      (qRnd (qUp 0)).hive.ladLevel = 0 ∧
      (qRnd (qUp 0)).hive.anyIn 1 = true) ∧
      (((qUp 0).hive.atRound = false ∨
        (qUp 0).hive.flag F.hskThrStat_grace_run = false ∨
          (qUp 0).hive.sys.ladder.grace < (qUp 0).hive.graceRounds ∨
            (qUp 0).hive.ladLevel ≠ 0 ∨ (qUp 0).hive.anyIn 1 = false) ∧
      ((qUp 0).hive.atRound = false ∨ (qUp 0).hive.ladLevel = 0) ∧
      (qUp 0).hive.maintOfAct 4 = none ∧
      goodWrite qW (R.hskThr 2) true = true ∧
      (∀ (j : Nat), qTh (qUp 0) qW 2 j = if j = 2 then sext 16 (BitVec.toNat qW.value) else (qUp 0).hive.thrVal j) ∧
      ((if 2 = 2 then 17920 else 15360) ≤ qTh (qUp 0) qW 2 2 ∧
        qTh (qUp 0) qW 2 2 ≤ 30720 ∧ qTh (qUp 0) qW 2 0 ≤ qTh (qUp 0) qW 2 1 ∧ qTh (qUp 0) qW 2 1 < qTh (qUp 0) qW 2 2)) ∧
      ((qRnd (qUp 1)).hive.atRound = true ∧
      (qRnd (qUp 1)).hive.ladLevel ≠ 0 ∧
      (qRnd (qUp 1)).hive.hot = true ∧
      (qRnd (qUp 1)).hive.stepRounds ≤ (qRnd (qUp 1)).hive.sys.ladder.step ∧
      (qRnd (qUp 1)).hive.ladLevel < (qRnd (qUp 1)).hive.ladTop) ∧
      ((qRnd (qUp 5)).hive.atRound = true ∧
      (qRnd (qUp 5)).hive.ladLevel ≠ 0 ∧
      (qRnd (qUp 5)).hive.hot = true ∧
      (qRnd (qUp 5)).hive.stepRounds ≤ (qRnd (qUp 5)).hive.sys.ladder.step ∧
      (qRnd (qUp 5)).hive.ladLevel < (qRnd (qUp 5)).hive.ladTop ∧
      4 < (qRnd (qUp 5)).hive.ladLevel + 1 ∧
      (List.find?
          (fun t =>
            !(qRnd (qUp 5)).hive.sys.ladder.acts.any fun a =>
                a.snd.fst == decide (4 + (qRnd (qUp 5)).hive.shedOrder.length < (qRnd (qUp 5)).hive.ladLevel + 1) &&
                  a.snd.snd == t)
          (qRnd (qUp 5)).hive.shedOrder =
        some 0) ∧
      decide (4 + (qRnd (qUp 5)).hive.shedOrder.length < (qRnd (qUp 5)).hive.ladLevel + 1) = true ∧
      3 ∈ (qRnd (qUp 5)).hive.tenantStreams 0) ∧
      ((qRnd (qUp 4)).hive.atRound = true ∧
      (qRnd (qUp 4)).hive.ladLevel ≠ 0 ∧
      (qRnd (qUp 4)).hive.hot = true ∧
      (qRnd (qUp 4)).hive.stepRounds ≤ (qRnd (qUp 4)).hive.sys.ladder.step ∧
      (qRnd (qUp 4)).hive.ladLevel < (qRnd (qUp 4)).hive.ladTop ∧
      4 < (qRnd (qUp 4)).hive.ladLevel + 1 ∧
      (List.find?
          (fun t =>
            !(qRnd (qUp 4)).hive.sys.ladder.acts.any fun a =>
                a.snd.fst == decide (4 + (qRnd (qUp 4)).hive.shedOrder.length < (qRnd (qUp 4)).hive.ladLevel + 1) &&
                  a.snd.snd == t)
          (qRnd (qUp 4)).hive.shedOrder =
        some 0) ∧
      decide (4 + (qRnd (qUp 4)).hive.shedOrder.length < (qRnd (qUp 4)).hive.ladLevel + 1) = false ∧
      3 ∈ (qRnd (qUp 4)).hive.tenantStreams 0 ∧
      0 ∈ (qRnd (qUp 4)).hive.slotsOfType 3 4) ∧
      ((qUp 6).hive.ladLevel ≠ 0 ∧
      (qUp 6).hive.hot = true ∧
      ((qUp 6).hive.sys.ladder.step < (qUp 6).hive.stepRounds ∨ (qUp 6).hive.ladTop ≤ (qUp 6).hive.ladLevel)) ∧
      (qDnS.hive.ladLevel ≠ 0 ∧
      qDnS.hive.hot = false ∧
      qDnS.hive.sys.ladder.out = some 1 ∧
      1 < qDnS.hive.stepRounds) ∧
      ((qRnd (qDn 6)).hive.ladLevel ≠ 0 ∧
      (qRnd (qDn 6)).hive.hot = false ∧
      (qRnd (qDn 6)).hive.sys.ladder.out = some 50 ∧
      (qRnd (qDn 6)).hive.atRound = true ∧
      (qRnd (qDn 6)).hive.stepRounds ≤ 50 ∧
      (qRnd (qDn 6)).hive.sys.ladder.shut = false ∧
      ((qRnd (qDn 6)).hive.ladLevel, true, 0) ∈ (qRnd (qDn 6)).hive.sys.ladder.acts ∧
      3 ∈ (qRnd (qDn 6)).hive.tenantStreams 0) ∧
      ((qRnd (qDn 1)).hive.ladLevel ≠ 0 ∧
      (qRnd (qDn 1)).hive.hot = false ∧
      (qRnd (qDn 1)).hive.sys.ladder.out = some 50 ∧
      (qRnd (qDn 1)).hive.atRound = true ∧
      (qRnd (qDn 1)).hive.stepRounds ≤ 50 ∧
      (qRnd (qDn 1)).hive.ladLevel = 1) ∧
      (qDnN.hive.ladLevel ≠ 0 ∧
      qDnN.hive.hot = false ∧
      qDnN.hive.sys.ladder.out = none) ∧
      (qSelf.hive.maintOfAct 4 = some 15 ∧
      qSelf.hive.mget 15 = some qTest ∧
      qSelf.hive.ticks < qTest.since + 377487360) ∧
      ((qLate qSelf).hive.maintOfAct 4 = some 15 ∧
      (qLate qSelf).hive.mget 15 = some qTest ∧
      qTest.since + 377487360 ≤ (qLate qSelf).hive.ticks ∧
      63 < 64 ∧
      (List.replicate 63 false ++ [true]).getD 63 false = true ∧
      ((qLate qSelf).hive.senGet 63).broken = false) ∧
      ((qLate qSelf).hive.maintOfAct 4 = some 15 ∧
      (qLate qSelf).hive.mget 15 = some qTest ∧
      qTest.since + 377487360 ≤ (qLate qSelf).hive.ticks ∧
      62 < 64 ∧
      (List.replicate 63 false ++ [true]).getD 62 false = false ∧
      ((qLate qSelf).hive.senGet 62).broken = true) ∧
      ((qLate qSelf).hive.maintOfAct 4 = some 15 ∧
      (qLate qSelf).hive.mget 15 = some qTest ∧
      qTest.since + 377487360 ≤ (qLate qSelf).hive.ticks ∧
      61 < 64 ∧
      (List.replicate 63 false ++ [true]).getD 61 false = false ∧
      ((qLate qSelf).hive.senGet 61).broken = false) ∧
      (goodWrite qX (R.hskThr 2) true = true ∧
      (∀ (j : Nat), qTh (qUp 0) qX 2 j = if j = 2 then sext 16 (BitVec.toNat qX.value) else (qUp 0).hive.thrVal j) ∧
      ((qTh (qUp 0) qX 2 2 < if 2 = 2 then 17920 else 15360) ∨
        30720 < qTh (qUp 0) qX 2 2 ∨ qTh (qUp 0) qX 2 1 < qTh (qUp 0) qX 2 0 ∨ qTh (qUp 0) qX 2 2 ≤ qTh (qUp 0) qX 2 1)) := by
  (repeat' apply And.intro) <;> first
    | decide | rfl | (intro _; rfl) | exact .inl ⟨rfl, rfl⟩ | exact .inl rfl | exact ⟨0, by decide⟩

/-- States and operands that meet the hypotheses of Fans, clause by clause. -/
theorem meets_Fans :
    ((qLate (qFan 1 256 [])).hive.fanSt 3 = 1 ∧
      (qLate (qFan 1 256 [])).hive.get (F.fanStat_duty 3) ≠ 0 ∧
      (qLate (qFan 1 256 [])).hive.fanFor 3 2 = true ∧
      (qLate (qFan 1 256 [])).hive.flag (F.fanCtl_en 3) = true ∧
      ((qLate (qFan 1 256 [])).hive.fanGet 3).learn = none ∧
      true = true ∧
      (qLate (qFan 1 256 [])).hive.fanFor 3 3 = true ∧
      (qLate (qFan 1 256 [])).hive.get (F.fanStat_attempts 3) < 2) ∧
      ((qLate (qFan 1 256 [(F.fanStat_attempts 3, 2)])).hive.fanSt 3 = 1 ∧
      (qLate (qFan 1 256 [(F.fanStat_attempts 3, 2)])).hive.get (F.fanStat_duty 3) ≠ 0 ∧
      (qLate (qFan 1 256 [(F.fanStat_attempts 3, 2)])).hive.fanFor 3 3 = true ∧
      2 ≤ (qLate (qFan 1 256 [(F.fanStat_attempts 3, 2)])).hive.get (F.fanStat_attempts 3) ∧
      (qLate (qFan 1 256 [(F.fanStat_attempts 3, 2)])).hive.flag (F.fanCtl_en 3) = true ∧
      2 ≠ 3 ∧
      (qLate (qFan 1 256 [(F.fanStat_attempts 3, 2)])).hive.flag (F.fanCtl_en 2) = true ∧
      ((qLate (qFan 1 256 [(F.fanStat_attempts 3, 2)])).hive.fanGet 2).learn = none ∧
      ((qLate (qFan 1 256 [(F.fanStat_attempts 3, 2)])).hive.fanSt 2 = 2 ∨
        (qLate (qFan 1 256 [(F.fanStat_attempts 3, 2)])).hive.fanSt 2 = 5)) ∧
      ((State.reset.hive.fanSt 3 ≠ 1 ∨
        State.reset.hive.get (F.fanStat_duty 3) = 0 ∨ State.reset.hive.fanFor 3 2 = false) ∧
      (State.reset.hive.fanSt 3 ≠ 1 ∨ State.reset.hive.get (F.fanStat_duty 3) = 0 ∨ State.reset.hive.fanFor 3 3 = false) ∧
      (State.reset.hive.fanSt 3 ≠ 1 ∨
        State.reset.hive.get (F.fanStat_duty 3) ≠ 0 ∨ State.reset.hive.fanFor 3 10 = false) ∧
      (State.reset.hive.fanSt 3 ≠ 2 ∧ State.reset.hive.fanSt 3 ≠ 5 ∨
        State.reset.hive.get (F.fanStat_duty 3) = 0 ∨ State.reset.hive.fanFor 3 1 = false) ∧
      (State.reset.hive.fanGet 3).trend = none ∧
      (State.reset.hive.fanStalled 3 = false ∨ State.reset.hive.fanFor 3 3 = false) ∧
      goodWrite (wq (R.fanCtl 3) (257 * 4096)) (R.fanCtl 3) false = true ∧
      256 < bitsOf (BitVec.toNat (wq (R.fanCtl 3) (257 * 4096)).value) 12 9 ∧
      State.reset.hive.maintOfAct 5 = none ∧
      (State.reset.hive.fanSt 3 ≠ 2 ∨
        ∀ (k : Nat), (State.reset.hive.fanGet 3).slowAt = some k → State.reset.hive.ticks < k + 9830400000)) ∧
      ((qLate (qFan 1 0 [])).hive.fanSt 3 = 1 ∧
      (qLate (qFan 1 0 [])).hive.get (F.fanStat_duty 3) = 0 ∧
      (qLate (qFan 1 0 [])).hive.fanFor 3 10 = true) ∧
      (((qLate (qFan 2 100 [])).hive.fanSt 3 = 2 ∨ (qLate (qFan 2 100 [])).hive.fanSt 3 = 5) ∧
      (qLate (qFan 2 100 [])).hive.get (F.fanStat_duty 3) ≠ 0 ∧
      (qLate (qFan 2 100 [])).hive.fanFor 3 1 = true ∧
      (qLate (qFan 2 100 [])).hive.flag (F.fanCtl_en 3) = true ∧
      clampS 16 (qLate (qFan 2 100 [])).hive.tHotNow = (qLate (qFan 2 100 [])).hive.tHotNow ∧
      clampS 16 ((qLate (qFan 2 100 [])).hive.tHotNow - (qLate (qFan 2 100 [])).hive.tHotAgo) =
        (qLate (qFan 2 100 [])).hive.tHotNow - (qLate (qFan 2 100 [])).hive.tHotAgo ∧
      2 ≠ 3 ∧
      (qLate (qFan 2 100 [])).hive.flag (F.fanCtl_en 2) = true ∧
      ((qLate (qFan 2 100 [])).hive.fanGet 2).learn = none ∧
      ((qLate (qFan 2 100 [])).hive.fanSt 2 = 2 ∨ (qLate (qFan 2 100 [])).hive.fanSt 2 = 5)) ∧
      ((qTr.hive.fanGet 3).trend = some (5, 0) ∧
      qTr.hive.ticks < 0 + 58982400000) ∧
      (((qLate qTr).hive.fanGet 3).trend = some (5, 0) ∧
      0 + 58982400000 ≤ (qLate qTr).hive.ticks ∧
      clampS 16 ((qLate qTr).hive.tHotNow - 5) = (qLate qTr).hive.tHotNow - 5) ∧
      ((qLate qStl).hive.fanStalled 3 = true ∧
      (qLate qStl).hive.fanFor 3 3 = true ∧
      (qLate qStl).hive.flag (F.fanCtl_en 3) = true ∧
      ((qLate qStl).hive.fanGet 3).learn = none) ∧
      (goodWrite (wq (R.fanCtl 3) (256 * 4096)) (R.fanCtl 3) false = true ∧
      bitsOf (BitVec.toNat (wq (R.fanCtl 3) (256 * 4096)).value) 12 9 ≤ 256 ∧
      bitOf (BitVec.toNat (wq (R.fanCtl 3) (256 * 4096)).value) 0 = false) ∧
      (goodWrite (wq (R.fanCtl 3) (1 + 2 ^ 21 + 256 * 4096)) (R.fanCtl 3) false = true ∧
      bitsOf (BitVec.toNat (wq (R.fanCtl 3) (1 + 2 ^ 21 + 256 * 4096)).value) 12 9 ≤ 256 ∧
      bitOf (BitVec.toNat (wq (R.fanCtl 3) (1 + 2 ^ 21 + 256 * 4096)).value) 0 = true ∧
      bitOf (BitVec.toNat (wq (R.fanCtl 3) (1 + 2 ^ 21 + 256 * 4096)).value) 21 = true) ∧
      ((qLate (qLc 6 0)).hive.maintOfAct 5 = some 15 ∧
      (qLate (qLc 6 0)).hive.mget 15 = some (qMt 6) ∧
      (qMt 6).since + 9830400000 ≤ (qLate (qLc 6 0)).hive.ticks ∧
      (qMt 6).cnt = 2 * 3) ∧
      ((qLate (qLc 7 0)).hive.maintOfAct 5 = some 15 ∧
      (qLate (qLc 7 0)).hive.mget 15 = some (qMt 7) ∧
      (qMt 7).since + 9830400000 ≤ (qLate (qLc 7 0)).hive.ticks ∧
      (qMt 7).cnt = 2 * 3 + 1 ∧
      (qLate (qLc 7 0)).hive.fanNext (3 + 1) = none) ∧
      ((qLate (qLc 5 2)).hive.maintOfAct 5 = some 15 ∧
      (qLate (qLc 5 2)).hive.mget 15 = some (qMt 5) ∧
      (qMt 5).since + 9830400000 ≤ (qLate (qLc 5 2)).hive.ticks ∧
      (qMt 5).cnt = 2 * 2 + 1 ∧
      (qLate (qLc 5 2)).hive.fanNext (2 + 1) = some 3) ∧
      ((qLate (qLc 6 0)).hive.maintOfAct 5 = some 15 ∧
      (qLate (qLc 6 0)).hive.mget 15 = some (qMt 6) ∧
      ((qMt 6).cnt / 2 ≠ 2 ∨ (qLate (qLc 6 0)).hive.ticks < (qMt 6).since + 9830400000)) ∧
      ((qLate qSlw).hive.fanSt 3 = 2 ∧
      ((qLate qSlw).hive.fanGet 3).slowAt = some 0 ∧
      0 + 9830400000 ≤ (qLate qSlw).hive.ticks) := by
  (repeat' apply And.intro) <;> first
    | decide | rfl | (intro _; rfl) | exact .inl ⟨rfl, rfl⟩ | exact .inl rfl | exact ⟨0, by decide⟩

/-! ## Images and patches -/

def rHdr (kind : Nat) (secs : List Nat) : FileHdr := ⟨true, kind, 0x5144, 0, 0, 3, 0, false, 0, 77, true, true,
    true, true, true, secs⟩
def rImg (sig : Bool) (base : Nat) (kind : Nat) : TolFile := ⟨{ rHdr kind [0x01, 0x02, 0x04, 0x07, 0x09, 0x0A,
    0x0B, 0x0C, 0x0E] with sigOk := sig, base := base }, FileBody.empty⟩
def rNew : TolFile := rImg true 0 3
def rBad : TolFile := rImg false 0 3
/-- A directory copy but for its CRC-32: its chain holds one activated entry. -/
def rDir : List Host.Cell := [(0, 0x54), (1, 0x4C), (2, 0x44), (3, 0x52), (4, 5), (5, 0), (6, 0), (7, 0), (8, 0),
    (0x40, 0), (0x41, 0), (0x42, 5), (0x43, 0), (0x44, 64), (0x45, 0), (0x46, 0), (0x47, 0), (0x48, 0xFC)]
/-- A boot flash that holds it. -/
def rBase : Mem := { Mem.reset with flash := rDir }
/-- That copy with four more bytes. -/
def rMemOf (c : Nat) : Mem := { Mem.reset with
    flash := rDir ++ [(0xFFC, BitVec.ofNat 8 c), (0xFFD, BitVec.ofNat 8 (c / 256)), (0xFFE,
      BitVec.ofNat 8 (c / 65536)), (0xFFF, BitVec.ofNat 8 (c / 16777216))] }
/-- A boot flash with that one directory copy. -/
def rMem : Mem := rMemOf (crc32 (Mem.dirBytes rBase 0))
def rSt (m : Mode) (l : List (RF × Nat)) (f : Hive → Hive) : State := at' (fun h => f { runs l h with
    mode := m, sys := { h.sys with otpProv := 15, otpLife := 1, otpRoll := 0 } })
def rBoot : State := rSt .boot [] id
def rBt (m : Mode) (b : BootSt) : State := rSt m [] (fun h => { h with sys.boot := b })
def rV : State := rBt .verify ⟨some (0, 77), none, [], 0, false⟩
def rF : State := rBt .verify ⟨none, some 0, [], 0, false⟩
def rVc : State := { rV with mem := rMem }
def rB0 : State := rBt .boot ⟨some (0, 77), none, [], 0, false⟩
def rNoFiles : List TolFile := []
def rPf (base t : Nat) (ss : List Nat) (ws : List (Nat × Nat)) : TolFile := ⟨{ rHdr 2 [0x10] with base := base },
    { FileBody.empty with words := ws, streams := ss, t := t, frames := 1 }⟩
def rQ (base : Nat) (h : Option Nat) (due : Bool) : PatchSt := ⟨rPf base 0 [] [], 0x50000, 64, h, due⟩
def rP (st : Nat) (q : PatchSt) (due : Bool) : State := rSt .run [(F.imgPatchStat_state 3, st), (⟨R.imgPatchTHi 3,
    0, 32⟩, 1)] (fun h => { h.pset 3 (some q) with
    sched := if due then [⟨0, .patchAct 3⟩] else [⟨2 ^ 32, .patchAct 3⟩] })
def rRdy (q : PatchSt) : State := rP 3 q true
def rLoad : State := { rP 2 (rQ 0 (some 15) false) false with mem := rMem } |> fun s => { s with
    hive := (s.hive.mset 15 (some ⟨1, 3, ⟨.queue, 1, false, 9, 0x0D, 5⟩, none, 0, 0, 0, 0, 0,
      []⟩)).set (F.cmdMaint_state 15) 2 }
def rFut : State := rP 3 (rQ 0 none false) false
def rDone (b : Nat) : State := rSt .run [(F.imgPatchStat_done 3, b)] id
def rOp : SchedOp := ⟨0, .snapshot⟩
def rOpS : State := rP 3 (rQ 0 none false) true |> fun s => { s with
    hive := { s.hive with sched := rOp :: s.hive.sched } }
def rC (o n : Nat) : CmdEntry := ce o n 0

/-- A key that the second part does not list reads as in the first. -/
theorem get_append {α : Type} (d : Nat → α) (l e : Tbl α) (a : Nat) (h : ∀ p ∈ e, p.1 ≠ a) :
    Tbl.get d (l ++ e) a = Tbl.get d l a := by
  induction l with
  | nil =>
    induction e with
    | nil => rfl
    | cons p e ih =>
      have := h p (by simp)
      simp only [List.nil_append, Tbl.get] at ih ⊢
      rw [if_neg (by omega)]
      exact ih (fun q hq => h q (by simp [hq]))
  | cons p l ih => simp only [List.cons_append, Tbl.get, ih]

/-- The same of a list of keys. -/
theorem getList_append {α : Type} (d : Nat → α) (l e : Tbl α) (n k : Nat) (h : ∀ p ∈ e, p.1 < k ∨ k + n ≤ p.1) :
    Tbl.getList d (l ++ e) k n = Tbl.getList d l k n := by
  induction n generalizing k with
  | zero => rfl
  | succ n ih =>
    rw [Tbl.getList, Tbl.getList, ih (k + 1) (fun p hp => by have := h p hp; omega),
      get_append d l e k (fun p hp => by have := h p hp; omega)]

/-- Outside the four bytes the two flashes hold the same. -/
theorem flash_of (c k n : Nat) (h : k + n ≤ 0xFFC ∨ 0x1000 ≤ k) :
    Tbl.getList Mem.flashByte (rMemOf c).flash k n = Tbl.getList Mem.flashByte rBase.flash k n :=
  getList_append _ rDir _ n k (by simp; omega)

/-- The same of a number. -/
theorem flNat_of (c k n : Nat) (h : k + n ≤ 0xFFC ∨ 0x1000 ≤ k) : (rMemOf c).flNat k n = rBase.flNat k n := by
  rw [Mem.flNat, flash_of c k n h, Mem.flNat]

/-- A CRC-32 has 32 bits. -/
theorem crc32_lt (l : List Nat) : crc32 l < 2 ^ 32 := by
  have st : ∀ (l : List Nat) (c : Nat), c < 2 ^ 32 → ∀ (f : Nat → Nat → Nat), (∀ c b, c < 2 ^ 32 → f c b < 2 ^ 32) →
      l.foldl f c < 2 ^ 32 := by
    intro l
    induction l with
    | nil => intro c h f _; exact h
    | cons b l ih => intro c h f hf; exact ih _ (hf c b h) f hf
  refine Nat.xor_lt_two_pow (st _ _ (by omega) _ (fun c b h => st _ _ h _ ?_)) (by omega)
  intro c i h
  dsimp only
  split
  · exact Nat.xor_lt_two_pow (by omega) (by omega)
  · omega

/-- With its CRC-32 behind it the copy is the one in use (R257). -/
theorem dir_of (c : Nat) (hc : c = crc32 (rBase.dirBytes 0)) : (rMemOf c).dir = some 0 := by
  have e : (rMemOf c).dirBytes 0 = rBase.dirBytes 0 := by
    unfold Mem.dirBytes
    rw [flash_of c 0 0xFFC (by omega)]
  have h : c < 2 ^ 32 := hc ▸ crc32_lt _
  have t : (rMemOf c).flNat 0xFFC 4 = c := by
    have : (rMemOf c).flNat 0xFFC 4 = c % 256 % 256 + 256 * (c / 256 % 256 % 256 + 256 * (c / 65536 % 256 % 256 + 256 *
      (c / 16777216 % 256 % 256 + 256 * 0))) := rfl
    omega
  have g : (rMemOf c).dirGood 0 = true := by
    rw [Mem.dirGood, e, t, flNat_of c 0 4 (by omega), ← hc, beq_self_eq_true, Bool.and_true]
    decide
  have n : (rMemOf c).dirGood 0x1000 = false := by
    rw [Mem.dirGood, flNat_of c 0x1000 4 (by omega), show (rBase.flNat 0x1000 4 == 0x52444C54) = false by decide, Bool.false_and]
  rw [Mem.dir, g, n]

/-- The second chain entry is the first erased one. -/
theorem chain_free_of (c : Nat) (hc : c = crc32 (rBase.dirBytes 0)) : (rMemOf c).chainFree = some 1 := by
  have u (i : Nat) (h : i < 3) : (rMemOf c).chainUsed 0 i = rBase.chainUsed 0 i := by
    rw [Mem.chainUsed, flNat_of c _ 8 (by simp [chainAt]; omega), Mem.chainUsed]
  rw [Mem.chainFree, dir_of c hc]
  show (List.range 63).find? (fun i => !(rMemOf c).chainUsed 0 i) = some 1
  rw [show List.range 63 = 0 :: 1 :: (List.range 61).map (fun i => i + 2) by decide]
  rw [List.find?_cons_of_neg (by simp only [u 0 (by omega)]; decide), List.find?_cons_of_pos (by simp only [u 1 (by omega)]; decide)]

/-- The first chain entry is activated. -/
theorem chain_replay_of (c : Nat) (hc : c = crc32 (rBase.dirBytes 0)) : (rMemOf c).chainReplay ≠ 0 := by
  have f : (rMemOf c).chainFlags 0 0 = 0xFC := by
    rw [Mem.chainFlags, Mem.fl, show (rMemOf c).flash = rDir ++ _ from rfl, get_append _ _ _ _ (by simp [chainAt])]
    decide
  rw [Mem.chainReplay, dir_of c hc]
  intro h
  have := List.filter_eq_nil_iff.mp (List.length_eq_zero_iff.mp h) 0 (by decide)
  rw [f] at this
  exact this (by decide)

/-- The copy of rMem is the one in use. -/
theorem test_directory : rMem.dir = some 0 := dir_of _ rfl

/-- Its second chain entry is the first erased one. -/
theorem test_chain_free : rLoad.mem.chainFree = some 1 := chain_free_of _ rfl

/-- Its first chain entry is activated. -/
theorem test_chain_replay : rVc.mem.chainReplay ≠ 0 := chain_replay_of _ rfl

/-- States and operands that meet the hypotheses of BootAndImages, clause by clause. -/
theorem meets_BootAndImages :
    (¬((State.reset.hive.mode = Mode.boot ∨ State.reset.hive.mode = Mode.verify) ∧
          State.reset.hive.queenUp = true ∧
            State.reset.hive.sys.boot.verified = none ∧
              State.reset.hive.sys.bootStop = false ∧
                State.reset.hive.sys.testEn = false ∧ 0 = State.reset.hive.trySlot State.reset.mem) ∧
      State.reset.hive.sys.boot.verified = none) ∧
      (((rBoot.hive.mode = Mode.boot ∨ rBoot.hive.mode = Mode.verify) ∧
        rBoot.hive.queenUp = true ∧
          rBoot.hive.sys.boot.verified = none ∧
            rBoot.hive.sys.bootStop = false ∧ rBoot.hive.sys.testEn = false ∧ 0 = rBoot.hive.trySlot rBoot.mem) ∧
      rBoot.hive.bootReason rNew.hdr [1, 3] false = 0) ∧
      (((rBoot.hive.mode = Mode.boot ∨ rBoot.hive.mode = Mode.verify) ∧
        rBoot.hive.queenUp = true ∧
          rBoot.hive.sys.boot.verified = none ∧
            rBoot.hive.sys.bootStop = false ∧ rBoot.hive.sys.testEn = false ∧ 0 = rBoot.hive.trySlot rBoot.mem) ∧
      rBoot.hive.bootReason rBad.hdr [1, 3] false ≠ 0 ∧
      rBoot.hive.sys.boot.failed = none) ∧
      (((rF.hive.mode = Mode.boot ∨ rF.hive.mode = Mode.verify) ∧
        rF.hive.queenUp = true ∧
          rF.hive.sys.boot.verified = none ∧
            rF.hive.sys.bootStop = false ∧ rF.hive.sys.testEn = false ∧ 1 = rF.hive.trySlot rF.mem) ∧
      rF.hive.bootReason rBad.hdr [1, 3] false ≠ 0 ∧
      rF.hive.sys.boot.failed ≠ none) ∧
      (rB0.hive.sys.boot.verified = some (0, 77) ∧
      (rB0.hive.mode ≠ Mode.verify ∨
        77 ≠ rNew.hdr.hash ∨
          rB0.hive.sys.bootStop = true ∨ rB0.hive.sys.testEn = true ∨ rB0.hive.flag F.imgStat_loaded = true)) ∧
      (rV.hive.sys.boot.verified = some (0, 77) ∧
      rV.hive.mode = Mode.verify ∧
      77 = rNew.hdr.hash ∧
      rV.hive.sys.bootStop = false ∧
      rV.hive.sys.testEn = false ∧
      rV.hive.flag F.imgStat_loaded = false ∧
      bitOf rV.hive.dieBad 3 = false ∧
      rV.mem.chainReplay = 0) ∧
      (rVc.hive.sys.boot.verified = some (0, 77) ∧
      rVc.hive.mode = Mode.verify ∧
      77 = rNew.hdr.hash ∧
      rVc.hive.sys.bootStop = false ∧
      rVc.hive.sys.testEn = false ∧
      rVc.hive.flag F.imgStat_loaded = false ∧
      rVc.mem.chainReplay ≠ 0 ∧
      rNoFiles = []) ∧
      (admits (rSt Mode.run [] id).hive.mode CmdGroup.patch = true ∧
      goodEntry (ce 0 0 0) 16 false 0 0 0 = true ∧
      ((rSt Mode.run [] id).hive.bootReason rNew.hdr [3] false = 0 ∧
        rNew.hdr.base = (rSt Mode.run [] id).hive.chainHead ∧
          (∀ (p : Nat), p < 4 → (rSt Mode.run [] id).hive.pPending p = false) ∧ rNew.hdr.digestsRunning = true)) ∧
      (admits (rSt Mode.run [] id).hive.mode CmdGroup.patch = true ∧
      goodEntry (ce 0 0 0) 16 false 0 0 0 = true ∧
      ¬((rSt Mode.run [] id).hive.bootReason rBad.hdr [3] false = 0 ∧
          rBad.hdr.base = (rSt Mode.run [] id).hive.chainHead ∧
            (∀ (p : Nat), p < 4 → (rSt Mode.run [] id).hive.pPending p = false) ∧ rBad.hdr.digestsRunning = true)) := by
  (repeat' apply And.intro) <;> first | with_reducible exact test_chain_replay | decide | (intro _; rfl) | rfl | nofun

/-- States and operands that meet the hypotheses of PatchAbandonedWhole, clause by clause. -/
theorem meets_PatchAbandonedWhole :
    (rRdy (rQ 5 none false)).hive.pPending 3 = true ∧
      (rRdy (rQ 5 none false)).hive.due (SchedKind.patchAct 3) = true ∧
      (rRdy (rQ 5 none false)).hive.pget 3 = some (rQ 5 none false) ∧
      (rRdy (rQ 5 none false)).hive.patchWaits 3 (rQ 5 none false).file = false ∧
      ((rRdy (rQ 5 none false)).hive.pSt 3 ≠ 3 ∨
        (rRdy (rQ 5 none false)).hive.shadowLost (rQ 5 none false).file.body = true ∨
          (rQ 5 none false).file.hdr.base ≠ (rRdy (rQ 5 none false)).hive.chainHead ∨
            (rRdy (rQ 5 none false)).hive.primed (rQ 5 none false).file.body = false ∨
              ∃ n,
                n ∈ (rRdy (rQ 5 none false)).hive.removed (rQ 5 none false).file ∧
                  (rRdy (rQ 5 none false)).hive.st n ≠ stIdle ∧ (rRdy (rQ 5 none false)).hive.st n ≠ stArmed) := by decide

/-- States and operands that meet the hypotheses of PatchSlots, clause by clause. -/
theorem meets_PatchSlots :
    (State.reset.hive.pget 3 = none ∧
      goodWrite (wq (R.imgPatchStat 3) 2147483648) (R.imgPatchStat 3) false = true ∧
      (State.reset.hive.w1cTakes (F.imgPatchStat_done 3) (BitVec.toNat (wq (R.imgPatchStat 3) 2147483648).value) = false ∨
        State.reset.hive.flag (F.imgPatchStat_done 3) = false)) ∧
      (rLoad.hive.pget 3 = some (rQ 0 (some 15) false) ∧
      rLoad.hive.pSt 3 = 2 ∧
      rLoad.mem.chainFree = some 1 ∧
      (rQ 0 (some 15) false).handle = some 15 ∧
      rLoad.hive.mget 15 ≠ none ∧
      15 < 16 ∧
      (rLoad.hive.due (SchedKind.patchAct 3) = false ∨
        rLoad.hive.pPending 3 = false ∨ rLoad.hive.patchWaits 3 (rQ 0 (some 15) false).file = true) ∧
      (rQ 0 (some 15) false).programDue = false ∧
      admits rLoad.hive.mode CmdGroup.patch = true ∧
      goodEntry (ce 3 0 0) 15 false 3 0 0 = true ∧
      rLoad.hive.pPending 3 = true ∧
      rLoad.hive.leadOk (rLoad.hive.getPair (R.imgPatchTLo 3) (R.imgPatchTHi 3)) false = true) ∧
      ((rRdy (rQ 0 none false)).hive.pget 3 = some (rQ 0 none false) ∧
      (rRdy (rQ 0 none false)).hive.pSt 3 ≠ 2 ∧
      (rRdy (rQ 0 none false)).hive.pPending 3 = true ∧
      (rRdy (rQ 0 none false)).hive.due (SchedKind.patchAct 3) = true ∧
      (rRdy (rQ 0 none false)).hive.patchWaits 3 (rQ 0 none false).file = false ∧
      (rRdy (rQ 0 none false)).hive.actReason 3 (rQ 0 none false).file = 0 ∧
      (∀ (x : Nat × Nat), x ∈ (rQ 0 none false).file.body.words → x.fst < 8650752 ∨ 8654848 ≤ x.fst) ∧
      (∀ (x : Nat × CoefSet), x ∈ (rQ 0 none false).file.body.banks → x.fst < 2048) ∧
      (∀ (x : Nat), x ∈ (rQ 0 none false).file.body.swaps → x < 2048) ∧
      (∀ (n : Nat), n ∈ (rQ 0 none false).file.body.streams → n < 2048)) ∧
      ((rP 4 (rQ 0 none true) false).hive.pget 3 = some (rQ 0 none true) ∧
      (rQ 0 none true).programDue = true ∧
      admits (rP 4 (rQ 0 none true) false).hive.mode CmdGroup.patch = true ∧
      goodEntry (ce 3 0 0) 15 false 3 0 0 = true ∧
      ((rP 4 (rQ 0 none true) false).hive.pPending 3 = false ∨
        (rP 4 (rQ 0 none true) false).hive.leadOk
            ((rP 4 (rQ 0 none true) false).hive.getPair (R.imgPatchTLo 3) (R.imgPatchTHi 3)) false =
          false)) ∧
      (goodWrite (wq (R.imgPatchStat 3) 2147483648) (R.imgPatchStat 3) false = true ∧
      (rDone 1).hive.w1cTakes (F.imgPatchStat_done 3) (BitVec.toNat (wq (R.imgPatchStat 3) 2147483648).value) = true ∧
      (rDone 1).hive.flag (F.imgPatchStat_done 3) = true) := by
  (repeat' apply And.intro) <;> first | with_reducible exact test_chain_free | decide | (intro _; rfl) | rfl | nofun

/-- States and operands that meet the hypotheses of BootFlashCommands, clause by clause. -/
theorem meets_BootFlashCommands :
    (admits (rSt Mode.run [] id).hive.mode CmdGroup.spi = true ∧
      goodEntry (rC 524288 8192) 17 false 524288 8192 0 = true ∧
      1 ≤ 8192 ∧
      8192 ≤ 65536 ∧
      524288 + 8192 ≤ flashBytes ∧
      0 < 8192 ∧
      goodEntry (rC 524288 8192) 18 false 524288 8192 0 = true ∧
      (rSt Mode.run [] id).hive.flashGuarded (rSt Mode.run [] id).mem (524288, 8192) = false ∧
      inRange 524288 8192 0 = false ∧
      goodEntry (rC 524288 8192) 19 false 524288 8192 0 = true ∧
      8192 % 4096 = 0 ∧
      524288 % 4096 = 0) ∧
      (admits (rSt Mode.run [] id).hive.mode CmdGroup.spi = true ∧
      goodEntry (rC 0 0) 17 false 0 0 0 = true ∧
      (0 = 0 ∨ 65536 < 0 ∨ flashBytes < 0 + 0) ∧
      goodEntry (rC 0 0) 18 false 0 0 0 = true ∧
      ((rSt Mode.run [] id).hive.flashGuarded (rSt Mode.run [] id).mem (0, 0) = true ∨
        0 = 0 ∨ 65536 < 0 ∨ flashBytes < 0 + 0) ∧
      goodEntry (rC 0 0) 19 false 0 0 0 = true ∧
      ((rSt Mode.run [] id).hive.flashGuarded (rSt Mode.run [] id).mem (0, 0) = true ∨
        0 = 0 ∨ 0 % 4096 ≠ 0 ∨ 0 % 4096 ≠ 0 ∨ flashBytes < 0 + 0)) := by
  have f : 16777216 ≤ flashBytes := Nat.le_max_left _ _
  (repeat' apply And.intro) <;> first | decide | omega

/-! ## Lanes -/

def lS (m st : Nat) : State := at' (runs [(F.laneCtl_mode 143, m), (F.laneStat_state 143, st)])
/-- A codeword with values in its bits p0 to p19, type 0x1, and a CRC-16 field (R73). -/
def cw (v c : Nat) : Nat := v + 2 ^ 20 + c * 2 ^ 5124
def lT (m st : Nat) (u : LaneSt → LaneSt) : State := at' (fun h =>
    let h := runs [(F.laneCtl_mode 143, m), (F.laneStat_state 143, st), (F.laneBerCtl_threshold 143, 5)] h;
    { (h.lset 143 (u (h.lget 143))) with maps := [(143 * 4 + 1, [0])] })
def lIdx (st : Nat) : State := lT 3 st (fun u => { u with idx := 127, run := 3 })
def lF7 : State := lT 3 lnUp (fun u => { u with fails := 7 })
def lMf : State := lT 3 lnMf id
def lCf : State := lT 3 lnConfirm (fun u => { u with idx := 127, clean := 127 })
def lEth : State := lT 2 lnUp id
def lBer (k : Nat) : State := lT 1 lnUp (fun u => { u with sym := k })
def lReq (w : Bool) (t1 : Nat) : State := at' (fun h =>
    let h := { runs [(F.laneCtl_mode 143, 4), (F.laneStat_state 143, lnUp), (F.laneDlyCtl_interval 143, 1)] h with
      gtc := 983140, sched := [⟨0, .mapChange 143⟩] };
    h.lset 143 { h.lget 143 with dlyWait := w, dlySeq := 5, dlyT1 := t1 })
def lChg : State := at' (fun h => { h with sched := [⟨0, .mapChange 143⟩] })
def lNone : List Byte := []
def lS4 : State := lS 4 lnUp
def lRl : State := { lS4 with hive := { lS4.hive with links := [(17, [143])] } }
def lOff : State := at' (fun h => { h with gtc := 1, sched := [⟨0, .mapChange 143⟩] })
def lSp (k : Nat) (x : Hive → Hive) : State := at' (fun h => x { runs [(F.laneStat_state 143, lnUp),
    (F.laneStat_state 1, lnUp)] h with spares := [(143, some k)], links := [(17, [0, 1])], fallbacks := [(17, 4)] })
def lFb : State := at' (fun h => { runs [(F.laneStat_state 1, lnUp)] h with
    links := [(17, [0, 1])], fallbacks := [(17, 4)] })
def lMt (act : Nat) : State := at' (fun h => (h.mset 15 (some ⟨act, 143, ⟨.queue, 1, false, 9, 0x0D, 5⟩, none, 0,
    0, 0, 0, 0, []⟩)).set (F.cmdMaint_state 15) 2)
def lMtD : State := { lMt 2 with hive := (lMt 2).hive.set (F.laneStat_state 143) lnDown }
def xS (m st : Nat) (u : EthSt → EthSt) : State := at' (fun h =>
    let h := runs [(F.laneCtl_mode 143, m), (F.laneStat_state 143, st), (⟨R.steSrc 3, 0, 24⟩, laneSrc 143 4095)] h;
    { (h.ethSet 143 4095 (u (h.ethGet 143 4095))) with
    streams := [3], txq := [(143 * 4096 + 4095, [⟨1, 2, false⟩])] })
def xOff : State := xS 3 lnUp id
def xUp (on : Bool) : State := xS 2 lnUp (fun u => { u with spm := 1, on := on, gone := [255] })

/-- States and operands that meet the hypotheses of LaneStates, clause by clause. -/
theorem meets_LaneStates :
    ((lS 1 lnDown).hive.lmode 143 ≠ 0 ∧
      (lS 1 lnDown).hive.lstate 143 = lnDown ∧
      (lS 1 lnDown).hive.lstate 143 ≠ lnTrain ∧
      (lS 1 lnDown).hive.lstate 143 ≠ lnOff ∧
      ((lS 1 lnDown).hive.lmode 143 ≠ 1 ∨ (lS 1 lnDown).hive.lstate 143 ≠ lnCw) ∧
      ((lS 1 lnDown).hive.lmode 143 ≠ 1 ∨ (lS 1 lnDown).hive.lstate 143 ≠ lnMf) ∧
      ((lS 1 lnDown).hive.lmode 143 ≠ 1 ∨ (lS 1 lnDown).hive.lstate 143 ≠ lnMf ∧ (lS 1 lnDown).hive.lstate 143 ≠ lnUp) ∧
      ((lS 1 lnDown).hive.lmode 143 ≠ 2 ∨ (lS 1 lnDown).hive.lstate 143 ≠ lnCw) ∧
      ((lS 1 lnDown).hive.lmode 143 ≠ 2 ∨ (lS 1 lnDown).hive.lstate 143 ≠ lnUp)) ∧
      ((lS 3 lnTrain).hive.lstate 143 ≠ lnDown ∧
      (lS 3 lnTrain).hive.lstate 143 = lnTrain) ∧
      ((lS 3 lnUp).hive.lmode 143 ≠ 0 ∧
      (lS 3 lnUp).hive.lstate 143 = lnUp) ∧
      ((lS 1 lnCw).hive.lmode 143 = 1 ∧
      (lS 1 lnCw).hive.lstate 143 = lnCw) ∧
      ((lS 1 lnMf).hive.lmode 143 = 1 ∧
      (lS 1 lnMf).hive.lstate 143 = lnMf) ∧
      ((lS 1 lnUp).hive.lmode 143 = 1 ∧
      (lS 1 lnUp).hive.lstate 143 = lnUp) ∧
      ((lS 2 lnCw).hive.lmode 143 = 2 ∧
      (lS 2 lnCw).hive.lstate 143 = lnCw) ∧
      ((lS 2 lnUp).hive.lmode 143 = 2 ∧
      (lS 2 lnUp).hive.lstate 143 = lnUp) := by decide

/-- States and operands that meet the hypotheses of LaneCodewords, clause by clause. -/
theorem meets_LaneCodewords :
    (3 ≤ (lIdx lnUp).hive.lmode 143 ∧
      (lIdx lnUp).hive.lstate 143 = lnUp ∧
      ((lIdx lnUp).hive.lmode 143 ≠ 1 ∨ (lIdx lnUp).hive.lstate 143 ≠ lnUp) ∧
      ((lIdx lnUp).hive.lget 143).sym < (lIdx lnUp).hive.get (F.laneBerCtl_threshold 143)) ∧
      (3 ≤ lMf.hive.lmode 143 ∧
      (lMf.hive.lstate 143 = lnMf ∨ lMf.hive.lstate 143 = lnConfirm ∨ lMf.hive.lstate 143 = lnDeskew) ∧
      (cwGood (cw 127 15483) true = false ∨ bitsOf (cw 127 15483) 0 7 ≠ (lMf.hive.lget 143).idx)) ∧
      (3 ≤ (lIdx lnCw).hive.lmode 143 ∧
      cwGood (cw 127 15483) false = true ∧
      bitsOf (cw 127 15483) 0 7 = ((lIdx lnCw).hive.lget 143).idx ∧
      (lIdx lnCw).hive.lstate 143 = lnCw ∧
      3 ≤ ((lIdx lnCw).hive.lget 143).run) ∧
      (3 ≤ lCf.hive.lmode 143 ∧
      cwGood (cw 127 15483) false = true ∧
      bitsOf (cw 127 15483) 0 7 = (lCf.hive.lget 143).idx ∧
      lCf.hive.lstate 143 = lnConfirm ∧
      lCf.hive.lmode 143 = 3 ∧
      127 ≤ (lCf.hive.lget 143).clean) ∧
      (3 ≤ lMf.hive.lmode 143 ∧
      cwGood (cw 256 52641) false = true ∧
      bitsOf (cw 256 52641) 0 7 = (lMf.hive.lget 143).idx ∧
      lMf.hive.lstate 143 = lnMf ∧
      bitsOf (cw 256 52641) 0 7 = 0 ∧
      lMf.hive.mapHeld 143 (bitsOf (cw 256 52641) 8 2) = true) ∧
      (lEth.hive.lmode 143 = 2 ∧
      lEth.hive.lstate 143 = lnUp ∧
      0 < 1) ∧
      ((lBer 6).hive.lmode 143 = 1 ∧
      (lBer 6).hive.lstate 143 = lnUp ∧
      (lBer 6).hive.get (F.laneBerCtl_threshold 143) < ((lBer 6).hive.lget 143).sym) := by
  decide +kernel

/-- States and operands that meet the hypotheses of LaneMessages, clause by clause. -/
theorem meets_LaneMessages :
    ((lReq true 983000).hive.laneUp 143 = true ∧
      3 ≤ (lReq true 983000).hive.lmode 143 ∧
      (lReq true 983000).hive.get (F.laneDlyCtl_interval 143) ≠ 0 ∧
      (lReq true 983000).hive.lmode 143 = 4 ∧
      ((lReq true 983000).hive.lget 143).dlyWait = true ∧
      ((lReq true 983000).hive.lget 143).dlySeq = 5 ∧
      (lReq true 983000).hive.gtc ≤ ((lReq true 983000).hive.lget 143).dlyT1 + Config.msTicks ∧
      0 ≤
        roundEven
          (Int.ofNat (lReq true 983000).hive.gtc - Int.ofNat ((lReq true 983000).hive.lget 143).dlyT1 - Int.ofNat 100 + 0)
          2 ∧
      roundEven
          (Int.ofNat (lReq true 983000).hive.gtc - Int.ofNat ((lReq true 983000).hive.lget 143).dlyT1 - Int.ofNat 100 + 0)
          2 <
        2 ^ 24 ∧
      0 ≤
        roundEven
          (Int.ofNat (lReq true 983000).hive.gtc - Int.ofNat ((lReq true 983000).hive.lget 143).dlyT1 - Int.ofNat 100 - 0)
          2 ∧
      roundEven
          (Int.ofNat (lReq true 983000).hive.gtc - Int.ofNat ((lReq true 983000).hive.lget 143).dlyT1 - Int.ofNat 100 - 0)
          2 <
        2 ^ 24 ∧
      ((lReq true 983000).hive.gtc % 6144 ≠ 0 ∨ (lReq true 983000).hive.due (SchedKind.mapChange 143) = false)) ∧
      ((((lReq true 983000).hive.lget 143).dlyWait = false ∨
        ((lReq true 983000).hive.lget 143).dlySeq ≠ 6 ∨
          ((lReq true 983000).hive.lget 143).dlyT1 + Config.msTicks < (lReq true 983000).hive.gtc)) ∧
      ((lS 3 lnUp).hive.lmode 143 = 3 ∧
      (lS 3 lnUp).hive.laneUp 143 = true ∧
      16 ≤ 16 ∧
      16 ≤ 63 ∧
      lNone.length < 1024) ∧
      (lRl.hive.lmode 143 = 4 ∧
      lRl.hive.laneUp 143 = true ∧
      lRl.hive.linkOf 143 = some 17 ∧
      17 < 18 ∧
      16 ≤ 16 ∧
      16 ≤ 63 ∧
      lNone.length < 1024) ∧
      (lChg.hive.due (SchedKind.mapChange 143) = true ∧
      lChg.hive.gtc % 6144 = 0) := by decide

/-- States and operands that meet the hypotheses of LaneRepairs, clause by clause. -/
theorem meets_LaneRepairs :
    ((lSp 0 id).hive.gtc % 6144 = 0 ∧
      (lSp 0 id).hive.laneUp 143 = true ∧
      (Tbl.get (fun x => none) (lSp 0 id).hive.spares 143 = some 0) ∧
      (lSp 0 id).hive.carrier 0 = 0 ∧
      (lSp 0 id).hive.laneUp 0 = false ∧
      (lSp 0 id).hive.canFallBack 17 = true ∧
      (Tbl.get (fun x => 0) (lSp 0 id).hive.fallbacks 17 ≤ 4) ∧
      (((lSp 0 id).hive.linkLanes 17).length =
        (List.filter (fun x => (lSp 0 id).hive.laneUp x) ((lSp 0 id).hive.linkLanes 17)).length + 1) ∧
      (1 ∈ List.filter (fun x => (lSp 0 id).hive.laneUp x) ((lSp 0 id).hive.linkLanes 17)) ∧
      1 < 144 ∧
      ((lSp 0 id).hive.laneUp 143 = true ∨ (lSp 0 id).hive.maintOf 2 143 = none)) ∧
      ((lSp 273 id).hive.gtc % 6144 = 0 ∧
      (lSp 273 id).hive.laneUp 143 = true ∧
      (Tbl.get (fun x => none) (lSp 273 id).hive.spares 143 = some (256 + 17)) ∧
      (List.find? (fun x => !(lSp 273 id).hive.laneUp x) ((lSp 273 id).hive.linkLanes 17) = some 0)) ∧
      (lOff.hive.gtc % 6144 ≠ 0) ∧
      (lMtD.hive.laneUp 143 = false ∧
      lMtD.hive.maintOf 2 143 = some 15) ∧
      ((lMt 1).hive.maintOf 1 143 = some 15) := by decide

/-- States and operands that meet the hypotheses of EcpriMessages, clause by clause. -/
theorem meets_EcpriMessages :
    ((xOff.hive.lmode 143 ≠ 2 ∨ xOff.hive.laneUp 143 = false) ∧
      xOff.hive.inNew = [] ∧
      (xOff.hive.ethGet 143 4095).on = false) ∧
      ((xUp false).hive.lmode 143 = 2 ∧
      (xUp false).hive.laneUp 143 = true ∧
      (4096 ≤ 65535 ∨
        65535 = 4095 ∧
          (((xUp false).hive.ethGet 143 4095).spm = 0 ∨ [(1, 2)].length ≠ ((xUp false).hive.ethGet 143 4095).spm)) ∧
      ((xUp false).hive.ethGet 143 4095).spm ≠ 0 ∧
      (((xUp false).hive.ethGet 143 4095).spm ≤ (Tbl.get (fun x => []) (xUp false).hive.txq (143 * 4096 + 4095)).length) ∧
      [1].length < 2048) ∧
      ((xUp false).hive.lmode 143 = 2 ∧
      (xUp false).hive.laneUp 143 = true ∧
      4095 = 4095 ∧
      ((xUp false).hive.ethGet 143 4095).spm ≠ 0 ∧
      [(1, 2)].length = ((xUp false).hive.ethGet 143 4095).spm ∧
      ((xUp false).hive.ethGet 143 4095).down = false ∧
      ((xUp false).hive.ethGet 143 4095).on = false) ∧
      ((xUp true).hive.lmode 143 = 2 ∧
      (xUp true).hive.laneUp 143 = true ∧
      4095 = 4095 ∧
      ((xUp true).hive.ethGet 143 4095).spm ≠ 0 ∧
      [(1, 2)].length = ((xUp true).hive.ethGet 143 4095).spm ∧
      ((xUp true).hive.ethGet 143 4095).down = false ∧
      ((xUp true).hive.ethGet 143 4095).on = true ∧
      (xUp true).hive.inNew = [] ∧
      ¬255 ∈ ((xUp true).hive.ethGet 143 4095).seen ∧
      255 ∈ ((xUp true).hive.ethGet 143 4095).gone) := by decide

/-! ## The host link and management lanes -/

def hB : State := at' (runs [(F.cmdIrqStat_cause, 1), (F.cmdIrqMask_cause, 3)])
def hT : State := at' (fun h => { runs [(F.cmdSqTail_tail, 3), (F.cmdSqHead_head, 60)] h with pcieUp := true })
def hF : State := at' (fun h => h.raiseSC 0x11 0x01 0x6 1 0)
def hUp (l : List (RF × Nat)) (m : List Nat) : State := at' (fun h =>
  (List.range 16).foldl (fun h i => h.wr (0x10010000 + 4 * i) (BitVec.ofNat 32 (leNat ((m.drop (4 * i)).take 4))))
    { runs (l ++ [(F.laneCtl_mode 0, 3), (F.laneStat_state 0, 7), (F.laneCtl_mode 143, 2), (F.laneStat_state 143, 7), (F.laneStat_state 80, 7)]) h with links := [(17, [80])] })
def mRlf : List Nat := [0x10, 5, 1, 2]
def mEth (a : Nat) : List Nat := List.replicate 12 1 ++ [0x88, 0xF7, a, 0]
def hRlf : State := hUp [] mRlf
def hEth (a : Nat) : State := hUp [] (mEth a)
def hFull : State := hUp [(F.cmdRxStat_tail, 31)] (mEth 0)

/-- States and operands that meet the hypotheses of HostLink, clause by clause. -/
theorem meets_HostLink :
    ((Instr.pcieLinkDown, 1, 1) ∈ [(Instr.pcieLinkDown, 1, 1), (Instr.pcieHotReset, 2, 0)] ∧
      255 < 256 ∧
      (w2 0 0).bar2 = true ∧
      (w2 0 0).off = 0 ∧
      ↑(w2 0 0).size = 4 ∧
      State.reset.hive.tailPast (BitVec.toNat (w2 0 0).value) = false ∧
      State.reset.hive.jq.length < 256 ∧
      (w2 16 0).bar2 = true ∧
      (w2 16 0).off = 16 ∧
      ↑(w2 16 0).size = 4 ∧
      ((w2 16384 5).bar2 && decide (16384 ≤ (w2 16384 5).off) && decide ((w2 16384 5).off < 17408)) = true ∧
      ↑(w2 16384 5).size = 4 ∧
      (w2 16384 5).off % 4 = 0) ∧
      ((w2 0 0).bar2 = true ∧
      (w2 0 0).off = 0 ∧
      ↑(w2 0 0).size = 4 ∧
      hT.hive.tailPast (BitVec.toNat (w2 0 0).value) = true ∧
      hT.hive.flag F.wrRefuse_valid = false) := by decide

/-- States and operands that meet the hypotheses of ManagementSends, clause by clause. -/
theorem meets_ManagementSends :
    (admits hRlf.hive.mode CmdGroup.send = true ∧
      (4 ≤ 2048 → 0 + 4 ≤ 65536 → hRlf.hive.bufBytes 0 4 = hRlf.hive.bufBytes 0 4) ∧
      goodEntry (ce 0 4 0) 20 false 0 4 0 = true ∧
      (0 + 4 ≤ 65536 ∧
        2 ≤ 4 ∧
          4 ≤ 1018 ∧
            16 ≤ (hRlf.hive.bufBytes 0 4).headD 0 ∧
              (hRlf.hive.bufBytes 0 4).headD 0 ≤ 63 ∧ hRlf.hive.get (F.laneCtl_mode 0) = 3 ∧ hRlf.hive.laneUp 0 = true)) ∧
      (admits hRlf.hive.mode CmdGroup.send = true ∧
      (4 ≤ 2048 → 0 + 4 ≤ 65536 → hRlf.hive.bufBytes 0 4 = hRlf.hive.bufBytes 0 4) ∧
      goodEntry (ce 143 4 0) 20 false 143 4 0 = true ∧
      ¬(0 + 4 ≤ 65536 ∧
          2 ≤ 4 ∧
            4 ≤ 1018 ∧
              16 ≤ (hRlf.hive.bufBytes 0 4).headD 0 ∧
                (hRlf.hive.bufBytes 0 4).headD 0 ≤ 63 ∧
                  hRlf.hive.get (F.laneCtl_mode 143) = 3 ∧ hRlf.hive.laneUp 143 = true)) ∧
      (admits hRlf.hive.mode CmdGroup.send = true ∧
      (4 ≤ 2048 → 0 + 4 ≤ 65536 → hRlf.hive.bufBytes 0 4 = hRlf.hive.bufBytes 0 4) ∧
      goodEntry (ce (17 + 256) 4 0) 20 false (17 + 256) 4 0 = true ∧
      (0 + 4 ≤ 65536 ∧
        2 ≤ 4 ∧
          4 ≤ 62 ∧
            16 ≤ (hRlf.hive.bufBytes 0 4).headD 0 ∧ (hRlf.hive.bufBytes 0 4).headD 0 ≤ 63 ∧ hRlf.hive.linkUp 17 = true)) ∧
      (admits hRlf.hive.mode CmdGroup.send = true ∧
      (4 ≤ 2048 → 0 + 4 ≤ 65536 → hRlf.hive.bufBytes 0 4 = hRlf.hive.bufBytes 0 4) ∧
      goodEntry (ce 256 4 0) 20 false (0 + 256) 4 0 = true ∧
      ¬(0 + 4 ≤ 65536 ∧
          2 ≤ 4 ∧
            4 ≤ 62 ∧
              16 ≤ (hRlf.hive.bufBytes 0 4).headD 0 ∧
                (hRlf.hive.bufBytes 0 4).headD 0 ≤ 63 ∧ hRlf.hive.linkUp 0 = true)) ∧
      (admits (hEth 0).hive.mode CmdGroup.send = true ∧
      (16 ≤ 2048 → 0 + 16 ≤ 65536 → (hEth 0).hive.bufBytes 0 16 = (hEth 0).hive.bufBytes 0 16) ∧
      goodEntry (ce (143 + 512) 16 0) 20 false (143 + 512) 16 0 = true ∧
      (0 + 16 ≤ 65536 ∧
        14 ≤ 16 ∧
          16 ≤ 2048 ∧
            sendableFrame ((hEth 0).hive.bufBytes 0 16) = true ∧
              (hEth 0).hive.get (F.laneCtl_mode 143) = 2 ∧ (hEth 0).hive.laneUp 143 = true) ∧
      ptpEvent ((hEth 0).hive.bufBytes 0 16) = true ∧
      ((hEth 0).hive.get F.cmdRxStat_tail + 32 - (hEth 0).hive.get F.cmdRxHead_head) % 32 < 31) ∧
      (admits (hEth 4).hive.mode CmdGroup.send = true ∧
      (16 ≤ 2048 → 0 + 16 ≤ 65536 → (hEth 4).hive.bufBytes 0 16 = (hEth 4).hive.bufBytes 0 16) ∧
      goodEntry (ce (143 + 512) 16 0) 20 false (143 + 512) 16 0 = true ∧
      (0 + 16 ≤ 65536 ∧
        14 ≤ 16 ∧
          16 ≤ 2048 ∧
            sendableFrame ((hEth 4).hive.bufBytes 0 16) = true ∧
              (hEth 4).hive.get (F.laneCtl_mode 143) = 2 ∧ (hEth 4).hive.laneUp 143 = true) ∧
      ptpEvent ((hEth 4).hive.bufBytes 0 16) = false) ∧
      (admits hFull.hive.mode CmdGroup.send = true ∧
      (16 ≤ 2048 → 0 + 16 ≤ 65536 → (hEth 0).hive.bufBytes 0 16 = hFull.hive.bufBytes 0 16) ∧
      goodEntry (ce (143 + 512) 16 0) 20 false (143 + 512) 16 0 = true ∧
      (0 + 16 ≤ 65536 ∧
        14 ≤ 16 ∧
          16 ≤ 2048 ∧
            sendableFrame ((hEth 0).hive.bufBytes 0 16) = true ∧
              hFull.hive.get (F.laneCtl_mode 143) = 2 ∧ hFull.hive.laneUp 143 = true) ∧
      ptpEvent ((hEth 0).hive.bufBytes 0 16) = true ∧
      31 ≤ (hFull.hive.get F.cmdRxStat_tail + 32 - hFull.hive.get F.cmdRxHead_head) % 32) ∧
      (admits (hEth 0).hive.mode CmdGroup.send = true ∧
      (16 ≤ 2048 → 0 + 16 ≤ 65536 → (hEth 0).hive.bufBytes 0 16 = (hEth 0).hive.bufBytes 0 16) ∧
      goodEntry (ce 512 16 0) 20 false (0 + 512) 16 0 = true ∧
      ¬(0 + 16 ≤ 65536 ∧
          14 ≤ 16 ∧
            16 ≤ 2048 ∧
              sendableFrame ((hEth 0).hive.bufBytes 0 16) = true ∧
                (hEth 0).hive.get (F.laneCtl_mode 0) = 2 ∧ (hEth 0).hive.laneUp 0 = true)) := by
  (repeat' apply And.intro) <;> first
    | decide | rfl | (intro _; rfl) | exact .inl ⟨rfl, rfl⟩ | exact .inl rfl | exact ⟨0, by decide⟩

/-! ## Maintenance -/

def mHdr (kind : Nat) (secs : List Nat) (ok : Bool) : FileHdr := ⟨true, kind, 0x5144, 0, 0, 3, 0, false, 0, 77,
    true, true, true, true, ok, secs⟩
def mFile (kind : Nat) (ok : Bool) : TolFile := ⟨mHdr kind [if kind = 2 then 0x10 else 0x11] ok, FileBody.empty⟩
/-- Handles 0 to `n` - 1 hold a scan, and the next one activity `act` of `unit` in state `st`. -/
def mH (n act unit st : Nat) (file : Option TolFile) (h : Hive) : Hive :=
  let h := (List.range n).foldl (fun h k => (h.mset k (some ⟨1, k, ⟨.queue, 1, false, 9, 0x0D, 5⟩, none, 0, 0, 0,
    0, 0, []⟩)).set (F.cmdMaint_state k) 2) h
  (h.mset n (some ⟨act, unit, ⟨.queue, 1, false, 9, 0x0D, 5⟩, file, 0, 0, 0, 0, 0, []⟩)).set (F.cmdMaint_state n) st
def mOn (h : Hive) : Hive := runs [(F.laneCtl_mode 143, 3), (F.laneStat_state 143, 7), (F.pwrBakStat_vbak_mv,
    5000), (F.wrkCombStat_spare 63, 1), (F.fbcStat_state 2, 3)] h
def mB : State := at' (fun h => { mOn h with kpar := h.kpar })
def mH' (n act unit st : Nat) (file : Option TolFile) : State := at' (fun h => mH n act unit st file (mOn h))
def mFw (u : Nat) : State := at' (fun h => mH 0 9 u 2 (some (mFile (4 + u) true)) { mOn h with fwTarget := some u })
def mHold : State := at' (fun h => (List.range 4).foldl (fun h k => (h.mset k (some ⟨1, k, ⟨.queue, 1, false, 9,
    0x0D, 5⟩, none, 0, 0, 0, 0, 0, []⟩)).set (F.cmdMaint_state k) 1) (mH 4 1 143 2 none (mOn h)))
def ceNow : CmdEntry := { ce (1 + 16 * 143) 0 0 with queue := false }
/-- An activity as a handle holds it. -/
def mx (act unit : Nat) : MaintSt := ⟨act, unit, ⟨.queue, 1, false, 9, 0x0D, 5⟩, none, 0, 0, 0, 0, 0, []⟩

/-- States and operands that meet the hypotheses of MaintenanceStarts, clause by clause. -/
theorem meets_MaintenanceStarts :
    (144 < 4096 ∧
      (1 < 8 → 0 = 0 ∧ 0 = 0) ∧
      goodEntry (ce (1 + 16 * 144) 0 0) 13 false (1 + 16 * 144) 0 0 = true ∧
      (1, Instr.laneEyeScan (ce (1 + 16 * 144) 0 0)) ∈
        [(1, Instr.laneEyeScan (ce (1 + 16 * 144) 0 0)), (2, Instr.laneRetrain (ce (1 + 16 * 144) 0 0)),
          (3, Instr.cancellerReprobeSweep (ce (1 + 16 * 144) 0 0)), (4, Instr.sensorSelfTest (ce (1 + 16 * 144) 0 0)),
          (5, Instr.fanLearn (ce (1 + 16 * 144) 0 0)), (6, Instr.backupCapacityLearn (ce (1 + 16 * 144) 0 0)),
          (7, Instr.workerSpareBist (ce (1 + 16 * 144) 0 0)), (8, Instr.patchLoad (ce (1 + 16 * 144) 0 0) (mFile 2 true)),
          (9, Instr.firmwareAbSwitch (ce (1 + 16 * 144) 0 0) (mFile 2 true))] ∧
      maintUnit 1 144 = false) ∧
      (143 < 4096 ∧
      (1 < 8 → 0 = 0 ∧ 0 = 0) ∧
      goodEntry (ce (1 + 16 * 143) 0 0) 13 false (1 + 16 * 143) 0 0 = true ∧
      (1, Instr.laneEyeScan (ce (1 + 16 * 143) 0 0)) ∈
        [(1, Instr.laneEyeScan (ce (1 + 16 * 143) 0 0)), (2, Instr.laneRetrain (ce (1 + 16 * 143) 0 0)),
          (3, Instr.cancellerReprobeSweep (ce (1 + 16 * 143) 0 0)), (4, Instr.sensorSelfTest (ce (1 + 16 * 143) 0 0)),
          (5, Instr.fanLearn (ce (1 + 16 * 143) 0 0)), (6, Instr.backupCapacityLearn (ce (1 + 16 * 143) 0 0)),
          (7, Instr.workerSpareBist (ce (1 + 16 * 143) 0 0)), (8, Instr.patchLoad (ce (1 + 16 * 143) 0 0) (mFile 2 true)),
          (9, Instr.firmwareAbSwitch (ce (1 + 16 * 143) 0 0) (mFile 2 true))] ∧
      maintUnit 1 143 = true ∧
      (maintAdmits State.reset.hive.mode 1 = false ∨ ¬State.reset.hive.maintRule 1 143)) ∧
      (143 < 4096 ∧
      (1 < 8 → 0 = 0 ∧ 0 = 0) ∧
      goodEntry (ce (1 + 16 * 143) 0 0) 13 false (1 + 16 * 143) 0 0 = true ∧
      (1, Instr.laneEyeScan (ce (1 + 16 * 143) 0 0)) ∈
        [(1, Instr.laneEyeScan (ce (1 + 16 * 143) 0 0)), (2, Instr.laneRetrain (ce (1 + 16 * 143) 0 0)),
          (3, Instr.cancellerReprobeSweep (ce (1 + 16 * 143) 0 0)), (4, Instr.sensorSelfTest (ce (1 + 16 * 143) 0 0)),
          (5, Instr.fanLearn (ce (1 + 16 * 143) 0 0)), (6, Instr.backupCapacityLearn (ce (1 + 16 * 143) 0 0)),
          (7, Instr.workerSpareBist (ce (1 + 16 * 143) 0 0)), (8, Instr.patchLoad (ce (1 + 16 * 143) 0 0) (mFile 2 true)),
          (9, Instr.firmwareAbSwitch (ce (1 + 16 * 143) 0 0) (mFile 2 true))] ∧
      maintUnit 1 143 = true ∧
      maintAdmits mHold.hive.mode 1 = true ∧
      mHold.hive.maintRule 1 143 ∧
      (mHold.hive.maintBlocked 1 143 (if 1 < 8 then none else some (mFile 2 true)) mHold.hive.maintSeq = true) ∧
      ((ce (1 + 16 * 143) 0 0).queue = false ∨ 4 ≤ mHold.hive.maintWaiting)) ∧
      (143 < 4096 ∧
      (1 < 8 → 0 = 0 ∧ 0 = 0) ∧
      goodEntry (ce (1 + 16 * 143) 0 0) 13 false (1 + 16 * 143) 0 0 = true ∧
      (1, Instr.laneEyeScan (ce (1 + 16 * 143) 0 0)) ∈
        [(1, Instr.laneEyeScan (ce (1 + 16 * 143) 0 0)), (2, Instr.laneRetrain (ce (1 + 16 * 143) 0 0)),
          (3, Instr.cancellerReprobeSweep (ce (1 + 16 * 143) 0 0)), (4, Instr.sensorSelfTest (ce (1 + 16 * 143) 0 0)),
          (5, Instr.fanLearn (ce (1 + 16 * 143) 0 0)), (6, Instr.backupCapacityLearn (ce (1 + 16 * 143) 0 0)),
          (7, Instr.workerSpareBist (ce (1 + 16 * 143) 0 0)), (8, Instr.patchLoad (ce (1 + 16 * 143) 0 0) (mFile 2 true)),
          (9, Instr.firmwareAbSwitch (ce (1 + 16 * 143) 0 0) (mFile 2 true))] ∧
      maintUnit 1 143 = true ∧
      maintAdmits (mH' 15 1 1 2 none).hive.mode 1 = true ∧
      (mH' 15 1 1 2 none).hive.maintRule 1 143 ∧
      ((mH' 15 1 1 2 none).hive.maintBlocked 1 143 (if 1 < 8 then none else some (mFile 2 true))
            (mH' 15 1 1 2 none).hive.maintSeq =
          false ∨
        (ce (1 + 16 * 143) 0 0).queue = true ∧ (mH' 15 1 1 2 none).hive.maintWaiting < 4) ∧
      (mH' 15 1 1 2 none).hive.maintFree = none) ∧
      (143 < 4096 ∧
      (1 < 8 → 0 = 0 ∧ 0 = 0) ∧
      goodEntry (ce (1 + 16 * 143) 0 0) 13 false (1 + 16 * 143) 0 0 = true ∧
      (1, Instr.laneEyeScan (ce (1 + 16 * 143) 0 0)) ∈
        [(1, Instr.laneEyeScan (ce (1 + 16 * 143) 0 0)), (2, Instr.laneRetrain (ce (1 + 16 * 143) 0 0)),
          (3, Instr.cancellerReprobeSweep (ce (1 + 16 * 143) 0 0)), (4, Instr.sensorSelfTest (ce (1 + 16 * 143) 0 0)),
          (5, Instr.fanLearn (ce (1 + 16 * 143) 0 0)), (6, Instr.backupCapacityLearn (ce (1 + 16 * 143) 0 0)),
          (7, Instr.workerSpareBist (ce (1 + 16 * 143) 0 0)), (8, Instr.patchLoad (ce (1 + 16 * 143) 0 0) (mFile 2 true)),
          (9, Instr.firmwareAbSwitch (ce (1 + 16 * 143) 0 0) (mFile 2 true))] ∧
      maintUnit 1 143 = true ∧
      maintAdmits mB.hive.mode 1 = true ∧
      mB.hive.maintRule 1 143 ∧
      (mB.hive.maintBlocked 1 143 (if 1 < 8 then none else some (mFile 2 true)) mB.hive.maintSeq = false ∨
        (ce (1 + 16 * 143) 0 0).queue = true ∧ mB.hive.maintWaiting < 4) ∧
      mB.hive.maintFree = some 0 ∧
      (mB.hive.maintBlocked 1 143 (if 1 < 8 then none else some (mFile 2 true)) mB.hive.maintSeq = false)) ∧
      (143 < 4096 ∧
      (1 < 8 → 0 = 0 ∧ 0 = 0) ∧
      goodEntry (ce (1 + 16 * 143) 0 0) 13 false (1 + 16 * 143) 0 0 = true ∧
      (1, Instr.laneEyeScan (ce (1 + 16 * 143) 0 0)) ∈
        [(1, Instr.laneEyeScan (ce (1 + 16 * 143) 0 0)), (2, Instr.laneRetrain (ce (1 + 16 * 143) 0 0)),
          (3, Instr.cancellerReprobeSweep (ce (1 + 16 * 143) 0 0)), (4, Instr.sensorSelfTest (ce (1 + 16 * 143) 0 0)),
          (5, Instr.fanLearn (ce (1 + 16 * 143) 0 0)), (6, Instr.backupCapacityLearn (ce (1 + 16 * 143) 0 0)),
          (7, Instr.workerSpareBist (ce (1 + 16 * 143) 0 0)), (8, Instr.patchLoad (ce (1 + 16 * 143) 0 0) (mFile 2 true)),
          (9, Instr.firmwareAbSwitch (ce (1 + 16 * 143) 0 0) (mFile 2 true))] ∧
      maintUnit 1 143 = true ∧
      maintAdmits (mH' 0 1 143 2 none).hive.mode 1 = true ∧
      (mH' 0 1 143 2 none).hive.maintRule 1 143 ∧
      ((mH' 0 1 143 2 none).hive.maintBlocked 1 143 (if 1 < 8 then none else some (mFile 2 true))
            (mH' 0 1 143 2 none).hive.maintSeq =
          false ∨
        (ce (1 + 16 * 143) 0 0).queue = true ∧ (mH' 0 1 143 2 none).hive.maintWaiting < 4) ∧
      (mH' 0 1 143 2 none).hive.maintFree = some 1 ∧
      ((mH' 0 1 143 2 none).hive.maintBlocked 1 143 (if 1 < 8 then none else some (mFile 2 true))
          (mH' 0 1 143 2 none).hive.maintSeq =
        true)) ∧
      (143 < 4096 ∧
      (2 < 8 → 0 = 0 ∧ 0 = 0) ∧
      goodEntry (ce (2 + 16 * 143) 0 0) 13 false (2 + 16 * 143) 0 0 = true ∧
      (2, Instr.laneRetrain (ce (2 + 16 * 143) 0 0)) ∈
        [(1, Instr.laneEyeScan (ce (2 + 16 * 143) 0 0)), (2, Instr.laneRetrain (ce (2 + 16 * 143) 0 0)),
          (3, Instr.cancellerReprobeSweep (ce (2 + 16 * 143) 0 0)), (4, Instr.sensorSelfTest (ce (2 + 16 * 143) 0 0)),
          (5, Instr.fanLearn (ce (2 + 16 * 143) 0 0)), (6, Instr.backupCapacityLearn (ce (2 + 16 * 143) 0 0)),
          (7, Instr.workerSpareBist (ce (2 + 16 * 143) 0 0)), (8, Instr.patchLoad (ce (2 + 16 * 143) 0 0) (mFile 2 true)),
          (9, Instr.firmwareAbSwitch (ce (2 + 16 * 143) 0 0) (mFile 2 true))] ∧
      maintUnit 2 143 = true ∧
      maintAdmits mB.hive.mode 2 = true ∧
      mB.hive.maintRule 2 143 ∧
      (mB.hive.maintBlocked 2 143 (if 2 < 8 then none else some (mFile 2 true)) mB.hive.maintSeq = false ∨
        (ce (2 + 16 * 143) 0 0).queue = true ∧ mB.hive.maintWaiting < 4) ∧
      mB.hive.maintFree = some 0 ∧
      (mB.hive.maintBlocked 2 143 (if 2 < 8 then none else some (mFile 2 true)) mB.hive.maintSeq = false)) ∧
      (0 < 4096 ∧
      (3 < 8 → 0 = 0 ∧ 0 = 0) ∧
      goodEntry (ce 3 0 0) 13 false (3 + 16 * 0) 0 0 = true ∧
      (3, Instr.cancellerReprobeSweep (ce 3 0 0)) ∈
        [(1, Instr.laneEyeScan (ce 3 0 0)), (2, Instr.laneRetrain (ce 3 0 0)),
          (3, Instr.cancellerReprobeSweep (ce 3 0 0)), (4, Instr.sensorSelfTest (ce 3 0 0)),
          (5, Instr.fanLearn (ce 3 0 0)), (6, Instr.backupCapacityLearn (ce 3 0 0)),
          (7, Instr.workerSpareBist (ce 3 0 0)), (8, Instr.patchLoad (ce 3 0 0) (mFile 2 true)),
          (9, Instr.firmwareAbSwitch (ce 3 0 0) (mFile 2 true))] ∧
      maintUnit 3 0 = true ∧
      maintAdmits mB.hive.mode 3 = true ∧
      mB.hive.maintRule 3 0 ∧
      (mB.hive.maintBlocked 3 0 (if 3 < 8 then none else some (mFile 2 true)) mB.hive.maintSeq = false ∨
        (ce 3 0 0).queue = true ∧ mB.hive.maintWaiting < 4) ∧
      mB.hive.maintFree = some 0 ∧
      (mB.hive.maintBlocked 3 0 (if 3 < 8 then none else some (mFile 2 true)) mB.hive.maintSeq = false)) ∧
      (0 < 4096 ∧
      (4 < 8 → 0 = 0 ∧ 0 = 0) ∧
      goodEntry (ce 4 0 0) 13 false (4 + 16 * 0) 0 0 = true ∧
      (4, Instr.sensorSelfTest (ce 4 0 0)) ∈
        [(1, Instr.laneEyeScan (ce 4 0 0)), (2, Instr.laneRetrain (ce 4 0 0)),
          (3, Instr.cancellerReprobeSweep (ce 4 0 0)), (4, Instr.sensorSelfTest (ce 4 0 0)),
          (5, Instr.fanLearn (ce 4 0 0)), (6, Instr.backupCapacityLearn (ce 4 0 0)),
          (7, Instr.workerSpareBist (ce 4 0 0)), (8, Instr.patchLoad (ce 4 0 0) (mFile 2 true)),
          (9, Instr.firmwareAbSwitch (ce 4 0 0) (mFile 2 true))] ∧
      maintUnit 4 0 = true ∧
      maintAdmits mB.hive.mode 4 = true ∧
      mB.hive.maintRule 4 0 ∧
      (mB.hive.maintBlocked 4 0 (if 4 < 8 then none else some (mFile 2 true)) mB.hive.maintSeq = false ∨
        (ce 4 0 0).queue = true ∧ mB.hive.maintWaiting < 4) ∧
      mB.hive.maintFree = some 0 ∧
      (mB.hive.maintBlocked 4 0 (if 4 < 8 then none else some (mFile 2 true)) mB.hive.maintSeq = false)) ∧
      (0 < 4096 ∧
      (5 < 8 → 0 = 0 ∧ 0 = 0) ∧
      goodEntry (ce 5 0 0) 13 false (5 + 16 * 0) 0 0 = true ∧
      (5, Instr.fanLearn (ce 5 0 0)) ∈
        [(1, Instr.laneEyeScan (ce 5 0 0)), (2, Instr.laneRetrain (ce 5 0 0)),
          (3, Instr.cancellerReprobeSweep (ce 5 0 0)), (4, Instr.sensorSelfTest (ce 5 0 0)),
          (5, Instr.fanLearn (ce 5 0 0)), (6, Instr.backupCapacityLearn (ce 5 0 0)),
          (7, Instr.workerSpareBist (ce 5 0 0)), (8, Instr.patchLoad (ce 5 0 0) (mFile 2 true)),
          (9, Instr.firmwareAbSwitch (ce 5 0 0) (mFile 2 true))] ∧
      maintUnit 5 0 = true ∧
      maintAdmits mB.hive.mode 5 = true ∧
      mB.hive.maintRule 5 0 ∧
      (mB.hive.maintBlocked 5 0 (if 5 < 8 then none else some (mFile 2 true)) mB.hive.maintSeq = false ∨
        (ce 5 0 0).queue = true ∧ mB.hive.maintWaiting < 4) ∧
      mB.hive.maintFree = some 0 ∧
      (mB.hive.maintBlocked 5 0 (if 5 < 8 then none else some (mFile 2 true)) mB.hive.maintSeq = false)) ∧
      (0 < 4096 ∧
      (6 < 8 → 0 = 0 ∧ 0 = 0) ∧
      goodEntry (ce 6 0 0) 13 false (6 + 16 * 0) 0 0 = true ∧
      (6, Instr.backupCapacityLearn (ce 6 0 0)) ∈
        [(1, Instr.laneEyeScan (ce 6 0 0)), (2, Instr.laneRetrain (ce 6 0 0)),
          (3, Instr.cancellerReprobeSweep (ce 6 0 0)), (4, Instr.sensorSelfTest (ce 6 0 0)),
          (5, Instr.fanLearn (ce 6 0 0)), (6, Instr.backupCapacityLearn (ce 6 0 0)),
          (7, Instr.workerSpareBist (ce 6 0 0)), (8, Instr.patchLoad (ce 6 0 0) (mFile 2 true)),
          (9, Instr.firmwareAbSwitch (ce 6 0 0) (mFile 2 true))] ∧
      maintUnit 6 0 = true ∧
      maintAdmits mB.hive.mode 6 = true ∧
      mB.hive.maintRule 6 0 ∧
      (mB.hive.maintBlocked 6 0 (if 6 < 8 then none else some (mFile 2 true)) mB.hive.maintSeq = false ∨
        (ce 6 0 0).queue = true ∧ mB.hive.maintWaiting < 4) ∧
      mB.hive.maintFree = some 0 ∧
      (mB.hive.maintBlocked 6 0 (if 6 < 8 then none else some (mFile 2 true)) mB.hive.maintSeq = false)) ∧
      (63 < 4096 ∧
      (7 < 8 → 0 = 0 ∧ 0 = 0) ∧
      goodEntry (ce (7 + 16 * 63) 0 0) 13 false (7 + 16 * 63) 0 0 = true ∧
      (7, Instr.workerSpareBist (ce (7 + 16 * 63) 0 0)) ∈
        [(1, Instr.laneEyeScan (ce (7 + 16 * 63) 0 0)), (2, Instr.laneRetrain (ce (7 + 16 * 63) 0 0)),
          (3, Instr.cancellerReprobeSweep (ce (7 + 16 * 63) 0 0)), (4, Instr.sensorSelfTest (ce (7 + 16 * 63) 0 0)),
          (5, Instr.fanLearn (ce (7 + 16 * 63) 0 0)), (6, Instr.backupCapacityLearn (ce (7 + 16 * 63) 0 0)),
          (7, Instr.workerSpareBist (ce (7 + 16 * 63) 0 0)), (8, Instr.patchLoad (ce (7 + 16 * 63) 0 0) (mFile 2 true)),
          (9, Instr.firmwareAbSwitch (ce (7 + 16 * 63) 0 0) (mFile 2 true))] ∧
      maintUnit 7 63 = true ∧
      maintAdmits mB.hive.mode 7 = true ∧
      mB.hive.maintRule 7 63 ∧
      (mB.hive.maintBlocked 7 63 (if 7 < 8 then none else some (mFile 2 true)) mB.hive.maintSeq = false ∨
        (ce (7 + 16 * 63) 0 0).queue = true ∧ mB.hive.maintWaiting < 4) ∧
      mB.hive.maintFree = some 0 ∧
      (mB.hive.maintBlocked 7 63 (if 7 < 8 then none else some (mFile 2 true)) mB.hive.maintSeq = false)) ∧
      (0 < 4096 ∧
      (8 < 8 → 0 = 0 ∧ 0 = 0) ∧
      goodEntry (ce 8 0 0) 13 false (8 + 16 * 0) 0 0 = true ∧
      (8, Instr.patchLoad (ce 8 0 0) (mFile 2 true)) ∈
        [(1, Instr.laneEyeScan (ce 8 0 0)), (2, Instr.laneRetrain (ce 8 0 0)),
          (3, Instr.cancellerReprobeSweep (ce 8 0 0)), (4, Instr.sensorSelfTest (ce 8 0 0)),
          (5, Instr.fanLearn (ce 8 0 0)), (6, Instr.backupCapacityLearn (ce 8 0 0)),
          (7, Instr.workerSpareBist (ce 8 0 0)), (8, Instr.patchLoad (ce 8 0 0) (mFile 2 true)),
          (9, Instr.firmwareAbSwitch (ce 8 0 0) (mFile 2 true))] ∧
      maintUnit 8 0 = true ∧
      maintAdmits mB.hive.mode 8 = true ∧
      mB.hive.maintRule 8 0 ∧
      (mB.hive.maintBlocked 8 0 (if 8 < 8 then none else some (mFile 2 true)) mB.hive.maintSeq = false ∨
        (ce 8 0 0).queue = true ∧ mB.hive.maintWaiting < 4) ∧
      mB.hive.maintFree = some 0 ∧
      (mB.hive.maintBlocked 8 0 (if 8 < 8 then none else some (mFile 2 true)) mB.hive.maintSeq = false)) ∧
      (0 < 4096 ∧
      (9 < 8 → 0 = 0 ∧ 0 = 0) ∧
      goodEntry (ce 9 0 0) 13 false (9 + 16 * 0) 0 0 = true ∧
      (9, Instr.firmwareAbSwitch (ce 9 0 0) (mFile 2 true)) ∈
        [(1, Instr.laneEyeScan (ce 9 0 0)), (2, Instr.laneRetrain (ce 9 0 0)),
          (3, Instr.cancellerReprobeSweep (ce 9 0 0)), (4, Instr.sensorSelfTest (ce 9 0 0)),
          (5, Instr.fanLearn (ce 9 0 0)), (6, Instr.backupCapacityLearn (ce 9 0 0)),
          (7, Instr.workerSpareBist (ce 9 0 0)), (8, Instr.patchLoad (ce 9 0 0) (mFile 2 true)),
          (9, Instr.firmwareAbSwitch (ce 9 0 0) (mFile 2 true))] ∧
      maintUnit 9 0 = true ∧
      maintAdmits mB.hive.mode 9 = true ∧
      mB.hive.maintRule 9 0 ∧
      (mB.hive.maintBlocked 9 0 (if 9 < 8 then none else some (mFile 2 true)) mB.hive.maintSeq = false ∨
        (ce 9 0 0).queue = true ∧ mB.hive.maintWaiting < 4) ∧
      mB.hive.maintFree = some 0 ∧
      (mB.hive.maintBlocked 9 0 (if 9 < 8 then none else some (mFile 2 true)) mB.hive.maintSeq = false)) := by
  haveI := @decRule
  (repeat' apply And.intro) <;> first | decide | (simp only [Hive.maintRule]; done) | (simp only [Hive.maintRule]; decide)

/-- States and operands that meet the hypotheses of MaintenanceEnds, clause by clause. -/
theorem meets_MaintenanceEnds :
    (admits mB.hive.mode CmdGroup.maintAbort = true ∧
      goodEntry (ce 15 0 0) 14 false 15 0 0 = true ∧
      mB.hive.mget 15 = none ∧
      (mB.hive.mget 15 = none ∨ mB.hive.mState 15 ≠ 1) ∧
      (mB.hive.fwTarget ≠ some (if true = true then 1 else 0))) ∧
      (admits (mH' 15 2 143 2 none).hive.mode CmdGroup.maintAbort = true ∧
      goodEntry (ce 15 0 0) 14 false 15 0 0 = true ∧
      (mH' 15 2 143 2 none).hive.mget 15 = some (mx 2 143) ∧
      (mH' 15 2 143 2 none).hive.mState 15 = 2 ∧
      ((mx 2 143).act = 2 ∨ (mx 2 143).act = 4 ∨ (mx 2 143).act = 8 ∨ (mx 2 143).act = 9)) ∧
      (admits (mH' 15 1 143 1 none).hive.mode CmdGroup.maintAbort = true ∧
      goodEntry (ce 15 0 0) 14 false 15 0 0 = true ∧
      (mH' 15 1 143 1 none).hive.mget 15 = some (mx 1 143) ∧
      (mH' 15 1 143 1 none).hive.mState 15 = 1 ∧
      1 ≤ (mx 1 143).act ∧
      (mx 1 143).act ≤ 9 ∧
      maintUnit (mx 1 143).act (mx 1 143).unit = true ∧
      ((mx 1 143).file = if (mx 1 143).act < 8 then none else some (mFile 4 true)) ∧
      (mH' 15 1 143 1 none).hive.maintBlocked (mx 1 143).act (mx 1 143).unit (mx 1 143).file (mx 1 143).seq = false ∧
      maintAdmits (mH' 15 1 143 1 none).hive.mode (mx 1 143).act = true ∧
      (mH' 15 1 143 1 none).hive.maintRule (mx 1 143).act (mx 1 143).unit) ∧
      (admits (mH' 15 3 0 2 none).hive.mode CmdGroup.maintAbort = true ∧
      goodEntry (ce 15 0 0) 14 false 15 0 0 = true ∧
      (mH' 15 3 0 2 none).hive.mget 15 = some (mx 3 0) ∧
      (mH' 15 3 0 2 none).hive.mState 15 = 2 ∧
      (mx 3 0).act = 3) ∧
      (admits (mH' 15 1 143 2 none).hive.mode CmdGroup.maintAbort = true ∧
      goodEntry (ce 15 0 0) 14 false 15 0 0 = true ∧
      (mH' 15 1 143 2 none).hive.mget 15 = some (mx 1 143) ∧
      (mH' 15 1 143 2 none).hive.mState 15 = 2 ∧
      ((mx 1 143).act = 1 ∨ (mx 1 143).act = 5 ∨ (mx 1 143).act = 6 ∨ (mx 1 143).act = 7) ∧
      maintUnit (mx 1 143).act (mx 1 143).unit = true ∧
      (mx 1 143).act = 1) ∧
      (admits (mH' 15 5 0 2 none).hive.mode CmdGroup.maintAbort = true ∧
      goodEntry (ce 15 0 0) 14 false 15 0 0 = true ∧
      (mH' 15 5 0 2 none).hive.mget 15 = some (mx 5 0) ∧
      (mH' 15 5 0 2 none).hive.mState 15 = 2 ∧
      ((mx 5 0).act = 1 ∨ (mx 5 0).act = 5 ∨ (mx 5 0).act = 6 ∨ (mx 5 0).act = 7) ∧
      maintUnit (mx 5 0).act (mx 5 0).unit = true ∧
      (mx 5 0).act = 5 ∧
      0 < 4) ∧
      (admits (mH' 15 6 0 2 none).hive.mode CmdGroup.maintAbort = true ∧
      goodEntry (ce 15 0 0) 14 false 15 0 0 = true ∧
      (mH' 15 6 0 2 none).hive.mget 15 = some (mx 6 0) ∧
      (mH' 15 6 0 2 none).hive.mState 15 = 2 ∧
      ((mx 6 0).act = 1 ∨ (mx 6 0).act = 5 ∨ (mx 6 0).act = 6 ∨ (mx 6 0).act = 7) ∧
      maintUnit (mx 6 0).act (mx 6 0).unit = true ∧
      (mx 6 0).act = 6) ∧
      (admits (mH' 15 7 63 2 none).hive.mode CmdGroup.maintAbort = true ∧
      goodEntry (ce 15 0 0) 14 false 15 0 0 = true ∧
      (mH' 15 7 63 2 none).hive.mget 15 = some (mx 7 63) ∧
      (mH' 15 7 63 2 none).hive.mState 15 = 2 ∧
      ((mx 7 63).act = 1 ∨ (mx 7 63).act = 5 ∨ (mx 7 63).act = 6 ∨ (mx 7 63).act = 7) ∧
      maintUnit (mx 7 63).act (mx 7 63).unit = true ∧
      (mx 7 63).act = 7) ∧
      ((mH' 15 1 1 1 none).hive.mState 15 = 1 ∧
      (mH' 15 1 1 1 none).hive.mget 15 = some (mx 1 1) ∧
      1 ≤ (mx 1 1).act ∧
      (mx 1 1).act ≤ 9 ∧
      maintUnit (mx 1 1).act (mx 1 1).unit = true ∧
      ((mx 1 1).file = if (mx 1 1).act < 8 then none else some (mFile 4 true)) ∧
      (mH' 15 1 1 1 none).hive.maintBlocked (mx 1 1).act (mx 1 1).unit (mx 1 1).file (mx 1 1).seq = true) ∧
      ((at' (mH 0 1 1 1 none)).hive.mState 0 = 1 ∧
      (at' (mH 0 1 1 1 none)).hive.mget 0 = some (mx 1 1) ∧
      1 ≤ (mx 1 1).act ∧
      (mx 1 1).act ≤ 9 ∧
      maintUnit (mx 1 1).act (mx 1 1).unit = true ∧
      ((mx 1 1).file = if (mx 1 1).act < 8 then none else some (mFile 4 true)) ∧
      (at' (mH 0 1 1 1 none)).hive.maintBlocked (mx 1 1).act (mx 1 1).unit (mx 1 1).file (mx 1 1).seq = false ∧
      (maintAdmits (at' (mH 0 1 1 1 none)).hive.mode (mx 1 1).act = false ∨
        ¬(at' (mH 0 1 1 1 none)).hive.maintRule (mx 1 1).act (mx 1 1).unit)) ∧
      (((mFw 0).hive.fwTarget = some (if false = true then 1 else 0)) ∧
      false = false ∧
      ((mFw 0).hive.maintOf 9 (if false = true then 1 else 0) = some 0)) ∧
      (((mFw 1).hive.fwTarget = some (if true = true then 1 else 0)) ∧
      true = true) := by
  haveI := @decRule
  (repeat' apply And.intro) <;> first | decide | (intro _; rfl) | rfl

/-! ## The queen -/

def qB : State := at' (runs [])
def qL (life prov rev : Nat) (l : List (RF × Nat)) : State := at' (fun h => { runs l h with
    sys := { h.sys with
      otpLife := life, otpProv := prov, otpRev := rev, boot := { h.sys.boot with topVersion := 64 } } })
def qJ (j : QueJob) : State := at' (fun h => { runs [] h with
    ticks := 10 ^ 12, sys := { h.sys with qjob := some j } })
def qChal : State := at' (fun h => { runs [] h with ticks := 10 ^ 12, sys := { h.sys with chalOn := true } })
/-- The hash of an identity key of zeros. -/
def idHash : Nat := Config.sha384 (List.replicate 96 0) % 2 ^ 384
/-- A token's bytes in QUE.TOKEN: purpose, signing slot, argument, and the chip's identity hash. -/
def tokH (p k a : Nat) (h : Hive) : Hive :=
  let g := (h.wr (R.queToken 0) 0x4B544C54).wr (R.queToken 1) (BitVec.ofNat 32 (p + 256 * k + 65536 * a))
  { g with
      regs := (List.range 12).map (fun k => (R.queToken (2 + k),
        BitVec.ofNat 32 (idHash / 2 ^ (32 * k)))) ++ g.regs }
def qT (life prov p k a : Nat) (l : List (RF × Nat)) : State := at' (fun h => tokH p k a { runs l h with
    sys := { h.sys with otpLife := life, otpProv := prov, chalOn := true } })
def qH (life prov p k a : Nat) : State := at' (fun h => { tokH p k a { runs [] h with
    sys := { h.sys with otpLife := life, otpProv := prov, chalOn := true } } with mode := .safe })
def qR : State := at' (fun h => (tokH 1 0 2 { runs [] h with
    streams := [3], sys := { h.sys with otpLife := 2, otpProv := 1, chalOn := true } }).setSt 3 stLive)
def qD : State := at' (fun h => (runs [] h).wr (R.smkDeadline 3) 7)
def qM (good : Bool) : State := at' (fun h =>
    let h := { runs [] h with mism := [(0x810100, 0)] };
    { h with envHash := if good then h.envDigest else h.envDigest + 1 })
def qEnt : JEntry := ⟨0, 0, 0, 0, 5, 0, 0, 0, 0, 0, 0⟩
def qE : State := at' (fun h => ({ runs [(F.queLife_debug, 3)] h with streams := [3], jq := [qEnt] }).setSt 3 stLive)
def qJd : State := at' (fun h => { runs [] h with queenUp := false })
def jQ : QueJob := { QueJob.init with cmd := 3 }
def jRoll : QueJob := { QueJob.init with cmd := 6, arg := 64 }
def jRev : QueJob := { QueJob.init with cmd := 2, arg := 3, slot := some 2 }
def jProv : QueJob := { QueJob.init with cmd := 4, slot := some 3 }
def jRma : QueJob := { QueJob.init with cmd := 7, life := some 3 }
/-- A state whose owner key slot 3 is programmed, its copy lost. -/
def qAgain : State := at' (fun h => { runs [] h with
    sys := { h.sys with otpLife := 1, otpProv := 8, keysBad := 8, otpHash := [(3, idHash)] } })
def qJdn (j : QueJob) : State := at' (fun h => { (qJ j).hive with queenUp := false })
def qJd2 (j : QueJob) : State := at' (fun h => { (qJ j).hive with sys := { (qJ j).hive.sys with otpLife := 2 } })
def jRetry : QueJob := { QueJob.init with cmd := 6, arg := 64, retry := true }
def jHelp : QueJob := { QueJob.init with cmd := 2, arg := 2, helper := 8, seed := 8, life := some 3 }
def jSeed : QueJob := { QueJob.init with cmd := 2, arg := 2, seed := 8, life := some 3 }
def jHash : QueJob := { QueJob.init with cmd := 4, slot := some 3, hash := 8 }

/-- Nothing is left to program of a hash that the slot holds. -/
theorem fuseCount_self (x n : Nat) : fuseCount x x n = 0 := by
  simp [fuseCount]

/-- Slot 3 of qAgain holds the hash of the key in QUE.TOKEN: nothing is left to program. -/
theorem test_programmed_again (e : qAgain.hive.tokKeyHash 0 = qAgain.hive.sys.hashOf 3) :
    qAgain.hive.sys.fusesLeft { QueJob.init with cmd := 4, arg := 3, slot := some 3, hash := qAgain.hive.tokKeyHash 0 } = 0 := by
  rw [e]
  have a : bitOf qAgain.hive.sys.otpProv 3 = true := by decide
  simp [Sys.fusesLeft, QueJob.keySlot, QueJob.revSlot, QueJob.init, fuseCount_self, fuseCount, a]

/-- States and operands that meet the hypotheses of QueenCommands, clause by clause. -/
theorem meets_QueenCommands :
    (goodWrite (wq R.queCmd 1) R.queCmd false = true ∧
      (bitsOf (BitVec.toNat (wq R.queCmd 1).value) 0 4, Instr.challenge (wq R.queCmd 1)) ∈
        [(1, Instr.challenge (wq R.queCmd 1)), (3, Instr.quote (wq R.queCmd 1)), (4, Instr.provision (wq R.queCmd 1)),
          (5, Instr.deploy (wq R.queCmd 1)), (6, Instr.rollbackCommit (wq R.queCmd 1)),
          (7, Instr.rmaFromBlank (wq R.queCmd 1))] ∧
      (false = true ↔
        bitsOf (BitVec.toNat (wq R.queCmd 1).value) 0 4 = 4 ∧ 3 < bitsOf (BitVec.toNat (wq R.queCmd 1).value) 8 8 ∨
          bitsOf (BitVec.toNat (wq R.queCmd 1).value) 0 4 = 6 ∧ 64 < bitsOf (BitVec.toNat (wq R.queCmd 1).value) 8 8) ∧
      True ∧
      (State.reset.hive.queenUp = false ∨ State.reset.hive.sys.qjob ≠ none)) ∧
      (goodWrite (wq R.queCmd 1) R.queCmd false = true ∧
      (bitsOf (BitVec.toNat (wq R.queCmd 1).value) 0 4, Instr.challenge (wq R.queCmd 1)) ∈
        [(1, Instr.challenge (wq R.queCmd 1)), (3, Instr.quote (wq R.queCmd 1)), (4, Instr.provision (wq R.queCmd 1)),
          (5, Instr.deploy (wq R.queCmd 1)), (6, Instr.rollbackCommit (wq R.queCmd 1)),
          (7, Instr.rmaFromBlank (wq R.queCmd 1))] ∧
      (false = true ↔
        bitsOf (BitVec.toNat (wq R.queCmd 1).value) 0 4 = 4 ∧ 3 < bitsOf (BitVec.toNat (wq R.queCmd 1).value) 8 8 ∨
          bitsOf (BitVec.toNat (wq R.queCmd 1).value) 0 4 = 6 ∧ 64 < bitsOf (BitVec.toNat (wq R.queCmd 1).value) 8 8) ∧
      True ∧
      qB.hive.queenUp = true ∧
      qB.hive.sys.qjob = none ∧
      bitsOf (BitVec.toNat (wq R.queCmd 1).value) 0 4 = 1) ∧
      (goodWrite (wq R.queCmd 3) R.queCmd false = true ∧
      (bitsOf (BitVec.toNat (wq R.queCmd 3).value) 0 4, Instr.quote (wq R.queCmd 3)) ∈
        [(1, Instr.challenge (wq R.queCmd 3)), (3, Instr.quote (wq R.queCmd 3)), (4, Instr.provision (wq R.queCmd 3)),
          (5, Instr.deploy (wq R.queCmd 3)), (6, Instr.rollbackCommit (wq R.queCmd 3)),
          (7, Instr.rmaFromBlank (wq R.queCmd 3))] ∧
      (false = true ↔
        bitsOf (BitVec.toNat (wq R.queCmd 3).value) 0 4 = 4 ∧ 3 < bitsOf (BitVec.toNat (wq R.queCmd 3).value) 8 8 ∨
          bitsOf (BitVec.toNat (wq R.queCmd 3).value) 0 4 = 6 ∧ 64 < bitsOf (BitVec.toNat (wq R.queCmd 3).value) 8 8) ∧
      ((qL 2 0 0 [(F.queLife_puf_ok, 1)]).hive.sys.otpLife ≠ 0 ∧
        (qL 2 0 0 [(F.queLife_puf_ok, 1)]).hive.flag F.queLife_puf_ok = true) ∧
      (qL 2 0 0 [(F.queLife_puf_ok, 1)]).hive.queenUp = true ∧
      (qL 2 0 0 [(F.queLife_puf_ok, 1)]).hive.sys.qjob = none ∧
      bitsOf (BitVec.toNat (wq R.queCmd 3).value) 0 4 = 3) ∧
      (goodWrite (wq R.queCmd 772) R.queCmd false = true ∧
      (bitsOf (BitVec.toNat (wq R.queCmd 772).value) 0 4, Instr.provision (wq R.queCmd 772)) ∈
        [(1, Instr.challenge (wq R.queCmd 772)), (3, Instr.quote (wq R.queCmd 772)),
          (4, Instr.provision (wq R.queCmd 772)), (5, Instr.deploy (wq R.queCmd 772)),
          (6, Instr.rollbackCommit (wq R.queCmd 772)), (7, Instr.rmaFromBlank (wq R.queCmd 772))] ∧
      (false = true ↔
        bitsOf (BitVec.toNat (wq R.queCmd 772).value) 0 4 = 4 ∧ 3 < bitsOf (BitVec.toNat (wq R.queCmd 772).value) 8 8 ∨
          bitsOf (BitVec.toNat (wq R.queCmd 772).value) 0 4 = 6 ∧
            64 < bitsOf (BitVec.toNat (wq R.queCmd 772).value) 8 8) ∧
      (bitsOf (BitVec.toNat (wq R.queCmd 772).value) 8 8 < 4 ∧
        (qB.hive.sys.otpLife = 0 ∨
          qB.hive.sys.otpLife = 1 ∧
            bitOf qB.hive.sys.provNow (bitsOf (BitVec.toNat (wq R.queCmd 772).value) 8 8) = false)) ∧
      qB.hive.queenUp = true ∧
      qB.hive.sys.qjob = none ∧
      bitsOf (BitVec.toNat (wq R.queCmd 772).value) 0 4 = 4 ∧
      (qB.hive.sys.otpLife = 0 ∨ bitOf qB.hive.sys.otpProv (bitsOf (BitVec.toNat (wq R.queCmd 772).value) 8 8) = false)) ∧
      (goodWrite (wq R.queCmd 5) R.queCmd false = true ∧
      (bitsOf (BitVec.toNat (wq R.queCmd 5).value) 0 4, Instr.deploy (wq R.queCmd 5)) ∈
        [(1, Instr.challenge (wq R.queCmd 5)), (3, Instr.quote (wq R.queCmd 5)), (4, Instr.provision (wq R.queCmd 5)),
          (5, Instr.deploy (wq R.queCmd 5)), (6, Instr.rollbackCommit (wq R.queCmd 5)),
          (7, Instr.rmaFromBlank (wq R.queCmd 5))] ∧
      (false = true ↔
        bitsOf (BitVec.toNat (wq R.queCmd 5).value) 0 4 = 4 ∧ 3 < bitsOf (BitVec.toNat (wq R.queCmd 5).value) 8 8 ∨
          bitsOf (BitVec.toNat (wq R.queCmd 5).value) 0 4 = 6 ∧ 64 < bitsOf (BitVec.toNat (wq R.queCmd 5).value) 8 8) ∧
      ((qL 1 1 0 [(F.imgStat_loaded, 1)]).hive.sys.otpLife = 1 ∧
        (qL 1 1 0 [(F.imgStat_loaded, 1)]).hive.flag F.imgStat_loaded = true ∧
          ∃ k,
            k < 4 ∧
              bitOf (qL 1 1 0 [(F.imgStat_loaded, 1)]).hive.sys.provNow k = true ∧
                bitOf (qL 1 1 0 [(F.imgStat_loaded, 1)]).hive.sys.otpRev k = false) ∧
      (qL 1 1 0 [(F.imgStat_loaded, 1)]).hive.queenUp = true ∧
      (qL 1 1 0 [(F.imgStat_loaded, 1)]).hive.sys.qjob = none ∧
      bitsOf (BitVec.toNat (wq R.queCmd 5).value) 0 4 = 5) ∧
      (goodWrite (wq R.queCmd 16390) R.queCmd false = true ∧
      (bitsOf (BitVec.toNat (wq R.queCmd 16390).value) 0 4, Instr.rollbackCommit (wq R.queCmd 16390)) ∈
        [(1, Instr.challenge (wq R.queCmd 16390)), (3, Instr.quote (wq R.queCmd 16390)),
          (4, Instr.provision (wq R.queCmd 16390)), (5, Instr.deploy (wq R.queCmd 16390)),
          (6, Instr.rollbackCommit (wq R.queCmd 16390)), (7, Instr.rmaFromBlank (wq R.queCmd 16390))] ∧
      (false = true ↔
        bitsOf (BitVec.toNat (wq R.queCmd 16390).value) 0 4 = 4 ∧
            3 < bitsOf (BitVec.toNat (wq R.queCmd 16390).value) 8 8 ∨
          bitsOf (BitVec.toNat (wq R.queCmd 16390).value) 0 4 = 6 ∧
            64 < bitsOf (BitVec.toNat (wq R.queCmd 16390).value) 8 8) ∧
      (bitsOf (BitVec.toNat (wq R.queCmd 16390).value) 8 8 ≤ 64 ∧
        (qL 1 1 0 [(F.imgStat_loaded, 1)]).hive.sys.otpRoll < bitsOf (BitVec.toNat (wq R.queCmd 16390).value) 8 8 ∧
          (qL 1 1 0 [(F.imgStat_loaded, 1)]).hive.flag F.imgStat_loaded = true ∧
            bitsOf (BitVec.toNat (wq R.queCmd 16390).value) 8 8 ≤
              (qL 1 1 0 [(F.imgStat_loaded, 1)]).hive.sys.boot.topVersion) ∧
      (qL 1 1 0 [(F.imgStat_loaded, 1)]).hive.queenUp = true ∧
      (qL 1 1 0 [(F.imgStat_loaded, 1)]).hive.sys.qjob = none ∧
      bitsOf (BitVec.toNat (wq R.queCmd 16390).value) 0 4 = 6) ∧
      (goodWrite (wq R.queCmd 7) R.queCmd false = true ∧
      (bitsOf (BitVec.toNat (wq R.queCmd 7).value) 0 4, Instr.rmaFromBlank (wq R.queCmd 7)) ∈
        [(1, Instr.challenge (wq R.queCmd 7)), (3, Instr.quote (wq R.queCmd 7)), (4, Instr.provision (wq R.queCmd 7)),
          (5, Instr.deploy (wq R.queCmd 7)), (6, Instr.rollbackCommit (wq R.queCmd 7)),
          (7, Instr.rmaFromBlank (wq R.queCmd 7))] ∧
      (false = true ↔
        bitsOf (BitVec.toNat (wq R.queCmd 7).value) 0 4 = 4 ∧ 3 < bitsOf (BitVec.toNat (wq R.queCmd 7).value) 8 8 ∨
          bitsOf (BitVec.toNat (wq R.queCmd 7).value) 0 4 = 6 ∧ 64 < bitsOf (BitVec.toNat (wq R.queCmd 7).value) 8 8) ∧
      qB.hive.sys.otpLife = 0 ∧
      qB.hive.queenUp = true ∧
      qB.hive.sys.qjob = none ∧
      bitsOf (BitVec.toNat (wq R.queCmd 7).value) 0 4 = 7) ∧
      (goodWrite (wq R.queCmd 772) R.queCmd false = true ∧
      (bitsOf (BitVec.toNat (wq R.queCmd 772).value) 0 4, Instr.provision (wq R.queCmd 772)) ∈
        [(1, Instr.challenge (wq R.queCmd 772)), (3, Instr.quote (wq R.queCmd 772)),
          (4, Instr.provision (wq R.queCmd 772)), (5, Instr.deploy (wq R.queCmd 772)),
          (6, Instr.rollbackCommit (wq R.queCmd 772)), (7, Instr.rmaFromBlank (wq R.queCmd 772))] ∧
      (false = true ↔
        bitsOf (BitVec.toNat (wq R.queCmd 772).value) 0 4 = 4 ∧ 3 < bitsOf (BitVec.toNat (wq R.queCmd 772).value) 8 8 ∨
          bitsOf (BitVec.toNat (wq R.queCmd 772).value) 0 4 = 6 ∧
            64 < bitsOf (BitVec.toNat (wq R.queCmd 772).value) 8 8) ∧
      (bitsOf (BitVec.toNat (wq R.queCmd 772).value) 8 8 < 4 ∧
        (qAgain.hive.sys.otpLife = 0 ∨
          qAgain.hive.sys.otpLife = 1 ∧
            bitOf qAgain.hive.sys.provNow (bitsOf (BitVec.toNat (wq R.queCmd 772).value) 8 8) = false)) ∧
      qAgain.hive.queenUp = true ∧
      qAgain.hive.sys.qjob = none ∧
      bitsOf (BitVec.toNat (wq R.queCmd 772).value) 0 4 = 4 ∧
      qAgain.hive.sys.otpLife = 1 ∧
      qAgain.hive.sys.fusesLeft
          { QueJob.init with cmd := 4, arg := bitsOf (BitVec.toNat (wq R.queCmd 772).value) 8 8, slot := some (bitsOf (BitVec.toNat (wq R.queCmd 772).value) 8 8), hash := qAgain.hive.tokKeyHash 0 } =
        0) ∧
      (goodWrite (wq R.queCmd 3) R.queCmd false = true ∧
      (bitsOf (BitVec.toNat (wq R.queCmd 3).value) 0 4, Instr.quote (wq R.queCmd 3)) ∈
        [(1, Instr.challenge (wq R.queCmd 3)), (3, Instr.quote (wq R.queCmd 3)), (4, Instr.provision (wq R.queCmd 3)),
          (5, Instr.deploy (wq R.queCmd 3)), (6, Instr.rollbackCommit (wq R.queCmd 3)),
          (7, Instr.rmaFromBlank (wq R.queCmd 3))] ∧
      (false = true ↔
        bitsOf (BitVec.toNat (wq R.queCmd 3).value) 0 4 = 4 ∧ 3 < bitsOf (BitVec.toNat (wq R.queCmd 3).value) 8 8 ∨
          bitsOf (BitVec.toNat (wq R.queCmd 3).value) 0 4 = 6 ∧ 64 < bitsOf (BitVec.toNat (wq R.queCmd 3).value) 8 8) ∧
      ¬(qB.hive.sys.otpLife ≠ 0 ∧ qB.hive.flag F.queLife_puf_ok = true) ∧
      qB.hive.queenUp = true ∧
      qB.hive.sys.qjob = none ∧
      (3 =
        if false = true then stBadArg
        else if bitsOf (BitVec.toNat (wq R.queCmd 3).value) 0 4 = 3 ∧ qB.hive.sys.otpLife ≠ 0 then stInteg else stWrong) ∧
      qB.hive.flag F.wrRefuse_valid = false) := by
  (repeat' apply And.intro) <;> first
    | decide | rfl | exact test_programmed_again rfl
    | exact @of_decide_eq_true _ (decKey _ _) rfl

/-- The bytes of a number, read as a number, give its low part. -/
theorem leNat_bytes (n x : Nat) : leNat ((List.range n).map (fun i => x / 2 ^ (8 * i) % 256)) = x % 2 ^ (8 * n) := by
  induction n generalizing x with
  | zero => simp [leNat, Nat.mod_one]
  | succ n ih =>
    have e (i : Nat) : x / 2 ^ (8 * (i + 1)) = x / 256 / 2 ^ (8 * i) := by
      rw [show 8 * (i + 1) = 8 + 8 * i by omega, Nat.pow_add, Nat.div_div_eq_div_mul]
    rw [List.range_succ_eq_map, List.map_cons, List.map_map, leNat]
    simp only [Function.comp_def, Nat.succ_eq_add_one, e, ih]
    rw [show 8 * (n + 1) = 8 + 8 * n by omega, Nat.pow_add, Nat.mod_mul]
    simp

/-- A state whose token holds the hash of an identity key of zeros, which is its own. -/
theorem tokId_of (h : Hive)
    (p : (List.range 24).flatMap (fun i => leBytes (h.rd (R.queIdPub i)).toNat 4) = List.replicate 96 0)
    (w : ∀ k, k < 12 → h.rd (R.queToken (2 + k)) = BitVec.ofNat 32 (idHash / 2 ^ (32 * k))) : h.tokId = true := by
  have b (i : Nat) (l : i ∈ List.range 48) : h.tokByte (8 + i) = idHash / 2 ^ (8 * i) % 256 := by
    have l := List.mem_range.mp l
    rw [Hive.tokByte, show (8 + i) / 4 = 2 + i / 4 by omega, w _ (by omega), BitVec.toNat_ofNat, bitsOf,
      show (8 + i) % 4 = i % 4 by omega]
    generalize idHash = x
    rw [show 8 * i = 32 * (i / 4) + 8 * (i % 4) by omega, Nat.pow_add, ← Nat.div_div_eq_div_mul]
    generalize x / 2 ^ (32 * (i / 4)) = y
    have : i % 4 < 4 := Nat.mod_lt _ (by omega)
    generalize i % 4 = j at *
    match j, this with
    | 0, _ => omega
    | 1, _ => omega
    | 2, _ => omega
    | 3, _ => omega
  rw [Hive.tokId, p, List.map_congr_left b, leNat_bytes, beq_iff_eq, idHash, Nat.mod_mod]

/-- The identity hash of the tokens of the states below is the chip's own. -/
theorem test_token_identity : qR.hive.tokId = true ∧ (qT 1 1 2 0 0 []).hive.tokId = true ∧
    (qT 1 7 3 0 1 []).hive.tokId = true ∧ (qT 2 1 4 0 3 []).hive.tokId = true := by
  refine ⟨tokId_of _ rfl ?_, tokId_of _ rfl ?_, tokId_of _ rfl ?_, tokId_of _ rfl ?_⟩ <;>
    (intro k h; match k, h with
      | 0, _ | 1, _ | 2, _ | 3, _ | 4, _ | 5, _ | 6, _ | 7, _ | 8, _ | 9, _ | 10, _ | 11, _ => rfl)

/-- States and operands that meet the hypotheses of TokenCommands, clause by clause. -/
theorem meets_TokenCommands :
    (goodWrite (wq R.queCmd 2) R.queCmd false = true ∧
      bitsOf (BitVec.toNat (wq R.queCmd 2).value) 0 4 = 2 ∧
      qR.hive.tokFormed = true ∧
      qR.hive.queenUp = true ∧
      qR.hive.sys.qjob = none ∧
      (qR.hive.tokArg = 1 → qR.hive.mode = Mode.safe ∨ qR.hive.mode = Mode.halt) ∧
      (qR.hive.tokPurpose, Instr.tokenDebugUnlock (wq R.queCmd 2) false) ∈
        [(1, Instr.tokenDebugUnlock (wq R.queCmd 2) false), (2, Instr.tokenEnterRma (wq R.queCmd 2) false),
          (3, Instr.tokenRevokeSlot (wq R.queCmd 2) false), (4, Instr.tokenAddSlot (wq R.queCmd 2) false)] ∧
      ((decide (qR.hive.tokKey < 4) && qR.hive.keysUsable qR.hive.tokKey && qR.hive.tokId && qR.hive.tokChal && false) =
            false ∧
          8 = stNotAuth ∨
        (decide (qR.hive.tokKey < 4) && qR.hive.keysUsable qR.hive.tokKey && qR.hive.tokId && qR.hive.tokChal && false) =
            true ∧
          ¬True ∧ 8 = stWrong) ∧
      qR.hive.flag F.wrRefuse_valid = false) ∧
      (goodWrite (wq R.queCmd 2) R.queCmd false = true ∧
      bitsOf (BitVec.toNat (wq R.queCmd 2).value) 0 4 = 2 ∧
      qR.hive.tokFormed = true ∧
      qR.hive.queenUp = true ∧
      qR.hive.sys.qjob = none ∧
      (qR.hive.tokArg = 1 → qR.hive.mode = Mode.safe ∨ qR.hive.mode = Mode.halt) ∧
      (qR.hive.tokPurpose, Instr.tokenDebugUnlock (wq R.queCmd 2) true) ∈
        [(1, Instr.tokenDebugUnlock (wq R.queCmd 2) true), (2, Instr.tokenEnterRma (wq R.queCmd 2) true),
          (3, Instr.tokenRevokeSlot (wq R.queCmd 2) true), (4, Instr.tokenAddSlot (wq R.queCmd 2) true)] ∧
      (decide (qR.hive.tokKey < 4) && qR.hive.keysUsable qR.hive.tokKey && qR.hive.tokId && qR.hive.tokChal && true) =
        true ∧
      qR.hive.tokPurpose = 1 ∧
      qR.hive.sys.otpLife = 2 ∧
      qR.hive.tokArg = 2 ∧
      qR.hive.running? = true ∧
      3 ∈ qR.hive.image ∧
      qR.hive.unmarked 3 ∧
      qR.hive.st 3 = stLive) ∧
      (goodWrite (wq R.queCmd 2) R.queCmd false = true ∧
      bitsOf (BitVec.toNat (wq R.queCmd 2).value) 0 4 = 2 ∧
      (qT 1 1 2 0 0 []).hive.tokFormed = true ∧
      (qT 1 1 2 0 0 []).hive.queenUp = true ∧
      (qT 1 1 2 0 0 []).hive.sys.qjob = none ∧
      ((qT 1 1 2 0 0 []).hive.sys.otpLife = 1 ∨ (qT 1 1 2 0 0 []).hive.sys.otpLife = 2) ∧
      ((qT 1 1 2 0 0 []).hive.tokPurpose, Instr.tokenEnterRma (wq R.queCmd 2) true) ∈
        [(1, Instr.tokenDebugUnlock (wq R.queCmd 2) true), (2, Instr.tokenEnterRma (wq R.queCmd 2) true),
          (3, Instr.tokenRevokeSlot (wq R.queCmd 2) true), (4, Instr.tokenAddSlot (wq R.queCmd 2) true)] ∧
      (decide ((qT 1 1 2 0 0 []).hive.tokKey < 4) && (qT 1 1 2 0 0 []).hive.keysUsable (qT 1 1 2 0 0 []).hive.tokKey &&
              (qT 1 1 2 0 0 []).hive.tokId &&
            (qT 1 1 2 0 0 []).hive.tokChal &&
          true) =
        true ∧
      ((qT 1 1 2 0 0 []).hive.tokPurpose = 2 ∨
        (qT 1 1 2 0 0 []).hive.tokPurpose = 3 ∧
            bitOf (qT 1 1 2 0 0 []).hive.sys.otpRev (qT 1 1 2 0 0 []).hive.tokArg = false ∨
          (qT 1 1 2 0 0 []).hive.tokPurpose = 4 ∧
            bitOf (qT 1 1 2 0 0 []).hive.sys.otpProv (qT 1 1 2 0 0 []).hive.tokArg = false) ∧
      (qT 1 1 2 0 0 []).hive.tokPurpose = 2) ∧
      (goodWrite (wq R.queCmd 2) R.queCmd false = true ∧
      bitsOf (BitVec.toNat (wq R.queCmd 2).value) 0 4 = 2 ∧
      (qT 1 7 3 0 1 []).hive.tokFormed = true ∧
      (qT 1 7 3 0 1 []).hive.queenUp = true ∧
      (qT 1 7 3 0 1 []).hive.sys.qjob = none ∧
      ((qT 1 7 3 0 1 []).hive.tokArg ≠ (qT 1 7 3 0 1 []).hive.tokKey ∧
        ¬(qT 1 7 3 0 1 []).hive.tokArg ∈ (qT 1 7 3 0 1 []).hive.sys.boot.signers ∧
          (¬∃ k q,
                k < 4 ∧
                  (qT 1 7 3 0 1 []).hive.pget k = some q ∧
                    (qT 1 7 3 0 1 []).hive.pPending k = true ∧ ↑q.file.hdr.key = (qT 1 7 3 0 1 []).hive.tokArg) ∧
            ∃ k,
              k < 4 ∧
                k ≠ (qT 1 7 3 0 1 []).hive.tokArg ∧
                  bitOf (qT 1 7 3 0 1 []).hive.sys.provNow k = true ∧ bitOf (qT 1 7 3 0 1 []).hive.sys.otpRev k = false) ∧
      ((qT 1 7 3 0 1 []).hive.tokPurpose, Instr.tokenRevokeSlot (wq R.queCmd 2) true) ∈
        [(1, Instr.tokenDebugUnlock (wq R.queCmd 2) true), (2, Instr.tokenEnterRma (wq R.queCmd 2) true),
          (3, Instr.tokenRevokeSlot (wq R.queCmd 2) true), (4, Instr.tokenAddSlot (wq R.queCmd 2) true)] ∧
      (decide ((qT 1 7 3 0 1 []).hive.tokKey < 4) && (qT 1 7 3 0 1 []).hive.keysUsable (qT 1 7 3 0 1 []).hive.tokKey &&
              (qT 1 7 3 0 1 []).hive.tokId &&
            (qT 1 7 3 0 1 []).hive.tokChal &&
          true) =
        true ∧
      ((qT 1 7 3 0 1 []).hive.tokPurpose = 2 ∨
        (qT 1 7 3 0 1 []).hive.tokPurpose = 3 ∧
            bitOf (qT 1 7 3 0 1 []).hive.sys.otpRev (qT 1 7 3 0 1 []).hive.tokArg = false ∨
          (qT 1 7 3 0 1 []).hive.tokPurpose = 4 ∧
            bitOf (qT 1 7 3 0 1 []).hive.sys.otpProv (qT 1 7 3 0 1 []).hive.tokArg = false) ∧
      (qT 1 7 3 0 1 []).hive.tokPurpose = 3) ∧
      (goodWrite (wq R.queCmd 2) R.queCmd false = true ∧
      bitsOf (BitVec.toNat (wq R.queCmd 2).value) 0 4 = 2 ∧
      (qT 2 1 4 0 3 []).hive.tokFormed = true ∧
      (qT 2 1 4 0 3 []).hive.queenUp = true ∧
      (qT 2 1 4 0 3 []).hive.sys.qjob = none ∧
      ((qT 2 1 4 0 3 []).hive.sys.otpLife = 2 ∧
        bitOf (qT 2 1 4 0 3 []).hive.sys.provNow (qT 2 1 4 0 3 []).hive.tokArg = false) ∧
      ((qT 2 1 4 0 3 []).hive.tokPurpose, Instr.tokenAddSlot (wq R.queCmd 2) true) ∈
        [(1, Instr.tokenDebugUnlock (wq R.queCmd 2) true), (2, Instr.tokenEnterRma (wq R.queCmd 2) true),
          (3, Instr.tokenRevokeSlot (wq R.queCmd 2) true), (4, Instr.tokenAddSlot (wq R.queCmd 2) true)] ∧
      (decide ((qT 2 1 4 0 3 []).hive.tokKey < 4) && (qT 2 1 4 0 3 []).hive.keysUsable (qT 2 1 4 0 3 []).hive.tokKey &&
              (qT 2 1 4 0 3 []).hive.tokId &&
            (qT 2 1 4 0 3 []).hive.tokChal &&
          true) =
        true ∧
      ((qT 2 1 4 0 3 []).hive.tokPurpose = 2 ∨
        (qT 2 1 4 0 3 []).hive.tokPurpose = 3 ∧
            bitOf (qT 2 1 4 0 3 []).hive.sys.otpRev (qT 2 1 4 0 3 []).hive.tokArg = false ∨
          (qT 2 1 4 0 3 []).hive.tokPurpose = 4 ∧
            bitOf (qT 2 1 4 0 3 []).hive.sys.otpProv (qT 2 1 4 0 3 []).hive.tokArg = false) ∧
      (qT 2 1 4 0 3 []).hive.tokPurpose = 4) := by
  haveI := @decPatch
  haveI := @decKey
  obtain ⟨e1, e2, e3, e4⟩ := test_token_identity
  (repeat' apply And.intro) <;> first
    | decide | rfl | (rw [Bool.and_false]; exact .inl ⟨rfl, rfl⟩) | (simp only [e1, e2, e3, e4]; decide)
    | exact @of_decide_eq_true _ (@instDecidableNot _ (decPatch _)) rfl

/-- Every pin value of qB agrees with its complement. -/
theorem qB_pins : ∀ (p : Nat), p < 4 → qB.hive.usePin p 2 = qB.hive := by
  intro p h
  match p, h with
  | 0, _ => rfl
  | 1, _ => rfl
  | 2, _ => rfl
  | 3, _ => rfl

/-- The envelope hash of qM true is that of its records. -/
theorem qM_same : (qM true).hive.envDigest = (qM true).hive.envHash := rfl

/-- The envelope hash of qM false is another. -/
theorem qM_differs : (qM false).hive.envDigest ≠ (qM false).hive.envHash := Nat.ne_of_lt (Nat.lt_succ_self _)

/-- The register of qD that fails its check is listed. -/
theorem qD_listed : ∃ w, (R.smkDeadline 3, w) ∈ qD.hive.regs := @of_decide_eq_true _ (decKey _ _) rfl

/-- States and operands that meet the hypotheses of QueenWork, clause by clause. -/
theorem meets_QueenWork :
    ((State.reset.hive.sys.chalOn = false ∨ State.reset.hive.ticks < State.reset.hive.sys.chalAt + 589824000000) ∧
      State.reset.hive.sys.qjob = none ∧
      State.reset.hive.queenUp = false ∧
      (∀ (x : Nat × Nat), x ∈ State.reset.hive.mism → x.fst < 8454144 + 3 * 256 ∨ 8454144 + 3 * 256 + 256 ≤ x.fst) ∧
      (State.reset.hive.running? = false ∨ State.reset.hive.get F.queLife_debug = 0)) ∧
      (qChal.hive.sys.chalOn = true ∧
      qChal.hive.sys.chalAt + 589824000000 ≤ qChal.hive.ticks) ∧
      ((qJ jRoll).hive.sys.qjob = some jRoll ∧
      jRoll.cmd ≠ 3 ∧
      (qJ jRoll).hive.queenUp = true ∧
      jRoll.since + 983040 ≤ (qJ jRoll).hive.ticks ∧
      ((qJ jRoll).hive.sys.fuseStep jRoll).fusesLeft jRoll ≠ 0 ∧
      jRoll.retry = false ∧
      jRoll.cmd = 6 ∧
      (qJ jRoll).hive.sys.otpRoll < jRoll.arg ∧
      (qJ jRoll).hive.sys.otpRoll < 64) ∧
      ((qJ jQ).hive.sys.qjob = some jQ ∧
      jQ.cmd = 3) ∧
      ((qJdn jRoll).hive.sys.qjob = some jRoll ∧
      ((qJdn jRoll).hive.queenUp = false ∨ (qJdn jRoll).hive.ticks < jRoll.since + 983040)) ∧
      ((qJ jRetry).hive.sys.qjob = some jRetry ∧
      jRetry.cmd ≠ 3 ∧
      (qJ jRetry).hive.queenUp = true ∧
      jRetry.since + 983040 ≤ (qJ jRetry).hive.ticks ∧
      ((qJ jRetry).hive.sys.fuseStep jRetry).fusesLeft jRetry ≠ 0 ∧
      jRetry.retry = true) ∧
      ((qJ jRev).hive.sys.qjob = some jRev ∧
      jRev.cmd ≠ 3 ∧
      (qJ jRev).hive.queenUp = true ∧
      jRev.since + 983040 ≤ (qJ jRev).hive.ticks ∧
      ((qJ jRev).hive.sys.fuseStep jRev).fusesLeft jRev = 0 ∧
      jRev.cmd ≠ 6 ∧
      fuseNext jRev.helper (qJ jRev).hive.sys.pufHelper 8192 = none ∧
      fuseNext jRev.seed (qJ jRev).hive.sys.wrapSeed 256 = none ∧
      jRev.keySlot = none ∧
      jRev.revSlot = some 2) ∧
      ((qJ jProv).hive.sys.qjob = some jProv ∧
      jProv.cmd ≠ 3 ∧
      (qJ jProv).hive.queenUp = true ∧
      jProv.since + 983040 ≤ (qJ jProv).hive.ticks ∧
      ((qJ jProv).hive.sys.fuseStep jProv).fusesLeft jProv = 0 ∧
      jProv.keySlot = some 3 ∧
      3 < 4 ∧
      jProv.cmd ≠ 6 ∧
      fuseNext jProv.helper (qJ jProv).hive.sys.pufHelper 8192 = none ∧
      fuseNext jProv.seed (qJ jProv).hive.sys.wrapSeed 256 = none ∧
      fuseNext jProv.hash ((qJ jProv).hive.sys.hashOf 3) 384 = none) ∧
      ((qJd2 jRma).hive.sys.qjob = some jRma ∧
      jRma.cmd ≠ 3 ∧
      (qJd2 jRma).hive.queenUp = true ∧
      jRma.since + 983040 ≤ (qJd2 jRma).hive.ticks ∧
      ((qJd2 jRma).hive.sys.fuseStep jRma).fusesLeft jRma = 0 ∧
      jRma.life = some 3 ∧
      3 < 4) ∧
      ((qJ jHelp).hive.sys.qjob = some jHelp ∧
      jHelp.cmd ≠ 3 ∧
      (qJ jHelp).hive.queenUp = true ∧
      jHelp.since + 983040 ≤ (qJ jHelp).hive.ticks ∧
      jHelp.cmd ≠ 6 ∧
      fuseNext jHelp.helper (qJ jHelp).hive.sys.pufHelper 8192 = some 3) ∧
      ((qJ jSeed).hive.sys.qjob = some jSeed ∧
      jSeed.cmd ≠ 3 ∧
      (qJ jSeed).hive.queenUp = true ∧
      jSeed.since + 983040 ≤ (qJ jSeed).hive.ticks ∧
      jSeed.cmd ≠ 6 ∧
      fuseNext jSeed.helper (qJ jSeed).hive.sys.pufHelper 8192 = none ∧
      fuseNext jSeed.seed (qJ jSeed).hive.sys.wrapSeed 256 = some 3) ∧
      ((qJ jHash).hive.sys.qjob = some jHash ∧
      jHash.cmd ≠ 3 ∧
      (qJ jHash).hive.queenUp = true ∧
      jHash.since + 983040 ≤ (qJ jHash).hive.ticks ∧
      jHash.cmd ≠ 6 ∧
      fuseNext jHash.helper (qJ jHash).hive.sys.pufHelper 8192 = none ∧
      fuseNext jHash.seed (qJ jHash).hive.sys.wrapSeed 256 = none ∧
      jHash.keySlot = some 3 ∧
      fuseNext jHash.hash ((qJ jHash).hive.sys.hashOf 3) 384 = some 3) ∧
      ((qJ jRma).hive.sys.qjob = some jRma ∧
      jRma.cmd ≠ 3 ∧
      (qJ jRma).hive.queenUp = true ∧
      jRma.since + 983040 ≤ (qJ jRma).hive.ticks ∧
      jRma.cmd ≠ 6 ∧
      fuseNext jRma.helper (qJ jRma).hive.sys.pufHelper 8192 = none ∧
      fuseNext jRma.seed (qJ jRma).hive.sys.wrapSeed 256 = none ∧
      jRma.keySlot = none ∧
      jRma.revSlot = none ∧
      jRma.life = some 3) ∧
      (qD.hive.queenUp = true ∧
      (∃ w, (R.smkDeadline 3, w) ∈ qD.hive.regs) ∧
      rwcOk (qD.hive.rd (R.smkDeadline 3)) = false ∧
      (∀ (x : Nat × Word), x ∈ qD.hive.regs → x.fst = R.smkDeadline 3 → x.snd = qD.hive.rd x.fst) ∧
      (∀ (x : Nat × Word), x ∈ qD.hive.regs → isRwc x.fst = true → x.fst ≠ R.smkDeadline 3 → rwcOk x.snd = true) ∧
      (∀ (x : Nat × Nat), x ∈ qD.hive.mism → x.fst ≠ R.smkDeadline 3)) ∧
      (qB.hive.queenUp = true ∧
      (∀ (x : Nat × Word), x ∈ qB.hive.regs → isRwc x.fst = true → rwcOk x.snd = true) ∧
      qB.hive.envBad = [] ∧
      (∀ (x : Nat × Word), x ∈ qB.hive.wcopy → rwcOk x.snd = true) ∧
      (∀ (p : Nat), p < 4 → qB.hive.usePin p 2 = qB.hive) ∧
      qB.hive.jq = []) ∧
      (qE.hive.queenUp = true ∧
      qE.hive.jq = [qEnt] ∧
      qE.hive.running? = true ∧
      qE.hive.get F.queLife_debug ≠ 0 ∧
      3 ∈ qE.hive.image ∧
      qE.hive.unmarked 3 ∧
      qE.hive.st 3 = stLive) ∧
      ((∃ x, x ∈ (qM false).hive.mism ∧ 8454144 + 1 * 256 ≤ x.fst ∧ x.fst < 8454144 + 1 * 256 + 256) ∧
      (qM false).hive.envDigest ≠ (qM false).hive.envHash) ∧
      ((∃ x, x ∈ (qM true).hive.mism ∧ 8454144 + 1 * 256 ≤ x.fst ∧ x.fst < 8454144 + 1 * 256 + 256) ∧
      (qM true).hive.envDigest = (qM true).hive.envHash ∧
      3 < 176) := by
  haveI := @decPatch
  (repeat' apply And.intro) <;> first
    | with_reducible exact qB_pins | with_reducible exact qM_same | with_reducible exact qM_differs
    | with_reducible exact qD_listed | decide | rfl

/-! ## Faults, the recorder and usage -/

def fB : State := at' (runs [])
def fA : State := at' (fun h => (runs [] h).raiseSC 0x01 0x03 0x2000 2 0)
def f5 : State := at' (fun h => { h.raise 0x01 0x01 0x77 5 0 with mode := .halt })
def fF : State := at' (fun h => { runs [] h with flush := some (3, 4) })
def fFn : State := at' (fun h => { runs [] h with flush := some (3, 4), flushNext := some 9, ticks := 10 ^ 12 })
def fFl : State := at' (fun h => { runs [] h with flush := some (3, 4), ticks := 10 ^ 12 })
def fZ : State := at' (fun h => { runs [] h with gtc := 983040001 })
def fPf : State := ((fun h : Hive => { h with pfFrozen := true }) |> at')
def fK : State := at' (fun h => (h.kput (recAt 239 + 4) 2051))
def opRate : SchedOp := ⟨5, .rateEpoch 1 7⟩
def opSnap9 : SchedOp := ⟨9, .snapshot⟩
def uS (g : Nat) (f : Hive → Hive) : State := at' (fun h => f { runs [(F.useTCtl_en 1, 1), (F.useTCtl_len 1, 60),
    (F.useTCtl_en 2, 1), (F.useTCtl_len 2, 60), (F.timStat_state, 2)] h with gtc := g })
def uO (g st : Nat) : State := uS g (fun h => { h.uset 1 { UsageSt.init with
    opened := true, start := st, lenNow := 1 } with sched := [⟨5, .rateEpoch 1 7⟩, ⟨9, .snapshot⟩] })
def uFull : State := uS 5 (fun h => { h with sched := List.replicate 256 ⟨2 ^ 30, .rateEpoch 2 7⟩ })

/-- States and operands that meet the hypotheses of FaultsAndRecorder, clause by clause. -/
theorem meets_FaultsAndRecorder :
    (goodWrite (wq (R.fltRec 0 11) 2) (R.fltRec 0 11) false = true ∧
      (State.reset.hive.flt 0).valid = false ∧
      goodWrite (wq R.fltLost 0) R.fltLost false = true ∧
      State.reset.hive.w1cTakes F.fltLost_valid (BitVec.toNat (wq R.fltLost 0).value) = false ∧
      goodWrite (wq R.evrCmd 0) R.evrCmd false = true ∧
      State.reset.hive.pfFrozen = false ∧
      bitOf (BitVec.toNat (wq R.evrCmd 0).value) 0 = false ∧
      (State.reset.hive.flush = none ∨ State.reset.hive.ticks < State.reset.hive.flushAt + flushTicks) ∧
      State.reset.hive.gtc % 983040000 = 0 ∧
      State.reset.hive.areasFrozen = false ∧
      bitOf (BitVec.toNat (State.reset.hive.kget (recAt 239 + 4))) 11 = false ∧
      255 < 480 ∧
      State.reset.hive.gtc % 491520 = 0 ∧
      0 < 8) ∧
      (goodWrite (wq (R.fltRec 0 11) 2) (R.fltRec 0 11) false = true ∧
      (fA.hive.flt 0).valid = true ∧
      ((fA.hive.flt 0).level = 5 ∧ fA.hive.mode = Mode.halt ∨
        (fA.hive.flt 0).count ≠ BitVec.toNat (wq (R.fltRec 0 11) 2).value)) ∧
      (goodWrite (wq (R.fltRec 0 11) 1) (R.fltRec 0 11) false = true ∧
      (fA.hive.flt 0).valid = true ∧
      ((fA.hive.flt 0).level = 5 → fA.hive.mode ≠ Mode.halt) ∧
      (fA.hive.flt 0).count = BitVec.toNat (wq (R.fltRec 0 11) 1).value ∧
      (fA.hive.ownMax < 5 ∨ fA.hive.mode = Mode.halt) ∧
      (∀ (m : LostMark), m ∈ fA.hive.lostMarks → m.tick ≠ fA.hive.ticks) ∧
      255 ≠ 0) ∧
      (goodWrite (wq R.fltLost 2147483648) R.fltLost false = true ∧
      State.reset.hive.w1cTakes F.fltLost_valid (BitVec.toNat (wq R.fltLost 2147483648).value) = true ∧
      (State.reset.hive.ownMax < 5 ∨ State.reset.hive.mode = Mode.halt) ∧
      goodWrite (wq R.evrCmd 1) R.evrCmd false = true ∧
      State.reset.hive.pfFrozen = false ∧
      bitOf (BitVec.toNat (wq R.evrCmd 1).value) 0 = true ∧
      State.reset.hive.flush = none) ∧
      (goodWrite (wq R.evrCmd 1) R.evrCmd false = true ∧
      fPf.hive.pfFrozen = true) ∧
      (goodWrite (wq R.evrCmd 1) R.evrCmd false = true ∧
      fFl.hive.pfFrozen = false ∧
      bitOf (BitVec.toNat (wq R.evrCmd 1).value) 0 = true ∧
      fFl.hive.flush = some (3, 4) ∧
      fFl.hive.flushAt + flushTicks ≤ fFl.hive.ticks ∧
      3 < 4 ∧
      fFl.hive.flushNext = none ∧
      (fFl.hive.gtc % 983040000 ≠ 0 ∨ fFl.hive.areasFrozen = true)) ∧
      (fFn.hive.flushAt + flushTicks ≤ fFn.hive.ticks ∧
      3 < 4 ∧
      fFn.hive.flush = some (3, 4) ∧
      fFn.hive.flushNext = some 9) ∧
      (fK.hive.gtc % 983040000 = 0 ∧
      fK.hive.areasFrozen = false ∧
      bitOf (BitVec.toNat (fK.hive.kget (recAt 239 + 4))) 11 = true) ∧
      (fZ.hive.gtc % 491520 ≠ 0) := by
  (repeat' apply And.intro) <;> first
    | decide | rfl | (intro _; rfl) | exact .inl ⟨rfl, rfl⟩ | exact .inl rfl | exact ⟨0, by decide⟩

/-- States and operands that meet the hypotheses of Usage, clause by clause. -/
theorem meets_Usage :
    (¬((uS 983039 id).hive.gtc % 983040 = 0 ∧
          (uS 983039 id).hive.flag F.pwrClkStat_sclk_lock = true ∧
            (uS 983039 id).hive.umsAt ≠ some (uS 983039 id).hive.ticks) ∧
      (¬((if ((uS 983039 id).hive.usageDue.uget 1).opened = true then ((uS 983039 id).hive.usageDue.uget 1).lenNow
            else (uS 983039 id).hive.get (F.useTCtl_len 1)) ≠
            0 ∧
          (uS 983039 id).hive.gtc %
                ((if ((uS 983039 id).hive.usageDue.uget 1).opened = true then ((uS 983039 id).hive.usageDue.uget 1).lenNow
                  else (uS 983039 id).hive.get (F.useTCtl_len 1)) *
                  58982400000) =
              0 ∧
            ¬(((uS 983039 id).hive.usageDue.uget 1).opened = true ∧
                ((uS 983039 id).hive.usageDue.uget 1).start = (uS 983039 id).hive.gtc))) ∧
      admits (uS 983039 id).hive.mode CmdGroup.timed = true ∧
      goodEntry (ceT 1 16777472 0 0) 12 true 1 (BitVec.toNat (ceT 1 16777472 0 0).a1) 0 = true ∧
      ((uS 983039 id).hive.leadOk (ceT 1 16777472 0 0).t.toNat false = false ∨
        (uS 983039 id).hive.flag F.timStat_load_pend = true) ∧
      (List.filter
          (fun o =>
            match o.kind with
            | SchedKind.rateEpoch v weights => v == 1 && decide (o.t ≤ (uS 983039 id).hive.gtc)
            | x => false)
          (uS 983039 id).hive.sched =
        []) ∧
      goodWrite (wq (R.useTCtl 1) 0) (R.useTCtl 1) false = true ∧
      (BitVec.toNat (wq (R.useTCtl 1) 0).value % 64 = 0 ∨ 60 < BitVec.toNat (wq (R.useTCtl 1) 0).value % 64)) ∧
      ((uS 983040 id).hive.gtc % 983040 = 0 ∧
      (uS 983040 id).hive.flag F.pwrClkStat_sclk_lock = true ∧
      (uS 983040 id).hive.umsAt ≠ some (uS 983040 id).hive.ticks ∧
      ((uS 983040 id).hive.uget 1).opened = false ∧
      (uS 983040 id).hive.usageMay 1 = true) ∧
      ((uO 983040 0).hive.gtc % 983040 = 0 ∧
      (uO 983040 0).hive.flag F.pwrClkStat_sclk_lock = true ∧
      (uO 983040 0).hive.umsAt ≠ some (uO 983040 0).hive.ticks ∧
      ((uO 983040 0).hive.uget 1).opened = true ∧
      ((List.filter
            (fun o =>
              match o.kind with
              | SchedKind.rateEpoch v weights => v == 1 && decide (o.t ≤ (uO 983040 0).hive.gtc)
              | x => false)
            (uO 983040 0).hive.sched).getLast? =
        some { t := 5, kind := SchedKind.rateEpoch 1 7 }) ∧
      (opRate ∈
        List.filter
          (fun o =>
            match o.kind with
            | SchedKind.rateEpoch v weights => v == 1 && decide (o.t ≤ (uO 983040 0).hive.gtc)
            | x => false)
          (uO 983040 0).hive.sched) ∧
      opSnap9 ∈ (uO 983040 0).hive.sched ∧
      (¬opSnap9 ∈
          List.filter
            (fun o =>
              match o.kind with
              | SchedKind.rateEpoch v weights => v == 1 && decide (o.t ≤ (uO 983040 0).hive.gtc)
              | x => false)
            (uO 983040 0).hive.sched) ∧
      ((uO 983040 0).hive.uget 1).start ≠ (uO 983040 0).hive.gtc ∧
      goodWrite (wq (R.useTCtl 1) 1) (R.useTCtl 1) false = true ∧
      1 ≤ BitVec.toNat (wq (R.useTCtl 1) 1).value % 64 ∧
      BitVec.toNat (wq (R.useTCtl 1) 1).value % 64 ≤ 60 ∧
      bitOf (BitVec.toNat (wq (R.useTCtl 1) 1).value) 6 = false) ∧
      (((if ((uO 58982400000 0).hive.usageDue.uget 1).opened = true then ((uO 58982400000 0).hive.usageDue.uget 1).lenNow
          else (uO 58982400000 0).hive.get (F.useTCtl_len 1)) ≠
          0 ∧
        (uO 58982400000 0).hive.gtc %
              ((if ((uO 58982400000 0).hive.usageDue.uget 1).opened = true then
                  ((uO 58982400000 0).hive.usageDue.uget 1).lenNow
                else (uO 58982400000 0).hive.get (F.useTCtl_len 1)) *
                58982400000) =
            0 ∧
          ¬(((uO 58982400000 0).hive.usageDue.uget 1).opened = true ∧
              ((uO 58982400000 0).hive.usageDue.uget 1).start = (uO 58982400000 0).hive.gtc)) ∧
      (uO 58982400000 0).hive.usageMay 1 = true ∧
      ((uO 58982400000 0).hive.usageDue.uget 1).opened = true) ∧
      (admits (uS 983039 id).hive.mode CmdGroup.timed = true ∧
      goodEntry (ceT 1 16777472 0 (2 ^ 30)) 12 true 1 (BitVec.toNat (ceT 1 16777472 0 (2 ^ 30)).a1) 0 = true ∧
      (uS 983039 id).hive.leadOk (ceT 1 16777472 0 (2 ^ 30)).t.toNat false = true ∧
      (uS 983039 id).hive.flag F.timStat_load_pend = false ∧
      (uS 983039 id).hive.sched.length < 256 ∧
      goodWrite (wq (R.useTCtl 1) 1) (R.useTCtl 1) false = true ∧
      1 ≤ BitVec.toNat (wq (R.useTCtl 1) 1).value % 64 ∧
      BitVec.toNat (wq (R.useTCtl 1) 1).value % 64 ≤ 60 ∧
      bitOf (BitVec.toNat (wq (R.useTCtl 1) 1).value) 6 = false) ∧
      (admits uFull.hive.mode CmdGroup.timed = true ∧
      goodEntry (ceT 1 16777472 0 (2 ^ 30)) 12 true 1 (BitVec.toNat (ceT 1 16777472 0 (2 ^ 30)).a1) 0 = true ∧
      uFull.hive.leadOk (ceT 1 16777472 0 (2 ^ 30)).t.toNat false = true ∧
      uFull.hive.flag F.timStat_load_pend = false ∧
      256 ≤ uFull.hive.sched.length) ∧
      (((List.filter
            (fun o =>
              match o.kind with
              | SchedKind.rateEpoch v weights => v == 1 && decide (o.t ≤ (uO 5 5).hive.gtc)
              | x => false)
            (uO 5 5).hive.sched).getLast? =
        some { t := 5, kind := SchedKind.rateEpoch 1 7 }) ∧
      ((uO 5 5).hive.uget 1).opened = true ∧
      ((uO 5 5).hive.uget 1).start = (uO 5 5).hive.gtc ∧
      goodWrite (wq (R.useTCtl 1) (60 + 64)) (R.useTCtl 1) false = true ∧
      1 ≤ BitVec.toNat (wq (R.useTCtl 1) (60 + 64)).value % 64 ∧
      BitVec.toNat (wq (R.useTCtl 1) (60 + 64)).value % 64 ≤ 60 ∧
      bitOf (BitVec.toNat (wq (R.useTCtl 1) (60 + 64)).value) 6 = true ∧
      ((uO 5 5).hive.gtc % 983040 ≠ 0 ∨ (uO 5 5).hive.umsAt = some (uO 5 5).hive.ticks)) ∧
      (goodWrite (wq (R.useTCtl 1) (60 + 64)) (R.useTCtl 1) false = true ∧
      1 ≤ BitVec.toNat (wq (R.useTCtl 1) (60 + 64)).value % 64 ∧
      BitVec.toNat (wq (R.useTCtl 1) (60 + 64)).value % 64 ≤ 60 ∧
      bitOf (BitVec.toNat (wq (R.useTCtl 1) (60 + 64)).value) 6 = true ∧
      ((uO 983040 0).hive.uget 1).opened = true) := by
  (repeat' apply And.intro) <;> first
    | decide | rfl | (intro _; rfl) | exact .inl ⟨rfl, rfl⟩ | exact .inl rfl | exact ⟨0, by decide⟩

/-! ## The SMBus target -/

def sB : State := at' (runs [(F.smbAddrCfg_mask, 3)])
def sC : State := at' (sets [(F.smbAddrCfg_mask, 3)])
def sC2 : State := at' (fun h => { sets [(F.smbAddrCfg_mask, 3)] h with sys := { h.sys with railsGood := 1 } })
def sV : State := at' (fun h => { h with mode := .verify })
def sQ : State := at' (fun h => { runs [(F.smbAddrCfg_mask, 3), (F.queLife_puf_ok, 1)] h with
    sys := { h.sys with otpLife := 2 } })
def sM : State := at' (runs [(F.smbAddrCfg_mask, 3), (F.smbMbStat_busy, 1), (F.smbMbStat_done, 2)])
def sA (fs : List Nat) (b w q : Bool) (m : Nat) : State := at' (fun h => { runs [] h with
    alFaults := fs, alBak := b, alWake := w, alQuote := q, alMb := m })
def sS : State := at' (fun h => h.raiseSC 0x12 0x02 0x7 1 0)
def sFw : State := at' (fun h => { h with fwTarget := some 0 })
def bytes (n : Nat) (l : List Byte) : List Byte := l ++ List.replicate (n - l.length) 0
def smbZero : HostWrite := ⟨.smbus 0, false, 0, [some 0, some 0, some 0, some 0]⟩

/-- States and operands that meet the hypotheses of SmbusTarget, clause by clause. -/
theorem meets_SmbusTarget :
    (State.reset.hive.fwTarget ≠ some 0 ∧
      State.reset.hive.mode = Mode.cold ∧
      ((if (bytes 32 []).length ≠ 32 then stBadArg
        else
          if State.reset.hive.queenUp = false ∨ State.reset.hive.sys.qjob ≠ none ∨ State.reset.hive.sys.otpLife = 0 then
            stWrong
          else if State.reset.hive.flag F.queLife_puf_ok = true then 0 else stInteg) ≠
        0) ∧
      State.reset.hive.fltFind 18 1 7 = none ∧
      Instr.quoteNonce (bytes 32 []) false ∈
        [Instr.quoteNonce (bytes 32 []) false, Instr.quotePtr 367 false, Instr.wake 0 false] ∧
      Instr.addr 5 (bytes 32 []) true ∈
        [Instr.addr 5 (bytes 32 []) true, Instr.dataRead 5 367, Instr.dataWrite 5 (bytes 32 []) true,
          Instr.windowStatus 5, Instr.submit 5 (bytes 32 []) true, Instr.result 5, Instr.hiveClassNack] ∧
      State.reset.hive.ctxOn 5 = false ∧
      Instr.addr 5 (bytes 32 []) true ≠ Instr.hiveClassNack ∧
      ¬(State.reset.hive.alFaults ≠ [] ∨
          State.reset.hive.alBak = true ∨ State.reset.hive.alWake = true ∨ State.reset.hive.alQuote = true) ∧
      (∀ (j : Nat), j < 8 → bitOf State.reset.hive.alMb j = false)) ∧
      (sV.hive.fwTarget ≠ some 0 ∧
      (sV.hive.mode = Mode.boot ∨ sV.hive.mode = Mode.verify)) ∧
      (sQ.hive.fwTarget ≠ some 0 ∧
      ((if (bytes 32 []).length ≠ 32 then stBadArg
        else
          if sQ.hive.queenUp = false ∨ sQ.hive.sys.qjob ≠ none ∨ sQ.hive.sys.otpLife = 0 then stWrong
          else if sQ.hive.flag F.queLife_puf_ok = true then 0 else stInteg) =
        0)) ∧
      (sFw.hive.fwTarget = some 0 ∧
      Instr.health ∈
        [Instr.health, Instr.faultSummary, Instr.power, Instr.quoteNonce (bytes 32 []) true, Instr.quotePtr 367 true,
          Instr.quoteData, Instr.wake 0 true, Instr.keeperStatus]) ∧
      (sB.hive.mode ≠ Mode.cold ∧
      sB.hive.ctxOn 0 = true ∧
      (¬((bytes 32 []).length = 4 ∧
          leNat (List.map (fun x => BitVec.toNat x) (bytes 32 [])) % 4 = 0 ∧
            leNat (List.map (fun x => BitVec.toNat x) (bytes 32 [])) < 67108864)) ∧
      (367 = 0 ∨ 16 < 367) ∧
      ¬(bitOf (sB.hive.get F.smbMbStat_busy) 0 = true ∨ bitOf (sB.hive.get F.smbMbStat_done) 0 = true) ∧
      (bytes 32 []).length ≠ 64) ∧
      (Instr.addr 0 (bytes 32 []) true ∈
        [Instr.addr 0 (bytes 32 []) true, Instr.dataRead 0 367, Instr.dataWrite 0 (bytes 32 []) true,
          Instr.windowStatus 0, Instr.submit 0 (bytes 32 []) true, Instr.result 0, Instr.hiveClassNack] ∧
      State.reset.hive.ctxOn 0 = true ∧
      State.reset.hive.mode = Mode.cold ∧
      State.reset.hive.sys.railsGood = 0) ∧
      (Instr.addr 0 (bytes 32 []) true ∈
        [Instr.addr 0 (bytes 32 []) true, Instr.dataRead 0 367, Instr.dataWrite 0 (bytes 32 []) true,
          Instr.windowStatus 0, Instr.submit 0 (bytes 32 []) true, Instr.result 0, Instr.hiveClassNack] ∧
      sC2.hive.ctxOn 0 = true ∧
      sC2.hive.mode = Mode.cold ∧
      sC2.hive.sys.railsGood ≠ 0) ∧
      (sB.hive.mode ≠ Mode.cold ∧
      sB.hive.ctxOn 0 = true ∧
      ((bytes 4 []).length = 4 ∧
        leNat (List.map (fun x => BitVec.toNat x) (bytes 4 [])) % 4 = 0 ∧
          leNat (List.map (fun x => BitVec.toNat x) (bytes 4 [])) < 67108864) ∧
      1 ≤ 5 ∧
      5 ≤ 16 ∧
      (∀ (a : Nat), Tbl.get (fun x => none) sB.hive.caps (capKey (Req.smbus 0) a) = none) ∧
      0 < 5 ∧
      sB.hive.winPtr 0 + 4 * 0 < 67108864 ∧
      ((bytes 63 []).length % 4 ≠ 0 ∨ (bytes 63 []).length = 0 ∨ 64 < (bytes 63 []).length) ∧
      ¬(bitOf (sB.hive.get F.smbMbStat_busy) 0 = true ∨ bitOf (sB.hive.get F.smbMbStat_done) 0 = true) ∧
      (bytes 64 [0]).length = 64 ∧
      (BitVec.toNat ((bytes 64 [0]).headD 0) = 0 ∨ 16 < BitVec.toNat ((bytes 64 [0]).headD 0))) ∧
      (sB.hive.mode ≠ Mode.cold ∧
      sB.hive.ctxOn 0 = true ∧
      (bytes 4 []).length = 4 ∧
      sB.hive.winPtr 0 < 67108864 ∧
      sB.hive.flag F.wrRefuse_valid = false ∧
      (sB.hive.ownMax < 5 ∨ sB.hive.mode = Mode.halt) ∧
      (∀ (m : FltMark), m ∈ sB.hive.fltMarks → m.tick ≠ sB.hive.ticks) ∧
      (sB.hive.writeSpecial
          { req := Req.smbus 0, bar2 := false, off := sB.hive.winPtr 0, size := 4,
            value := BitVec.ofNat 32 (leNat (List.map (fun x => BitVec.toNat x) (bytes 4 []))) } =
        none) ∧
      (onlyPart smbZero
        { req := Req.smbus 0, bar2 := false, off := sB.hive.winPtr 0, size := 4,
          value := BitVec.ofNat 32 (leNat (List.map (fun x => BitVec.toNat x) (bytes 4 []))) }) ∧
      ¬(bitOf (sB.hive.get F.smbMbStat_busy) 0 = true ∨ bitOf (sB.hive.get F.smbMbStat_done) 0 = true) ∧
      (bytes 64 [1]).length = 64 ∧
      1 ≤ BitVec.toNat ((bytes 64 [1]).headD 0) ∧
      BitVec.toNat ((bytes 64 [1]).headD 0) ≤ 16) ∧
      (sM.hive.mode ≠ Mode.cold ∧
      sM.hive.ctxOn 0 = true ∧
      (bitOf (sM.hive.get F.smbMbStat_busy) 0 = true ∨ bitOf (sM.hive.get F.smbMbStat_done) 0 = true) ∧
      (bytes 64 [0]).length = 64) ∧
      (sM.hive.mode ≠ Mode.cold ∧
      sM.hive.ctxOn 1 = true ∧
      bitOf (sM.hive.get F.smbMbStat_done) 1 = true ∧
      0 < 4) ∧
      (((sA [3, 5] true true true 2).hive.alFaults ≠ [] ∨
        (sA [3, 5] true true true 2).hive.alBak = true ∨
          (sA [3, 5] true true true 2).hive.alWake = true ∨ (sA [3, 5] true true true 2).hive.alQuote = true) ∧
      (sA [3, 5] true true true 2).hive.fltFind 18 1 7 = none ∧
      5 ∈ (sA [3, 5] true true true 2).hive.alFaults ∧
      3 ≤ 5 ∧
      (∀ (g : Nat), g ∈ (sA [3, 5] true true true 2).hive.alFaults → g ≤ 5)) ∧
      (((sA [] true true true 2).hive.alFaults ≠ [] ∨
        (sA [] true true true 2).hive.alBak = true ∨
          (sA [] true true true 2).hive.alWake = true ∨ (sA [] true true true 2).hive.alQuote = true) ∧
      (sA [] true true true 2).hive.fltFind 18 1 7 = none ∧
      (sA [] true true true 2).hive.alFaults = [] ∧
      (sA [] true true true 2).hive.alBak = true) ∧
      (((sA [] false true true 2).hive.alFaults ≠ [] ∨
        (sA [] false true true 2).hive.alBak = true ∨
          (sA [] false true true 2).hive.alWake = true ∨ (sA [] false true true 2).hive.alQuote = true) ∧
      (sA [] false true true 2).hive.fltFind 18 1 7 = none ∧
      (sA [] false true true 2).hive.alFaults = [] ∧
      (sA [] false true true 2).hive.alBak = false ∧
      (sA [] false true true 2).hive.alWake = true) ∧
      (((sA [] false false true 2).hive.alFaults ≠ [] ∨
        (sA [] false false true 2).hive.alBak = true ∨
          (sA [] false false true 2).hive.alWake = true ∨ (sA [] false false true 2).hive.alQuote = true) ∧
      (sA [] false false true 2).hive.fltFind 18 1 7 = none ∧
      (sA [] false false true 2).hive.alFaults = [] ∧
      (sA [] false false true 2).hive.alBak = false ∧
      (sA [] false false true 2).hive.alWake = false) ∧
      (¬((sA [] false false false 130).hive.alFaults ≠ [] ∨
          (sA [] false false false 130).hive.alBak = true ∨
            (sA [] false false false 130).hive.alWake = true ∨ (sA [] false false false 130).hive.alQuote = true) ∧
      1 < 8 ∧
      bitOf (sA [] false false false 130).hive.alMb 1 = true ∧
      (∀ (i : Nat), i < 1 → bitOf (sA [] false false false 130).hive.alMb i = false) ∧
      (sA [] false false false 130).hive.fltFind 18 1 7 = none) := by
  (repeat' apply And.intro) <;> first | decide | (intro _; rfl)

/-! ## General statements, and clauses whose hypothesis speaks of the next state -/

/-- Whether a command answers a next state of which `p` holds. -/
def after (i : Instr) (s : State) (p : State → Bool) : Bool :=
  match exec i s with
  | .next t => p t
  | _ => false

def sHalt : State := at' (fun h => { h with mode := .halt })

/-- The queue is empty after reset. -/
theorem meets_IdleStepIsOneTick : State.reset.pending = [] := rfl
/-- A command in HALT that answers a next state. -/
theorem meets_OnlyResetLeavesHalt : sHalt.hive.mode = .halt ∧
    after .health sHalt (fun t => t.hive.mode == .halt) = true ∧
    after .sysRstN sHalt (fun t => t.hive.mode == .cold) = true := by decide +kernel
/-- A command that touches no memory answers a next state. -/
theorem meets_MemoryFrame : touchesMemory .health = false ∧ after .health State.reset (fun _ => true) = true := by
  decide +kernel
/-- The memories after reset are canonical, and a step follows. -/
theorem meets_StepKeepsMemoriesCanonical : State.reset.mem.wf = true ∧ ∃ t, step State.reset = .next t := ⟨rfl, _, rfl⟩

/-- RegisterAccess: the captures after a low-word read are a state's captures. -/
theorem after_lowWordRead : after (.lowWordRead (hr R.timGtcLo)) State.reset (fun t =>
    pairLow R.timGtcLo && Tbl.get (fun _ => none) t.hive.caps (capKey .pcie R.timGtcLo) == some 0) = true := by
  decide +kernel
/-- CombSleepAndScrub: an error outside the store remains found after a store's pass. -/
theorem after_scrubPassEnd : after (.scrubPassEnd 65) (at' (fun h => { h with eccSeen := [(2, 5, 7), (3, 1, 9)] }))
    (fun t => t.hive.eccSeen == [(2, 5, 7)]) = true := by decide +kernel
/-- Canceller slot 3 with a whole block of samples. -/
def kUpd : State := kS 3 512 (fun u => { u with e := { u.e with vcur := List.replicate 256 ⟨1, 0, false⟩ } })
/-- CancellerBlocks: a block that adapts, and one that does not. -/
theorem after_fbcBlock : after (.fbcBlock 3) kUpd (fun t => t.hive.flag (F.fbcStat_adapting 3)) = true ∧
    after (.fbcBlock 3) kBlk (fun t => !t.hive.flag (F.fbcStat_adapting 3)) = true := by
  constructor <;> decide +kernel
/-- The same with a probe sample in the reference, and an estimate of two partitions where one is in use. -/
def kEst : State :=
  let s := kS 3 512 (fun u => { u with
    est := [(0, []), (0, [])]
    e := { u.e with vcur := List.replicate 256 ⟨1, 0, false⟩, ref := [((0, 0), (2 ^ 32, 0))], refN := 1 } })
  { s with hive := { s.hive.set (F.fbcCtl_parts 3) 1 with inband := [(5, [0])] } }
/-- CancellerBlocks: a block that changes the estimate. -/
theorem after_fbcBlock_update : after (.fbcBlock 3) kEst (fun t => (t.hive.cancGet 3).est.length == 1) = true := by
  decide +kernel
/-- UgtTiles: a relearn that the host writes at the tile's end stays set. -/
theorem after_tileEnd : after (.tileEnd 255) (iS [(F.ugtIn_relearn 255 63, 1)] (fun h =>
    { h.ugtSet 255 (iUgt false) with edges := [(R.ugtIn 255 63, 2)], edgeAt := h.ticks }))
    (fun t => t.hive.flag (F.ugtIn_relearn 255 63)) = true := by decide +kernel
/-- BackupAndKeeper: a capacity check whose figures agree. -/
theorem after_capacityCheck : after .capacityCheck (at' (fun h => { runs [(F.pwrBakCap_c_uf, 1000000),
    (F.pwrBakStat_vbak_mv, 4800)] h with ticks := 9830400000, sys := { h.sys with qAcc := 2355200000 } }))
    (fun t => decide (t.hive.get F.pwrBakStat_disagree ≤ 20)) = true := by decide +kernel
/-- QueenWork: a fuse that changes no lifecycle. -/
theorem after_fuse : after .fuseProgramComplete (qJ jRoll) (fun t => t.hive.sys.otpLife != 3) = true := by decide +kernel
/-- Usage: a control write after which a usage interval may be open. -/
theorem after_usageControlWrite : (uS 5 id).hive.uget 1 = UsageSt.init ∧
    after (.usageControlWrite (wq (R.useTCtl 1) 0x41)) (uS 5 id) (fun t => t.hive.usageMay 1) = true := by
  constructor <;> decide +kernel
/-- HostLink: the record of the lost link keeps its key when the link returns. -/
theorem after_pcieLinkUp : hF.hive.fltFind 0x11 0x01 0x6 = some 0 ∧ (hF.hive.flt 0).selfc = true ∧
    after (.pcieLinkUp 3 4) hF (fun t => (t.hive.flt 0).hasKey 0x11 0x01 0x6 && !(t.hive.flt 0).active) = true := by
  refine ⟨?_, ?_, ?_⟩ <;> decide +kernel
/-- SetpointPins: the record of the lost pin keeps its key when the pin recovers. -/
theorem after_setpPinRecovery :
    let s : State := { jPwm with hive := jPwmH.hive.raiseSC 0x07 0x02 0x23 2 0 }
    s.hive.fltFind 0x07 0x02 0x23 = some 0 ∧ (s.hive.flt 0).selfc = true ∧
      after (.setpPinRecovery 3) s (fun t => (t.hive.flt 0).hasKey 0x07 0x02 0x23 && !(t.hive.flt 0).active) = true := by
  refine ⟨?_, ?_, ?_⟩ <;> decide +kernel
/-- TimeDistribution: the record of the holdover keeps its key when time messages return. -/
theorem after_timeMessageReceived : tFlt.hive.fltFind 0x0E 0x02 0x5 = some 0 ∧ (tFlt.hive.flt 0).selfc = true ∧
    after (.timeMessageReceived 17 (983040000 * 3 - 30) 0 0 0 true) tFlt (fun t =>
      (t.hive.flt 0).hasKey 0x0E 0x02 0x5 && !(t.hive.flt 0).active) = true := by
  refine ⟨?_, ?_, ?_⟩ <;> decide +kernel
/-- UnitResets: an operation that stays scheduled. -/
theorem after_resetBegin : after (.resetBegin 0 511) (mRes 0 511 false) (fun t => t.hive.sched == [⟨5, .snapshot⟩]) =
    true := by decide +kernel
/-- HiveResets: a record that stays valid. -/
theorem after_sysRstN : after .sysRstN hF (fun t => (t.hive.flt 0).valid) = true := by decide +kernel
/-- PowerFail: an operation that stays scheduled. -/
theorem after_powerFail : after .powerFail pRun (fun t => t.hive.sched == [⟨0, .snapshot⟩]) = true := by decide +kernel
/-- BackupAndKeeper: the record of the backup keeps its key. -/
theorem after_backupReady : (pBk []).hive.fltFind 0x0D 0x01 0x1 = some 0 ∧ ((pBk []).hive.flt 0).selfc = true ∧
    after .backupReady (pBk []) (fun t => (t.hive.flt 0).hasKey 0x0D 0x01 0x1) = true := by
  refine ⟨?_, ?_, ?_⟩ <;> decide +kernel
/-- QueenWork: the entry into RMA ends the command. -/
theorem after_fuseProgramComplete : after .fuseProgramComplete (qJd2 jRma) (fun t => t.hive.sys.qjob == none) = true := by
  decide +kernel
/-- SmbusTarget: the record of the stuck line keeps its key. -/
theorem after_sdaReleased : sS.hive.fltFind 0x12 0x02 0x7 = some 0 ∧ (sS.hive.flt 0).selfc = true ∧
    after .sdaReleased sS (fun t => (t.hive.flt 0).hasKey 0x12 0x02 0x7) = true := by
  refine ⟨?_, ?_, ?_⟩ <;> decide +kernel
def qHot (l : List (RF × Nat)) : State := qS ((⟨R.dieState, 0, 16⟩, 0x2000) :: l) id
/-- HousekeepingRound: a die enters warning and throttle, no die above shutdown. -/
theorem after_round_throttle : after (.housekeepingRoundEnd (qRaw 3 22000) [] []) (qHot []) (fun t =>
    t.hive.dieIn 3 0 && t.hive.dieIn 3 1 && (List.range 4).all (fun e => !t.hive.dieIn e 2)) = true := by decide +kernel
/-- HousekeepingRound: a die enters shutdown, and a trip. -/
theorem after_round_trip : after (.housekeepingRoundEnd (qRaw 3 32000) [] []) (qHot []) (fun t =>
    t.hive.dieIn 3 2 && t.hive.anyIn 2 && t.hive.flag F.hskThrStat_trip) = true := by decide +kernel
/-- HousekeepingRound: every die below throttle while the grace runs. -/
theorem after_round_cool : after (.housekeepingRoundEnd (qRaw 3 5000) [] []) (qHot [(F.hskThrStat_grace_run, 1)]) (fun t =>
    !t.hive.anyIn 1 && !t.hive.anyIn 2) = true := by decide +kernel
/-- Fans: the record of the stalled fan keeps its key. -/
theorem after_fanStallClear : qCf.hive.fltFind 0x0B 0x01 0x4 = some 0 ∧ (qCf.hive.flt 0).selfc = true ∧
    after (.fanStallClear 3) qCf (fun t => (t.hive.flt 0).hasKey 0x0B 0x01 0x4) = true := by
  refine ⟨?_, ?_, ?_⟩ <;> decide +kernel
/-! ## Ill-formed commands that the checks refuse -/

theorem test_wf_write : WellFormed (.registerWrite (hw (wq 4 0))) = true ∧
    WellFormed (.registerWrite (hw (wq 0x4000000 0))) = false ∧ WellFormed (.registerWrite (hw (w2 0x40000 0))) = false ∧
    WellFormed (.registerWrite ⟨.pcie, false, 0x3FFFFFE, [some 0, some 0, some 0]⟩) = false ∧
    WellFormed (.registerWrite ⟨.pcie, false, 0, []⟩) = false := by decide
theorem test_wf_place : WellFormed (.wrRefuseClear (wq 4 0)) = true ∧ WellFormed (.wrRefuseClear (wq 8 0)) = false ∧
    WellFormed (.wrRefuseClear (w2 4 0)) = false ∧ WellFormed (.mtrCtlWrite (wq 0x490000 0)) = false ∧
    WellFormed (.rsPhaseWrite (wq 0x300214 0)) = true ∧ WellFormed (.rsPhaseWrite (wq 0x300118 0)) = false ∧
    WellFormed (.sqTailWrite (w2 0 0)) = true ∧ WellFormed (.sqTailWrite (w2 4 0)) = false ∧
    WellFormed (.challenge (wq 0x800054 0)) = false ∧ WellFormed (.startMeasurement (wq 0x602024 0)) = true ∧
    WellFormed (.startMeasurement (wq 0x602028 0)) = false ∧ WellFormed (.startMeasurement (wq 0x600024 0)) = false ∧
    WellFormed (.ugtRelearn (wq 0x4D0000 0)) = false ∧ WellFormed (.msixUnmask (wq 0x4000 0)) = false := by decide
theorem test_wf_window : WellFormed (.storeWindowWrite (wq 0x3000000 0)) = false ∧
    WellFormed (.resultWindowWrite (wq 0x600000 0)) = false ∧ WellFormed (.journalRingWrite (wq 0x840000 0)) = false ∧
    WellFormed (.recorderWindowWrite (wq 0x7E0000 0)) = false ∧ WellFormed (.lowWordRead (hr 0x4000000)) = false ∧
    WellFormed (.highWordRead (hr 0x4000000)) = false := by decide
theorem test_wf_lists : WellFormed (.ecpriIqMessageReceived 0 0 0 (List.replicate 1025 (0, 0))) = false ∧
    WellFormed (.managementMessageReceived 0 (List.replicate 1025 0)) = false ∧
    WellFormed (.ptpFrameReceived 0 (List.replicate 2025 0) 0) = false ∧
    WellFormed (.spectAverageComplete 0 (List.replicate 32769 0) 0) = false := by decide +kernel
theorem test_wf_codeword : WellFormed (.rlfCodewordReceived 0 (2 ^ 5140) false 0) = false := by decide
theorem test_wf_values : WellFormed (.strainerSample 0 0 ⟨-32768, 0, false⟩) = false ∧
    WellFormed (.pwmPeriodComplete 0 2 1) = false ∧ WellFormed (.timeMessageReceived 0 (2 ^ 64) 0 0 0 true) = false ∧
    WellFormed (.faultMessageReceived 0 0 0 0 0 (2 ^ 64)) = false := by decide
theorem test_wf_files : WellFormed (.imageVerify 0 ⟨rHdr 1 [], FileBody.empty⟩) = true ∧
    WellFormed (.imageVerify 0 ⟨rHdr 1 [], { FileBody.empty with streams := [2048] }⟩) = false ∧
    WellFormed (.imageLoadComplete ⟨rHdr 1 [], FileBody.empty⟩ [⟨rHdr 2 [], { FileBody.empty with frames := 256 }⟩]) =
      false := by decide
theorem test_wf_system : WellFormed (.housekeepingRoundEnd [] [] []) = false ∧ WellFormed (.selfTestComplete []) = false ∧
    WellFormed (.quoteNonce (List.replicate 256 0) true) = false ∧ WellFormed (.addr 0 (List.replicate 256 0) true) = false ∧
    WellFormed (.dataRead 0 256) = false ∧
    WellFormed (.dataWrite 0 (List.replicate 256 0) true) = false ∧
    WellFormed (.submit 0 (List.replicate 256 0) true) = false := by decide

/-! ## The spec's worked values -/

/-- The four rows of R5's table. -/
theorem test_round_even : roundEven 5 2 = 2 ∧ roundEven 7 2 = 4 ∧ roundEven (-5) 2 = -2 ∧ roundEven 11 4 = 3 := by decide
/-- R9's example: the word of a set-point of -3.5 dB is 0x037F_FC80. -/
theorem test_rwc_word : (rwcWord 0xFC80).toNat = 0x037FFC80 ∧ rwcOk 0x037FFC80 = true ∧ rwcOk 0x037FFC81 = false := by
  decide
/-- R178's example: Kp = Ki = 0.25, I = 12.0, e = 2.25 dB give I' = 12.5625 and u' = 13.125 dB. -/
theorem test_pi_loop : tentI (12 * 2 ^ 24) 1024 576 = 12 * 2 ^ 24 + 9 * 2 ^ 20 ∧
    tentU (12 * 2 ^ 24 + 9 * 2 ^ 20) 1024 576 = 3360 := by decide
/-- R79's example: t1 = 5,000,000, T_ta = 3,200, A = +64 and t4 = 5,100,736 give 48,800 and 48,736 ticks. -/
theorem test_delay_response : after (.delayResponseReceived 20 5 3200 64) (at' (fun h =>
    let h := { runs [(F.laneCtl_mode 20, 3), (F.laneStat_state 20, 7)] h with gtc := 5100736 };
    h.lset 20 { h.lget 20 with dlyWait := true, dlySeq := 5, dlyT1 := 5000000 }))
    (fun t => t.hive.get (F.laneDlyUp_ticks 20) == 48800 && t.hive.get (F.laneDlyDn_ticks 20) == 48736) = true := by
  decide +kernel
/-- R187's example: 61,440 of 98,304 ticks between 0 and 20 dB give a duty of 2,560 and 12.50 dB. -/
theorem test_setpoint_pin : after (.pwmPeriodComplete 3 61440 98304) (at' (runs [(F.gceSetpCtl_en 3, 1),
    (⟨R.gceSetpLo 3, 0, 32⟩, jw 0), (⟨R.gceSetpHi 3, 0, 32⟩, jw 5120)]))
    (fun t => t.hive.get (F.gceSetpVal_raw 3) == 2560 && t.hive.get (F.gceSetpVal_value 3) == 3200) = true := by
  decide +kernel
/-- R197's example: a quarter of a ramp of 24,576 samples, raised cosine and linear in dB. -/
theorem test_ramp_quarter : rampDown 0 24576 6144 = 111877 ∧ rampDown 1 24576 6144 = 13107 ∧ rampUp 0 4 1 = 19195 := by
  decide +kernel
/-- R320's example: C_nom of 1.000 F and V_BAK of 4.80 V hold 2,300,000 uC, the counter 1,780,000: 23 %. -/
theorem test_capacity_check : after .capacityCheck (at' (fun h => { runs [(F.pwrBakCap_c_uf, 1000000),
    (F.pwrBakStat_vbak_mv, 4800)] h with ticks := 9830400000, sys := { h.sys with qAcc := 1822720000 } }))
    (fun t => t.hive.get F.pwrBakStat_disagree == 23 && t.hive.get F.pwrBakStat_cap == 1) = true := by decide +kernel
/-- The opcode table gives no row any bits, so no word spells a command. -/
theorem test_no_word : decodeTableWord 32 0 = none ∧ State.reset.withFetchWord 32 0 = State.reset := ⟨rfl, rfl⟩

end Sys2Proof.Tests
end

-- ==== Sys2Proof/Proofs/Queue ====
section
/-! Every command answers a next state and leaves the queue: one lemma for each way a meaning is built, then the commands. -/

namespace Sys2Proof.Machine

/-- An outcome is a next state whose queue is that of `s`. -/
def KeepsQueue (s : State) (o : Host.Outcome State Fault Refusal) : Prop := ∃ t, o = .next t ∧ t.pending = s.pending

theorem KeepsQueue.next (s : State) (h : Hive) (m : Mem) : KeepsQueue s (.next { s with hive := h, mem := m }) := ⟨_, rfl, rfl⟩

theorem KeepsQueue.same (s : State) : KeepsQueue s (.next s) := ⟨_, rfl, rfl⟩

theorem KeepsQueue.upd (s : State) (f : Hive → Hive) : KeepsQueue s (s.upd f) := ⟨_, rfl, rfl⟩

theorem KeepsQueue.ite {c : Prop} [Decidable c] {s : State} {x y : Host.Outcome State Fault Refusal} (hx : KeepsQueue s x)
    (hy : KeepsQueue s y) : KeepsQueue s (if c then x else y) := by split <;> assumption

theorem execStrainerSample_keepsQueue (s : SliceId) (p : Fin 2) (x : Sample) (st : State) :
    KeepsQueue st (execStrainerSample s p x st) := .ite (.next ..) (.same st)

theorem execSpareStateCopyComplete_keepsQueue (w : WorkerId) (a b : Bool) (s : State) :
    KeepsQueue s (execSpareStateCopyComplete w a b s) := by
  unfold execSpareStateCopyComplete
  dsimp only
  split
  · exact .same s
  · exact .ite (.next ..) (.same s)

theorem execSpectAverageComplete_keepsQueue (w : WorkerId) (bins : List Int) (used : Word) (s : State) :
    KeepsQueue s (execSpectAverageComplete w bins used s) := .ite (.next ..) (.same s)

theorem execCombSleepEntered_keepsQueue (c : CombId) (s : State) : KeepsQueue s (execCombSleepEntered c s) :=
  .ite (.next ..) (.same s)

theorem execCombWakeComplete_keepsQueue (c : CombId) (bad : List WorkerId) (s : State) :
    KeepsQueue s (execCombWakeComplete c bad s) := .ite (.next ..) (.same s)

theorem execResetBegin_keepsQueue (level : Fin 4) (unit : Fin 512) (s : State) :
    KeepsQueue s (execResetBegin level unit s) := by
  unfold execResetBegin
  dsimp only
  split
  · exact .same s
  · exact .ite (.next ..) (.same s)

theorem execResetUnitRunning_keepsQueue (level : Fin 4) (unit : Fin 512) (bad : List WorkerId) (s : State) :
    KeepsQueue s (execResetUnitRunning level unit bad s) := by
  unfold execResetUnitRunning
  split
  · exact .same s
  · exact .next ..

theorem execHousekeepingRoundEnd_keepsQueue (raw : List Int) (rail : List Bool) (tach : List Nat) (s : State) :
    KeepsQueue s (execHousekeepingRoundEnd raw rail tach s) := .ite (.next ..) (.same s)

theorem execImageLoadComplete_keepsQueue (f : TolFile) (replay : List TolFile) (s : State) :
    KeepsQueue s (execImageLoadComplete f replay s) := by
  unfold execImageLoadComplete
  dsimp only
  split
  · exact .same s
  · exact .ite (.next ..) (.same s)

theorem execPatchReady_keepsQueue (p : PatchId) (s : State) : KeepsQueue s (execPatchReady p s) := by
  unfold execPatchReady
  dsimp only
  split
  · exact .ite (.next ..) (.same s)
  · exact .same s

theorem execPatchActivation_keepsQueue (p : PatchId) (s : State) : KeepsQueue s (execPatchActivation p s) := by
  unfold execPatchActivation
  dsimp only
  split
  · exact .same s
  · exact .ite (.same s) (.ite (.next ..) (.next ..))

theorem execActivatedBitProgrammed_keepsQueue (p : PatchId) (s : State) : KeepsQueue s (execActivatedBitProgrammed p s) := by
  unfold execActivatedBitProgrammed
  dsimp only
  split
  · exact .same s
  · exact .ite (.next ..) (.same s)

theorem execFuseProgramComplete_keepsQueue (s : State) : KeepsQueue s (execFuseProgramComplete s) := by
  unfold execFuseProgramComplete
  split
  · exact .same s
  · exact .ite (.same s) (.next ..)

theorem execRailGoodChange_keepsQueue (rail : Fin 8) (good : Bool) (s : State) : KeepsQueue s (execRailGoodChange rail good s) :=
  .ite (.next ..) (.next ..)

/-- Every command answers a next state and leaves the queue as it is. Those not named change only the block. -/
theorem exec_keepsQueue (c : Instr) (s : State) : KeepsQueue s (exec c s) := by
  cases c with
  | strainerSample a b x => exact execStrainerSample_keepsQueue a b x s
  | spareStateCopyComplete w a b => exact execSpareStateCopyComplete_keepsQueue w a b s
  | spectAverageComplete w bins used => exact execSpectAverageComplete_keepsQueue w bins used s
  | combSleepEntered c => exact execCombSleepEntered_keepsQueue c s
  | combWakeComplete c bad => exact execCombWakeComplete_keepsQueue c bad s
  | resetBegin level unit => exact execResetBegin_keepsQueue level unit s
  | resetUnitRunning level unit bad => exact execResetUnitRunning_keepsQueue level unit bad s
  | housekeepingRoundEnd raw rail tach => exact execHousekeepingRoundEnd_keepsQueue raw rail tach s
  | imageLoadComplete f replay => exact execImageLoadComplete_keepsQueue f replay s
  | patchReady p => exact execPatchReady_keepsQueue p s
  | patchActivation p => exact execPatchActivation_keepsQueue p s
  | activatedBitProgrammed p => exact execActivatedBitProgrammed_keepsQueue p s
  | fuseProgramComplete => exact execFuseProgramComplete_keepsQueue s
  | railGoodChange rail good => exact execRailGoodChange_keepsQueue rail good s
  | _ => exact .next ..

/-- Settles O1: `step` takes the front command by its definition, and each meaning leaves the queue. -/
theorem stepTakesFrontCommand : Obligations.StepTakesFrontCommand := by
  intro c rest s
  exact ⟨rfl, exec_keepsQueue c { s with pending := rest }⟩

end Sys2Proof.Machine
end

-- ==== Sys2Proof/Proofs/Reset ====
section
/-! The machine right after reset: its tables list nothing, so every register reads the reset value of its descriptor. -/

namespace Sys2Proof.Machine

/-- The descriptor of an address: the one of its block that it hits, where none before it does. -/
theorem Regs.find_of_split {a : Nat} {pre suf : List RegDesc} {d : RegDesc} (hb : Regs.block a = pre ++ d :: suf)
    (hpre : ∀ x ∈ pre, ¬ Regs.hit x a = true) (hd : Regs.hit d a = true) : Regs.find a = some d := by
  unfold Regs.find
  rw [hb, List.find?_append, List.find?_eq_none.mpr (fun x hx => hpre x hx), Option.none_or,
    List.find?_cons_of_pos (p := fun d => Regs.hit d a) hd]

theorem Regs.block_rte {a : Nat} (h1 : 0x200000 ≤ a) (h2 : a < 0x300000) : Regs.block a = Regs.rte := by
  unfold Regs.block
  rw [if_neg (by omega), if_neg (by omega), if_pos h2]

theorem Regs.find_rteStatus {n : Nat} (hn : n < 2048) :
    Regs.find (R.rteStatus n) = some ⟨0x220000, [(2048, 0x4)], 0x0, 0x0, 0x8, 0x0, 0x0, false, 0xFF00FF⟩ := by
  have hb : Regs.block (R.rteStatus n) = Regs.rte :=
    Regs.block_rte (by unfold R.rteStatus; omega) (by unfold R.rteStatus; omega)
  refine Regs.find_of_split (pre := Regs.rte.take 13) hb ?_ ?_
  · unfold R.rteStatus
    intro x hx
    simp only [Regs.rte, List.take_succ_cons, List.take_zero, List.mem_cons, List.not_mem_nil, or_false] at hx
    rcases hx with rfl | rfl | rfl | rfl | rfl | rfl | rfl | rfl | rfl | rfl | rfl | rfl | rfl <;>
      (simp [Regs.hit, Regs.inDims]; omega)
  · simp [Regs.hit, Regs.inDims, R.rteStatus, hn]

/-- No register word is stored at reset (R8). -/
theorem State.reset_rd (a : Nat) : State.reset.hive.rd a = Regs.resetOf a := rfl

/-- A stream is IDLE at reset (R37). -/
theorem State.reset_st {n : Nat} (hn : n < 2048) : State.reset.hive.st n = stIdle := by
  have hw : State.reset.hive.rd (R.rteStatus n) = 0 := by
    rw [State.reset_rd, Regs.resetOf, Regs.find_rteStatus hn]
    rfl
  show bitsOf (State.reset.hive.rd (R.rteStatus n)).toNat 0 3 = stIdle
  rw [hw]
  decide

/-- Settles O6: every table of the reset state is empty, so what it holds is what an unlisted key reads as. -/
theorem resetState : Obligations.ResetState :=
  ⟨rfl, Mem.reset_wf, State.reset_rd, rfl, fun _ => rfl, fun n => ⟨State.reset_st n.isLt, rfl⟩, rfl, rfl, rfl⟩

end Sys2Proof.Machine
end

-- ==== Sys2Proof/Proofs/ListFacts ====
section
/-! Facts about lists of which the proofs below use, from core Lean alone. -/

namespace Sys2Proof.Machine

section
variable {α : Type}

theorem getD_append_low (xs ys : List α) (d : α) {i : Nat} (hi : i < xs.length) : (xs ++ ys).getD i d = xs.getD i d := by
  rw [List.getD_eq_getElem?_getD, List.getD_eq_getElem?_getD, List.getElem?_append_left hi]

theorem getD_append_high (xs ys : List α) (d : α) {i : Nat} (hi : xs.length ≤ i) :
    (xs ++ ys).getD i d = ys.getD (i - xs.length) d := by
  rw [List.getD_eq_getElem?_getD, List.getD_eq_getElem?_getD, List.getElem?_append_right hi]

theorem getD_replicate_ite (n : Nat) (x d : α) (i : Nat) : (List.replicate n x).getD i d = if i < n then x else d := by
  rw [List.getD_eq_getElem?_getD, List.getElem?_replicate]
  split <;> rfl

end

/-- Two folds whose steps agree on the list's elements are one. -/
theorem foldl_congr_mem {α β : Type} {f g : β → α → β} (l : List α) (e : ∀ x, ∀ a ∈ l, f x a = g x a) (x : β) :
    l.foldl f x = l.foldl g x := by
  induction l generalizing x with
  | nil => rfl
  | cons a l ih =>
    rw [List.foldl_cons, List.foldl_cons, e x a List.mem_cons_self]
    exact ih (fun y b hb => e y b (List.mem_cons_of_mem _ hb)) _

theorem filterMap_congr_mem {α β : Type} {f g : α → Option β} (l : List α) (e : ∀ a ∈ l, f a = g a) :
    l.filterMap f = l.filterMap g := by
  induction l with
  | nil => rfl
  | cons a l ih =>
    rw [List.filterMap_cons, List.filterMap_cons, e a List.mem_cons_self, ih (fun b hb => e b (List.mem_cons_of_mem _ hb))]

end Sys2Proof.Machine
end

-- ==== Sys2Proof/Proofs/Ecc ====
section
/-! Memory errors (R28 to R31): what the note in HIVE.ECC_* leaves and writes, that the fault of each owner is on after its
owner's action, and the bytes that read as zero. -/

namespace Sys2Proof.Machine

/-! ## Byte memories -/

/-- A read after a list of values has been written: within the list the value, elsewhere the old one. -/
theorem Tbl.get_putList {α : Type} [DecidableEq α] {d : Nat → α} (vs : List α) (t : Tbl α) (k j : Nat) :
    Tbl.get d (Tbl.putList d t k vs) j = if k ≤ j then vs.getD (j - k) (Tbl.get d t j) else Tbl.get d t j := by
  induction vs generalizing t k with
  | nil => simp [Tbl.putList]
  | cons v vs ih =>
    rw [Tbl.putList, ih]
    rcases Nat.lt_trichotomy j k with hj | rfl | hj
    · rw [if_neg (by omega), if_neg (by omega), Tbl.get_put_ne _ _ (by omega)]
    · rw [if_neg (by omega), if_pos (Nat.le_refl j), Tbl.get_put_same, Nat.sub_self]
      rfl
    · rw [if_pos (by omega), if_pos (by omega), Tbl.get_put_ne _ _ (by omega), show j - k = (j - (k + 1)) + 1 by omega]
      rfl

/-- A cleared cell reads as an unlisted one. -/
theorem get_cellsClear {d : Nat → Byte} {lo hi a : Nat} (h1 : lo ≤ a) (h2 : a < hi) (m : List Host.Cell) :
    Tbl.get d (cellsClear lo hi m) a = d a := by
  induction m with
  | nil => rfl
  | cons c m ih =>
    obtain ⟨k, v⟩ := c
    unfold cellsClear at ih ⊢
    by_cases hk : k < lo ∨ hi ≤ k
    · rw [List.filter_cons_of_pos (by simpa using hk), Tbl.get, if_neg (by omega)]
      exact ih
    · rw [List.filter_cons_of_neg (by simpa using hk)]
      exact ih

/-- Loading code writes kernel stores and comb memory, never data memory (R223). -/
theorem Mem.codeLoad_wdata (m : Mem) (h : Hive) (ws : List Nat) : (m.codeLoad h ws).wdata = m.wdata := by
  unfold Mem.codeLoad
  induction ws generalizing m with
  | nil => rfl
  | cons w ws ih =>
    rw [List.foldl_cons, ih]
    split
    · split <;> rfl
    · rfl

/-- A reset worker's data memory reads as zero (R20). -/
theorem Mem.clearWorker_codeLoad_get (m : Mem) (h : Hive) (ws : List Nat) {w a : Nat} (h1 : w * 65536 ≤ a)
    (h2 : a < w * 65536 + 65536) : Tbl.get Mem.ramByte ((m.clearWorker w).codeLoad h ws).wdata a = 0 := by
  rw [Mem.codeLoad_wdata]
  exact get_cellsClear h1 h2 m.wdata

/-- A store's code word of eight bytes reads as zeros, and every other byte as before (R30). -/
theorem Mem.storeZero_get (m : Mem) (k j : Nat) :
    Tbl.get Mem.ramByte (m.storePut k (List.replicate 8 0)).store j =
      if k ≤ j ∧ j < k + 8 then 0 else Tbl.get Mem.ramByte m.store j := by
  unfold Mem.storePut
  rw [Tbl.get_putList]
  rw [List.map_replicate, getD_replicate_ite]
  by_cases low : k ≤ j
  · by_cases high : j < k + 8
    · rw [if_pos low, if_pos (by omega), if_pos ⟨low, high⟩]
      rfl
    · rw [if_pos low, if_neg (by omega), if_neg (fun both => high both.2)]
  · rw [if_neg low, if_neg (fun both => low both.1)]

/-! ## The note of an error -/

/-- Registers of fault handling and those in which memory errors show (R31). -/
def eccReg (a : Nat) : Bool := faultReg a || a == R.eccUe || a == R.eccLastWhere || a == R.eccLastWord

/-- Only fault handling happened, and the note of a memory error. -/
abbrev EccOnly : Hive → Hive → Prop := Only Hive.sansFault eccReg

theorem FaultOnly.ecc {h h' : Hive} (a : FaultOnly h h') : EccOnly h h' :=
  a.mono (fun _ _ e => e) (fun x hx => by simp only [eccReg, Bool.or_eq_false_iff] at hx; exact hx.1.1.1)

theorem EccOnly.set (h : Hive) {f : RF} (v : Nat) (ha : eccReg f.a = true) : EccOnly h (h.set f v) :=
  ⟨rfl, fun x hx => Hive.rd_set_ne h v (fun e => by subst e; rw [ha] at hx; cases hx)⟩

/-- The note of the first error: kind, unit, scrub, valid and word (R31). -/
def Hive.eccFirst (h : Hive) (k u word : Nat) (scrub : Bool) : Hive :=
  ((((h.set F.eccLastWhere_kind k).set F.eccLastWhere_unit u).setFlag F.eccLastWhere_scrub scrub).hwSet
    F.eccLastWhere_valid).set F.eccLastWord_word word

/-- An error is counted; one in a memory that ECC_LAST_WHERE names is noted there unless one is held. -/
theorem Hive.eccNote_eq (h : Hive) {o : EccOwner} {k u : Nat} (ho : eccWhere o = some (k, u)) (word : Nat) (scrub : Bool) :
    h.eccNote o word scrub = if h.flag F.eccLastWhere_valid then h.bump F.eccUe_count 1
      else (h.bump F.eccUe_count 1).eccFirst k u word scrub := by
  have hv : (h.bump F.eccUe_count 1).flag F.eccLastWhere_valid = h.flag F.eccLastWhere_valid :=
    Hive.flag_set_ne h _ (by decide) (by decide)
  unfold Hive.eccNote
  dsimp only
  rw [ho]
  dsimp only
  rw [hv]
  rfl

theorem Hive.eccFirst_only (h : Hive) (k u word : Nat) (scrub : Bool) : EccOnly h (h.eccFirst k u word scrub) := by
  have mark : ∀ x : Hive, EccOnly x (x.markEdge R.eccLastWhere 31) := fun x => ⟨rfl, fun _ _ => rfl⟩
  exact (((((EccOnly.set h _ (by decide)).trans (EccOnly.set _ _ (by decide))).trans
    (EccOnly.set (f := F.eccLastWhere_scrub) _ _ (by decide))).trans
    (EccOnly.set (f := F.eccLastWhere_valid) _ 1 (by decide))).trans (mark _)).trans (EccOnly.set _ _ (by decide))

theorem Hive.eccNote_only (h : Hive) (o : EccOwner) (word : Nat) (scrub : Bool) : EccOnly h (h.eccNote o word scrub) := by
  have hb : EccOnly h (h.bump F.eccUe_count 1) := EccOnly.set h _ (by decide)
  cases ho : eccWhere o with
  | none => unfold Hive.eccNote; rw [ho]; exact hb
  | some p =>
    rw [Hive.eccNote_eq h ho]
    exact Only.ite hb (hb.trans (Hive.eccFirst_only ..))

/-- What the note shows: valid, kind, unit and word. -/
theorem Hive.eccFirst_get (h : Hive) {k u word : Nat} (scrub : Bool) (hk : k < 8) (hu : u < 512) (hw : word < 2097152) :
    (h.eccFirst k u word scrub).flag F.eccLastWhere_valid = true ∧ (h.eccFirst k u word scrub).get F.eccLastWhere_kind = k ∧
      (h.eccFirst k u word scrub).get F.eccLastWhere_unit = u ∧ (h.eccFirst k u word scrub).get F.eccLastWord_word = word := by
  unfold Hive.eccFirst
  refine ⟨?_, ?_, ?_, ?_⟩
  · rw [Hive.flag_set_ne _ _ (by decide) (by decide), Hive.hwSet_flag, Hive.flag_setFlag_same _ _ true (by decide) rfl]
  · rw [Hive.get_set_ne _ _ (by decide) (by decide), Hive.hwSet_get, Hive.get_setFlag_ne _ true (by decide) (by decide),
      Hive.get_setFlag_ne _ scrub (by decide) (by decide), Hive.get_set_ne _ _ (by decide) (by decide),
      Hive.get_set_same _ _ _ (by decide)]
    exact Nat.mod_eq_of_lt hk
  · rw [Hive.get_set_ne _ _ (by decide) (by decide), Hive.hwSet_get, Hive.get_setFlag_ne _ true (by decide) (by decide),
      Hive.get_setFlag_ne _ scrub (by decide) (by decide), Hive.get_set_same _ _ _ (by decide)]
    exact Nat.mod_eq_of_lt hu
  · rw [Hive.get_set_same _ _ _ (by decide)]
    exact Nat.mod_eq_of_lt hw

/-- The counter of uncorrectable errors counts each, saturating (R31). -/
theorem Hive.eccNote_count (h : Hive) (o : EccOwner) (word : Nat) (scrub : Bool) :
    (h.eccNote o word scrub).get F.eccUe_count = min (h.get F.eccUe_count + 1) 65535 := by
  have hb : (h.bump F.eccUe_count 1).get F.eccUe_count = min (h.get F.eccUe_count + 1) 65535 := by
    unfold Hive.bump
    rw [Hive.get_set_same h F.eccUe_count _ (by decide)]
    exact Nat.mod_eq_of_lt (Nat.lt_of_le_of_lt (Nat.min_le_right ..) (by decide))
  have hf : ∀ (x : Hive) (k u : Nat), (x.eccFirst k u word scrub).get F.eccUe_count = x.get F.eccUe_count := by
    intro x k u
    unfold Hive.eccFirst
    rw [Hive.get_set_ne _ _ (by decide) (by decide), Hive.hwSet_get, Hive.get_setFlag_ne _ true (by decide) (by decide),
      Hive.get_setFlag_ne _ scrub (by decide) (by decide), Hive.get_set_ne _ _ (by decide) (by decide),
      Hive.get_set_ne _ _ (by decide) (by decide)]
  cases ho : eccWhere o with
  | none => unfold Hive.eccNote; rw [ho]; exact hb
  | some p =>
    rw [Hive.eccNote_eq h ho]
    split
    · exact hb
    · exact (hf ..).trans hb

/-! ## The fault of an error -/

/-- The note of the scrubber changes one mark of a record. -/
theorem Hive.noteScrub_flt (h : Hive) (cls cause source : Nat) (scrub : Bool) (j : Nat) :
    ∃ b, (h.noteScrub cls cause source scrub).flt j = { h.flt j with byScrub := b } := by
  unfold Hive.noteScrub
  split
  · rename_i i _
    by_cases hj : j = i
    · subst hj
      exact ⟨scrub, Tbl.get_put_same ..⟩
    · exact ⟨(h.flt j).byScrub, Tbl.get_put_ne _ _ hj⟩
  · exact ⟨(h.flt j).byScrub, rfl⟩

theorem Hive.noteScrub_fault (h : Hive) (cls cause source : Nat) (scrub : Bool) :
    FaultOnly h (h.noteScrub cls cause source scrub) := by
  unfold Hive.noteScrub
  split
  · exact ⟨rfl, fun _ _ => rfl⟩
  · exact Only.refl ..

theorem Hive.noteScrub_rd (h : Hive) (cls cause source : Nat) (scrub : Bool) (a : Nat) :
    (h.noteScrub cls cause source scrub).rd a = h.rd a := by
  unfold Hive.noteScrub
  split <;> rfl

theorem Hive.noteScrub_stay (h : Hive) (cls cause source : Nat) (scrub : Bool) :
    FaultsStay h (h.noteScrub cls cause source scrub) := by
  refine ⟨fun c k s l e => ?_⟩
  have hr := Hive.noteScrub_rd h cls cause source scrub R.fltLost
  rw [Hive.faultOn_iff] at e ⊢
  rcases e with ⟨j, hj, e⟩ | e
  · obtain ⟨b, hb⟩ := Hive.noteScrub_flt h cls cause source scrub j
    exact Or.inl ⟨j, hj, by rw [hb]; exact e⟩
  · exact Or.inr ⟨(Hive.flag_congr hr).trans e.1, by rw [Hive.get_congr (f := F.fltLost_level) hr]; exact e.2⟩

theorem Hive.eccRaise_on (h : Hive) (cls cause source level arg : Nat) (scrub : Bool) (hl : level ≤ 7) :
    (h.eccRaise cls cause source level arg scrub).faultOn cls cause source level = true :=
  (Hive.noteScrub_stay ..).on _ _ _ _ (Hive.raise_spec h cls cause source level arg hl).1

theorem Hive.eccRaise_fault (h : Hive) (cls cause source level arg : Nat) (scrub : Bool) :
    FaultOnly h (h.eccRaise cls cause source level arg scrub) := (Hive.raise_fault ..).trans (Hive.noteScrub_fault ..)

end Sys2Proof.Machine
end

-- ==== Sys2Proof/Proofs/EccOwners ====
section
/-! A memory error's owner acts (R30): what a worker marked failing does keeps the error's fault on. -/

namespace Sys2Proof.Machine

theorem SameFaults.wset (h : Hive) (w : Nat) (x : WorkSt) : SameFaults h (h.wset w x) := ⟨rfl, rfl⟩

theorem SameFaults.wr (h : Hive) {a : Nat} (v : Word) (ha : R.fltLost ≠ a) : SameFaults h (h.wr a v) :=
  ⟨rfl, Hive.rd_wr_ne h v ha⟩

theorem SameFaults.foldl_mem {α : Type} {f : Hive → α → Hive} (l : List α) (hf : ∀ x, ∀ a ∈ l, SameFaults x (f x a)) (h : Hive) :
    SameFaults h (l.foldl f h) := by
  induction l generalizing h with
  | nil => exact SameFaults.refl h
  | cons a l ih =>
    exact (hf h a (List.mem_cons_self ..)).trans (ih (fun x b hb => hf x b (List.mem_cons_of_mem _ hb)) (f h a))

/-! ## Loss of a kernel -/

theorem Hive.gateMarks_sameFaults (h : Hive) : SameFaults h h.gateMarks := by
  refine SameFaults.foldl (fun x g => ?_) _ h
  split
  · exact (SameFaults.set (f := F.ugtStat_fail_open g) x _ (by simp only [F.ugtStat_fail_open, R.ugtStat, R.fltLost]; omega)).trans
      (SameFaults.set (f := F.ugtStat_trk_lost g) _ _ (by simp only [F.ugtStat_trk_lost, R.ugtStat, R.fltLost]; omega))
  · exact SameFaults.refl x

theorem Hive.pathStreams_lt {h : Hive} {w n : Nat} (hn : n ∈ h.pathStreams w) : n < 2048 :=
  Hive.image_lt (List.mem_filter.mp hn).1

theorem Hive.kernelDown_stay (h : Hive) (w : Nat) : FaultsStay h (h.kernelDown w) := by
  unfold Hive.kernelDown
  extract_lets h1
  have e1 : SameFaults h h1 := SameFaults.foldl (fun x v => SameFaults.wset x v _) _ h
  exact (e1.trans (Hive.gateMarks_sameFaults h1)).stay.trans
    (FaultsStay.foldl_mem _ (fun x n hn => Hive.sitOn_stay x 1 (Hive.pathStreams_lt hn)) _)

/-! ## Wake of a comb -/

theorem SameFaults.wrkStat (h : Hive) (w v : Nat) : SameFaults h (h.setWrkSt w v) :=
  SameFaults.set h v (by simp only [F.wrkStat_state, R.wrkStat, R.fltLost]; omega)

theorem SameFaults.frameSt (h : Hive) (f v : Nat) : SameFaults h (h.setFrameSt f v) :=
  SameFaults.set (f := ⟨R.frameState, 2 * f, 2⟩) h v (by show R.fltLost ≠ R.frameState; decide)

theorem SameFaults.dieSt (h : Hive) (d v : Nat) : SameFaults h (h.setDieSt d v) :=
  SameFaults.set (f := ⟨R.dieState, 4 * d, 4⟩) h v (by show R.fltLost ≠ R.dieState; decide)

theorem SameFaults.wclk (h : Hive) (d v : Nat) : SameFaults h (h.set (wclkOf d) v) :=
  SameFaults.set h v (by unfold wclkOf; split <;> decide)

theorem SameFaults.superSleep (h : Hive) (n : Nat) : SameFaults h { h with superSleep := n } := ⟨rfl, rfl⟩

theorem Hive.structEval_sameFaults (h : Hive) : SameFaults h h.structEval := by
  unfold Hive.structEval
  extract_lets bits h1 sh h2
  have e1 : SameFaults h h1 := (SameFaults.set (f := F.combAwakeLo_awake) h _ (by decide)).trans
    (SameFaults.set (f := F.combAwakeHi_awake) _ _ (by decide))
  have e2 : SameFaults h1 h2 := SameFaults.foldl (fun x f => SameFaults.ite (SameFaults.refl x) (SameFaults.frameSt ..)) _ h1
  refine (e1.trans e2).trans (SameFaults.foldl (fun x d => SameFaults.ite ?_ (SameFaults.ite (SameFaults.refl x)
    (SameFaults.wclk ..))) _ h2)
  extract_lets gated x1
  have e3 : SameFaults x x1 := (SameFaults.superSleep x _).trans (SameFaults.dieSt ..)
  exact e3.trans (SameFaults.wclk ..)

theorem Hive.combResume_sameFaults (h : Hive) (c : Nat) : SameFaults h (h.combResume c) := by
  unfold Hive.combResume
  extract_lets h1 ns
  have e1 : SameFaults h h1 := SameFaults.foldl (fun x w => SameFaults.ite
    ((SameFaults.wrkStat ..).trans (SameFaults.wset ..)) (SameFaults.refl x)) _ h
  exact e1.trans (SameFaults.foldl (fun x n => SameFaults.sset x n _) _ h1)

theorem Hive.combWake_sameFaults (h : Hive) (c : Nat) : SameFaults h (h.combWake c) := by
  unfold Hive.combWake
  extract_lets p k h1 h2
  have e1 : SameFaults h h1 := ⟨rfl, rfl⟩
  have e2 : SameFaults h1 h2 := SameFaults.ite ((SameFaults.set (f := F.wrkCombStat_power c) h1 0
    (by simp only [F.wrkCombStat_power, R.wrkCombStat, R.fltLost]; omega)).trans (Hive.structEval_sameFaults _)) (SameFaults.refl h1)
  exact (e1.trans e2).trans (SameFaults.ite (Hive.combResume_sameFaults ..) (SameFaults.refl h2))

/-! ## Sparing -/

theorem SameFaults.mset (h : Hive) (i : Nat) (m : Option MaintSt) : SameFaults h (h.mset i m) := ⟨rfl, rfl⟩

theorem Hive.maintEnd_sameFaults (h : Hive) (i result reason status : Nat) : SameFaults h (h.maintEnd i result reason status) := by
  have ha : ∀ (x : Hive) (f : RF) (v : Nat), f.a = R.cmdMaint i → SameFaults x (x.set f v) := fun x f v e =>
    SameFaults.set x v (by rw [e]; unfold R.cmdMaint R.fltLost; omega)
  unfold Hive.maintEnd
  split
  · exact SameFaults.refl h
  · rename_i m _
    extract_lets h1
    have e1 : SameFaults h h1 := ((ha h (F.cmdMaint_state i) _ rfl).trans (ha _ (F.cmdMaint_result i) _ rfl)).trans
      (ha _ (F.cmdMaint_reason i) _ rfl)
    have e2 : SameFaults h1 (h1.mset i none) := SameFaults.mset ..
    have e3 : ∀ x : Hive, SameFaults x ((x.setIrq 2).finish m.tok status i) := fun x =>
      (Hive.setIrq_log x 2).sameFaults.trans (Hive.finish_log ..).sameFaults
    exact ((e1.trans e2).trans (e3 _)).trans
      (SameFaults.foldl (fun x k => (Hive.finish_log x k stOk 0).sameFaults) _ _)

theorem Hive.bistAbort_sameFaults (h : Hive) (c : Nat) : SameFaults h (h.bistAbort c) := by
  unfold Hive.bistAbort
  split
  · exact Hive.maintEnd_sameFaults ..
  · exact SameFaults.refl h

theorem R.fltLost_ne_wrkDesc {c k i : Nat} (hk : k < 8) (hi : i < 8) : R.fltLost ≠ R.wrkDesc0 c k + 4 * i := by
  unfold R.wrkDesc0 R.fltLost
  omega

theorem Hive.sparingSet_sameFaults (h : Hive) (w s : Nat) : SameFaults h (h.sparingSet w s) := by
  have ha : ∀ i ∈ List.range 8, R.fltLost ≠ R.wrkDesc0 (s / 8) (s % 8) + 4 * i := fun i hi =>
    R.fltLost_ne_wrkDesc (Nat.mod_lt s (by decide)) (List.mem_range.mp hi)
  have e1 : SameFaults h (h.descCopy w s) := by
    unfold Hive.descCopy
    exact SameFaults.foldl_mem _ (fun x i hi => SameFaults.wr x _ (ha i hi)) h
  exact (e1.trans (SameFaults.wrkStat ..)).trans (SameFaults.schedSet ..)

/-- A worker marked failing keeps every fault on. -/
theorem Hive.markFailing_stay (h : Hive) (w : Nat) : FaultsStay h (h.markFailing w) := by
  unfold Hive.markFailing
  extract_lets c used h1 h2
  have e1 : FaultsStay h h1 := (SameFaults.wrkStat h w 5).stay.trans (Hive.raise_spec _ _ _ _ _ _ (by decide)).2
  have e2 : FaultsStay h h2 := e1.trans (Hive.bistAbort_sameFaults h1 c).stay
  have move : ∀ (x : Hive) (k : WorkSt), FaultsStay x (x.wset w k) := fun x k => (SameFaults.wset x w k).stay
  refine FaultsStay.ite (FaultsStay.refl h) (FaultsStay.ite ?_ (FaultsStay.ite e1 ?_))
  · exact (SameFaults.set (f := F.wrkCombStat_spare_bad c) h 1
      (by simp only [F.wrkCombStat_spare_bad, R.wrkCombStat, R.fltLost]; omega)).stay.trans
      (Hive.raise_spec _ _ _ _ _ _ (by decide)).2
  · split
    · exact e2.trans (Hive.kernelDown_stay h2 w)
    · exact FaultsStay.ite ((e2.trans (move ..)).trans (Hive.combWake_sameFaults ..).stay)
        ((e2.trans (move ..)).trans (Hive.sparingSet_sameFaults ..).stay)

theorem SameFaults.eccSeen (h : Hive) (l : List (Nat × Nat × Nat)) : SameFaults h { h with eccSeen := l } := ⟨rfl, rfl⟩

/-- An error in a worker's memory raises its fault, whatever becomes of the worker (R30). -/
theorem Hive.eccWorker_on (h : Hive) (w kind word : Nat) (scrub bad : Bool) :
    (h.eccWorker w kind word scrub bad).faultOn 0x06 (kind + 1) (srcNoWorker w) 2 = true := by
  have on : ∀ x : Hive, (x.eccRaise 0x06 (kind + 1) (srcNoWorker w) 2 0 scrub).faultOn 0x06 (kind + 1) (srcNoWorker w) 2 = true :=
    fun x => Hive.eccRaise_on x _ _ _ _ _ _ (by decide)
  unfold Hive.eccWorker
  extract_lets key again h1
  have h1on : h1.faultOn 0x06 (kind + 1) (srcNoWorker w) 2 = true := on _
  split
  · exact (Hive.markFailing_stay h1 w).on _ _ _ _ h1on
  · exact (SameFaults.eccSeen h1 _).stay.on _ _ _ _ h1on

end Sys2Proof.Machine
end

-- ==== Sys2Proof/Proofs/MemoryErrors ====
section
/-! Memory errors, owner by owner (R30), and the record of the first (R31). -/

namespace Sys2Proof.Machine

/-- A correctable error is counted, saturating (R28). -/
theorem exec_correctableEccError (o : EccOwner) (s : State) : Completes (.correctableEccError o) s (fun h' =>
    h' = s.hive.bump F.eccCe_count 1 ∧ h'.get F.eccCe_count = min (s.hive.get F.eccCe_count + 1) (2 ^ 32 - 1)) := by
  refine Completes.upd (fun h => h.bump F.eccCe_count 1) rfl ⟨rfl, ?_⟩
  unfold Hive.bump
  rw [Hive.get_set_same _ F.eccCe_count _ (by decide)]
  exact Nat.mod_eq_of_lt (Nat.lt_of_le_of_lt (Nat.min_le_right ..) (by decide))

section
variable (s : State) (word : Fin 2097152) (scrub : Bool) (bad : List WorkerId)

/-- What an uncorrectable error shows of its owner: the fault is on, and the memories are those of the owner's action. -/
theorem exec_uncorrectableEccError {o : EccOwner} {cls cause source level : Nat}
    (on : ((s.hive.eccNote o word.val scrub).eccAct o word.val scrub (bad.map (fun w => w.val))).faultOn cls cause source level =
      true) :
    ∃ t, exec (.uncorrectableEccError o word scrub bad) s = .next t ∧ t.hive.faultOn cls cause source level = true ∧
      t.mem = s.mem.eccAct s.hive o word.val :=
  ⟨_, rfl, on, rfl⟩

/-- An error in a worker's data memory or kernel store: its fault at L2, and its data memory cleared. -/
theorem exec_eccError_worker {o : EccOwner} {w : WorkerId} {kind : Nat}
    (ho : ∀ h : Hive, h.eccAct o word.val scrub (bad.map (fun w => w.val)) =
      h.eccWorker w.val kind word.val scrub ((bad.map (fun w => w.val)).contains w.val))
    (hm : s.mem.eccAct s.hive o word.val = (s.mem.clearWorker w.val).codeLoad s.hive [w.val]) :
    ∃ t, exec (.uncorrectableEccError o word scrub bad) s = .next t ∧
      t.hive.faultOn 0x06 (kind + 1) (0x400 + w.val) 2 = true ∧
      ∀ a, w.val * 65536 ≤ a → a < w.val * 65536 + 65536 → Tbl.get Mem.ramByte t.mem.wdata a = 0 := by
  obtain ⟨t, ht, on, mem⟩ := exec_uncorrectableEccError s word scrub bad (o := o)
    (by rw [ho]; exact Hive.eccWorker_on _ w.val kind word.val scrub _)
  exact ⟨t, ht, on, fun a h1 h2 => by rw [mem, hm]; exact Mem.clearWorker_codeLoad_get _ _ _ h1 h2⟩

/-- An error whose owner's action ends with its fault: the fault is on. -/
theorem exec_eccError_raise {o : EccOwner} {cls cause source level arg : Nat} (hl : level ≤ 7)
    (ho : ∀ h : Hive, ∃ x : Hive, h.eccAct o word.val scrub (bad.map (fun w => w.val)) =
      x.eccRaise cls cause source level arg scrub) :
    ∃ t, exec (.uncorrectableEccError o word scrub bad) s = .next t ∧ t.hive.faultOn cls cause source level = true := by
  obtain ⟨t, ht, on, _⟩ := exec_uncorrectableEccError s word scrub bad (o := o) (cls := cls) (cause := cause) (source := source)
    (level := level) (by
      obtain ⟨x, hx⟩ := ho (s.hive.eccNote o word.val scrub)
      rw [hx]
      exact Hive.eccRaise_on x cls cause source level arg scrub hl)
  exact ⟨t, ht, on⟩

/-- An error in a store: its fault at L2, the note of the first error, and a code word of zeros. -/
theorem exec_eccError_store (d : Fin 2) (n : StreamId) :
    ∃ t, exec (.uncorrectableEccError (.store d n) word scrub bad) s = .next t ∧
      t.hive.faultOn 0x06 0x04 (0x1000 + n.val) 2 = true ∧ EccOnly s.hive t.hive ∧
      t.hive.get F.eccUe_count = min (s.hive.get F.eccUe_count + 1) 65535 ∧
      (s.hive.flag F.eccLastWhere_valid = false → t.hive.flag F.eccLastWhere_valid = true ∧
        t.hive.get F.eccLastWhere_kind = 3 ∧ t.hive.get F.eccLastWhere_unit = d.val ∧
        t.hive.get F.eccLastWord_word = word.val) ∧
      ∀ a, Tbl.get Mem.ramByte t.mem.store a =
        if 0x1000000 * (1 + d.val) + 8 * word.val ≤ a ∧ a < 0x1000000 * (1 + d.val) + 8 * word.val + 8 then 0
        else Tbl.get Mem.ramByte s.mem.store a := by
  have hn := Hive.eccNote_only s.hive (.store d n) word.val scrub
  have hc := Hive.eccNote_count s.hive (.store d n) word.val scrub
  have he := Hive.eccNote_eq s.hive (o := .store d n) (k := 3) (u := d.val) rfl word.val scrub
  have hg := Hive.eccFirst_get (s.hive.bump F.eccUe_count 1) (k := 3) (u := d.val) scrub (by decide) (by omega) word.isLt
  refine ⟨_, rfl, Hive.eccRaise_on _ 0x06 0x04 (srcNoStream n.val) 2 n.val scrub (by decide), ?_⟩
  show EccOnly s.hive (((s.hive.eccNote (.store d n) word.val scrub).eccRaise 0x06 0x04 (srcNoStream n.val) 2 n.val scrub)) ∧ _
  have hr := Hive.eccRaise_fault (s.hive.eccNote (.store d n) word.val scrub) 0x06 0x04 (srcNoStream n.val) 2 n.val scrub
  refine ⟨hn.trans hr.ecc, (hr.get F.eccUe_count (by decide)).trans hc, fun hv => ?_, Mem.storeZero_get _ _⟩
  rw [hv, if_neg (by decide)] at he
  rw [he] at hr
  obtain ⟨hv', hk, hu, hw⟩ := hg
  rw [he]
  exact ⟨(hr.flag F.eccLastWhere_valid (by decide)).trans hv', (hr.get F.eccLastWhere_kind (by decide)).trans hk,
    (hr.get F.eccLastWhere_unit (by decide)).trans hu, (hr.get F.eccLastWord_word (by decide)).trans hw⟩

end

/-- Clearing the note of the first error: the write is taken as R7 says of a W1C field, and both registers read 0 (R31). -/
theorem exec_eccRecordClear {w : RegWrite} (s : State) (g : goodWrite w R.eccLastWhere false = true) :
    Completes (.eccRecordClear w) s (fun h' => LogOnly (if s.hive.w1cTakes F.eccLastWhere_valid w.value.toNat then
      (s.hive.wr R.eccLastWhere 0).wr R.eccLastWord 0 else s.hive) h') :=
  Completes.upd (fun h => h.wEccLast w) rfl (Hive.hostWrite_good s.hive (fun _ _ => stOk)
    (fun h v => if h.w1cTakes F.eccLastWhere_valid v then (h.wr R.eccLastWhere 0).wr R.eccLastWord 0 else h)
    g (by decide) Regs.find_eccLastWhere rfl rfl)

/-- Settles O11: each owner's action is its note, its own change and its fault, and the fault stays on. -/
theorem memoryErrors : Obligations.MemoryErrors := by
  unfold Obligations.MemoryErrors
  intro s word scrub bad
  refine ⟨fun o => exec_correctableEccError o s, fun d n => ?store, fun w => ⟨?data, ?code⟩, fun b r n sl p c => ?others,
    fun w g => exec_eccRecordClear s g⟩
  case store =>
    obtain ⟨t, ht, on, only, count, note, mem⟩ := exec_eccError_store s word scrub bad d n
    exact ⟨t, ht, on, only, count, note, fun a ha => (mem a).trans (if_neg (by omega)), fun a h1 h2 => (mem a).trans (if_pos ⟨h1, h2⟩)⟩
  case data => exact exec_eccError_worker s word scrub bad (kind := 0) (fun _ => rfl) rfl
  case code => exact exec_eccError_worker s word scrub bad (kind := 1) (fun _ => rfl) rfl
  case others =>
    refine ⟨?_, ?_, ?_, ?_, ?_, ?_⟩ <;> exact exec_eccError_raise s word scrub bad (by decide) (fun _ => ⟨_, rfl⟩)

end Sys2Proof.Machine
end

-- ==== Sys2Proof/Proofs/Reads ====
section
/-! Reads of registers (R6, R10): the two parts of a read cut at a word's end, the capture of a pair's high word, and the
words of a closed store window (R50). -/

namespace Sys2Proof.Machine

/-! ## The words of an access -/

/-- The words of an access cut at a word's end: those of the part before the cut, then those of the part after it. -/
theorem spanWords_add {off n : Nat} (m : Nat) (h4 : (off + n) % 4 = 0) :
    spanWords off (n + m) = spanWords off n ++ spanWords (off + n) m := by
  unfold spanWords
  rw [show (off % 4 + (n + m) + 3) / 4 = (off % 4 + n + 3) / 4 + ((off + n) % 4 + m + 3) / 4 by omega, List.range_add,
    List.map_append, List.map_map]
  congr 1
  refine List.map_congr_left (fun i _ => ?_)
  rw [Function.comp_apply]
  omega

/-- Each word of an access that ends at a word's end lies before the end. -/
theorem spanWords_lt {off n o : Nat} (h4 : (off + n) % 4 = 0) (ho : o ∈ spanWords off n) : o % 4 = 0 ∧ o + 4 ≤ off + n := by
  unfold spanWords at ho
  obtain ⟨i, hi, rfl⟩ := List.mem_map.mp ho
  rw [List.mem_range] at hi
  omega

/-- Each word of an access that begins at a word's beginning lies behind it. -/
theorem spanWords_ge {off n o : Nat} (h4 : off % 4 = 0) (ho : o ∈ spanWords off n) : off ≤ o := by
  unfold spanWords at ho
  obtain ⟨i, _, rfl⟩ := List.mem_map.mp ho
  omega

/-! ## A read cut at a word's end -/

section
variable (q : Req) (b : Bool) (off : Nat) (xs ys : List Bool)

/-- Before the cut a read addresses the bytes of its first part. -/
theorem hrAddressed_low {o : Nat} (ho : o < off + xs.length) : hrAddressed ⟨q, b, off, xs ++ ys⟩ o = hrAddressed ⟨q, b, off, xs⟩ o := by
  unfold hrAddressed
  by_cases h : off ≤ o
  · dsimp only
    rw [getD_append_low _ _ _ (by omega)]
  · simp [h]

/-- Behind the cut a read addresses the bytes of its second part. -/
theorem hrAddressed_high {o : Nat} (ho : off + xs.length ≤ o) :
    hrAddressed ⟨q, b, off, xs ++ ys⟩ o = hrAddressed ⟨q, b, off + xs.length, ys⟩ o := by
  unfold hrAddressed
  dsimp only
  rw [getD_append_high _ _ _ (by omega), decide_eq_true (by omega : off ≤ o), decide_eq_true ho,
    show o - off - xs.length = o - (off + xs.length) by omega]

/-- A word of whose bytes two reads address the same is a word of the one as of the other. -/
theorem hrWord_congr {r k : HostRead} {o : Nat} (e : ∀ i ∈ List.range 4, hrAddressed r (o + i) = hrAddressed k (o + i)) :
    (List.range 4).any (fun i => hrAddressed r (o + i)) = (List.range 4).any (fun i => hrAddressed k (o + i)) := by
  rw [Bool.eq_iff_iff, List.any_eq_true, List.any_eq_true]
  exact exists_congr (fun i => and_congr_right (fun hi => by rw [e i hi]))

variable {off xs} (h4 : (off + xs.length) % 4 = 0)
include h4

theorem hrAddressed_lowWord {o : Nat} (ho : o ∈ spanWords off xs.length) :
    ∀ i ∈ List.range 4, hrAddressed ⟨q, b, off, xs ++ ys⟩ (o + i) = hrAddressed ⟨q, b, off, xs⟩ (o + i) := by
  intro i hi
  obtain ⟨_, h⟩ := spanWords_lt h4 ho
  rw [List.mem_range] at hi
  exact hrAddressed_low q b off xs ys (by omega)

theorem hrAddressed_highWord {o : Nat} (ho : o ∈ spanWords (off + xs.length) ys.length) :
    ∀ i ∈ List.range 4, hrAddressed ⟨q, b, off, xs ++ ys⟩ (o + i) = hrAddressed ⟨q, b, off + xs.length, ys⟩ (o + i) := by
  intro i _
  have h := spanWords_ge h4 ho
  exact hrAddressed_high q b off xs ys (by omega)

/-- The words of a read cut at a word's end are those of its two parts. -/
theorem hrWords_append : hrWords ⟨q, b, off, xs ++ ys⟩ = hrWords ⟨q, b, off, xs⟩ ++ hrWords ⟨q, b, off + xs.length, ys⟩ := by
  unfold hrWords
  dsimp only
  rw [List.length_append, spanWords_add _ h4, List.filter_append]
  congr 1
  · exact List.filter_congr (fun o ho => hrWord_congr (hrAddressed_lowWord q b ys h4 ho))
  · exact List.filter_congr (fun o ho => hrWord_congr (hrAddressed_highWord q b ys h4 ho))

end

/-! ## The bytes returned -/

theorem Hive.readReg_resp (h : Hive) (m : Mem) (a : Nat) (x : List Nat) : ({ h with resp := x } : Hive).readReg m a = h.readReg m a :=
  rfl

/-- What a read of a word answers is not a matter of the bytes returned before. -/
theorem Hive.readBy_resp (h : Hive) (m : Mem) (r : Req) (a : Nat) (x : List Nat) :
    ({ h with resp := x } : Hive).readBy m r a = ((h.readBy m r a).1, { (h.readBy m r a).2 with resp := x }) := by
  unfold Hive.readBy
  simp only [Hive.readReg_resp]
  split
  · rfl
  · split
    · split <;> rfl
    · rfl

/-- A word read keeps the bytes returned before and adds its own. -/
theorem Hive.readPart_resp (h : Hive) (m : Mem) (r : HostRead) (o : Nat) (x y : List Nat) :
    Hive.readPart m r { h with resp := x ++ y } o =
      { Hive.readPart m r { h with resp := y } o with resp := x ++ (Hive.readPart m r { h with resp := y } o).resp } := by
  unfold Hive.readPart
  rw [Hive.readBy_resp h m _ _ (x ++ y), Hive.readBy_resp h m _ _ y]
  dsimp only
  rw [List.append_assoc]

/-- So do words read one after the other. -/
theorem Hive.readParts_resp (m : Mem) (r : HostRead) (os : List Nat) (h : Hive) (x y : List Nat) :
    os.foldl (Hive.readPart m r) { h with resp := x ++ y } =
      { os.foldl (Hive.readPart m r) { h with resp := y } with
        resp := x ++ (os.foldl (Hive.readPart m r) { h with resp := y }).resp } := by
  induction os generalizing h y with
  | nil => rfl
  | cons o os ih =>
    rw [List.foldl_cons, List.foldl_cons, Hive.readPart_resp]
    exact ih (Hive.readPart m r { h with resp := y } o) _

/-- Two reads of a word that address the same bytes of it are one. -/
theorem Hive.readPart_congr (h : Hive) (m : Mem) {r k : HostRead} {o : Nat} (hr : r.req = k.req) (hb : r.bar2 = k.bar2)
    (e : ∀ i ∈ List.range 4, hrAddressed r (o + i) = hrAddressed k (o + i)) : Hive.readPart m r h o = Hive.readPart m k h o := by
  unfold Hive.readPart
  rw [hr, hb, List.filter_congr e]

/-- A read cut at a word's end is the read of its first part and then that of its second (R6). -/
theorem Hive.readOut_append (h : Hive) (m : Mem) (q : Req) (b : Bool) {off : Nat} {xs : List Bool} (ys : List Bool)
    (h4 : (off + xs.length) % 4 = 0) :
    h.readOut m ⟨q, b, off, xs ++ ys⟩ =
      { (h.readOut m ⟨q, b, off, xs⟩).readOut m ⟨q, b, off + xs.length, ys⟩ with
        resp := (h.readOut m ⟨q, b, off, xs⟩).resp ++
          ((h.readOut m ⟨q, b, off, xs⟩).readOut m ⟨q, b, off + xs.length, ys⟩).resp } := by
  have low : ∀ x : Hive, (hrWords ⟨q, b, off, xs⟩).foldl (Hive.readPart m ⟨q, b, off, xs ++ ys⟩) x =
      (hrWords ⟨q, b, off, xs⟩).foldl (Hive.readPart m ⟨q, b, off, xs⟩) x :=
    foldl_congr_mem _ (fun y o ho => Hive.readPart_congr y m rfl rfl
      (hrAddressed_lowWord q b ys h4 (List.mem_filter.mp ho).1))
  have high : ∀ x : Hive, (hrWords ⟨q, b, off + xs.length, ys⟩).foldl (Hive.readPart m ⟨q, b, off, xs ++ ys⟩) x =
      (hrWords ⟨q, b, off + xs.length, ys⟩).foldl (Hive.readPart m ⟨q, b, off + xs.length, ys⟩) x :=
    foldl_congr_mem _ (fun y o ho => Hive.readPart_congr y m rfl rfl
      (hrAddressed_highWord q b ys h4 (List.mem_filter.mp ho).1))
  have apart := Hive.readParts_resp m ⟨q, b, off + xs.length, ys⟩ (hrWords ⟨q, b, off + xs.length, ys⟩)
    (h.readOut m ⟨q, b, off, xs⟩) (h.readOut m ⟨q, b, off, xs⟩).resp []
  rw [List.append_nil] at apart
  have whole : h.readOut m ⟨q, b, off, xs ++ ys⟩ = (hrWords ⟨q, b, off + xs.length, ys⟩).foldl
      (Hive.readPart m ⟨q, b, off + xs.length, ys⟩) (h.readOut m ⟨q, b, off, xs⟩) := by
    unfold Hive.readOut
    rw [hrWords_append q b ys h4, List.foldl_append, low, high]
  exact whole.trans apart

/-! ## The capture of a high word -/

/-- A pair's high word is no pair's low word. -/
theorem pairLow_high {a : Nat} (h : pairLow a = true) : pairLow (a + 4) = false := by
  rw [← Bool.not_eq_true]
  intro h'
  simp only [pairLow, Bool.or_eq_true, Bool.and_eq_true, decide_eq_true_eq, beq_iff_eq, List.contains_eq_mem, List.mem_cons,
    List.not_mem_nil, or_false] at h h'
  omega

theorem Hive.capPut_get (h : Hive) (k : Nat) (v : Option Word) : Tbl.get (fun _ => none) (h.capPut k v).caps k = v :=
  Tbl.get_put_same ..

section
variable {a : Nat} (low : pairLow a = true)
include low

theorem Hive.readBy_low (h : Hive) (m : Mem) (r : Req) :
    h.readBy m r a = (h.readReg m a, h.capPut (capKey r a) (some (h.readReg m (a + 4)))) := by
  unfold Hive.readBy
  rw [if_pos low]

theorem Hive.readBy_captured (h : Hive) (m : Mem) {r : Req} {v : Word} (cap : Tbl.get (fun _ => none) h.caps (capKey r a) = some v) :
    h.readBy m r (a + 4) = (v, h.capPut (capKey r a) none) := by
  unfold Hive.readBy
  rw [pairLow_high low, if_neg Bool.false_ne_true, Nat.add_sub_cancel, if_pos ⟨by omega, low⟩, cap]

theorem Hive.readBy_live (h : Hive) (m : Mem) {r : Req} (cap : Tbl.get (fun _ => none) h.caps (capKey r a) = none) :
    h.readBy m r (a + 4) = (h.readReg m (a + 4), h) := by
  unfold Hive.readBy
  rw [pairLow_high low, if_neg Bool.false_ne_true, Nat.add_sub_cancel, if_pos ⟨by omega, low⟩, cap]

end

/-- A read of bytes of one word of BAR0. -/
theorem Hive.readOut_one (h : Hive) (m : Mem) {r : HostRead} {o : Nat} (bar0 : r.bar2 = false) (one : hrWords r = [o]) :
    h.readOut m r = { (h.readBy m r.req o).2 with resp := readBytes r o (h.readBy m r.req o).1 } := by
  unfold Hive.readOut
  rw [one, List.foldl_cons, List.foldl_nil]
  unfold Hive.readPart
  rw [bar0, if_neg Bool.false_ne_true, Nat.zero_add, Hive.readBy_resp]
  rfl

/-! ## The commands -/

theorem exec_read_append (s : State) (q : Req) (b : Bool) (off : Nat) (xs ys : List Bool) (h4 : (off + xs.length) % 4 = 0) :
    ∃ t u, exec (.lowWordRead ⟨q, b, off, xs⟩) s = .next t ∧ exec (.highWordRead ⟨q, b, off + xs.length, ys⟩) t = .next u ∧
      exec (.lowWordRead ⟨q, b, off, xs ++ ys⟩) s = .next { u with hive.resp := t.hive.resp ++ u.hive.resp } :=
  ⟨_, _, rfl, rfl, congrArg (fun h : Hive => (.next { s with hive := h } : Host.Outcome State Fault Refusal))
    (Hive.readOut_append s.hive s.mem q b ys h4)⟩

/-- A read of a low word, and what the same requester's next read of the high word returns. -/
theorem exec_lowWordRead (s : State) {r : HostRead} {a : Nat} (low : pairLow a = true) (bar0 : r.bar2 = false) (one : hrWords r = [a]) :
    Completes (.lowWordRead r) s (fun h' => h'.resp = readBytes r a (s.hive.readReg s.mem a) ∧
      { h' with resp := s.hive.resp, caps := s.hive.caps } = s.hive ∧
      ∀ (g : State) (k : HostRead), g.hive.caps = h'.caps → k.req = r.req → k.bar2 = false → hrWords k = [a + 4] →
        Completes (.highWordRead k) g (fun h₂ => h₂.resp = readBytes k (a + 4) (s.hive.readReg s.mem (a + 4)) ∧
          { h₂ with resp := g.hive.resp, caps := g.hive.caps } = g.hive ∧
          Tbl.get (fun _ => none) h₂.caps (capKey r.req a) = none)) := by
  refine Completes.upd (fun h => h.readOut s.mem r) rfl ?_
  rw [Hive.readOut_one _ _ bar0 one, Hive.readBy_low low]
  refine ⟨rfl, rfl, fun g k caps req kbar kone => Completes.upd (fun h => h.readOut g.mem k) rfl ?_⟩
  have cap : Tbl.get (fun _ => none) g.hive.caps (capKey k.req a) = some (s.hive.readReg s.mem (a + 4)) := by
    rw [caps, req]
    exact Hive.capPut_get s.hive (capKey r.req a) (some (s.hive.readReg s.mem (a + 4)))
  rw [Hive.readOut_one _ _ kbar kone, Hive.readBy_captured low _ _ cap, req]
  exact ⟨rfl, rfl, Hive.capPut_get g.hive (capKey r.req a) none⟩

/-- A read of a high word without a capture returns the live one. -/
theorem exec_highWordRead (s : State) {r : HostRead} {a : Nat} (low : pairLow a = true) (bar0 : r.bar2 = false)
    (one : hrWords r = [a + 4]) (cap : Tbl.get (fun _ => none) s.hive.caps (capKey r.req a) = none) :
    Completes (.highWordRead r) s (fun h' =>
      h' = { s.hive with resp := readBytes r (a + 4) (s.hive.readReg s.mem (a + 4)) }) := by
  refine Completes.upd (fun h => h.readOut s.mem r) rfl ?_
  rw [Hive.readOut_one _ _ bar0 one, Hive.readBy_live low _ _ cap]

/-- A closed store window reads as 0. -/
theorem Hive.readReg_storeWindow (h : Hive) (m : Mem) (off : h.flag F.storeWin_rd_en = false) {a : Nat} (h1 : 0x1000000 ≤ a)
    (h2 : a < 0x3000000) : h.readReg m a = 0 := by
  unfold Hive.readReg
  rw [if_neg (by omega), if_pos h1, if_neg (by rw [off]; simp)]

end Sys2Proof.Machine
end

-- ==== Sys2Proof/Proofs/RefusalStays ====
section
/-! A refused write stays recorded (R11) through all that raising a fault does: nothing of fault handling clears
HIVE.WR_REFUSE.valid, and only a refusal writes the register. -/

namespace Sys2Proof.Machine

/-- Where a refused write is recorded, one is recorded afterwards. -/
structure RefusalStays (h h' : Hive) : Prop where
  valid : h.flag F.wrRefuse_valid = true → h'.flag F.wrRefuse_valid = true

theorem RefusalStays.refl (h : Hive) : RefusalStays h h := ⟨id⟩

theorem RefusalStays.trans {h₁ h₂ h₃ : Hive} (a : RefusalStays h₁ h₂) (b : RefusalStays h₂ h₃) : RefusalStays h₁ h₃ :=
  ⟨fun v => b.valid (a.valid v)⟩

theorem RefusalStays.ite {c : Prop} [Decidable c] {h x y : Hive} (a : RefusalStays h x) (b : RefusalStays h y) :
    RefusalStays h (if c then x else y) := by
  split
  · exact a
  · exact b

theorem RefusalStays.foldl_mem {α : Type} {f : Hive → α → Hive} (l : List α) (hf : ∀ x, ∀ a ∈ l, RefusalStays x (f x a)) (h : Hive) :
    RefusalStays h (l.foldl f h) := by
  induction l generalizing h with
  | nil => exact RefusalStays.refl h
  | cons a l ih =>
    exact (hf h a (List.mem_cons_self ..)).trans (ih (fun x b hb => hf x b (List.mem_cons_of_mem _ hb)) (f h a))

theorem RefusalStays.foldl {α : Type} {f : Hive → α → Hive} (l : List α) (hf : ∀ x a, RefusalStays x (f x a)) (h : Hive) :
    RefusalStays h (l.foldl f h) := RefusalStays.foldl_mem l (fun x a _ => hf x a) h

/-- HIVE.WR_REFUSE reads as before. -/
theorem RefusalStays.of_rd {h h' : Hive} (e : h'.rd R.wrRefuse = h.rd R.wrRefuse) : RefusalStays h h' :=
  ⟨fun v => (Hive.flag_congr e).trans v⟩

/-- No register is written. -/
theorem RefusalStays.of_regs {h h' : Hive} (e : h'.regs = h.regs) : RefusalStays h h' :=
  RefusalStays.of_rd (by unfold Hive.rd; rw [e])

theorem RefusalStays.wr (h : Hive) {a : Nat} (v : Word) (ha : R.wrRefuse ≠ a) : RefusalStays h (h.wr a v) :=
  RefusalStays.of_rd (Hive.rd_wr_ne h v ha)

theorem RefusalStays.set (h : Hive) (f : RF) (v : Nat) (ha : R.wrRefuse ≠ f.a) : RefusalStays h (h.set f v) :=
  RefusalStays.wr h _ ha

theorem RefusalStays.hwSet (h : Hive) (f : RF) (ha : R.wrRefuse ≠ f.a) : RefusalStays h (h.hwSet f) :=
  (RefusalStays.set h f 1 ha).trans (RefusalStays.of_regs rfl)

theorem Hive.refuse_stays (h : Hive) (a status : Nat) : RefusalStays h (h.refuse a status) :=
  ⟨fun _ => Hive.refuse_valid h a status⟩

/-! ## Interrupts and the journal -/

theorem Hive.msixSend_refuse (h : Hive) (v : Nat) : (h.msixSend v).rd R.wrRefuse = h.rd R.wrRefuse := by
  unfold Hive.msixSend
  exact Hive.rd_ite (Hive.rd_wr_ne h _ (by decide)) rfl

theorem Hive.setIrq_refuse (h : Hive) (v : Nat) : (h.setIrq v).rd R.wrRefuse = h.rd R.wrRefuse := by
  unfold Hive.setIrq
  extract_lets c h1 h2
  have e2 : h2.rd R.wrRefuse = h.rd R.wrRefuse := Hive.rd_set_ne (f := F.cmdIrqStat_cause) h1 _ (by decide)
  exact Hive.rd_ite rfl (Hive.rd_ite e2 ((Hive.msixSend_refuse h2 v).trans e2))

theorem Hive.jAppend_refuse (h : Hive) : h.jAppend.rd R.wrRefuse = h.rd R.wrRefuse := by
  unfold Hive.jAppend
  split
  · rfl
  · split
    exact Hive.rd_ite (Hive.setIrq_refuse ..) rfl

theorem Hive.jPush_refuse (h : Hive) (e : JEntry) : (h.jPush e).rd R.wrRefuse = h.rd R.wrRefuse := by
  unfold Hive.jPush
  exact Hive.rd_ite (x := (h.bump F.queJrnStat_stalls 1).jAppend) (y := h) (c := h.jq.length ≥ 256)
    ((Hive.jAppend_refuse _).trans (Hive.rd_set_ne h _ (by decide))) rfl

theorem Hive.journal_refuse (h : Hive) (source iface kind status : Nat) (ok : Bool) (target old new arg : Nat) :
    (h.journal source iface kind status ok target old new arg).rd R.wrRefuse = h.rd R.wrRefuse := Hive.jPush_refuse ..

theorem Hive.jWrite_refuse (h : Hive) (w : RegWrite) (status : Nat) (ok : Bool) (old : Word) :
    (h.jWrite w status ok old).rd R.wrRefuse = h.rd R.wrRefuse := Hive.jPush_refuse ..

theorem Hive.setIrq_stays (h : Hive) (v : Nat) : RefusalStays h (h.setIrq v) := RefusalStays.of_rd (Hive.setIrq_refuse h v)

/-! ## Fault records -/

theorem Hive.sendLink_stays (h : Hive) (k : Nat) (msg : List Nat) : RefusalStays h (h.sendLink k msg) := RefusalStays.of_regs rfl

theorem Hive.sendTree_stays (h : Hive) (msg : List Nat) : RefusalStays h (h.sendTree msg) :=
  RefusalStays.foldl h.treeLinks (fun x k => Hive.sendLink_stays x k msg) h

theorem Hive.alertFault_stays (h : Hive) (shown : Nat) : RefusalStays h (h.alertFault shown) := by
  unfold Hive.alertFault
  exact RefusalStays.ite (RefusalStays.of_regs rfl) (RefusalStays.refl h)

theorem Hive.flushInto_stays (h : Hive) (slot why : Nat) : RefusalStays h (h.flushInto slot why) := by
  unfold Hive.flushInto
  extract_lets seq st h1
  have e1 : RefusalStays h h1 := RefusalStays.of_regs rfl
  exact e1.trans (RefusalStays.set h1 F.evrStat_state _ (by decide))

theorem Hive.flushNext_stays (h : Hive) (o : Option Nat) : RefusalStays h { h with flushNext := o } := RefusalStays.of_regs rfl

theorem Hive.flushStart_stays (h : Hive) (why : Nat) : RefusalStays h (h.flushStart why) := by
  unfold Hive.flushStart
  split
  · exact (Hive.flushNext_stays h _).trans (RefusalStays.set _ F.evrStat_pending _ (by decide))
  · exact Hive.flushInto_stays ..

theorem Hive.setFlt_stays (h : Hive) (i : Nat) (r : FaultRec) : RefusalStays h (h.setFlt i r) := RefusalStays.of_regs rfl

theorem Hive.lostAdd_stays (h : Hive) (r : FaultRec) (hum : Nat) : RefusalStays h (h.lostAdd r hum) := by
  unfold Hive.lostAdd
  extract_lets m h1 h2 h3 h4 h5 h6
  have e1 : RefusalStays h h1 := RefusalStays.of_regs rfl
  have e2 : RefusalStays h1 h2 := RefusalStays.set h1 F.fltLost_count _ (by decide)
  have e3 : RefusalStays h2 h3 := RefusalStays.set h2 F.fltLost_level _ (by decide)
  have e4 : RefusalStays h3 h4 := RefusalStays.set h3 F.fltLost_shown _ (by decide)
  have e5 : RefusalStays h4 h5 := RefusalStays.ite (RefusalStays.set h4 F.fltLost_rf _ (by decide)) (RefusalStays.refl h4)
  have e6 : RefusalStays h5 h6 := RefusalStays.set h5 F.fltLost_hum _ (by decide)
  exact (((((e1.trans e2).trans e3).trans e4).trans e5).trans e6).trans
    ((RefusalStays.hwSet h6 F.fltLost_valid (by decide)).trans (Hive.setIrq_stays ..))

theorem Hive.jqSet_stays (h : Hive) (l : List JEntry) : RefusalStays h { h with jq := l } := RefusalStays.of_regs rfl

theorem Hive.marksSet_stays (h : Hive) (l : List FltMark) : RefusalStays h { h with fltMarks := l } := RefusalStays.of_regs rfl

/-- A record that returns may refuse the write that acknowledged it; it takes no refusal back. -/
theorem Hive.fltReturn_stays (h : Hive) (cls cause source : Nat) : RefusalStays h (h.fltReturn cls cause source) := by
  unfold Hive.fltReturn
  split
  · exact RefusalStays.refl h
  · dsimp only
    refine RefusalStays.ite (RefusalStays.refl h) ?_
    split
    · exact (Hive.marksSet_stays h _).trans (Hive.setFlt_stays ..)
    · exact (((Hive.marksSet_stays h _).trans (Hive.setFlt_stays ..)).trans (Hive.refuse_stays ..)).trans (Hive.jqSet_stays ..)

theorem Hive.showUp_stays (h : Hive) (i shown : Nat) : RefusalStays h (h.showUp i shown) := by
  unfold Hive.showUp
  exact RefusalStays.ite (((Hive.setFlt_stays ..).trans (Hive.setIrq_stays ..)).trans (Hive.alertFault_stays ..)) (RefusalStays.refl h)

theorem Hive.record_stays (h : Hive) (cls cause source level arg : Nat) (selfc : Bool) :
    RefusalStays h (h.record cls cause source level arg selfc) := by
  unfold Hive.record
  extract_lets h1 later shown fresh h2 h3 h4
  have e1 : RefusalStays h h1 := Hive.fltReturn_stays ..
  have e2 : RefusalStays h1 h2 := by
    show RefusalStays h1 (match h1.fltFind cls cause source with | some _ => _ | none => _)
    split
    · exact (Hive.setFlt_stays ..).trans (Hive.showUp_stays ..)
    · split
      · exact ((Hive.setFlt_stays ..).trans (Hive.setIrq_stays ..)).trans (Hive.alertFault_stays ..)
      · exact Hive.lostAdd_stays ..
  have e3 : RefusalStays h2 h3 :=
    RefusalStays.ite (RefusalStays.foldl _ (fun x i => Hive.showUp_stays x i _) h2) (RefusalStays.refl h2)
  have e4 : RefusalStays h3 h4 := RefusalStays.ite (Hive.flushStart_stays ..) (RefusalStays.refl h3)
  exact (((e1.trans e2).trans e3).trans e4).trans (RefusalStays.ite (Hive.sendTree_stays ..) (RefusalStays.refl h4))

/-! ## Streams muted by a trigger -/

theorem Hive.probeStop_stays (h : Hive) (n : Nat) : RefusalStays h (h.probeStop n) := by
  unfold Hive.probeStop
  refine RefusalStays.foldl _ (fun x k => ?_) h
  exact RefusalStays.ite (RefusalStays.of_regs rfl) (RefusalStays.refl x)

theorem Hive.ugtPause_stays (h : Hive) (g i : Nat) (runs : Bool) : RefusalStays h (h.ugtPause g i runs) := by
  have slot : ∀ (x : Hive) (v : UgtSlot), RefusalStays x (x.ugtSetSlot g i v) := fun x v => RefusalStays.of_regs rfl
  have state : ∀ (x : Hive) (v : Nat), RefusalStays x (x.set (F.ugtIn_state g i) v) := fun x v =>
    RefusalStays.set x _ v (by simp only [F.ugtIn_state, R.ugtIn, R.wrRefuse]; omega)
  unfold Hive.ugtPause
  exact RefusalStays.ite ((slot ..).trans (state ..)) (RefusalStays.ite (state ..) (RefusalStays.refl h))

theorem Hive.ugtFollow_stays (h : Hive) (n v : Nat) : RefusalStays h (h.ugtFollow n v) := by
  unfold Hive.ugtFollow
  refine RefusalStays.foldl _ (fun x d => ?_) h
  exact RefusalStays.ite (Hive.ugtPause_stays ..) (RefusalStays.refl x)

theorem Hive.loopSet_stays (h : Hive) (s : Nat) (l : LoopSt) : RefusalStays h (h.loopSet s l) := RefusalStays.of_regs rfl

theorem Hive.loopsRun_stays (h : Hive) (n : Nat) (on : Bool) : RefusalStays h (h.loopsRun n on) := by
  unfold Hive.loopsRun
  refine RefusalStays.foldl _ (fun x s => ?_) h
  dsimp only
  split
  · exact RefusalStays.ite (Hive.loopSet_stays ..) (RefusalStays.refl x)
  · exact RefusalStays.ite (RefusalStays.refl x) (Hive.loopSet_stays ..)

theorem Hive.npmSet_stays (h : Hive) (n : Nat) (st : NpmSt) : RefusalStays h (h.npmSet n st) := RefusalStays.of_regs rfl

theorem Hive.sset_stays (h : Hive) (n : Nat) (st : StreamSt) : RefusalStays h (h.sset n st) := RefusalStays.of_regs rfl

theorem Hive.setSt_stays (h : Hive) (n v : Nat) : RefusalStays h (h.setSt n v) := by
  unfold Hive.setSt
  extract_lets h1 h2
  have e1 : RefusalStays h h1 := RefusalStays.ite (Hive.probeStop_stays ..) (RefusalStays.refl h)
  have e2 : RefusalStays h1 h2 :=
    RefusalStays.ite (Hive.npmSet_stays ..) (RefusalStays.ite (Hive.npmSet_stays ..) (RefusalStays.refl h1))
  exact (((e1.trans e2).trans (Hive.ugtFollow_stays ..)).trans (Hive.loopsRun_stays ..)).trans
    (RefusalStays.set _ (F.rteStatus_state n) v (by simp only [F.rteStatus_state, R.rteStatus, R.wrRefuse]; omega))

theorem Hive.setMs_stays (h : Hive) (n m : Nat) : RefusalStays h (h.setMs n m) :=
  (Hive.sset_stays h n _).trans (RefusalStays.set _ (F.strSmoke_mult (h.lastSlice n) (h.lastHalf n)) m
    (by simp only [F.strSmoke_mult, R.strSmoke, R.wrRefuse]; omega))

/-- A register of the SMK block is written. -/
theorem RefusalStays.smk (h : Hive) (f : RF) (v : Nat) (ha : 0x580000 ≤ f.a) : RefusalStays h (h.set f v) :=
  RefusalStays.set h f v (by unfold R.wrRefuse; omega)

theorem le_smkStat (n : Nat) : 0x580000 ≤ R.smkStat n := by unfold R.smkStat; omega

theorem le_smkCause (n : Nat) : 0x580000 ≤ R.smkCause n := by unfold R.smkCause; omega

theorem Hive.causeOn_stays (h : Hive) (bit n : Nat) : RefusalStays h (h.causeOn bit n) := RefusalStays.smk h _ _ (le_smkCause n)

theorem Hive.firstNow_stays (h : Hive) (n : Nat) : RefusalStays h (h.firstNow n) := RefusalStays.smk h _ _ (le_smkCause n)

theorem Hive.rampStart_stays (h : Hive) (n : Nat) (pf force : Bool) (ms : Nat) : RefusalStays h (h.rampStart n pf force ms) := by
  unfold Hive.rampStart
  split
  extract_lets dl len pos st left isDown h1 h2 h3
  have e1 : RefusalStays h h1 := Hive.sset_stays ..
  have e2 : RefusalStays h1 h2 := (RefusalStays.smk h1 (F.smkStat_pos n) _ (le_smkStat n)).trans
    (RefusalStays.smk _ (F.smkStat_ramp n) _ (le_smkStat n))
  have e3 : RefusalStays h2 h3 := RefusalStays.smk h2 (F.smkStat_clipped n) _ (le_smkStat n)
  exact RefusalStays.ite (RefusalStays.refl h) (((e1.trans e2).trans e3).trans
    (RefusalStays.ite (Hive.record_stays ..) (RefusalStays.refl h3)))

theorem Hive.mismNote_stays (h : Hive) (source a : Nat) (ns : List Nat) : RefusalStays h (h.mismNote source a ns) := by
  unfold Hive.mismNote
  extract_lets h1 h2 h3
  have e1 : RefusalStays h h1 := (RefusalStays.set h F.queInteg_count _ (by decide)).trans
    (RefusalStays.set _ F.queInteg_source _ (by decide))
  have e2 : RefusalStays h1 h2 := RefusalStays.of_rd (Hive.journal_refuse ..)
  have e3 : RefusalStays h2 h3 := RefusalStays.of_regs rfl
  exact ((e1.trans e2).trans e3).trans (Hive.record_stays ..)

theorem Hive.deadlineUse_stays (h : Hive) (n : Nat) : RefusalStays h (h.deadlineUse n) := by
  unfold Hive.deadlineUse
  exact RefusalStays.ite (RefusalStays.refl h)
    ((RefusalStays.ite (RefusalStays.refl h) (Hive.mismNote_stays ..)).trans (Hive.causeOn_stays ..))

theorem Hive.restatus_stays (h : Hive) (k : CmdTok) (pos : Nat) : RefusalStays h (h.restatus k pos) := by
  unfold Hive.restatus
  split
  · exact RefusalStays.ite (RefusalStays.wr h _ (by unfold R.wrRefuse; omega)) (RefusalStays.refl h)
  · split
    · exact RefusalStays.ite (RefusalStays.of_regs rfl) (RefusalStays.refl h)
    · exact RefusalStays.refl h

theorem Hive.cmdUndo_stays (h : Hive) (n : Nat) : RefusalStays h (h.cmdUndo n) := by
  unfold Hive.cmdUndo
  split
  · exact RefusalStays.refl h
  · extract_lets h1 h2 h3
    have e1 : RefusalStays h h1 := RefusalStays.of_regs rfl
    have e2 : RefusalStays h1 h2 := ((Hive.setSt_stays ..).trans (Hive.npmSet_stays ..)).trans (Hive.sset_stays ..)
    have e3 : RefusalStays h2 h3 := ((Hive.setMs_stays ..).trans
      (RefusalStays.wr _ _ (by unfold R.smkStat R.wrRefuse; omega))).trans
      (RefusalStays.smk _ (F.smkCause_active n) _ (le_smkCause n))
    exact ((e1.trans e2).trans e3).trans (Hive.restatus_stays ..)

theorem Hive.rampBegin_stays (h : Hive) (n bit : Nat) (pf toIdle : Bool) : RefusalStays h (h.rampBegin n bit pf toIdle) := by
  unfold Hive.rampBegin
  exact (((Hive.deadlineUse_stays h n).trans (Hive.rampStart_stays ..)).trans (Hive.sset_stays ..)).trans (Hive.setSt_stays ..)

theorem Hive.trigger_stays (h : Hive) (bit : Nat) (pf : Bool) (n : Nat) : RefusalStays h (h.trigger bit pf n) := by
  unfold Hive.trigger
  extract_lets h1 st h2 pf' u h3
  have e1 : RefusalStays h h1 := (Hive.cmdUndo_stays h n).trans (Hive.causeOn_stays ..)
  have e2 : RefusalStays h1 h2 := Hive.deadlineUse_stays ..
  have e3 : RefusalStays h2 h3 := Hive.rampStart_stays ..
  refine e1.trans (RefusalStays.ite ?armed (RefusalStays.ite ?live (RefusalStays.ite ?down (RefusalStays.refl h1))))
  case armed => exact (Hive.setSt_stays ..).trans (Hive.firstNow_stays ..)
  case live => exact (Hive.rampBegin_stays ..).trans (Hive.firstNow_stays ..)
  case down =>
    exact e2.trans (RefusalStays.ite (RefusalStays.ite ((e3.trans (Hive.sset_stays ..)).trans (Hive.firstNow_stays ..))
      (RefusalStays.refl h2)) (Hive.rampStart_stays ..))

/-! ## The hive's state -/

theorem Hive.modeSet_stays (h : Hive) (m : Mode) (b : Bool) : RefusalStays h { h with mode := m, seenRun := b } :=
  RefusalStays.of_regs rfl

theorem Hive.modeMsg_stays (h : Hive) (level : Nat) : RefusalStays h (h.modeMsg level) :=
  (RefusalStays.of_regs rfl : RefusalStays h h.draw.2).trans (Hive.sendTree_stays ..)

theorem Hive.enterHalt_stays (h : Hive) : RefusalStays h h.enterHalt := by
  unfold Hive.enterHalt Hive.triggerAll
  exact ((Hive.modeSet_stays h .halt h.seenRun).trans (RefusalStays.foldl _ (fun x n => Hive.trigger_stays x 2 true n) _)).trans
    (Hive.modeMsg_stays ..)

theorem Hive.settle_stays (h : Hive) : RefusalStays h h.settle := by
  unfold Hive.settle
  extract_lets own h1
  have safe : RefusalStays h (({ h with mode := .safe } : Hive).modeMsg 0) :=
    (Hive.modeSet_stays h .safe h.seenRun).trans (Hive.modeMsg_stays ..)
  have e1 : RefusalStays h h1 := RefusalStays.ite (RefusalStays.ite (Hive.enterHalt_stays h)
    (RefusalStays.ite (RefusalStays.ite (RefusalStays.refl h) safe)
      (RefusalStays.ite (Hive.modeSet_stays h .degraded true) (Hive.modeSet_stays h .run true)))) (RefusalStays.refl h)
  exact e1.trans (RefusalStays.of_regs rfl)

/-- Raising a fault takes no refusal back. -/
theorem Hive.raise_stays (h : Hive) (cls cause source level arg : Nat) : RefusalStays h (h.raise cls cause source level arg) :=
  (Hive.record_stays ..).trans (Hive.settle_stays _)

end Sys2Proof.Machine
end

-- ==== Sys2Proof/Proofs/Writes ====
section
/-! Writes to registers (R6 to R11): the two parts of a write cut at a word's end, the one access of a write to one word, and
what becomes of it by its register. -/

namespace Sys2Proof.Machine

/-! ## A write cut at a word's end -/

section
variable (q : Req) (b : Bool) (off : Nat) (xs ys : List (Option Byte))

/-- Before the cut a write carries the bytes of its first part. -/
theorem hwByte_low {o : Nat} (ho : o < off + xs.length) : hwByte ⟨q, b, off, xs ++ ys⟩ o = hwByte ⟨q, b, off, xs⟩ o := by
  unfold hwByte
  dsimp only
  by_cases h : o < off
  · rw [if_pos h, if_pos h]
  · rw [if_neg h, if_neg h, getD_append_low _ _ _ (by omega)]

/-- Behind the cut a write carries the bytes of its second part. -/
theorem hwByte_high {o : Nat} (ho : off + xs.length ≤ o) :
    hwByte ⟨q, b, off, xs ++ ys⟩ o = hwByte ⟨q, b, off + xs.length, ys⟩ o := by
  unfold hwByte
  dsimp only
  rw [if_neg (by omega), if_neg (by omega), getD_append_high _ _ _ (by omega), Nat.sub_add_eq]

end

section
variable {w v : HostWrite} {o : Nat} (req : w.req = v.req) (bar : w.bar2 = v.bar2)
  (e : ∀ i ∈ List.range 4, hwByte w (o + i) = hwByte v (o + i))
include req bar e

theorem hwPart_congr : hwPart w o = hwPart v o := by
  have word : hwWord w o = hwWord v o := List.map_congr_left e
  unfold hwPart
  rw [word, req, bar]

theorem hwBytes_congr : hwBytes w o = hwBytes v o :=
  filterMap_congr_mem _ (fun i hi => by rw [e i hi, req, bar])

/-- Two writes that carry the same bytes of a word are one access to it. -/
theorem Hive.writePart_congr (h : Hive) : Hive.writePart w h o = Hive.writePart v h o := by
  unfold Hive.writePart
  rw [hwPart_congr req bar e, hwBytes_congr req bar e, bar]

end

/-- A write cut at a word's end is the write of its first part and then that of its second (R6). -/
theorem Hive.writeBytes_append (h : Hive) (q : Req) (b : Bool) {off : Nat} {xs : List (Option Byte)} (ys : List (Option Byte))
    (h4 : (off + xs.length) % 4 = 0) :
    h.writeBytes ⟨q, b, off, xs ++ ys⟩ = (h.writeBytes ⟨q, b, off, xs⟩).writeBytes ⟨q, b, off + xs.length, ys⟩ := by
  unfold Hive.writeBytes
  dsimp only
  rw [List.length_append, spanWords_add _ h4, List.foldl_append]
  have low : ∀ x, ∀ o ∈ spanWords off xs.length,
      Hive.writePart ⟨q, b, off, xs ++ ys⟩ x o = Hive.writePart ⟨q, b, off, xs⟩ x o := by
    intro x o ho
    obtain ⟨_, hb⟩ := spanWords_lt h4 ho
    refine Hive.writePart_congr (by rfl) (by rfl) (fun i hi => ?_) x
    have hi := List.mem_range.mp hi
    exact hwByte_low q b off xs ys (by omega)
  have high : ∀ x, ∀ o ∈ spanWords (off + xs.length) ys.length,
      Hive.writePart ⟨q, b, off, xs ++ ys⟩ x o = Hive.writePart ⟨q, b, off + xs.length, ys⟩ x o := by
    intro x o ho
    have hb := spanWords_ge h4 ho
    exact Hive.writePart_congr (by rfl) (by rfl) (fun i _ => hwByte_high q b off xs ys (by omega)) x
  rw [foldl_congr_mem _ low, foldl_congr_mem _ high]

theorem exec_write_append (s : State) (q : Req) (b : Bool) (off : Nat) (xs ys : List (Option Byte)) (h4 : (off + xs.length) % 4 = 0) :
    ∃ t u, exec (.registerWrite ⟨q, b, off, xs⟩) s = .next t ∧
      exec (.registerWrite ⟨q, b, off + xs.length, ys⟩) t = .next u ∧
      exec (.registerWrite ⟨q, b, off, xs ++ ys⟩) s = .next u :=
  ⟨_, _, rfl, rfl, congrArg (fun h : Hive => (.next { s with hive := h } : Host.Outcome State Fault Refusal))
    (Hive.writeBytes_append s.hive q b ys h4)⟩

/-! ## A write to one word -/

theorem hwPart_bar2 {w : HostWrite} {o : Nat} {p : RegWrite} (e : hwPart w o = some p) : w.bar2 = p.bar2 := by
  unfold hwPart at e
  dsimp only at e
  split at e
  · cases e
  · cases e; rfl

theorem bar2Mem_word (o : Nat) : bar2Mem (o - o % 4) = bar2Mem o := by
  rw [Bool.eq_iff_iff]
  simp only [bar2Mem, Bool.or_eq_true, Bool.and_eq_true, decide_eq_true_eq]
  omega

/-- A write to one word that is a register is one access. -/
theorem Hive.writeBytes_one (h : Hive) {w : HostWrite} {p : RegWrite} (only : onlyPart w p) (reg : (p.bar2 && bar2Mem p.off) = false) :
    h.writeBytes w = h.writeAny p := by
  obtain ⟨span, part⟩ := only
  unfold Hive.writeBytes
  rw [span, List.foldl_cons, List.foldl_nil]
  unfold Hive.writePart
  rw [hwPart_bar2 part, bar2Mem_word, reg, if_neg Bool.false_ne_true, part]

section
variable {w : HostWrite} {p : RegWrite} (only : onlyPart w p) (bar0 : p.bar2 = false) (ro : roWindow (wKey p) = false)
include only bar0

theorem exec_registerWrite_bar0 (s : State) : exec (.registerWrite w) s = s.upd (fun h => h.writeAny p) :=
  congrArg (fun h : Hive => (.next { s with hive := h } : Host.Outcome State Fault Refusal))
    (Hive.writeBytes_one s.hive only (by rw [bar0]; rfl))

include ro

/-- A write to one word of BAR0 that has no command of its own passes through its register's rule. -/
theorem exec_registerWrite {s : State} (plain : s.hive.writeSpecial p = none) {P : Hive → Prop}
    (e : P (s.hive.hostWrite p (ruleOf (wKey p)).1 (ruleOf (wKey p)).2)) : Completes (.registerWrite w) s P := by
  refine Completes.upd (fun h => h.writeAny p) (exec_registerWrite_bar0 only bar0 s) ?_
  unfold Hive.writeAny
  dsimp only
  rw [bar0, ro, plain]
  exact e

end

/-! ## What becomes of it -/

/-- What a refused write leaves: bookkeeping, and the record of the refusal unless one was held (R11). -/
theorem Hive.wRefused_spec (h : Hive) (w : RegWrite) {status : Nat} (hs : status < 16) :
    LogOnly h (h.wRefused w status) ∧ (h.wRefused w status).flag F.wrRefuse_valid = true ∧
      (h.flag F.wrRefuse_valid = false → (h.wRefused w status).get F.wrRefuse_status = status) := by
  have e := Hive.wRefused_valid h w status
  exact ⟨Hive.wRefused_log h w status, (Hive.flag_congr e).trans (Hive.refuse_valid ..), fun hv =>
    (Hive.get_congr (f := F.wrRefuse_status) e).trans (Hive.refuse_status h _ status hv hs)⟩

/-- A command that is a refused write is turned away. -/
theorem TurnedAway.of_wRefused {i : Instr} {s : State} {w : RegWrite} {status : Nat} (hs : status < 16)
    (e : exec i s = s.upd (fun h => h.wRefused w status)) : TurnedAway i s status :=
  Completes.upd (fun h => h.wRefused w status) e (Hive.wRefused_spec s.hive w hs)

/-- A write to an address without a register, outside BAR2. -/
theorem Hive.hostWrite_unimplemented (h : Hive) {w : RegWrite} (chk : Hive → Nat → Nat) (app : Hive → Nat → Hive)
    (bar0 : w.bar2 = false) (hd : Regs.find (wKey w) = none) : h.hostWrite w chk app = h.wRefused w stBadArg := by
  unfold Hive.hostWrite
  simp only [hd, bar0, Bool.false_eq_true, if_false, ite_self]

/-- A write to a register that no field of takes a host write. -/
theorem Hive.hostWrite_readOnly (h : Hive) {w : RegWrite} (chk : Hive → Nat → Nat) (app : Hive → Nat → Hive) {d : RegDesc}
    (hf : wFull w = true) (hd : Regs.find (wKey w) = some d) (hw : descWritable d = false) :
    h.hostWrite w chk app = h.jWrite w stOk false (h.rd (wKey w)) := by
  unfold Hive.hostWrite
  simp only [hf, hd, hw, Bool.not_true, Bool.not_false, Bool.false_eq_true, if_false, if_true]

/-- A write with a wrong complement is refused and raises the fault of R9. -/
theorem Hive.hostWrite_complement (h : Hive) {w : RegWrite} (chk : Hive → Nat → Nat) (app : Hive → Nat → Hive) {d : RegDesc}
    (hf : wFull w = true) (hd : Regs.find (wKey w) = some d) (hr : d.rwc = true) (hc : rwcOk w.value = false) :
    h.hostWrite w chk app = (h.wRefused w stInteg).raise 0x13 0x01 (srcOfAddr (wKey w)) 1 (wKey w) := by
  have hw : descWritable d = true := by unfold descWritable; rw [hr]; rfl
  unfold Hive.hostWrite
  simp only [hf, hd, hw, hr, hc, Bool.not_true, Bool.not_false, Bool.and_self, Bool.false_eq_true, if_false, if_true]

end Sys2Proof.Machine
end

-- ==== Sys2Proof/Proofs/RegisterAccess ====
section
/-! Register accesses (R6 to R11): the plain effect of a write, the writes that are turned away, and the windows. -/

namespace Sys2Proof.Machine

/-! ## The plain effect of a write -/

theorem Hive.markEdges_rd (h : Hive) (a x : Nat) (bs : List Nat) :
    (bs.foldl (fun (h : Hive) b => h.markEdge a b) h).rd x = h.rd x := by
  induction bs generalizing h with
  | nil => rfl
  | cons b bs ih => exact ih (h.markEdge a b)

/-- A register after its plain effect. -/
theorem Hive.applyTypes_rd (h : Hive) {a : Nat} {d : RegDesc} (hd : Regs.find a = some d) (v : Word) :
    (h.applyTypes a v.toNat).rd a = applyMasks d (h.edgeMask a) (h.rd a) v := by
  unfold Hive.applyTypes
  rw [hd, BitVec.ofNat_toNat32]
  dsimp only
  rw [Hive.markEdges_rd, Hive.rd_wr_same]

theorem Hive.applyTypes_rd_ne (h : Hive) {a x : Nat} (v : Nat) (hx : x ≠ a) : (h.applyTypes a v).rd x = h.rd x := by
  unfold Hive.applyTypes
  split
  · rfl
  · dsimp only
    rw [Hive.markEdges_rd, Hive.rd_wr_ne h _ hx]

/-- The plain effect and bookkeeping leave every other register. -/
theorem Hive.applyTypes_kept {h h' : Hive} {a v : Nat} (e : LogOnly (h.applyTypes a v) h') :
    Kept (fun x => logReg x || x == a) h h' := by
  intro x hx
  rw [Bool.or_eq_false_iff, beq_eq_false_iff_ne] at hx
  obtain ⟨log, ne⟩ := hx
  rw [e.regs x log, Hive.applyTypes_rd_ne h v ne]

/-! ## Registers without a rule of their own -/

/-- The registers of `plainReg` that it names one by one. -/
def namedPlain : List Nat :=
  [R.scrubCtl, R.eqCtl, R.npmTimes, R.npmTimes2, R.timCtl, R.timTodOfsLo, R.timSetLo, R.timSetHi, R.timSnapSel, R.timWagCtl,
    R.hskPrio 0, R.hskPrio 1, R.hskPrio 2, R.hskExtLim 0, R.hskExtLim 1, R.hskExtLim 2, R.hskExtLim 3, R.pwrStat, R.queCmdStat,
    R.smbStat]

theorem plainReg_cases {a : Nat} (h : plainReg a = true) :
    a ∈ namedPlain ∨ (0x220000 ≤ a ∧ a < 0x222000) ∨
      (0x4D0000 ≤ a ∧ a < 0x4F0000 ∧ (a % 0x200 = 0 ∨ a % 0x200 = 0x08 ∨ a % 0x200 = 0x1C)) ∨
      (0x520000 ≤ a ∧ a < 0x520040 ∧ a % 0x10 = 0x0C) ∨ (0x600000 ≤ a ∧ a < 0x700000 ∧ a % 0x4000 = 0x0C) ∨
      (0x800030 ≤ a ∧ a < 0x800050) ∨ (0x800100 ≤ a ∧ a < 0x800700) := by
  simp only [plainReg, Bool.or_eq_true, Bool.and_eq_true, decide_eq_true_eq, beq_iff_eq, List.contains_eq_mem, and_assoc, or_assoc] at h
  exact h

theorem namedPlain_rule : ∀ a ∈ namedPlain, ruleOf a = (noChk, Hive.applyTypes a) := by
  simp only [namedPlain, List.forall_mem_cons]
  exact ⟨rfl, rfl, rfl, rfl, rfl, rfl, rfl, rfl, rfl, rfl, rfl, rfl, rfl, rfl, rfl, rfl, rfl, rfl, rfl, rfl, fun _ h => by cases h⟩

/-- A plain register has no check, and the plain effect. -/
theorem plainReg_rule {a : Nat} (h : plainReg a = true) : ruleOf a = (noChk, Hive.applyTypes a) := by
  rcases plainReg_cases h with named | status | gate | setp | win | que | que
  case inl => exact namedPlain_rule a named
  all_goals unfold ruleOf
  · rw [if_pos (by omega)]
    unfold ruleLow
    rw [if_neg (by unfold R.wrRefuse; omega), if_neg (by omega), if_neg (by omega), if_pos (by omega)]
  · rw [if_neg (by omega), if_pos (by omega)]
    unfold ruleFbc
    rw [if_neg (by omega)]
    obtain ⟨_, _, e | e | e⟩ := gate <;> rw [e] <;> rfl
  · rw [if_neg (by omega), if_neg (by omega), if_pos (by omega)]
    unfold ruleGce
    obtain ⟨_, _, e⟩ := setp
    rw [if_neg (by omega), if_neg (by omega), e]
    rfl
  · rw [if_neg (by omega), if_neg (by omega), if_neg (by omega), if_pos (by omega)]
    unfold ruleSmk
    dsimp only
    rw [if_neg (by unfold R.smkPfRamp; omega), if_neg (by omega), if_neg (by omega), if_neg (by omega), if_neg (by omega),
      if_neg (by omega)]
  all_goals
    rw [if_neg (by omega), if_neg (by omega), if_neg (by omega), if_neg (by omega), if_neg (by omega), if_neg (by omega)]
    unfold ruleHigh
    rw [if_neg (by unfold R.evrWinSel; omega), if_neg (by omega), if_neg (by unfold R.smbAddrCfg; omega),
      if_neg (by unfold R.smbAlertCfg; omega)]

/-- No plain register is one in which bookkeeping shows. -/
theorem plainReg_log {a : Nat} (h : plainReg a = true) : logReg a = false := by
  rcases plainReg_cases h with named | other
  · exact (by decide : ∀ a ∈ namedPlain, logReg a = false) a named
  · rw [← Bool.not_eq_true]
    simp only [logReg, R.wrRefuse, R.queJrnStat, R.smbMbStat, R.cmdSqHead, R.cmdIrqStat, Bool.or_eq_true, Bool.and_eq_true,
      decide_eq_true_eq, beq_iff_eq]
    omega

/-! ## Writes to one word of BAR0 -/

section
variable {s : State} {w : HostWrite} {p : RegWrite} (only : onlyPart w p) (bar0 : p.bar2 = false)
  (ro : roWindow (wKey p) = false) (special : s.hive.writeSpecial p = none)
include only bar0 ro special

theorem exec_registerWrite_refused {st : Nat} (hs : st < 16)
    (e : s.hive.hostWrite p (ruleOf (wKey p)).1 (ruleOf (wKey p)).2 = s.hive.wRefused p st) : TurnedAway (.registerWrite w) s st :=
  exec_registerWrite only bar0 ro special (by rw [e]; exact Hive.wRefused_spec s.hive p hs)

variable {d : RegDesc} (full : wFull p = true) (hd : Regs.find (wKey p) = some d)
include full hd

section
variable (hw : descWritable d = true) (good : (d.rwc && !rwcOk p.value) = false)
include hw good

/-- A value that passes the register's check takes the register's effect. -/
theorem exec_registerWrite_takes (ok : (ruleOf (wKey p)).1 s.hive p.value.toNat = stOk) :
    Completes (.registerWrite w) s (LogOnly ((ruleOf (wKey p)).2 s.hive p.value.toNat)) :=
  exec_registerWrite only bar0 ro special (by
    rw [Hive.hostWrite_ok s.hive p _ _ full hd hw good ok]
    exact Hive.jWrite_log ..)

/-- A value that fails it is turned away with its status. -/
theorem exec_registerWrite_fails (bad : (ruleOf (wKey p)).1 s.hive p.value.toNat ≠ stOk)
    (hs : (ruleOf (wKey p)).1 s.hive p.value.toNat < 16) :
    TurnedAway (.registerWrite w) s ((ruleOf (wKey p)).1 s.hive p.value.toNat) :=
  exec_registerWrite_refused only bar0 ro special hs (Hive.hostWrite_refused s.hive p _ _ full hd hw good bad)

/-- A plain register takes the value by its access types. -/
theorem exec_registerWrite_plain (plain : plainReg (wKey p) = true) : Completes (.registerWrite w) s (fun h' =>
    h'.rd (wKey p) = applyMasks d (s.hive.edgeMask (wKey p)) (s.hive.rd (wKey p)) p.value ∧
      Kept (fun x => logReg x || x == wKey p) s.hive h') := by
  have rule := plainReg_rule plain
  refine (exec_registerWrite_takes only bar0 ro special full hd hw good (by rw [rule]; rfl)).mono (fun h' log => ?_)
  rw [rule] at log
  exact ⟨(log.regs _ (plainReg_log plain)).trans (Hive.applyTypes_rd s.hive hd p.value), Hive.applyTypes_kept log⟩

end

/-- A write to a read-only register is journaled and is no refusal. -/
theorem exec_registerWrite_readOnly (hw : descWritable d = false) : Completes (.registerWrite w) s (fun h' =>
    LogOnly s.hive h' ∧ h'.rd R.wrRefuse = s.hive.rd R.wrRefuse) :=
  exec_registerWrite only bar0 ro special (by
    rw [Hive.hostWrite_readOnly s.hive _ _ full hd hw]
    exact ⟨Hive.jWrite_log .., Hive.jWrite_refuse ..⟩)

/-- A wrong complement is refused and raises the fault of R9. -/
theorem exec_registerWrite_complement (hr : d.rwc = true) (bad : rwcOk p.value = false) :
    Completes (.registerWrite w) s (fun h' => h'.faultOn 0x13 0x01 (srcOfAddr (wKey p)) 1 = true ∧
      h'.flag F.wrRefuse_valid = true ∧ Kept faultReg s.hive h') :=
  exec_registerWrite only bar0 ro special (by
    rw [Hive.hostWrite_complement s.hive _ _ full hd hr bad]
    obtain ⟨log, valid, _⟩ := Hive.wRefused_spec s.hive p (status := stInteg) (by decide)
    exact ⟨(Hive.raise_spec _ _ _ _ _ _ (by decide)).1, (Hive.raise_stays ..).valid valid,
      (log.fault.trans (Hive.raise_fault ..)).regs⟩)

end

/-! ## BAR2 -/

theorem Regs.find_cmdCqHead : (Regs.find R.cmdCqHead).isSome = true := by decide

/-- A write to an address of BAR2 without a register has no effect. -/
theorem exec_registerWrite_bar2 (s : State) {w : HostWrite} {p : RegWrite} (only : onlyPart w p) (bar2 : p.bar2 = true)
    (reg : bar2Mem p.off = false) (hd : Regs.find (wKey p) = none) : exec (.registerWrite w) s = .next s := by
  have ne : ∀ {a : Nat}, (Regs.find a).isSome = true → wKey p ≠ a := fun ha e => by rw [← e, hd] at ha; cases ha
  have same : s.hive.writeBytes w = s.hive := by
    rw [Hive.writeBytes_one s.hive only (by rw [reg, Bool.and_false])]
    unfold Hive.writeAny Hive.writeBar2
    dsimp only
    rw [bar2, if_pos rfl, reg, if_neg Bool.false_ne_true, if_neg (ne (by rw [Regs.find_cmdSqTail]; rfl)), if_neg (ne Regs.find_cmdCqHead),
      if_neg (ne (by rw [Regs.find_cmdIrqMask]; rfl)), hd, if_pos Option.isNone_none]
  exact congrArg (fun h : Hive => (.next { s with hive := h } : Host.Outcome State Fault Refusal)) same

/-! ## Registers and windows with a command of their own -/

/-- Clearing HIVE.WR_REFUSE (R7, R11). -/
theorem exec_wrRefuseClear {w : RegWrite} (s : State) (g : goodWrite w R.wrRefuse false = true) :
    Completes (.wrRefuseClear w) s (fun h' => LogOnly s.hive h' ∧
      h'.rd R.wrRefuse = (if s.hive.w1cTakes F.wrRefuse_valid w.value.toNat then 0 else s.hive.rd R.wrRefuse)) := by
  refine Completes.upd (fun h => h.hostWrite w noChk Hive.wrRefuseApp) rfl ?_
  obtain ⟨_, full, key, _⟩ := goodWrite_spec g (by decide)
  rw [Hive.hostWrite_ok s.hive w noChk Hive.wrRefuseApp full (by rw [key]; exact Regs.find_wrRefuse) rfl rfl rfl,
    Hive.jWrite_refuse]
  unfold Hive.wrRefuseApp
  refine ⟨Only.trans (Only.ite (LogOnly.wr s.hive 0 (by decide)) (Only.refl ..)) (Hive.jWrite_log ..), ?_⟩
  split
  · exact Hive.rd_wr_same ..
  · rfl

theorem bitOf_eq_testBit (v i : Nat) : bitOf v i = v.testBit i := Nat.testBit_eq_decide_div_mod_eq.symm

/-- RTE.STORE_WIN holds the bit written. -/
theorem Hive.applyTypes_storeWin (h : Hive) (v : Word) :
    (h.applyTypes R.storeWin v.toNat).flag F.storeWin_rd_en = bitOf v.toNat 0 := by
  have bit : ∀ x : Word, decide (bitsOf x.toNat 0 1 = 1) = x.getLsbD 0 := fun x => bitOf_eq_testBit x.toNat 0
  unfold Hive.flag Hive.get
  rw [show F.storeWin_rd_en.a = R.storeWin from rfl, Hive.applyTypes_rd h Regs.find_storeWin v]
  refine (bit _).trans (Eq.trans ?_ (bitOf_eq_testBit v.toNat 0).symm)
  show (applyMasks _ _ _ v).getLsbD 0 = v.getLsbD 0
  simp [applyMasks]

/-- Opening a store window where the image does not permit store reads is turned away (R50). -/
theorem Hive.wStoreWin_refused (h : Hive) {w : RegWrite} (g : goodWrite w R.storeWin false = true)
    (on : bitOf w.value.toNat 0 = true) (no : h.storeReads = false) : h.wStoreWin w = h.wRefused w stNotAuth := by
  have bad : (if bitOf w.value.toNat 0 && !h.storeReads then stNotAuth else stOk) = stNotAuth := if_pos (by rw [on, no]; rfl)
  refine (Hive.hostWrite_turned h (fun h v => if bitOf v 0 && !h.storeReads then stNotAuth else stOk)
    (Hive.applyTypes R.storeWin) g (by decide) Regs.find_storeWin rfl (by rw [bad]; decide)).trans ?_
  rw [bad]

theorem exec_storeWinWrite {w : RegWrite} (s : State) (g : goodWrite w R.storeWin false = true) :
    (bitOf w.value.toNat 0 = false ∨ s.hive.storeReads = true → Completes (.storeWinWrite w) s (fun h' =>
      h'.flag F.storeWin_rd_en = bitOf w.value.toNat 0 ∧ Kept (fun a => logReg a || a == R.storeWin) s.hive h')) ∧
    (bitOf w.value.toNat 0 = true → s.hive.storeReads = false → TurnedAway (.storeWinWrite w) s stNotAuth) := by
  constructor
  · intro may
    refine Completes.upd (fun h => h.wStoreWin w) rfl ?_
    have log := Hive.hostWrite_good s.hive (fun h v => if bitOf v 0 && !h.storeReads then stNotAuth else stOk)
      (Hive.applyTypes R.storeWin) g (by decide) Regs.find_storeWin rfl (if_neg (by
        rcases may with off | on
        · rw [off]; exact Bool.false_ne_true
        · rw [on, Bool.not_true, Bool.and_false]; exact Bool.false_ne_true))
    exact ⟨(Hive.flag_congr (log.regs R.storeWin (by decide))).trans (Hive.applyTypes_storeWin s.hive w.value), Hive.applyTypes_kept log⟩
  · intro on no
    refine Completes.upd (fun h => h.wStoreWin w) rfl ?_
    rw [Hive.wStoreWin_refused s.hive g on no]
    exact Hive.wRefused_spec s.hive w (by decide)

/-- Settles O7: each access through what its word's register takes, and the raise of R9 keeps the refusal recorded. -/
theorem registerAccess : Obligations.RegisterAccess := by
  unfold Obligations.RegisterAccess
  intro s
  refine ⟨exec_write_append s, ?takes, ?refused, fun w p => exec_registerWrite_bar2 s, fun w => exec_wrRefuseClear s,
    exec_read_append s, fun r a low bar0 => ⟨exec_lowWordRead s low bar0, exec_highWordRead s low bar0⟩, fun w => ?windows⟩
  case takes =>
    intro w p d only bar0 full ro hd hw good special
    refine ⟨exec_registerWrite_plain only bar0 ro special full hd hw good,
      exec_registerWrite_takes only bar0 ro special full hd hw good, ?_⟩
    rintro st rfl bad hs
    exact exec_registerWrite_fails only bar0 ro special full hd hw good bad hs
  case refused =>
    intro w p only bar0 ro special
    refine ⟨fun missing => exec_registerWrite_refused only bar0 ro special (by decide) ?_, fun d full hd =>
      ⟨exec_registerWrite_readOnly only bar0 ro special full hd, exec_registerWrite_complement only bar0 ro special full hd⟩⟩
    rcases missing with part | unimplemented
    · exact Hive.hostWrite_part s.hive p _ _ part
    · exact Hive.hostWrite_unimplemented s.hive _ _ bar0 unimplemented
  case windows =>
    refine ⟨?_, ?_, ?_, ?_, exec_storeWinWrite s, fun off a => Hive.readReg_storeWindow s.hive s.mem off⟩ <;>
      exact TurnedAway.of_wRefused (by decide) rfl

end Sys2Proof.Machine
end

-- ==== Sys2Proof/Proofs/SourceStatus ====
section
/-! What a change of source can do to the rest of the block: the streams' RTE.STATUS words that follow a change of latency (R44,
R55), what decides whether a source is up (R53, R200), and the record of a switch in RTE.SW_LAST (R58). -/

namespace Sys2Proof.Machine

/-- What the bounds of a step do not erase is as before. -/
theorem Only.keeps {p : Hive → Hive} {R : Nat → Bool} {h h' : Hive} {α : Type} (a : Only p R h h') (f : Hive → α)
    (e : ∀ x, f (p x) = f x) : f h' = f h :=
  (e h').symm.trans ((congrArg f a.fields).trans (e h))

/-! ## RTE.STATUS -/

/-- The streams' RTE.STATUS words. -/
def statusReg (a : Nat) : Bool := decide (0x220000 ≤ a) && decide (a < 0x222000)

/-- The block without its registers and the count of free values. -/
def Hive.sansStatus (h : Hive) : Hive := { h with regs := [], free := 0 }

/-- Only RTE.STATUS words were written. -/
abbrev StatusOnly : Hive → Hive → Prop := Only Hive.sansStatus statusReg

theorem statusReg_iff (a : Nat) : statusReg a = true ↔ 0x220000 ≤ a ∧ a < 0x222000 := by
  simp only [statusReg, Bool.and_eq_true, decide_eq_true_eq]

theorem statusReg_rteStatus {n : Nat} (hn : n < 2048) : statusReg (R.rteStatus n) = true :=
  (statusReg_iff _).mpr (by unfold R.rteStatus; omega)

theorem faultReg_of_statusReg {a : Nat} (ha : statusReg a = true) : faultReg a = true :=
  faultReg_rte ((statusReg_iff a).mp ha).1 ((statusReg_iff a).mp ha).2

theorem StatusOnly.fault {h h' : Hive} (a : StatusOnly h h') : FaultOnly h h' :=
  a.mono (fun x y e => (congrArg Hive.sansFault e : x.sansStatus.sansFault = y.sansStatus.sansFault)) (fun x hx => by
    rw [← Bool.not_eq_true] at hx ⊢
    exact fun hs => hx (faultReg_of_statusReg hs))

theorem StatusOnly.set (h : Hive) {f : RF} {n : Nat} (v : Nat) (hn : n < 2048) (hf : f.a = R.rteStatus n) :
    StatusOnly h (h.set f v) :=
  ⟨rfl, fun x hx => Hive.rd_set_ne h v (fun e => by rw [e, hf, statusReg_rteStatus hn] at hx; cases hx)⟩

theorem Hive.standbyEval_status (h : Hive) {n : Nat} (hn : n < 2048) : StatusOnly h (h.standbyEval n) := by
  unfold Hive.standbyEval
  exact StatusOnly.set h _ hn rfl

theorem Hive.setResid_status (h : Hive) {n : Nat} (v : Int) (hn : n < 2048) : StatusOnly h (h.setFit (F.rteStatus_resid n) v) := by
  have put : ∀ (x : Hive) (k : Nat), StatusOnly x (x.set (F.rteStatus_resid n) k) := fun x k => StatusOnly.set x k hn rfl
  have drawn : StatusOnly h h.draw.2 := ⟨rfl, fun _ _ => rfl⟩
  unfold Hive.setFit
  exact Only.ite (put h _) (drawn.trans (put h.draw.2 _))

theorem Hive.residSet_status (h : Hive) (l : List (Nat × Nat)) (hl : ∀ p ∈ l, p.1 < 2048) : StatusOnly h (h.residSet l) :=
  Only.foldl_mem l (fun x p hp => Hive.setResid_status x _ (hl p hp)) h

theorem Hive.latChanged_status (h : Hive) (n : Nat) : StatusOnly h (h.latChanged n) :=
  Only.foldl_mem (f := fun h set => h.residSet set) (h.setsOf n) (fun x l hl => Hive.residSet_status x l (Hive.setsOf_lt hl)) h

/-! ## Fields that a switch of source leaves -/

/-- A field that stands below the residue in its word keeps its value when residues are reported. -/
theorem Hive.latChanged_get (h : Hive) (n : Nat) {g : RF} (hg : g.lo + g.w ≤ 16) : (h.latChanged n).get g = h.get g := by
  have one : ∀ (x : Hive) (m : Nat) (v : Int), (x.setFit (F.rteStatus_resid m) v).get g = x.get g := by
    intro x m v
    have put : ∀ (y : Hive) (k : Nat), (y.set (F.rteStatus_resid m) k).get g = y.get g := fun y k =>
      Hive.get_set_ne y (f := F.rteStatus_resid m) k (by simp only [F.rteStatus_resid]; omega) (.inr (.inl hg))
    unfold Hive.setFit
    split
    · exact put x _
    · exact put x.draw.2 _
  have set : ∀ (l : List (Nat × Nat)) (x y : Hive) (r : Nat × Nat → Int), y.get g = x.get g →
      (l.foldl (fun z p => z.setFit (F.rteStatus_resid p.1) (r p)) y).get g = x.get g := by
    intro l
    induction l with
    | nil => exact fun _ _ _ e => e
    | cons p l ih => exact fun x y r e => ih x _ r ((one y p.1 _).trans e)
  have sets : ∀ (l : List (List (Nat × Nat))) (x : Hive), (l.foldl (fun z s => z.residSet s) x).get g = x.get g := by
    intro l
    induction l with
    | nil => exact fun _ => rfl
    | cons s l ih => exact fun x => (ih _).trans (set s x x _ rfl)
  exact sets (h.setsOf n) h

theorem Hive.standbyEval_get (h : Hive) (n : Nat) {g : RF} (hg : g.a ≠ R.rteStatus n ∨ g.lo + g.w ≤ 6) :
    (h.standbyEval n).get g = h.get g := by
  unfold Hive.standbyEval
  exact Hive.get_setFlag_ne h (f := F.rteStatus_standby_ready n) _ (by simp only [F.rteStatus_standby_ready]; omega)
    (hg.imp id Or.inl)

theorem Hive.dieCauseEnd_rd (h : Hive) (ns : List Nat) {a : Nat} (ha : ∀ n, a ≠ R.smkCause n) : (h.dieCauseEnd ns).rd a = h.rd a := by
  have all : ∀ (l : List Nat) (x : Hive), (l.foldl (fun h n => h.uncause 2 n) x).rd a = x.rd a := by
    intro l
    induction l with
    | nil => exact fun _ => rfl
    | cons n l ih => exact fun x => (ih _).trans (Hive.rd_set_ne (f := F.smkCause_active n) x _ (ha n))
  unfold Hive.dieCauseEnd
  split
  · rfl
  · exact all _ h

/-- A switch of source writes of the fields below the standby's bit only the bit that names the source in force. -/
theorem Hive.switchOver_get (h : Hive) (n : Nat) {g : RF} (ha : ∀ m, g.a ≠ R.smkCause m) (hg : g.lo + g.w ≤ 6) :
    (h.switchOver n).get g = (h.setFlag (F.rteStatus_active n) (!h.flag (F.rteStatus_active n))).get g := by
  unfold Hive.switchOver
  rw [Hive.get_congr (Hive.dieCauseEnd_rd _ _ ha), Hive.latChanged_get _ _ (by omega), Hive.standbyEval_get _ _ (.inr hg)]

theorem rteStatus_ne_smkCause {n : Nat} (hn : n < 2048) (m : Nat) : R.rteStatus n ≠ R.smkCause m := by
  unfold R.rteStatus R.smkCause; omega

/-- The other source is in force after a switch (R56). -/
theorem Hive.switchOver_active (h : Hive) {n : Nat} (hn : n < 2048) :
    (h.switchOver n).flag (F.rteStatus_active n) = !h.flag (F.rteStatus_active n) := by
  have e := Hive.switchOver_get h n (g := F.rteStatus_active n) (rteStatus_ne_smkCause hn) (by simp only [F.rteStatus_active]; omega)
  unfold Hive.flag at e ⊢
  rw [e]
  exact Hive.flag_setFlag_same h (F.rteStatus_active n) _ (by simp only [F.rteStatus_active]; omega) rfl

theorem Hive.switchOver_fault (h : Hive) {n : Nat} (hn : n < 2048) : FaultOnly h (h.switchOver n) := by
  unfold Hive.switchOver
  have active : StatusOnly h (h.setFlag (F.rteStatus_active n) (!h.flag (F.rteStatus_active n))) := StatusOnly.set h _ hn rfl
  exact (StatusOnly.fault ((active.trans (Hive.standbyEval_status _ hn)).trans (Hive.latChanged_status ..))).trans
    (Hive.dieCauseEnd_fault _ _ (fun m hm => by rw [List.mem_singleton.mp hm]; exact hn))

/-! ## RTE.SW_LAST -/

theorem Hive.jPush_rd (h : Hive) (e : JEntry) {a : Nat} (jrn : a ≠ R.queJrnStat) (irq : a ≠ R.cmdIrqStat) (pend : a ≠ 0x10005000) :
    (h.jPush e).rd a = h.rd a := by
  have send : ∀ (x : Hive) (v : Nat), (x.msixSend v).rd a = x.rd a := by
    intro x v
    unfold Hive.msixSend
    exact Hive.rd_ite (Hive.rd_wr_ne x _ pend) rfl
  have cause : ∀ (x : Hive) (v : Nat), (x.setIrq v).rd a = x.rd a := by
    intro x v
    unfold Hive.setIrq
    extract_lets c h1 h2
    have e2 : h2.rd a = x.rd a := Hive.rd_set_ne (f := F.cmdIrqStat_cause) h1 _ irq
    exact Hive.rd_ite rfl (Hive.rd_ite e2 ((send h2 v).trans e2))
  have append : ∀ x : Hive, x.jAppend.rd a = x.rd a := by
    intro x
    unfold Hive.jAppend
    split
    · rfl
    · split
      exact Hive.rd_ite (cause ..) rfl
  unfold Hive.jPush
  exact Hive.rd_ite (x := (h.bump F.queJrnStat_stalls 1).jAppend) (y := h) (c := h.jq.length ≥ 256)
    ((append _).trans (Hive.rd_set_ne h _ jrn)) rfl

theorem Hive.switchDone_rd (h : Hive) (n result : Nat) (auto : Bool) {a : Nat} (last : a ≠ R.swLast) (jrn : a ≠ R.queJrnStat)
    (irq : a ≠ R.cmdIrqStat) (pend : a ≠ 0x10005000) : (h.switchDone n result auto).rd a = h.rd a := by
  unfold Hive.switchDone
  refine (Hive.jPush_rd _ _ jrn irq pend).trans ?_
  rw [Hive.hwSet_rd, Hive.rd_setFlag_ne (f := F.swLast_valid) _ _ last, Hive.rd_setFlag_ne (f := F.swLast_auto) _ _ last,
    Hive.rd_set_ne (f := F.swLast_result) _ _ last, Hive.rd_set_ne (f := F.swLast_stream) _ _ last]

/-- RTE.SW_LAST names the stream and the outcome (R58). -/
theorem Hive.switchDone_spec (h : Hive) {n result : Nat} (auto : Bool) (hn : n < 2048) (hr : result < 8) :
    (h.switchDone n result auto).get F.swLast_stream = n ∧ (h.switchDone n result auto).get F.swLast_result = result ∧
      (h.switchDone n result auto).flag F.swLast_auto = auto ∧ (h.switchDone n result auto).flag F.swLast_valid = true := by
  have word : (h.switchDone n result auto).rd R.swLast =
      ((((h.set F.swLast_stream n).set F.swLast_result result).setFlag F.swLast_auto auto).hwSet F.swLast_valid).rd R.swLast :=
    Hive.jPush_rd _ _ (by decide) (by decide) (by decide)
  refine ⟨(Hive.get_congr word).trans ?stream, (Hive.get_congr word).trans ?result, (Hive.flag_congr word).trans ?auto,
    (Hive.flag_congr word).trans ?valid⟩
  case stream =>
    rw [Hive.hwSet_get, Hive.get_setFlag_ne _ _ (by decide) (by decide), Hive.get_setFlag_ne _ _ (by decide) (by decide),
      Hive.get_set_ne _ _ (by decide) (by decide), Hive.get_set_same _ _ _ (by decide)]
    exact Nat.mod_eq_of_lt hn
  case result =>
    rw [Hive.hwSet_get, Hive.get_setFlag_ne _ _ (by decide) (by decide), Hive.get_setFlag_ne _ _ (by decide) (by decide),
      Hive.get_set_same _ _ _ (by decide)]
    exact Nat.mod_eq_of_lt hr
  case auto =>
    rw [Hive.hwSet_flag, Hive.flag_setFlag_ne _ _ (by decide) (by decide)]
    exact Hive.flag_setFlag_same _ _ _ (by decide) rfl
  case valid =>
    rw [Hive.hwSet_flag]
    exact Hive.flag_setFlag_same _ _ _ (by decide) rfl

/-! ## Sources that are up -/

theorem routeReg_iff (a : Nat) : routeReg a = true ↔ faultReg a = true ∨ a = R.swLast := by
  simp only [routeReg, Bool.or_eq_true, beq_iff_eq]

/-- A sieve bank's state lies outside the routing status. -/
theorem routeReg_sivStat {b : Nat} (hb : b < 4096) : routeReg (R.sivStat b) = false := by
  rw [← Bool.not_eq_true, routeReg_iff, faultReg_iff]
  simp only [logReg, Bool.or_eq_true, Bool.and_eq_true, decide_eq_true_eq, beq_iff_eq]
  unfold R.sivStat R.swLast R.fltLost R.evrStat R.queInteg R.wrRefuse R.queJrnStat R.smbMbStat R.cmdSqHead R.cmdIrqStat
  omega

section
variable {h h' : Hive} (r : RouteOnly h h') (up : h'.laneUp = h.laneUp)
include r

theorem Hive.onFaulted_congr (w : Nat) : h'.onFaulted w = h.onFaulted w := by
  have links : h'.links = h.links := r.keeps Hive.links (fun _ => rfl)
  have die : h'.rd R.dieState = h.rd R.dieState := r.regs _ (by decide)
  unfold Hive.onFaulted Hive.endDie Hive.linkDie
  rw [links, die]

theorem Hive.linkHas_congr (k ch : Nat) : h'.linkHas k ch = h.linkHas k ch := by
  have links : h'.links = h.links := r.keeps Hive.links (fun _ => rfl)
  have maps : h'.maps = h.maps := r.keeps Hive.maps (fun _ => rfl)
  have fallbacks : h'.fallbacks = h.fallbacks := r.keeps Hive.fallbacks (fun _ => rfl)
  have fellBack : h'.fellBack = h.fellBack := r.keeps Hive.fellBack (fun _ => rfl)
  unfold Hive.linkHas Hive.linkLanes
  rw [links, maps, fallbacks, fellBack]

include up

theorem Hive.laneWorks_congr (l : Nat) : h'.laneWorks l = h.laneWorks l := by
  have convs : h'.convs = h.convs := r.keeps Hive.convs (fun _ => rfl)
  have carry : h'.carry = h.carry := r.keeps Hive.carry (fun _ => rfl)
  have spares : h'.spares = h.spares := r.keeps Hive.spares (fun _ => rfl)
  unfold Hive.laneWorks Hive.convOf Hive.laneCarried Hive.carrier Hive.spareOf
  rw [convs, carry, spares, up]

theorem Hive.linkCarried_congr (k : Nat) : h'.linkCarried k = h.linkCarried k := by
  have links : h'.links = h.links := r.keeps Hive.links (fun _ => rfl)
  have spares : h'.spares = h.spares := r.keeps Hive.spares (fun _ => rfl)
  have fallbacks : h'.fallbacks = h.fallbacks := r.keeps Hive.fallbacks (fun _ => rfl)
  have fellBack : h'.fellBack = h.fellBack := r.keeps Hive.fellBack (fun _ => rfl)
  unfold Hive.linkCarried Hive.linkUp Hive.linkLost Hive.canFallBack Hive.linkLanes Hive.spareOf
  rw [links, spares, fallbacks, fellBack, up]

/-- A source is up exactly as before, where the lanes that are UP are the same and only routing status has changed. -/
theorem Hive.srcUp_congr (w : Nat) : h'.srcUp w = h.srcUp w := by
  have eth : h'.eth = h.eth := r.keeps Hive.eth (fun _ => rfl)
  have bank : h'.get (F.sivStat_state (srcB w)) = h.get (F.sivStat_state (srcB w)) :=
    r.get _ (routeReg_sivStat (bitsOf_lt w 12 12))
  unfold Hive.srcUp Hive.ethGet
  rw [Hive.onFaulted_congr r, Hive.laneWorks_congr r up, Hive.linkCarried_congr r up, Hive.linkHas_congr r, eth, bank]

end

/-- A lane is UP as before, where its state reads as before. -/
theorem Hive.laneUp_congr {h h' : Hive} {l : Nat} (e : h'.get (F.laneStat_state l) = h.get (F.laneStat_state l)) :
    h'.laneUp l = h.laneUp l := by
  unfold Hive.laneUp
  rw [e]

theorem laneStat_ne_smkCause (l m : Nat) : R.laneStat l ≠ R.smkCause m := by unfold R.laneStat R.smkCause; omega

theorem Hive.switchOver_laneUp (h : Hive) (n l : Nat) : (h.switchOver n).laneUp l = h.laneUp l := by
  refine Hive.laneUp_congr ((Hive.switchOver_get h n (laneStat_ne_smkCause l) (by simp only [F.laneStat_state]; omega)).trans ?_)
  exact Hive.get_setFlag_ne h (f := F.rteStatus_active n) _ (by simp only [F.rteStatus_active]; omega)
    (.inr (.inl (by simp only [F.laneStat_state, F.rteStatus_active]; omega)))

theorem Hive.standbyEval_laneUp (h : Hive) (n l : Nat) : (h.standbyEval n).laneUp l = h.laneUp l :=
  Hive.laneUp_congr (Hive.standbyEval_get h n (.inr (by simp only [F.laneStat_state]; omega)))

theorem Hive.switchDone_laneUp (h : Hive) (n result : Nat) (auto : Bool) (l : Nat) :
    (h.switchDone n result auto).laneUp l = h.laneUp l := by
  refine Hive.laneUp_congr (Hive.get_congr (Hive.switchDone_rd h n result auto ?_ ?_ ?_ ?_)) <;>
    simp only [F.laneStat_state, R.laneStat, R.swLast, R.queJrnStat, R.cmdIrqStat] <;> omega

end Sys2Proof.Machine
end

-- ==== Sys2Proof/Proofs/SourceSwitching ====
section
/-! Delay steps (R46, R54) and scheduled switches of source (R55 to R58). -/

namespace Sys2Proof.Machine

/-! ## Delay steps -/

theorem towards_same (x : Nat) : towards x x = x := by
  unfold towards
  rw [if_neg (Nat.lt_irrefl x), if_neg (Nat.lt_irrefl x)]

theorem towards_lt {x want b : Nat} (hx : x < b) (hw : want < b) : towards x want < b := by
  unfold towards
  split
  · omega
  · split <;> omega

/-- A store delay that equalisation maintains is the one that the stream's state holds. -/
theorem Hive.delayNow_sset (h : Hive) (n d : Nat) (st : StreamSt) (auto : h.flag (F.steDelay_eq_auto n) = true)
    (hd : st.dNow = some d) : (h.sset n st).delayNow n = d := by
  unfold Hive.delayNow
  dsimp only
  rw [Hive.sget_sset, if_pos rfl, if_pos (show (h.sset n st).flag (F.steDelay_eq_auto n) = true from auto), hd]
  rfl

/-- A move of the store delay that is due goes one sample towards the delay that is wanted (R46). -/
theorem exec_eqDelayStep (s : State) (n : StreamId) (auto : s.hive.flag (F.steDelay_eq_auto n.val) = true)
    (asked : 2 ≤ (s.hive.sget n.val).eqDiff)
    (time : (s.hive.sget n.val).eqAt = 0 ∨ (s.hive.sget n.val).eqAt + s.hive.eqTicks ≤ s.hive.ticks) :
    Completes (.eqDelayStep n) s (fun h' =>
      h'.delayNow n.val = towards (s.hive.delayNow n.val) (s.hive.sget n.val).eqWant ∧ h'.regs = s.hive.regs) := by
  refine Completes.upd (fun h => h.eqStep n.val) rfl ?_
  unfold Hive.eqStep
  by_cases same : s.hive.delayNow n.val = (s.hive.sget n.val).eqWant
  · rw [if_neg (by simp [same]), ← same, towards_same]
    exact ⟨rfl, rfl⟩
  · rw [if_pos (by simpa [auto, asked, same] using time)]
    exact ⟨Hive.delayNow_sset _ _ _ _ auto rfl, rfl⟩

/-- A store delay that is not maintained, or stands at its target, stays. -/
theorem exec_eqDelayStep_idle (s : State) (n : StreamId)
    (idle : s.hive.flag (F.steDelay_eq_auto n.val) = false ∨ s.hive.delayNow n.val = (s.hive.sget n.val).eqWant) :
    exec (.eqDelayStep n) s = .next s := by
  have same : s.hive.eqStep n.val = s.hive := if_neg (by rcases idle with off | at' <;> simp [*])
  exact congrArg (fun h : Hive => (.next { s with hive := h } : Host.Outcome State Fault Refusal)) same

/-- The field of RTE's ingress delay of the source or of the alternate. -/
abbrev inDly (n : Nat) (alt : Bool) : RF := if alt then F.steInDly_in_alt n else F.steInDly_in_pri n

theorem inDly_bounds (n : Nat) (alt : Bool) : (inDly n alt).a = R.steInDly n ∧ (inDly n alt).w = 12 ∧ (inDly n alt).lo + 12 ≤ 32 := by
  cases alt <;> exact ⟨rfl, rfl, Nat.le_of_ble_eq_true rfl⟩

/-- A move of an ingress delay that is due goes one sample towards its target, which in_max bounds (R54). -/
theorem exec_ingressDelayStep (s : State) (n : StreamId) (alt : Bool) {want : Nat}
    (hw : want = min (if alt then (s.hive.sget n.val).inWant.2 else (s.hive.sget n.val).inWant.1)
      (s.hive.get (F.steInMax_in_max n.val)))
    (asked : 2 ≤ (s.hive.sget n.val).inDiff)
    (time : (s.hive.sget n.val).inAt = 0 ∨ (s.hive.sget n.val).inAt + s.hive.eqTicks ≤ s.hive.ticks) :
    Completes (.ingressDelayStep n alt) s (fun h' =>
      h'.get (inDly n.val alt) = towards (s.hive.get (inDly n.val alt)) want ∧
      Kept (fun a => (decide (0x220000 ≤ a) && decide (a < 0x222000)) || a == R.steInDly n.val) s.hive h') := by
  refine Completes.upd (fun h => h.inStep n.val alt) rfl ?_
  obtain ⟨reg, width, low⟩ := inDly_bounds n.val alt
  have cur : s.hive.get (inDly n.val alt) < 2 ^ 12 := by
    have lt := Hive.get_lt s.hive (inDly n.val alt)
    rwa [width] at lt
  have top : want < 2 ^ 12 := by
    rw [hw]
    exact Nat.lt_of_le_of_lt (Nat.min_le_right ..) (Hive.get_lt s.hive (F.steInMax_in_max n.val))
  have outside : statusReg (inDly n.val alt).a = false := by
    rw [← Bool.not_eq_true, statusReg_iff, reg]
    have := n.isLt
    unfold R.steInDly
    omega
  unfold Hive.inStep
  dsimp only
  rw [← hw]
  by_cases same : s.hive.get (inDly n.val alt) = want
  · rw [if_neg (by simp [same]), same, towards_same]
    exact ⟨rfl, fun _ _ => rfl⟩
  · rw [if_pos (by simpa [asked, same] using time)]
    have status : ∀ x : Hive, StatusOnly x ((x.standbyEval n.val).latChanged n.val) := fun x =>
      (Hive.standbyEval_status x n.isLt).trans (Hive.latChanged_status _ n.val)
    refine ⟨((status _).get _ outside).trans ((Hive.get_set_same _ (inDly n.val alt) _ (by rw [width]; exact low)).trans ?_), fun a ha => ?_⟩
    · rw [width]
      exact Nat.mod_eq_of_lt (towards_lt cur top)
    · obtain ⟨hs, hd⟩ := Bool.or_eq_false_iff.mp ha
      exact ((status _).regs a hs).trans (Hive.rd_set_ne _ _ (by rw [reg]; exact beq_eq_false_iff_ne.mp hd))

/-! ## Scheduling a switch -/

theorem land_eq_zero_of_lt {n : Nat} (hn : n < 2 ^ 11) : Nat.land n (2 ^ 32 - 1 - 0x7FF) = 0 := by
  have high : ∀ i < 11, Nat.testBit (2 ^ 32 - 1 - 0x7FF) i = false := by decide
  refine Nat.eq_of_testBit_eq (fun i => ?_)
  show Nat.testBit (n &&& (2 ^ 32 - 1 - 0x7FF)) i = Nat.testBit 0 i
  rw [Nat.testBit_and, Nat.zero_testBit]
  rcases Nat.lt_or_ge i 11 with low | up
  · rw [high i low, Bool.and_false]
  · rw [Nat.testBit_lt_two_pow (Nat.lt_of_lt_of_le hn (Nat.pow_le_pow_right (by decide) up)), Bool.false_and]

/-- A good entry that names a stream and takes T passes every check of its form: its status is that of the command's own check. -/
theorem Hive.cmdStatus_timedStream (h : Hive) {c : CmdEntry} {op n chk : Nat} {group : CmdGroup} (hn : n < 2048)
    (g : goodEntry c op true n 0 0 = true) (adm : admits h.mode group = true) :
    h.cmdStatus c ⟨op, 0x7FF, 0, 0, .required, group⟩ true chk = chk := by
  simp only [goodEntry, Bool.and_eq_true, Bool.or_eq_true, Bool.not_eq_true', beq_iff_eq, decide_eq_true_eq] at g
  obtain ⟨⟨⟨⟨⟨⟨via, resv⟩, timed⟩, _⟩, a0⟩, a1⟩, a2⟩ := g
  have form : cmdReserved c 0x7FF 0 0 = false := by
    unfold cmdReserved
    rw [resv, timed, a0, a1, a2, land_eq_zero_of_lt hn]
    rfl
  unfold Hive.cmdStatus
  dsimp only
  rw [form, timed, adm]
  cases hv : c.via with
  | queue => simp
  | mailbox j =>
    have low : op < 0x11 := via.resolve_left (fun e => by rw [hv] at e; cases e)
    simp [Nat.not_le.mpr low]

theorem goodEntry_stream {c : CmdEntry} {op n : Nat} {timed : Bool} (hn : n < 2048) (g : goodEntry c op timed n 0 0 = true) :
    argBits c.a0 0 11 = n := by
  simp only [goodEntry, Bool.and_eq_true, beq_iff_eq] at g
  obtain ⟨⟨⟨_, a0⟩, _⟩, _⟩ := g
  unfold argBits bitsOf
  rw [a0, Nat.pow_zero, Nat.div_one]
  exact Nat.mod_eq_of_lt hn

/-! ## The record of a switch -/

/-- Registers of bookkeeping, and RTE.SW_LAST (R58). -/
def switchReg (a : Nat) : Bool := logReg a || a == R.swLast

/-- Only bookkeeping and the record of a switch happened. -/
abbrev RecordOnly : Hive → Hive → Prop := Only Hive.sansLog switchReg

theorem LogOnly.recorded {h h' : Hive} (a : LogOnly h h') : RecordOnly h h' :=
  a.mono (fun _ _ e => e) (fun _ hx => (Bool.or_eq_false_iff.mp hx).1)

theorem Hive.switchDone_recorded (h : Hive) (n result : Nat) (auto : Bool) : RecordOnly h (h.switchDone n result auto) := by
  have field : ∀ (x : Hive) (f : RF) (v : Nat), f.a = R.swLast → RecordOnly x (x.set f v) := fun x f v e =>
    ⟨rfl, fun a ha => Hive.rd_set_ne x v (by rw [e]; exact beq_eq_false_iff_ne.mp (Bool.or_eq_false_iff.mp ha).2)⟩
  have fields : RecordOnly h (((h.set F.swLast_stream n).set F.swLast_result result).setFlag F.swLast_auto auto) :=
    ((field h F.swLast_stream _ rfl).trans (field _ F.swLast_result _ rfl)).trans (field _ F.swLast_auto _ rfl)
  have valid : ∀ x : Hive, RecordOnly x (x.hwSet F.swLast_valid) := fun x =>
    (field x F.swLast_valid _ rfl).trans (Hive.markEdge_log ..).recorded
  exact (fields.trans (valid _)).trans (Hive.jEvent_log ..).recorded

/-- The scheduled operations but the switches of a stream. -/
def schedBut (n : Nat) (l : List SchedOp) : List SchedOp := l.filter (fun o => o.kind != .streamSwitch n)

/-- Operations without a switch of the stream lose nothing. -/
theorem schedBut_of_none {n : Nat} {l : List SchedOp} (absent : ¬ l.any (fun o => o.kind == .streamSwitch n) = true) : schedBut n l = l :=
  List.filter_eq_self.mpr (fun o ho => bne_iff_ne.mpr (fun e => absent (List.any_eq_true.mpr ⟨o, ho, beq_iff_eq.mpr e⟩)))

theorem schedBut_idem (n : Nat) (l : List SchedOp) : schedBut n (schedBut n l) = schedBut n l := by
  simp only [schedBut, List.filter_filter, Bool.and_self]

/-- Superseding takes the stream's pending switches away, and touches no register but those of its record (R57). -/
theorem Hive.switchSupersede_spec (h : Hive) (n : Nat) :
    (h.switchSupersede n).sched = schedBut n h.sched ∧ Kept switchReg h (h.switchSupersede n) := by
  unfold Hive.switchSupersede
  split
  · have done := Hive.switchDone_recorded ({ h with sched := schedBut n h.sched } : Hive) n 3 false
    exact ⟨done.keeps Hive.sched (fun _ => rfl), done.regs⟩
  · next absent => exact ⟨(schedBut_of_none absent).symm, fun _ _ => rfl⟩

/-! ## SWITCH -/

/-- The form of SWITCH (R385). -/
def switchForm : CmdForm := ⟨0x06, 0x7FF, 0, 0, .required, .timed⟩

/-- The own check of SWITCH: a stream with a standby that is ready, and place for the operation (R56, R249). -/
def Hive.switchChk (h : Hive) (n : Nat) : Nat :=
  if !h.isStream n || !h.flag (F.rteStatus_standby_ready n) then stWrong
  else if h.sched.any (fun o => o.kind == .streamSwitch n) && h.schedStatus == stNoRes then stOk else h.schedStatus

/-- The switch is scheduled in place of an earlier one. -/
def switchAct (c : CmdEntry) (n : Nat) (h : Hive) (_ : CmdTok) : Hive × Option Nat :=
  ((h.switchSupersede n).schedule c.t.toNat (.streamSwitch n), some 0)

theorem exec_switch_eq (c : CmdEntry) (s : State) : exec (.switch c) s = s.upd (fun h =>
    (h.countRefused (h.cmdStatus c switchForm (h.leadOk c.t.toNat false) (h.switchChk (argBits c.a0 0 11)))).command c switchForm
      (h.leadOk c.t.toNat false) (h.switchChk (argBits c.a0 0 11)) (switchAct c (argBits c.a0 0 11))) := rfl

theorem Hive.countRefused_of_ne {h : Hive} {st : Nat} (e : st ≠ stNoRes) : h.countRefused st = h := if_neg e

theorem Hive.take_mode (h : Hive) (c : CmdEntry) : (h.take c).mode = h.mode := (Hive.take_log h c).keeps Hive.mode (fun _ => rfl)

section
variable (s : State) {c : CmdEntry} (n : StreamId) (g : goodEntry c 0x06 true n.val 0 0 = true)
  (adm : admits s.hive.mode .timed = true) (lead : s.hive.leadOk c.t.toNat false = true)
include g adm lead

/-- A good SWITCH that is in time is settled by its own check. -/
theorem exec_switch {P : Hive → Prop} (full : s.hive.switchChk n.val ≠ stNoRes)
    (p : (s.hive.take c).cmdStatus c switchForm true (s.hive.switchChk n.val) = s.hive.switchChk n.val →
      P (s.hive.command c switchForm true (s.hive.switchChk n.val) (switchAct c n.val))) : Completes (.switch c) s P := by
  refine Completes.upd _ (exec_switch_eq c s) ?_
  rw [goodEntry_stream n.isLt g, lead]
  have status : ∀ h : Hive, h.mode = s.hive.mode →
      h.cmdStatus c switchForm true (s.hive.switchChk n.val) = s.hive.switchChk n.val := fun h e =>
    Hive.cmdStatus_timedStream h n.isLt g (by rw [e]; exact adm)
  rw [status s.hive rfl, Hive.countRefused_of_ne full]
  exact p (status _ (Hive.take_mode ..))

/-- A SWITCH that is accepted replaces the stream's pending switch by one at its T (R56, R57). -/
theorem exec_switch_scheduled (ok : s.hive.switchChk n.val = stOk) : Completes (.switch c) s (fun h' =>
    h'.sched = schedBut n.val s.hive.sched ++ [⟨c.t.toNat, .streamSwitch n.val⟩] ∧ Kept switchReg s.hive h') := by
  refine exec_switch s n g adm lead (by rw [ok]; decide) (fun status => ?_)
  obtain ⟨h₁, k, before, _, done⟩ := Hive.command_ok s.hive c switchForm true _ (switchAct c n.val) (status.trans ok)
  obtain ⟨left, kept⟩ := Hive.switchSupersede_spec h₁ n.val
  have sched : h₁.sched = s.hive.sched := before.keeps Hive.sched (fun _ => rfl)
  refine ⟨(done.keeps Hive.sched (fun _ => rfl)).trans ?_, fun a ha => ?_⟩
  · rw [← sched, ← left]
    rfl
  · exact (done.recorded.regs a ha).trans ((kept a ha).trans (before.recorded.regs a ha))

/-- On a stream whose standby is not ready only bookkeeping happens. -/
theorem exec_switch_refused (notReady : s.hive.flag (F.rteStatus_standby_ready n.val) = false) :
    Completes (.switch c) s (LogOnly s.hive) := by
  have wrong : s.hive.switchChk n.val = stWrong := if_pos (by rw [notReady, Bool.not_false, Bool.or_true])
  refine exec_switch s n g adm lead (by rw [wrong]; decide) (fun status => ?_)
  exact Hive.command_refused s.hive c switchForm true _ _ (by rw [status, wrong]; decide)

end

theorem Hive.switchChk_ok (h : Hive) {n : Nat} (stream : h.isStream n = true)
    (ready : h.flag (F.rteStatus_standby_ready n) = true) (load : h.flag F.timStat_load_pend = false) (room : h.sched.length < 256) :
    h.switchChk n = stOk := by
  have free : h.schedStatus = stOk := by
    unfold Hive.schedStatus Hive.schedFull
    rw [load, decide_eq_false (Nat.not_le.mpr room)]
    rfl
  unfold Hive.switchChk
  rw [stream, ready, free]
  exact ite_self _

/-! ## SWITCH_AT_T -/

theorem Hive.switchReason_lt (h : Hive) (n : Nat) : h.switchReason n < 8 := by
  unfold Hive.switchReason
  split <;> decide

theorem Hive.bypassTake_fault (h : Hive) {n : Nat} (hn : n < 2048) : FaultOnly h (h.bypassTake n) := by
  unfold Hive.bypassTake
  extract_lets t more top st want h1 h2
  have e1 : FaultOnly h h1 := FaultOnly.sset h n _
  have e2 : FaultOnly h1 h2 := Only.ite (FaultOnly.set h1 _ (faultReg_rteStatus hn)) (Only.refl ..)
  exact Only.ite (Only.refl ..) ((e1.trans e2).trans (Hive.latChanged_status ..).fault)

theorem Hive.fmapMute_fault (h : Hive) {n : Nat} (c : Nat) (hn : n < 2048) : FaultOnly h (h.fmapMute n c) :=
  (FaultOnly.sset h n _).trans (Hive.trigger_fault _ 7 false hn)

theorem Hive.sitOff_fault (h : Hive) (c : Nat) {n : Nat} (hn : n < 2048) : FaultOnly h (h.sitOff c n) := by
  unfold Hive.sitOff
  extract_lets st st2 h1
  have e1 : FaultOnly h h1 := FaultOnly.sset h n _
  exact Only.ite (e1.trans (Hive.uncause_fault h1 7 hn)) e1

/-- The operations `l` are what is scheduled, no switch of stream `n` among them, and RTE.SW_LAST names the stream. -/
structure Reported (n : Nat) (l : List SchedOp) (h : Hive) : Prop where
  sched : h.sched = l
  absent : schedBut n l = l
  stream : h.get F.swLast_stream = n
  valid : h.flag F.swLast_valid = true

section
variable {n : Nat} {l : List SchedOp} {h h' : Hive}

theorem Reported.of_keeps (r : Reported n l h) (sched : h'.sched = h.sched) (last : h'.rd R.swLast = h.rd R.swLast) : Reported n l h' :=
  ⟨sched.trans r.sched, r.absent, (Hive.get_congr last).trans r.stream, (Hive.flag_congr last).trans r.valid⟩

theorem Reported.fault (r : Reported n l h) (f : FaultOnly h h') : Reported n l h' :=
  r.of_keeps (f.keeps Hive.sched (fun _ => rfl)) (f.regs _ (by decide))

theorem Reported.status (r : Reported n l h) (f : StatusOnly h h') : Reported n l h' := r.fault f.fault

theorem Reported.ite {c : Prop} [Decidable c] {x y : Hive} (a : Reported n l x) (b : Reported n l y) :
    Reported n l (if c then x else y) := by split <;> assumption

theorem Reported.raise (r : Reported n l h) (cls cause source level arg : Nat) : Reported n l (h.raise cls cause source level arg) :=
  r.fault (Hive.raise_fault ..)

/-- With no switch pending there is nothing to supersede. -/
theorem Reported.switchSupersede (r : Reported n l h) : Reported n l (h.switchSupersede n) := by
  have absent : ¬ h.sched.any (fun o => o.kind == .streamSwitch n) = true := by
    rw [r.sched, ← r.absent]
    simp [schedBut]
  unfold Hive.switchSupersede
  rw [if_neg absent]
  exact r

variable (hn : n < 2048)
include hn

/-- A switch reported for the stream. -/
theorem Hive.switchDone_reported {result : Nat} (auto : Bool) (hs : h.sched = l) (hl : schedBut n l = l) (hr : result < 8) :
    Reported n l (h.switchDone n result auto) := by
  obtain ⟨stream, _, _, valid⟩ := Hive.switchDone_spec h auto hn hr
  exact ⟨((Hive.switchDone_recorded h n result auto).keeps Hive.sched (fun _ => rfl)).trans hs, hl, stream, valid⟩

theorem Reported.switchDone (r : Reported n l h) {result : Nat} (auto : Bool) (hr : result < 8) :
    Reported n l (h.switchDone n result auto) := Hive.switchDone_reported hn auto r.sched r.absent hr

/-- What the fault map does for the stream keeps its switch reported. -/
theorem Reported.fmapTake (r : Reported n l h) (c : Nat) : Reported n l (h.fmapTake c n) := by
  have rt : ∀ {x : Hive} (lvl : Nat), Reported n l x → Reported n l (x.raise 0x02 (3 + c) (srcNoStream n) lvl n) := fun _ a => a.raise ..
  unfold Hive.fmapTake
  dsimp only
  split
  · exact rt _ (r.fault (Hive.bypassTake_fault h hn))
  · refine Reported.ite (rt _ ?switched) (rt _ ?muted)
    case switched => exact ((r.fault (Hive.switchOver_fault h hn)).switchDone hn _ (by decide)).switchSupersede
    case muted =>
      exact ((r.switchDone hn true (Hive.switchReason_lt h n)).switchSupersede).fault (Hive.fmapMute_fault _ c hn)
  · exact Reported.ite (rt _ (r.of_keeps rfl rfl)) (rt _ r)
  · exact rt _ r
  · exact rt _ ((r.fault (FaultOnly.sset h n _)).fault
      (Hive.triggerAll_fault _ 6 false _ (fun m hm => Hive.tenantStreams_lt hm)))
  · exact rt _ (r.fault (Hive.fmapMute_fault h c hn))

theorem Reported.sitOn (r : Reported n l h) (c : Nat) : Reported n l (h.sitOn c n) := by
  have run : ∀ {x : Hive}, Reported n l x → Reported n l (x.fmapRun c n) := by
    intro x a
    unfold Hive.fmapRun
    exact Reported.ite (((a.fmapTake hn c).fault (FaultOnly.sset ..)).fmapTake hn 5) (a.fmapTake hn c)
  have noted : ∀ st : StreamSt, Reported n l (h.sset n st) := fun st => r.fault (FaultOnly.sset h n st)
  unfold Hive.sitOn
  exact Reported.ite r (Reported.ite (run (noted _)) (noted _))

/-- The sources looked at again after a switch keep it reported. -/
theorem Reported.srcEval (r : Reported n l h) : Reported n l (h.srcEval n) := by
  unfold Hive.srcEval
  extract_lets h1 h2
  have r1 : Reported n l h1 := r.status (Hive.standbyEval_status h hn)
  have r2 : Reported n l h2 := r1.sitOn hn 0
  have off : ∀ {x : Hive}, Reported n l x → Reported n l (x.sitOff 0 n) := fun a => a.fault (Hive.sitOff_fault _ 0 hn)
  exact Reported.ite r1 (Reported.ite (Reported.ite (off r1) r1) (Reported.ite (off r2) r2))

end

/-- A switch that is due is taken off the table and reported (R56, R58). -/
theorem Hive.switchAt_reported (h : Hive) {n : Nat} (hn : n < 2048) : Reported n (schedBut n h.sched) (h.switchAt n) := by
  have absent := schedBut_idem n h.sched
  unfold Hive.switchAt
  extract_lets h1
  have sched : h1.sched = schedBut n h.sched := rfl
  refine Reported.ite ?_ (Reported.ite ?_ ?_)
  · exact Hive.switchDone_reported hn false sched absent (by decide)
  · have after : (h1.switchOver n).sched = schedBut n h.sched := ((Hive.switchOver_fault h1 hn).keeps Hive.sched (fun _ => rfl)).trans sched
    exact (Hive.switchDone_reported hn false after absent (by decide)).srcEval hn
  · exact Hive.switchDone_reported hn false sched absent (Hive.switchReason_lt h1 n)

theorem Hive.switchAt_route (h : Hive) {n : Nat} (hn : n < 2048) : RouteOnly h (h.switchAt n) := by
  unfold Hive.switchAt
  extract_lets h1
  have e1 : RouteOnly h h1 := RouteOnly.schedSet h _
  exact Only.ite (e1.trans (Hive.switchDone_route ..)) (Only.ite (((e1.trans (Hive.switchOver_route h1 hn)).trans
    (Hive.switchDone_route ..)).trans (Hive.srcEval_route _ hn)) (e1.trans (Hive.switchDone_route ..)))

/-- While the source in force is up, looking at the sources again leaves every register but those of SMK.CAUSE and the standby's bit. -/
theorem Hive.srcEval_get (h : Hive) {n : Nat} (up : (h.standbyEval n).srcUp ((h.standbyEval n).srcNow n) = true) {g : RF}
    (ha : g.a ≠ R.smkCause n) (hg : g.a ≠ R.rteStatus n ∨ g.lo + g.w ≤ 6) : (h.srcEval n).get g = h.get g := by
  have off : ∀ x : Hive, (x.sitOff 0 n).get g = x.get g := by
    intro x
    unfold Hive.sitOff
    dsimp only
    split
    · exact Hive.get_set_other (f := F.smkCause_active n) _ _ ha
    · rfl
  unfold Hive.srcEval
  dsimp only
  rw [if_pos up]
  refine Eq.trans ?_ (Hive.standbyEval_get h n hg)
  split
  · rfl
  · split
    · exact off _
    · rfl

/-- The stream table lies outside the routing status. -/
theorem routeReg_ste {a : Nat} (h1 : 0x200000 ≤ a) (h2 : a < 0x220000) : routeReg a = false := by
  rw [← Bool.not_eq_true, routeReg_iff, faultReg_iff]
  simp only [logReg, Bool.or_eq_true, Bool.and_eq_true, decide_eq_true_eq, beq_iff_eq]
  unfold R.swLast R.fltLost R.evrStat R.queInteg R.wrRefuse R.queJrnStat R.smbMbStat R.cmdSqHead R.cmdIrqStat
  omega

theorem RouteOnly.srcWord {h h' : Hive} (r : RouteOnly h h') {n : Nat} (hn : n < 2048) (alt : Bool) :
    h'.srcWord n alt = h.srcWord n alt := by
  unfold Hive.srcWord
  rw [r.get (F.steAlt_alt n) (routeReg_ste (by simp only [F.steAlt_alt, R.steAlt]; omega)
    (by simp only [F.steAlt_alt, R.steAlt]; omega)),
    r.regs (R.steSrc n) (routeReg_ste (by unfold R.steSrc; omega) (by unfold R.steSrc; omega))]

theorem Hive.switchDone_active (h : Hive) (result : Nat) (auto : Bool) {n : Nat} (hn : n < 2048) :
    (h.switchDone n result auto).flag (F.rteStatus_active n) = h.flag (F.rteStatus_active n) := by
  refine Hive.flag_congr (Hive.switchDone_rd h n result auto ?_ ?_ ?_ ?_) <;>
    simp only [F.rteStatus_active, R.rteStatus, R.swLast, R.queJrnStat, R.cmdIrqStat] <;> omega

section
variable (h : Hive) {n : Nat} (hn : n < 2048)

/-- The block once the other source is in force and the switch is reported. -/
def Hive.switched (n : Nat) : Hive := ((h.unsched (.streamSwitch n)).switchOver n).switchDone n 0 false

include hn

theorem Hive.switched_route : RouteOnly h (h.switched n) :=
  ((RouteOnly.schedSet h _).trans (Hive.switchOver_route _ hn)).trans (Hive.switchDone_route ..)

theorem Hive.switched_active : (h.switched n).flag (F.rteStatus_active n) = !h.flag (F.rteStatus_active n) :=
  (Hive.switchDone_active _ 0 false hn).trans (Hive.switchOver_active (h.unsched (.streamSwitch n)) hn)

/-- A standby that is up is a source in force that is up, once the switch has been made. -/
theorem Hive.switched_up (up : h.srcUp (h.srcStandby n) = true) :
    ((h.switched n).standbyEval n).srcUp (((h.switched n).standbyEval n).srcNow n) = true := by
  have r : RouteOnly h ((h.switched n).standbyEval n) := (Hive.switched_route h hn).trans (Hive.standbyEval_route _ hn)
  have lanes : ((h.switched n).standbyEval n).laneUp = h.laneUp := funext (fun l =>
    ((Hive.standbyEval_laneUp _ n l).trans (Hive.switchDone_laneUp ..)).trans (Hive.switchOver_laneUp (h.unsched (.streamSwitch n)) n l))
  have active : ((h.switched n).standbyEval n).flag (F.rteStatus_active n) = !h.flag (F.rteStatus_active n) := by
    have bit := Hive.standbyEval_get (h.switched n) n (g := F.rteStatus_active n) (.inr (by simp only [F.rteStatus_active]; omega))
    exact (congrArg (fun v => decide (v = 1)) bit).trans (Hive.switched_active h hn)
  have now : ((h.switched n).standbyEval n).srcNow n = h.srcStandby n := by
    unfold Hive.srcNow Hive.srcStandby
    rw [active, r.srcWord hn]
  rw [now, Hive.srcUp_congr r lanes, up]

variable (alt : srcKind (h.get (F.steAlt_alt n)) ≠ 0)
include alt

/-- With a standby that is ready and up the other source is in force and stays there (R56). -/
theorem Hive.switchAt_taken (ready : h.flag (F.rteStatus_standby_ready n) = true) (up : h.srcUp (h.srcStandby n) = true) :
    (h.switchAt n).get F.swLast_result = 0 ∧ (h.switchAt n).flag F.swLast_auto = false ∧
      (h.switchAt n).flag (F.rteStatus_active n) = !h.flag (F.rteStatus_active n) := by
  have at' : h.switchAt n = (h.switched n).srcEval n := (if_neg alt).trans (if_pos ready)
  have kept : ∀ {g : RF}, g.a ≠ R.smkCause n → g.a ≠ R.rteStatus n ∨ g.lo + g.w ≤ 6 →
      ((h.switched n).srcEval n).get g = (h.switched n).get g := Hive.srcEval_get _ (Hive.switched_up h hn up)
  have last : R.swLast ≠ R.smkCause n ∧ R.swLast ≠ R.rteStatus n := by
    unfold R.swLast R.smkCause R.rteStatus
    omega
  obtain ⟨_, result, auto, _⟩ := Hive.switchDone_spec ((h.unsched (.streamSwitch n)).switchOver n) false hn (result := 0) (by decide)
  rw [at']
  refine ⟨(kept last.1 (.inl last.2)).trans result, ?_, ?_⟩
  · exact (congrArg (fun v => decide (v = 1)) (kept last.1 (.inl last.2))).trans auto
  · exact (congrArg (fun v => decide (v = 1)) (kept (g := F.rteStatus_active n) (rteStatus_ne_smkCause hn n)
      (.inr (by simp only [F.rteStatus_active]; omega)))).trans (Hive.switched_active h hn)

/-- With a standby that is not ready the source stays, and the reason is reported (R56). -/
theorem Hive.switchAt_refused (notReady : h.flag (F.rteStatus_standby_ready n) = false) :
    (h.switchAt n).get F.swLast_result = h.switchReason n ∧
      (h.switchAt n).flag (F.rteStatus_active n) = h.flag (F.rteStatus_active n) := by
  have at' : h.switchAt n = (h.unsched (.streamSwitch n)).switchDone n (h.switchReason n) false :=
    (if_neg alt).trans (if_neg (Bool.eq_false_iff.mp notReady))
  obtain ⟨_, result, _, _⟩ := Hive.switchDone_spec (h.unsched (.streamSwitch n)) false hn (Hive.switchReason_lt h n)
  rw [at']
  exact ⟨result, Hive.switchDone_active _ _ false hn⟩

end

/-- Without an alternate the result is 4 (R58). -/
theorem Hive.switchAt_none (h : Hive) {n : Nat} (hn : n < 2048) (none : srcKind (h.get (F.steAlt_alt n)) = 0) :
    (h.switchAt n).get F.swLast_result = 4 := by
  have at' : h.switchAt n = (h.unsched (.streamSwitch n)).switchDone n 4 false := if_pos none
  rw [at']
  exact (Hive.switchDone_spec _ false hn (by decide)).2.1

theorem exec_switchAtT {P : Hive → Prop} (s : State) (n : StreamId) (due : s.hive.due (.streamSwitch n.val) = true)
    (first : s.hive.patchFirst n.val = false) (p : P (s.hive.switchAt n.val)) : Completes (.switchAtT n) s P := by
  refine Completes.upd (fun h => if h.due (.streamSwitch n.val) && !h.patchFirst n.val then h.switchAt n.val else h) rfl ?_
  rw [due, first]
  exact p

/-- Writing 1 to RTE.SW_LAST.valid clears the register, unless hardware has set it in the same cycle (R7, R58). -/
theorem exec_swLastClear (s : State) {w : RegWrite} (g : goodWrite w R.swLast false = true) : Completes (.swLastClear w) s
    (LogOnly (if s.hive.w1cTakes F.swLast_valid w.value.toNat then s.hive.wr R.swLast 0 else s.hive)) :=
  Completes.upd (fun h => h.wSwLast w) rfl (Hive.hostWrite_good s.hive (fun _ _ => stOk)
    (fun h v => if h.w1cTakes F.swLast_valid v then h.wr R.swLast 0 else h) g (by decide) Regs.find_swLast rfl rfl)

/-- Settles O8: a switch's record survives what the fault map does afterwards, and a standby that was up is still up in force. -/
theorem sourceSwitching : Obligations.SourceSwitching := by
  unfold Obligations.SourceSwitching
  intro s n
  refine ⟨exec_eqDelayStep s n, exec_eqDelayStep_idle s n, ?ingress, ?schedule, ?due, fun w => exec_swLastClear s⟩
  case ingress =>
    rintro alt f want rfl hw
    exact exec_ingressDelayStep s n alt hw
  case schedule =>
    intro c g adm lead stream
    refine ⟨fun ready load room => ?_, exec_switch_refused s n g adm lead⟩
    exact exec_switch_scheduled s n g adm lead (Hive.switchChk_ok s.hive stream ready load room)
  case due =>
    intro due first
    have r := Hive.switchAt_reported s.hive n.isLt
    exact exec_switchAtT s n due first ⟨r.sched, r.stream, r.valid, (Hive.switchAt_route s.hive n.isLt).regs,
      Hive.switchAt_taken s.hive n.isLt, Hive.switchAt_refused s.hive n.isLt, Hive.switchAt_none s.hive n.isLt⟩

end Sys2Proof.Machine
end

-- ==== Sys2Proof/Proofs/StopUndone ====
section
/-! Stops that are taken back in their own cycle (R205): whatever the stop and the events after it have set in the stream's state goes
with it. Two statements do not allow for that. -/

namespace Sys2Proof.Machine

/-- STREAM_STOP of stream 3. -/
def stopOfThree : CmdEntry := ⟨.queue, 1, false, true, false, 7, 3, 0, 0, 0, false⟩

/-- The block that a command leaves. -/
def blockAfter (i : Instr) (s : State) : Hive :=
  match exec i s with
  | .next t => t.hive
  | _ => s.hive

theorem Completes.blockAfter {i : Instr} {s : State} {P : Hive → Prop} (c : Completes i s P) : P (blockAfter i s) := by
  obtain ⟨h', e, p⟩ := c
  unfold Machine.blockAfter
  rw [e]
  exact p

/-! ## A lost kernel's situation that does not last

A stop of a stream is taken in the cycle in which the stream's kernel misses its third deadline in a row. The fault map's mute takes
the stop back, and with it the situation that the loss has just set (R53). -/

/-- Stream 3, LIVE with a detour through worker 511, whose canceller kernel has missed two deadlines. -/
def twoMisses : State :=
  let fields : List (RF × Nat) := [(F.pwrClkStat_sclk_lock, 1), (⟨R.dieState, 0, 16⟩, 0x2222), (F.steValid_valid 3, 1),
    (F.rteStatus_state 3, stLive), (F.steKern_kern_en 3, 1), (F.steKern_kern_worker 3, 511), (F.wrkDesc7_valid 63 7, 1),
    (F.wrkDesc0_kid 63 7, 1), (F.wrkStat_state 63 7, 2)]
  let h := fields.foldl (fun h p => h.set p.1 p.2) { State.reset.hive with mode := .run, seenRun := true, streams := [3] }
  { State.reset with hive := h.wset 511 { h.wget 511 with missRun := 2 } }

/-- The stop is accepted: the stream ramps down. -/
def stoppedTwoMisses : State := { twoMisses with hive := blockAfter (.streamStop stopOfThree) twoMisses }

/-- The kernel runs, has a deadline, and has missed two in a row. -/
theorem stoppedTwoMisses_kernel : stoppedTwoMisses.hive.kvalid 511 = true ∧ stoppedTwoMisses.hive.combAwake (511 / 8) = true ∧
    stoppedTwoMisses.hive.kdeclOf 511 = none ∧ [1, 2, 3, 4, 7].contains (stoppedTwoMisses.hive.kid 511) = true ∧
    2 ≤ (stoppedTwoMisses.hive.wget 511).missRun ∧ 3 ∈ stoppedTwoMisses.hive.pathStreams 511 := by
  decide +kernel

/-- After the third miss the situation of a lost kernel does not hold for the stream. -/
theorem blockAfter_thirdMiss :
    bitOf ((blockAfter (.kernelDeadlineMiss 511 false) stoppedTwoMisses).sget 3).sit 1 = false := by
  decide +kernel

/-- What O32 says of the third miss of a ROM kernel: its loss shows as cause 1 on every stream whose path names it. -/
theorem lost_situation (holds : Obligations.KernelFailures) {s : State} {w : WorkerId} {n : Nat} (valid : s.hive.kvalid w.val = true)
    (awake : s.hive.combAwake (w.val / 8) = true) (decl : s.hive.kdeclOf w.val = none)
    (deadline : [1, 2, 3, 4, 7].contains (s.hive.kid w.val) = true) (misses : 2 ≤ (s.hive.wget w.val).missRun)
    (path : n ∈ s.hive.pathStreams w.val) : bitOf ((blockAfter (.kernelDeadlineMiss w false) s).sget n).sit 1 = true := by
  unfold Obligations.KernelFailures at holds
  obtain ⟨_, miss, _⟩ := holds s w (s.hive.kid w.val) false true rfl (by rw [decl]; exact deadline.symm)
  obtain ⟨_, _, lost⟩ := (miss valid awake rfl).blockAfter
  obtain ⟨_, _, _, situation, _⟩ := lost misses
  exact situation n path

/-- Refutes O32: the fault map's mute undoes the stop of the same cycle, and restores the stream's state from before the loss. -/
theorem not_kernelFailures : ¬ Obligations.KernelFailures := by
  intro holds
  obtain ⟨valid, awake, decl, deadline, misses, path⟩ := stoppedTwoMisses_kernel
  have on := lost_situation holds (w := 511) valid awake decl deadline misses path
  exact Bool.noConfusion (blockAfter_thirdMiss.symm.trans on)

/-! ## A stop without IDLE to follow

The deadline clips the stop's ramp, and the note of that (SMOKER cause 0x01, R198) finds a record of its key that is not active and
stands at L5. The record is active again at that level (R354), the hive enters HALT (R359), and the trigger of cause 2 takes the stop
back. -/

/-- A record of the clipped ramps of home die 0 at L5 whose fault is not active. -/
def clippedAtFive : FaultRec := { FaultRec.free with valid := true, cls := 0x09, cause := 0x01, source := 0x32, level := 5 }

/-- Stream 3, LIVE with a ramp of 2,000 us and the deadline of 1,000 us that stands at reset, with that record. -/
def clippedStop : State :=
  let fields : List (RF × Nat) := [(F.pwrClkStat_sclk_lock, 1), (F.steValid_valid 3, 1), (F.rteStatus_state 3, stLive),
    (F.smkCfg_len_down 3, 2000)]
  let h := fields.foldl (fun h p => h.set p.1 p.2) { State.reset.hive with mode := .run, seenRun := true, streams := [3] }
  { State.reset with hive := h.setFlt 0 clippedAtFive }

/-- The stream can be stopped: its deadline is good, no fault at L5 is active, and no stop was taken in the cycle. -/
theorem clippedStop_stops : goodEntry stopOfThree 0x02 false 3 0 0 = true ∧ admits clippedStop.hive.mode .stop = true ∧
    clippedStop.hive.isStream 3 = true ∧ clippedStop.hive.unmarked 3 ∧ rwcOk (clippedStop.hive.rd (R.smkDeadline 3)) = true ∧
    clippedStop.hive.ownMax < 5 ∧ clippedStop.hive.st 3 = stLive := by
  decide +kernel

/-- After the stop no IDLE is to follow the ramp. -/
theorem blockAfter_clippedStop : ((blockAfter (.streamStop stopOfThree) clippedStop).sget 3).toIdle = false := by
  decide +kernel

/-- What O18 says of a stop of a LIVE stream: IDLE is to follow. -/
theorem stop_toIdle (holds : Obligations.StreamStates) {s : State} {n : StreamId} {c : CmdEntry}
    (g : goodEntry c 0x02 false n.val 0 0 = true) (adm : admits s.hive.mode .stop = true) (stream : s.hive.isStream n.val = true)
    (unmarked : s.hive.unmarked n.val) (deadline : rwcOk (s.hive.rd (R.smkDeadline n.val)) = true) (own : s.hive.ownMax < 5)
    (live : s.hive.st n.val = stLive) : ((blockAfter (.streamStop c) s).sget n.val).toIdle = true := by
  unfold Obligations.StreamStates at holds
  obtain ⟨_, stop, _⟩ := holds s n
  obtain ⟨_, ramp, _⟩ := stop c g adm stream
  exact (ramp unmarked deadline own (.inr live)).blockAfter.2

/-- Refutes O18: a clipped ramp's note re-activates an L5 record of its key, and the entry into HALT takes the stop back. -/
theorem not_streamStates : ¬ Obligations.StreamStates := by
  intro holds
  obtain ⟨g, adm, stream, unmarked, deadline, own, live⟩ := clippedStop_stops
  have idle := stop_toIdle holds (n := 3) g adm stream unmarked deadline own live
  exact Bool.noConfusion (blockAfter_clippedStop.symm.trans idle)

end Sys2Proof.Machine
end

-- ==== Sys2Proof/Proofs/CoefSwaps ====
section
/-! Coefficient swaps and measured delays of a slice half (R100 to R104): what the swap shows in STR.FIR_CTL, and all that it and
the fault of an invalid bank leave. -/

namespace Sys2Proof.Machine

/-! ## Registers of a slice half -/

/-- The registers of a half below STR.SMOKE lie outside fault handling. -/
theorem faultReg_half {s p o : Nat} (hs : s < 1024) (hp : p < 2) (ho : o < 0x34) :
    faultReg (0x300100 + o + s * 0x400 + p * 0x100) = false := by
  rw [← Bool.not_eq_true, faultReg_iff]
  simp only [logReg, Bool.or_eq_true, Bool.and_eq_true, decide_eq_true_eq, beq_iff_eq]
  unfold R.fltLost R.evrStat R.queInteg R.wrRefuse R.queJrnStat R.smbMbStat R.cmdSqHead R.cmdIrqStat
  omega

theorem faultReg_strFirCtl {s p : Nat} (hs : s < 1024) (hp : p < 2) : faultReg (R.strFirCtl s p) = false :=
  faultReg_half (o := 0x18) hs hp (by decide)

/-- What fault handling leaves, bookkeeping leaves. -/
theorem logReg_of_not_fault {a : Nat} (ha : faultReg a = false) : logReg a = false := by
  rw [← Bool.not_eq_true] at ha ⊢
  exact fun hl => ha (logReg_fault hl)

theorem Hive.halfStream_lt {h : Hive} {s p n : Nat} (e : h.halfStream s p = some n) : n < 2048 := by
  unfold Hive.halfStream at e
  dsimp only at e
  split at e
  · cases e
  · obtain rfl := Option.some.inj e
    split <;> exact bitsOf_lt _ _ 11

/-- A flag that reads as before. -/
theorem Hive.flag_of_get {h h' : Hive} {f : RF} (e : h'.get f = h.get f) : h'.flag f = h.flag f := by
  unfold Hive.flag
  rw [e]

/-- Which stream a half serves is read in STR.CFG alone. -/
theorem Hive.halfStream_congr {h h' : Hive} {s : Nat} (cfg : h'.rd (R.strCfg s) = h.rd (R.strCfg s)) (p : Nat) :
    h'.halfStream s p = h.halfStream s p := by
  unfold Hive.halfStream
  rw [Hive.get_congr (f := F.strCfg_use s) cfg, Hive.get_congr (f := F.strCfg_stream0 s) cfg,
    Hive.get_congr (f := F.strCfg_stream1 s) cfg]

/-- The active set depends on the half's banks and on which of them is active. -/
theorem Hive.activeSet_congr {h h' : Hive} {s p : Nat} (half : h'.half = h.half)
    (bank : h'.flag (F.strFirCtl_bank s p) = h.flag (F.strFirCtl_bank s p)) : h'.activeSet s p = h.activeSet s p := by
  unfold Hive.activeSet Hive.bankSet Hive.hget
  rw [half, bank]

/-! ## The outcome in STR.FIR_CTL -/

/-- Registers of bookkeeping, and STR.FIR_CTL of a half. -/
def firReg (s p a : Nat) : Bool := logReg a || a == R.strFirCtl s p

/-- Only bookkeeping happened, and STR.FIR_CTL of a half was written. -/
abbrev FirOnly (s p : Nat) : Hive → Hive → Prop := Only Hive.sansLog (firReg s p)

theorem LogOnly.fir {h h' : Hive} (a : LogOnly h h') (s p : Nat) : FirOnly s p h h' :=
  a.mono (fun _ _ e => e) (fun _ hx => (Bool.or_eq_false_iff.mp hx).1)

theorem FirOnly.set (h : Hive) {f : RF} {s p : Nat} (v : Nat) (hf : f.a = R.strFirCtl s p) : FirOnly s p h (h.set f v) :=
  ⟨rfl, fun _ ha => Hive.rd_set_ne h v (by rw [hf]; exact beq_eq_false_iff_ne.mp (Bool.or_eq_false_iff.mp ha).2)⟩

theorem Hive.swapDone_fir (h : Hive) (s p result : Nat) : FirOnly s p h (h.swapDone s p result) :=
  ((FirOnly.set (f := F.strFirCtl_swap_last s p) h _ rfl).trans (FirOnly.set (f := F.strFirCtl_swap_pend s p) _ _ rfl)).trans
    ((Hive.jEvent_log ..).fir s p)

section
variable (h : Hive) {s p : Nat} (hs : s < 1024) (hp : p < 2)
include hs hp

/-- STR.FIR_CTL after an outcome has been shown. -/
theorem Hive.swapDone_word (result : Nat) : (h.swapDone s p result).rd (R.strFirCtl s p) =
    ((h.set (F.strFirCtl_swap_last s p) result).setFlag (F.strFirCtl_swap_pend s p) false).rd (R.strFirCtl s p) :=
  (Hive.jEvent_log ..).regs _ (logReg_of_not_fault (faultReg_strFirCtl hs hp))

/-- No swap is pending once the outcome of one has been shown (R102). -/
theorem Hive.swapDone_pend (result : Nat) : (h.swapDone s p result).flag (F.strFirCtl_swap_pend s p) = false :=
  (Hive.flag_congr (Hive.swapDone_word h hs hp result)).trans (Hive.flag_setFlag_same _ _ _ (by simp [F.strFirCtl_swap_pend]) rfl)

theorem Hive.swapDone_last {result : Nat} (hr : result < 8) :
    (h.swapDone s p result).get (F.strFirCtl_swap_last s p) = result := by
  refine (Hive.get_congr (Hive.swapDone_word h hs hp result)).trans ?_
  rw [Hive.get_setFlag_ne _ _ (by simp [F.strFirCtl_swap_pend]) (by simp [F.strFirCtl_swap_pend, F.strFirCtl_swap_last]),
    Hive.get_set_same _ _ _ (by simp [F.strFirCtl_swap_last])]
  exact Nat.mod_eq_of_lt hr

/-- The fields of STR.FIR_CTL below the two that show an outcome keep their values. -/
theorem Hive.swapDone_get (result : Nat) {g : RF} (fir : g.a = R.strFirCtl s p) (low : g.lo + g.w ≤ 14) :
    (h.swapDone s p result).get g = h.get g := by
  have word := Hive.swapDone_word h hs hp result
  rw [← fir] at word
  refine (Hive.get_congr word).trans ?_
  rw [Hive.get_setFlag_ne _ _ (by simp [F.strFirCtl_swap_pend]) (.inr (.inl low)),
    Hive.get_set_ne _ _ (by simp [F.strFirCtl_swap_last]) (.inr (.inl (Nat.le_succ_of_le low)))]

end

/-! ## The set that is shown -/

/-- The registers of a half that show its active set and its delays (R103, R104, R115). -/
def setReg (s p a : Nat) : Bool := a == R.strFirCtl s p || a == R.strGd s p || a == R.strGdMeas s p

/-- The block without what bookkeeping, fault handling and the turn of a canceller's estimate (R149) touch. -/
def Hive.sansSwap (h : Hive) : Hive := { h.sansFault with canc := [] }

/-- Only bookkeeping and fault handling happened, an estimate was turned, and the registers that show a half's set were written. -/
abbrev SwapOnly (s p : Nat) : Hive → Hive → Prop := Only Hive.sansSwap (sideOr (setReg s p))

/-- Only bookkeeping and fault handling happened, and an estimate was turned. -/
abbrev TurnOnly : Hive → Hive → Prop := Only Hive.sansSwap faultReg

theorem FaultOnly.turn {h h' : Hive} (a : FaultOnly h h') : TurnOnly h h' :=
  a.mono (fun _ _ e => congrArg (fun x : Hive => { x with canc := [] }) e) (fun _ hx => hx)

theorem TurnOnly.swap {h h' : Hive} (a : TurnOnly h h') (s p : Nat) : SwapOnly s p h h' :=
  a.mono (fun _ _ e => e) (fun _ hx => (Bool.or_eq_false_iff.mp hx).1)

theorem FirOnly.swap {h h' : Hive} {s p : Nat} (a : FirOnly s p h h') : SwapOnly s p h h' := by
  refine a.mono (fun _ _ e => congrArg (fun x : Hive => { x.sansHandling with canc := [] }) e) (fun x hx => ?_)
  simp only [sideOr, setReg, Bool.or_eq_false_iff] at hx
  obtain ⟨side, ⟨fir, _⟩, _⟩ := hx
  exact Bool.or_eq_false_iff.mpr ⟨logReg_of_not_fault side, fir⟩

theorem SwapOnly.set (h : Hive) {f : RF} {s p : Nat} (v : Nat) (hf : setReg s p f.a = true) : SwapOnly s p h (h.set f v) :=
  ⟨rfl, fun x hx => Hive.rd_set_ne h v (fun e => by
    rw [sideOr, e, hf, Bool.or_true] at hx
    cases hx)⟩

theorem Hive.fbSwap_turn (h : Hive) (n : Nat) (corr : List (Int × Int)) : TurnOnly h (h.fbSwap n corr) := by
  unfold Hive.fbSwap
  split
  · exact Only.refl ..
  · exact ⟨rfl, fun _ _ => rfl⟩

theorem Hive.showSet_swap (h : Hive) (n s p : Nat) : SwapOnly s p h (h.showSet n s p) := by
  have fir : setReg s p (R.strFirCtl s p) = true := by simp [setReg]
  have gd : setReg s p (R.strGd s p) = true := by simp [setReg]
  have meas : setReg s p (R.strGdMeas s p) = true := by simp [setReg]
  unfold Hive.showSet
  extract_lets c h1 h2
  have form : SwapOnly s p h h1 := ((SwapOnly.set (f := F.strFirCtl_taps s p) h _ fir).trans
    (SwapOnly.set (f := F.strFirCtl_minph s p) _ _ fir)).trans (SwapOnly.set (f := F.strFirCtl_sym s p) _ _ fir)
  have delay : SwapOnly s p h1 h2 := SwapOnly.set (f := F.strGd_gd s p) h1 _ gd
  exact ((form.trans delay).trans (SwapOnly.set (f := F.strGdMeas_valid s p) h2 _ meas)).trans
    (SwapOnly.set (f := F.strGdMeas_gd s p) _ _ meas)

/-- STR.FIR_CTL once a set is shown: its form has been written there. -/
theorem Hive.showSet_word (h : Hive) (n s p : Nat) : (h.showSet n s p).rd (R.strFirCtl s p) =
    (((h.set (F.strFirCtl_taps s p) (h.activeSet s p).n).setFlag (F.strFirCtl_minph s p) (h.activeSet s p).minph).setFlag
      (F.strFirCtl_sym s p) (h.activeSet s p).sym).rd (R.strFirCtl s p) := by
  have gd : R.strFirCtl s p ≠ R.strGd s p := by unfold R.strFirCtl R.strGd; omega
  have meas : R.strFirCtl s p ≠ R.strGdMeas s p := by unfold R.strFirCtl R.strGdMeas; omega
  unfold Hive.showSet
  dsimp only
  rw [Hive.rd_set_ne (f := F.strGdMeas_gd s p) _ _ meas, Hive.rd_setFlag_ne (f := F.strGdMeas_valid s p) _ _ meas,
    Hive.rd_set_ne (f := F.strGd_gd s p) _ _ gd]

theorem Hive.showSet_bank (h : Hive) (n s p : Nat) :
    (h.showSet n s p).flag (F.strFirCtl_bank s p) = h.flag (F.strFirCtl_bank s p) := by
  refine (Hive.flag_congr (Hive.showSet_word h n s p)).trans ?_
  rw [Hive.flag_setFlag_ne _ _ (by simp [F.strFirCtl_sym]) (by simp [F.strFirCtl_sym, F.strFirCtl_bank]),
    Hive.flag_setFlag_ne _ _ (by simp [F.strFirCtl_minph]) (by simp [F.strFirCtl_minph, F.strFirCtl_bank]),
    Hive.flag_set_ne _ _ (by simp [F.strFirCtl_taps]) (by simp [F.strFirCtl_taps, F.strFirCtl_bank])]

/-- The taps that are shown are the active set's (R115). -/
theorem Hive.showSet_taps (h : Hive) (n s p : Nat) : (h.showSet n s p).get (F.strFirCtl_taps s p) =
    ((h.showSet n s p).activeSet s p).n % 2 ^ (F.strFirCtl_taps s p).w := by
  have half : (h.showSet n s p).half = h.half := (Hive.showSet_swap h n s p).keeps Hive.half (fun _ => rfl)
  rw [Hive.activeSet_congr half (Hive.showSet_bank h n s p)]
  refine (Hive.get_congr (Hive.showSet_word h n s p)).trans ?_
  rw [Hive.get_setFlag_ne _ _ (by simp [F.strFirCtl_sym]) (by simp [F.strFirCtl_sym, F.strFirCtl_taps]),
    Hive.get_setFlag_ne _ _ (by simp [F.strFirCtl_minph]) (by simp [F.strFirCtl_minph, F.strFirCtl_taps]),
    Hive.get_set_same _ _ _ (by simp [F.strFirCtl_taps])]

/-! ## The swap -/

/-- The half's other bank is active. -/
def Hive.bankOther (h : Hive) (s p : Nat) : Hive := h.setFlag (F.strFirCtl_bank s p) (!h.flag (F.strFirCtl_bank s p))

/-- The other bank is active and, on a half in use, its set shown, and a mute for an error in the bank it replaces has ended. -/
def Hive.flipped (h : Hive) (s p : Nat) : Hive :=
  match (h.bankOther s p).halfStream s p with
  | some n => ((h.bankOther s p).sitOff 6 n).showSet n s p
  | none => h.bankOther s p

/-- The half's inactive bank is valid: a swap to it can be made (R101). -/
def Hive.swapOk (h : Hive) (s p : Nat) : Bool := h.flag (bankFlag s p (!h.flag (F.strFirCtl_bank s p)))

/-- The half with the bank active that a swap leaves in force. -/
def Hive.swapped (h : Hive) (s p : Nat) : Hive := if h.swapOk s p then h.flipped s p else h

theorem Hive.bankOther_bank (h : Hive) (s p : Nat) :
    (h.bankOther s p).flag (F.strFirCtl_bank s p) = !h.flag (F.strFirCtl_bank s p) :=
  Hive.flag_setFlag_same _ _ _ (by simp [F.strFirCtl_bank]) rfl

theorem Hive.bankOther_swap (h : Hive) (s p : Nat) : SwapOnly s p h (h.bankOther s p) :=
  SwapOnly.set (f := F.strFirCtl_bank s p) h _ (by simp [F.strFirCtl_bank, setReg])

theorem Hive.bankOther_halfStream (h : Hive) (s p : Nat) : (h.bankOther s p).halfStream s p = h.halfStream s p :=
  Hive.halfStream_congr (Hive.rd_setFlag_ne (f := F.strFirCtl_bank s p) h _
    (by simp only [F.strFirCtl_bank, R.strCfg, R.strFirCtl]; omega)) p

theorem Hive.flipped_swap (h : Hive) (s p : Nat) : SwapOnly s p h (h.flipped s p) := by
  unfold Hive.flipped
  split
  · next n used =>
    exact ((Hive.bankOther_swap h s p).trans ((Hive.sitOff_fault _ 6 (Hive.halfStream_lt used)).turn.swap s p)).trans
      (Hive.showSet_swap ..)
  · exact Hive.bankOther_swap h s p

theorem Hive.swapped_swap (h : Hive) (s p : Nat) : SwapOnly s p h (h.swapped s p) :=
  Only.ite (Hive.flipped_swap h s p) (Only.refl ..)

theorem Hive.flipped_taps {h : Hive} {s p : Nat} (used : h.halfStream s p ≠ none) :
    (h.flipped s p).get (F.strFirCtl_taps s p) = ((h.flipped s p).activeSet s p).n % 2 ^ (F.strFirCtl_taps s p).w := by
  unfold Hive.flipped
  split
  · exact Hive.showSet_taps ..
  · next unused => exact absurd ((Hive.bankOther_halfStream h s p).symm.trans unused) used

/-- Once the half's other bank is active and the outcome shown, residues and a canceller's estimate follow (R103, R149). -/
theorem Hive.bankFlip_turn (h : Hive) (s p : Nat) : TurnOnly ((h.flipped s p).swapDone s p 0) (h.bankFlip s p) := by
  unfold Hive.bankFlip Hive.flipped Hive.bankOther
  dsimp only
  cases (h.setFlag (F.strFirCtl_bank s p) (!h.flag (F.strFirCtl_bank s p))).halfStream s p with
  | some n => exact (Hive.latChanged_status ..).fault.turn.trans (Hive.fbSwap_turn ..)
  | none => exact Only.refl ..

/-- A swap to an invalid bank shows its outcome and raises a fault (R102). -/
theorem Hive.swapNow_invalid {h : Hive} {s p : Nat} (bad : h.swapOk s p = false) :
    h.swapNow s p = (h.swapDone s p 1).raise 0x03 0x03 (srcNoSlice s) 1 0 := if_neg (Bool.eq_false_iff.mp bad)

/-- After the outcome is shown a swap does no more than fault handling and the turn of a canceller's estimate. -/
theorem Hive.swapNow_turn (h : Hive) (s p : Nat) :
    TurnOnly ((h.swapped s p).swapDone s p (if h.swapOk s p then 0 else 1)) (h.swapNow s p) := by
  unfold Hive.swapped
  cases ok : h.swapOk s p with
  | true =>
    have taken : h.swapNow s p = h.bankFlip s p := if_pos ok
    rw [taken]
    exact Hive.bankFlip_turn h s p
  | false =>
    rw [Hive.swapNow_invalid ok]
    exact (Hive.raise_fault ..).turn

theorem Hive.swapNow_swap (h : Hive) (s p : Nat) : SwapOnly s p h (h.swapNow s p) :=
  ((Hive.swapped_swap h s p).trans (Hive.swapDone_fir ..).swap).trans ((Hive.swapNow_turn h s p).swap s p)

/-- STRAIN cause 0x03 is on at L1 after a swap to an invalid bank (R102). -/
theorem Hive.swapNow_on (h : Hive) {s p : Nat} (bad : h.swapOk s p = false) :
    (h.swapNow s p).faultOn 0x03 0x03 (0x800 + s) 1 = true := by
  rw [Hive.swapNow_invalid bad]
  exact (Hive.raise_spec _ _ _ _ _ _ (by decide)).1

section
variable (h : Hive) {s p : Nat} (hs : s < 1024) (hp : p < 2)
include hs hp

theorem Hive.flipped_bank : (h.flipped s p).flag (F.strFirCtl_bank s p) = !h.flag (F.strFirCtl_bank s p) := by
  rw [← Hive.bankOther_bank h s p]
  unfold Hive.flipped
  split
  · next n used =>
    exact (Hive.showSet_bank ..).trans
      ((Hive.sitOff_fault _ 6 (Hive.halfStream_lt used)).flag (F.strFirCtl_bank s p) (faultReg_strFirCtl hs hp))
  · rfl

theorem Hive.swapNow_get {g : RF} (fir : g.a = R.strFirCtl s p) (low : g.lo + g.w ≤ 14) :
    (h.swapNow s p).get g = (h.swapped s p).get g :=
  ((Hive.swapNow_turn h s p).get g (by rw [fir]; exact faultReg_strFirCtl hs hp)).trans (Hive.swapDone_get _ hs hp _ fir low)

/-- The outcome of a swap: none is pending, the target is active if it was valid, and swap_last shows which (R101, R102). -/
theorem Hive.swapNow_outcome : (h.swapNow s p).flag (F.strFirCtl_swap_pend s p) = false ∧
    (h.swapNow s p).flag (F.strFirCtl_bank s p) =
      (if h.swapOk s p then !h.flag (F.strFirCtl_bank s p) else h.flag (F.strFirCtl_bank s p)) ∧
    (h.swapNow s p).get (F.strFirCtl_swap_last s p) = (if h.swapOk s p then 0 else 1) := by
  have out := faultReg_strFirCtl hs hp
  have turn := Hive.swapNow_turn h s p
  refine ⟨?pend, ?bank, ?last⟩
  case pend => exact (turn.flag (F.strFirCtl_swap_pend s p) out).trans (Hive.swapDone_pend _ hs hp _)
  case last => exact (turn.get (F.strFirCtl_swap_last s p) out).trans (Hive.swapDone_last _ hs hp (by split <;> decide))
  case bank =>
    rw [Hive.flag_of_get (Hive.swapNow_get h hs hp (g := F.strFirCtl_bank s p) rfl (by simp [F.strFirCtl_bank]))]
    unfold Hive.swapped
    split
    · exact Hive.flipped_bank h hs hp
    · rfl

/-- On a half in use the taps that are shown after a swap are those of the set then active (R103). -/
theorem Hive.swapNow_taps (ok : h.swapOk s p = true) (used : h.halfStream s p ≠ none) :
    (h.swapNow s p).get (F.strFirCtl_taps s p) = ((h.swapNow s p).activeSet s p).n % 2 ^ (F.strFirCtl_taps s p).w := by
  have into : h.swapped s p = h.flipped s p := if_pos ok
  have half : (h.swapNow s p).half = (h.swapped s p).half :=
    ((Hive.swapNow_turn h s p).keeps Hive.half (fun _ => rfl)).trans ((Hive.swapDone_fir ..).keeps Hive.half (fun _ => rfl))
  have bank : (h.swapNow s p).flag (F.strFirCtl_bank s p) = (h.swapped s p).flag (F.strFirCtl_bank s p) :=
    Hive.flag_of_get (Hive.swapNow_get h hs hp (g := F.strFirCtl_bank s p) rfl (by simp [F.strFirCtl_bank]))
  rw [Hive.activeSet_congr half bank, Hive.swapNow_get h hs hp (g := F.strFirCtl_taps s p) rfl (by simp [F.strFirCtl_taps]), into]
  exact Hive.flipped_taps used

end

/-! ## A measured delay -/

/-- A measured delay is shown as valid (R104). -/
def Hive.gdMeasured (h : Hive) (s p v : Nat) : Hive := (h.set (F.strGdMeas_gd s p) v).setFlag (F.strGdMeas_valid s p) true

/-- The fault of a measurement that lies more than one output sample from the disclosed delay (R104). -/
def Hive.gdCheck (h : Hive) (n s p v : Nat) : Hive :=
  if ((v : Int) - h.get (F.strGd_gd s p)).natAbs * (h.tIn s p n).2 * 2 ^ 32 > 16 * (h.tIn s p n).1 * h.halfRatio s p then
    h.raise 0x03 0x04 (srcNoSlice s) 1 0
  else h

theorem Hive.gdMeasured_rd (h : Hive) {s p a : Nat} (v : Nat) (ha : a ≠ R.strGdMeas s p) : (h.gdMeasured s p v).rd a = h.rd a :=
  (Hive.rd_setFlag_ne (f := F.strGdMeas_valid s p) _ _ ha).trans (Hive.rd_set_ne (f := F.strGdMeas_gd s p) h v ha)

theorem Hive.gdMeasured_shown (h : Hive) (s p : Nat) {v : Nat} (hv : v < 2 ^ 24) :
    (h.gdMeasured s p v).get (F.strGdMeas_gd s p) = v ∧ (h.gdMeasured s p v).flag (F.strGdMeas_valid s p) = true := by
  refine ⟨?_, Hive.flag_setFlag_same _ _ _ (by simp [F.strGdMeas_valid]) rfl⟩
  unfold Hive.gdMeasured
  rw [Hive.get_setFlag_ne _ _ (by simp [F.strGdMeas_valid]) (by simp [F.strGdMeas_valid, F.strGdMeas_gd]),
    Hive.get_set_same _ _ _ (by simp [F.strGdMeas_gd])]
  exact Nat.mod_eq_of_lt hv

section
variable {h h' : Hive} (same : ∀ g : RF, g.a % 0x40 ≠ 0x28 → h'.get g = h.get g)
include same

/-- What a half multiplies the sample period by is read outside the measured delays. -/
theorem Hive.halfRatio_congr (s p : Nat) : h'.halfRatio s p = h.halfRatio s p := by
  have active : h'.flag (F.strRsCtl_active s p) = h.flag (F.strRsCtl_active s p) :=
    Hive.flag_of_get (same _ (by simp only [F.strRsCtl_active, R.strRsCtl]; omega))
  unfold Hive.halfRatio Hive.rsStep
  rw [active, same (F.strRsCtl_j s p) (by simp only [F.strRsCtl_j, R.strRsCtl]; omega),
    same (F.strRsStepLo_step s p) (by simp only [F.strRsStepLo_step, R.strRsStepLo]; omega),
    same (F.strRsStepHi_step s p) (by simp only [F.strRsStepHi_step, R.strRsStepHi]; omega)]

/-- A half's sample period is read outside the measured delays. -/
theorem Hive.tIn_congr (s p n : Nat) : h'.tIn s p n = h.tIn s p n := by
  have casc : h'.isCasc s p = h.isCasc s p := by
    have one : ∀ f : RF, f.a = R.strCfg s → h'.flag f = h.flag f := fun f e =>
      Hive.flag_of_get (same f (by rw [e]; unfold R.strCfg; omega))
    unfold Hive.isCasc
    rw [one (F.strCfg_casc0 s) rfl, one (F.strCfg_casc1 s) rfl]
  have table : ∀ f : RF, f.a = R.steSlice n → h'.get f = h.get f := fun f e => same f (by rw [e]; unfold R.steSlice; omega)
  unfold Hive.tIn
  rw [casc, table (F.steSlice_src_rate n) rfl, table (F.steSlice_slice0 n) rfl, table (F.steSlice_phase0 n) rfl,
    Hive.halfRatio_congr same]

end

theorem Hive.gdCheck_fault (h : Hive) (n s p v : Nat) : FaultOnly h (h.gdCheck n s p v) :=
  Only.ite (Hive.raise_fault ..) (Only.refl ..)

/-- A measurement that differs by more than one output sample raises STRAIN cause 0x04 at L1 (R104). -/
theorem Hive.gdCheck_on (h : Hive) {n s p v : Nat} (far : 16 * (h.tIn s p n).1 * h.halfRatio s p <
    ((v : Int) - h.get (F.strGd_gd s p)).natAbs * (h.tIn s p n).2 * 2 ^ 32) :
    ((h.gdMeasured s p v).gdCheck n s p v).faultOn 0x03 0x04 (0x800 + s) 1 = true := by
  have same : ∀ g : RF, g.a % 0x40 ≠ 0x28 → (h.gdMeasured s p v).get g = h.get g := fun g hg =>
    Hive.get_congr (Hive.gdMeasured_rd h v (fun e => hg (by rw [e]; unfold R.strGdMeas; omega)))
  have gd : (h.gdMeasured s p v).get (F.strGd_gd s p) = h.get (F.strGd_gd s p) :=
    same _ (by simp only [F.strGd_gd, R.strGd]; omega)
  unfold Hive.gdCheck
  rw [Hive.tIn_congr same, Hive.halfRatio_congr same, gd, if_pos far]
  exact (Hive.raise_spec _ _ _ _ _ _ (by decide)).1

end Sys2Proof.Machine
end

-- ==== Sys2Proof/Proofs/BankSwaps ====
section
/-! BANK_SWAP and its instant (R101, R102), group delay measurements (R104), and a sieve bank that is full (R114). -/

namespace Sys2Proof.Machine

/-! ## BANK_SWAP -/

/-- The form of BANK_SWAP (R385). -/
def swapForm : CmdForm := ⟨0x07, 0x7FF, 0, 0, .required, .timed⟩

/-- The own check of BANK_SWAP: a half in use whose inactive bank is valid, and place for the operation (R101, R249). -/
def Hive.swapChk (h : Hive) (s p : Nat) : Nat :=
  if (h.halfStream s p).isNone || !h.swapOk s p then stWrong
  else if h.flag (F.strFirCtl_swap_pend s p) && h.schedStatus == stNoRes then stOk else h.schedStatus

/-- A swap asked for: an earlier one is superseded, and the new one is shown with its T (R101, R102). -/
def Hive.swapAsk (h : Hive) (s p t : Nat) : Hive :=
  ((h.swapDrop s p 2).setFlag (F.strFirCtl_swap_pend s p) true).setPair (R.strSwapTLo s p) (R.strSwapTHi s p) t

theorem Hive.schedule_rd (h : Hive) (t : Nat) (k : SchedKind) (a : Nat) : (h.schedule t k).rd a = h.rd a := rfl

/-- The swap is shown and scheduled. -/
def swapAct (c : CmdEntry) (s p : Nat) (h : Hive) (_ : CmdTok) : Hive × Option Nat :=
  ((h.swapAsk s p c.t.toNat).schedule c.t.toNat (.bankSwap (2 * s + p)), some 0)

theorem swapAct_sched (c : CmdEntry) (s p : Nat) (h : Hive) (k : CmdTok) : (swapAct c s p h k).1.sched =
    (h.swapAsk s p c.t.toNat).sched ++ [⟨c.t.toNat, .bankSwap (2 * s + p)⟩] := rfl

theorem swapAct_rd (c : CmdEntry) (s p : Nat) (h : Hive) (k : CmdTok) (a : Nat) :
    (swapAct c s p h k).1.rd a = (h.swapAsk s p c.t.toNat).rd a := Hive.schedule_rd ..

/-- The operations that stand beside a new swap of a half: all of them, but for the swap that it supersedes (R102). -/
def Hive.besideSwap (h : Hive) (s p : Nat) : List SchedOp :=
  if h.flag (F.strFirCtl_swap_pend s p) then h.sched.filter (fun o => o.kind != .bankSwap (2 * s + p)) else h.sched

/-- Registers of bookkeeping, STR.FIR_CTL and STR.SWAP_T of a half. -/
def swapTReg (s p a : Nat) : Bool := logReg a || a == R.strFirCtl s p || a == R.strSwapTLo s p || a == R.strSwapTHi s p

theorem exec_bankSwap_eq (c : CmdEntry) (s : State) : exec (.bankSwap c) s = s.upd (fun h =>
    (h.countRefused (h.cmdStatus c swapForm (h.leadOk c.t.toNat false) (h.swapChk (argBits c.a0 0 10) (argBits c.a0 10 1)))).command c
      swapForm (h.leadOk c.t.toNat false) (h.swapChk (argBits c.a0 0 10) (argBits c.a0 10 1))
      (swapAct c (argBits c.a0 0 10) (argBits c.a0 10 1))) := rfl

/-- An entry that names a half by its slice in bits 9:0 and its half in bit 10 (R385). -/
theorem goodEntry_half {c : CmdEntry} {op s p : Nat} {timed : Bool} (hs : s < 1024) (hp : p < 2)
    (g : goodEntry c op timed (s + 1024 * p) 0 0 = true) : argBits c.a0 0 10 = s ∧ argBits c.a0 10 1 = p := by
  simp only [goodEntry, Bool.and_eq_true, beq_iff_eq] at g
  obtain ⟨⟨⟨_, a0⟩, _⟩, _⟩ := g
  unfold argBits bitsOf
  rw [a0]
  omega

/-- A pending swap is superseded: it leaves the table, and its outcome is shown. -/
theorem Hive.swapDrop_spec (h : Hive) (s p result : Nat) :
    (h.swapDrop s p result).sched = h.besideSwap s p ∧ Kept (firReg s p) h (h.swapDrop s p result) := by
  unfold Hive.swapDrop Hive.besideSwap
  split
  · have done := Hive.swapDone_fir (h.unsched (.bankSwap (2 * s + p))) s p result
    exact ⟨done.keeps Hive.sched (fun _ => rfl), done.regs⟩
  · exact ⟨rfl, fun _ _ => rfl⟩

/-- The two words of STR.SWAP_T hold the whole of T. -/
theorem Hive.getPair_setPair (h : Hive) {lo hi v : Nat} (ne : lo ≠ hi) (hv : v < 2 ^ 64) : (h.setPair lo hi v).getPair lo hi = v := by
  unfold Hive.getPair Hive.setPair
  rw [Hive.rd_wr_same, Hive.rd_wr_ne _ _ ne, Hive.rd_wr_same, BitVec.toNat_ofNat, BitVec.toNat_ofNat]
  omega

/-- What a swap that is asked for does to the block. -/
theorem Hive.swapAsk_spec (h : Hive) (s p : Nat) {t : Nat} (ht : t < 2 ^ 64) :
    (h.swapAsk s p t).flag (F.strFirCtl_swap_pend s p) = true ∧ (h.swapAsk s p t).sched = h.besideSwap s p ∧
      (h.swapAsk s p t).getPair (R.strSwapTLo s p) (R.strSwapTHi s p) = t ∧ Kept (swapTReg s p) h (h.swapAsk s p t) := by
  obtain ⟨sched, kept⟩ := Hive.swapDrop_spec h s p 2
  have pair : ∀ (x : Hive) {a : Nat}, a ≠ R.strSwapTLo s p → a ≠ R.strSwapTHi s p →
      (x.setPair (R.strSwapTLo s p) (R.strSwapTHi s p) t).rd a = x.rd a := fun x _ lo hi =>
    (Hive.rd_wr_ne _ _ hi).trans (Hive.rd_wr_ne x _ lo)
  have ne : R.strSwapTLo s p ≠ R.strSwapTHi s p ∧ R.strFirCtl s p ≠ R.strSwapTLo s p ∧ R.strFirCtl s p ≠ R.strSwapTHi s p := by
    unfold R.strFirCtl R.strSwapTLo R.strSwapTHi
    omega
  obtain ⟨loHi, firLo, firHi⟩ := ne
  refine ⟨?pend, ?sched, Hive.getPair_setPair _ loHi ht, fun a ha => ?_⟩
  case sched =>
    unfold Hive.swapAsk Hive.setPair
    rw [Hive.wr_sched, Hive.wr_sched, Hive.setFlag_sched, sched]
  case pend =>
    exact (Hive.flag_congr (f := F.strFirCtl_swap_pend s p) (pair _ firLo firHi)).trans
      (Hive.flag_setFlag_same _ _ true (by simp [F.strFirCtl_swap_pend]) rfl)
  · simp only [swapTReg, Bool.or_eq_false_iff, beq_eq_false_iff_ne] at ha
    obtain ⟨⟨⟨log, fir⟩, lo⟩, hi⟩ := ha
    refine (pair _ lo hi).trans ((Hive.rd_setFlag_ne (f := F.strFirCtl_swap_pend s p) _ true fir).trans (kept a ?_))
    exact Bool.or_eq_false_iff.mpr ⟨log, beq_eq_false_iff_ne.mpr fir⟩

section
variable (s : State) {c : CmdEntry} (sl : SliceId) (p : Fin 2) (g : goodEntry c 0x07 true (sl.val + 1024 * p.val) 0 0 = true)
  (adm : admits s.hive.mode .timed = true) (lead : s.hive.leadOk c.t.toNat false = true)
include g adm lead

/-- A good BANK_SWAP that is in time is settled by its own check. -/
theorem exec_bankSwap {P : Hive → Prop} (full : s.hive.swapChk sl.val p.val ≠ stNoRes)
    (q : (s.hive.take c).cmdStatus c swapForm true (s.hive.swapChk sl.val p.val) = s.hive.swapChk sl.val p.val →
      P (s.hive.command c swapForm true (s.hive.swapChk sl.val p.val) (swapAct c sl.val p.val))) : Completes (.bankSwap c) s P := by
  refine Completes.upd _ (exec_bankSwap_eq c s) ?_
  obtain ⟨slice, half⟩ := goodEntry_half sl.isLt p.isLt g
  rw [slice, half, lead]
  have status : ∀ h : Hive, h.mode = s.hive.mode →
      h.cmdStatus c swapForm true (s.hive.swapChk sl.val p.val) = s.hive.swapChk sl.val p.val := fun h e =>
    Hive.cmdStatus_timedStream h (by omega) g (by rw [e]; exact adm)
  rw [status s.hive rfl, Hive.countRefused_of_ne full]
  exact q (status _ (Hive.take_mode ..))

/-- A BANK_SWAP that is accepted is pending, and stands in the table in place of an earlier one (R101, R102). -/
theorem exec_bankSwap_scheduled (ok : s.hive.swapChk sl.val p.val = stOk) : Completes (.bankSwap c) s (fun h' =>
    h'.flag (F.strFirCtl_swap_pend sl.val p.val) = true ∧
      h'.sched = s.hive.besideSwap sl.val p.val ++ [⟨c.t.toNat, .bankSwap (2 * sl.val + p.val)⟩] ∧
      h'.getPair (R.strSwapTLo sl.val p.val) (R.strSwapTHi sl.val p.val) = c.t.toNat ∧
      Kept (swapTReg sl.val p.val) s.hive h') := by
  refine exec_bankSwap s sl p g adm lead (by rw [ok]; decide) (fun status => ?_)
  obtain ⟨h₁, k, before, _, done⟩ := Hive.command_ok s.hive c swapForm true _ (swapAct c sl.val p.val) (status.trans ok)
  obtain ⟨pend, sched, time, kept⟩ := Hive.swapAsk_spec h₁ sl.val p.val c.t.isLt
  have fir : logReg (R.strFirCtl sl.val p.val) = false := logReg_of_not_fault (faultReg_strFirCtl sl.isLt p.isLt)
  have lo : logReg (R.strSwapTLo sl.val p.val) = false := logReg_of_not_fault (faultReg_half (o := 0x1C) sl.isLt p.isLt (by decide))
  have hi : logReg (R.strSwapTHi sl.val p.val) = false := logReg_of_not_fault (faultReg_half (o := 0x20) sl.isLt p.isLt (by decide))
  have beside : h₁.besideSwap sl.val p.val = s.hive.besideSwap sl.val p.val := by
    unfold Hive.besideSwap
    rw [before.flag (F.strFirCtl_swap_pend sl.val p.val) fir, before.keeps Hive.sched (fun _ => rfl)]
  have after : ∀ a, logReg a = false →
      (s.hive.command c swapForm true (s.hive.swapChk sl.val p.val) (swapAct c sl.val p.val)).rd a =
        (h₁.swapAsk sl.val p.val c.t.toNat).rd a := fun a ha => (done.regs a ha).trans (swapAct_rd ..)
  refine ⟨(Hive.flag_congr (f := F.strFirCtl_swap_pend sl.val p.val) (after _ fir)).trans pend, ?sched, ?time, fun a ha => ?_⟩
  case sched => rw [done.keeps Hive.sched (fun _ => rfl), swapAct_sched, sched, beside]
  case time =>
    unfold Hive.getPair at time ⊢
    rw [after _ lo, after _ hi, time]
  · have out := ha
    simp only [swapTReg, Bool.or_eq_false_iff] at out
    obtain ⟨⟨⟨log, _⟩, _⟩, _⟩ := out
    exact (after a log).trans ((kept a ha).trans (before.regs a log))

/-- On a half that is not in use, or without a valid target, only bookkeeping happens (R101). -/
theorem exec_bankSwap_refused (no : s.hive.halfStream sl.val p.val = none ∨ s.hive.swapOk sl.val p.val = false) :
    Completes (.bankSwap c) s (LogOnly s.hive) := by
  have wrong : s.hive.swapChk sl.val p.val = stWrong := if_pos (by rcases no with unused | bad <;> simp [*])
  refine exec_bankSwap s sl p g adm lead (by rw [wrong]; decide) (fun status => ?_)
  exact Hive.command_refused s.hive c swapForm true _ _ (by rw [status, wrong]; decide)

end

/-- An operation can be scheduled while no load of the GTC is pending and the table has room (R236, R249). -/
theorem Hive.schedStatus_ok (h : Hive) (load : h.flag F.timStat_load_pend = false) (room : h.sched.length < 256) :
    h.schedStatus = stOk := by
  unfold Hive.schedStatus Hive.schedFull
  rw [load, decide_eq_false (Nat.not_le.mpr room)]
  rfl

theorem Hive.swapChk_ok (h : Hive) {s p : Nat} (used : h.halfStream s p ≠ none) (ok : h.swapOk s p = true)
    (load : h.flag F.timStat_load_pend = false) (room : h.sched.length < 256) : h.swapChk s p = stOk := by
  unfold Hive.swapChk
  rw [ok, Hive.schedStatus_ok h load room, Option.isNone_eq_false_iff.mpr (Option.isSome_iff_ne_none.mpr used)]
  exact ite_self _

/-! ## BANK_SWAP_AT_T -/

/-- A command whose meaning leaves the block as it is changes nothing. -/
theorem exec_same {i : Instr} {s : State} (f : Hive → Hive) (e : exec i s = s.upd f) (same : f s.hive = s.hive) :
    exec i s = .next s := by
  rw [e, State.upd_eq, same]

section
variable (s : State) (sl : SliceId) (p : Fin 2)

/-- A swap that is due, with no patch of the stream going first, is made (R101, R102). -/
theorem exec_bankSwapAtT {P : Hive → Prop} (due : s.hive.due (.bankSwap (2 * sl.val + p.val)) = true)
    (first : ∀ n, s.hive.halfStream sl.val p.val = some n → s.hive.patchFirst n = false) (q : P (s.hive.swapAt sl.val p.val)) :
    Completes (.bankSwapAtT sl p) s P := by
  refine Completes.upd _ rfl ?_
  cases used : s.hive.halfStream sl.val p.val with
  | none => simpa [due] using q
  | some n => simpa [due, first n used] using q

theorem exec_bankSwapAtT_idle (idle : s.hive.due (.bankSwap (2 * sl.val + p.val)) = false) : exec (.bankSwapAtT sl p) s = .next s := by
  refine exec_same _ rfl ?_
  rw [idle]
  rfl

/-! ## GD_MEASUREMENT_COMPLETE -/

/-- What a completed measurement does to the block: nothing where no minimum-phase set is in use (R104). -/
def Hive.gdTake (h : Hive) (s p v : Nat) : Hive :=
  match h.halfStream s p with
  | none => h
  | some n =>
    if h.flag (F.strFirCtl_minph s p) then ((h.gdMeasured s p v).gdCheck n s p v).latChanged n else h

theorem exec_gdMeasurement_eq (gd : Fin 16777216) :
    exec (.gdMeasurementComplete sl p gd) s = s.upd (fun h => h.gdTake sl.val p.val gd.val) := rfl

/-- A measurement on a minimum-phase set is shown and compared with the disclosed delay (R104). -/
theorem exec_gdMeasured {P : Hive → Prop} {n : Nat} (gd : Fin 16777216) (used : s.hive.halfStream sl.val p.val = some n)
    (minph : s.hive.flag (F.strFirCtl_minph sl.val p.val) = true)
    (q : P (((s.hive.gdMeasured sl.val p.val gd.val).gdCheck n sl.val p.val gd.val).latChanged n)) :
    Completes (.gdMeasurementComplete sl p gd) s P := by
  refine Completes.upd _ (exec_gdMeasurement_eq s sl p gd) ?_
  unfold Hive.gdTake
  rw [used]
  dsimp only
  rw [if_pos minph]
  exact q

theorem exec_gdMeasured_idle (gd : Fin 16777216)
    (idle : s.hive.halfStream sl.val p.val = none ∨ s.hive.flag (F.strFirCtl_minph sl.val p.val) = false) :
    exec (.gdMeasurementComplete sl p gd) s = .next s := by
  refine exec_same _ (exec_gdMeasurement_eq s sl p gd) ?_
  unfold Hive.gdTake
  split
  · rfl
  · next used =>
    have linear := idle.resolve_left (by rw [used]; exact Option.some_ne_none _)
    exact if_neg (Bool.eq_false_iff.mp linear)

end

/-- What a measurement shows, what it keeps, and its fault (R104). -/
theorem Hive.gdMeasured_spec (h : Hive) {n s p v : Nat} (hs : s < 1024) (hp : p < 2) (hv : v < 2 ^ 24) {h' : Hive}
    (e : h' = ((h.gdMeasured s p v).gdCheck n s p v).latChanged n) :
    h'.get (F.strGdMeas_gd s p) = v ∧ h'.flag (F.strGdMeas_valid s p) = true ∧
      Kept (sideOr (fun a => a == R.strGdMeas s p)) h h' ∧
      (16 * (h.tIn s p n).1 * h.halfRatio s p < ((v : Int) - h.get (F.strGd_gd s p)).natAbs * (h.tIn s p n).2 * 2 ^ 32 →
        h'.faultOn 0x03 0x04 (0x800 + s) 1 = true) := by
  subst e
  have out : faultReg (R.strGdMeas s p) = false := faultReg_half (o := 0x28) hs hp (by decide)
  have after : FaultOnly (h.gdMeasured s p v) (((h.gdMeasured s p v).gdCheck n s p v).latChanged n) :=
    (Hive.gdCheck_fault ..).trans (Hive.latChanged_status ..).fault
  obtain ⟨gd, valid⟩ := Hive.gdMeasured_shown h s p hv
  refine ⟨(after.get (F.strGdMeas_gd s p) out).trans gd, (after.flag (F.strGdMeas_valid s p) out).trans valid, fun a ha => ?_,
    fun far => (Hive.latChanged_stay ..).on _ _ _ _ (Hive.gdCheck_on h far)⟩
  obtain ⟨side, meas⟩ := Bool.or_eq_false_iff.mp ha
  exact (after.regs a side).trans (Hive.gdMeasured_rd h v (beq_eq_false_iff_ne.mp meas))

/-! ## SIEVE_FILL_END -/

/-- A bank whose samples of zeros have passed runs (R114). -/
theorem exec_sieveFillEnd (s : State) (b : BankId) (fills : s.hive.sieveFills b.val = true) (passed : (s.hive.sieveGet b.val).fill = 0) :
    Completes (.sieveFillEnd b) s (fun h' => h'.get (F.sivStat_state b.val) = 2 ∧
      Kept (fun a => routeReg a || a == R.sivStat b.val) s.hive h') := by
  have route : ∀ q, RouteOnly (s.hive.set (F.sivStat_state b.val) 2) ((s.hive.set (F.sivStat_state b.val) 2).srcEvalAll q) := fun q =>
    Hive.srcEvalAll_route ..
  refine Completes.upd _ rfl ?_
  rw [if_pos (by simp [fills, passed])]
  refine ⟨((route _).get (F.sivStat_state b.val) (routeReg_sivStat (by omega))).trans
    (Hive.get_set_same _ _ _ (by simp [F.sivStat_state])), fun a ha => ?_⟩
  obtain ⟨side, stat⟩ := Bool.or_eq_false_iff.mp ha
  exact ((route _).regs a side).trans (Hive.rd_set_ne (f := F.sivStat_state b.val) _ _ (beq_eq_false_iff_ne.mp stat))

theorem exec_sieveFillEnd_idle (s : State) (b : BankId) (idle : s.hive.sieveFills b.val = false ∨ (s.hive.sieveGet b.val).fill ≠ 0) :
    exec (.sieveFillEnd b) s = .next s :=
  exec_same _ rfl (if_neg (by rcases idle with runs | left <;> simp [*]))

/-! ## The statement -/

/-- What a swap that is due leaves in the block (R101 to R103). -/
theorem Hive.swapAt_spec (h : Hive) {s p : Nat} (hs : s < 1024) (hp : p < 2) :
    (h.swapAt s p).sched = h.sched.filter (fun o => o.kind != .bankSwap (2 * s + p)) ∧
      (h.swapAt s p).flag (F.strFirCtl_swap_pend s p) = false ∧
      (h.swapAt s p).flag (F.strFirCtl_bank s p) =
        (if h.swapOk s p then !h.flag (F.strFirCtl_bank s p) else h.flag (F.strFirCtl_bank s p)) ∧
      (h.swapAt s p).get (F.strFirCtl_swap_last s p) = (if h.swapOk s p then 0 else 1) ∧
      (h.swapOk s p = true → h.halfStream s p ≠ none → (h.swapAt s p).get (F.strFirCtl_taps s p) =
        ((h.swapAt s p).activeSet s p).n % 2 ^ (F.strFirCtl_taps s p).w) ∧
      (h.swapOk s p = false → (h.swapAt s p).faultOn 0x03 0x03 (0x800 + s) 1 = true) ∧
      Kept (sideOr (setReg s p)) h (h.swapAt s p) := by
  have swap := Hive.swapNow_swap (h.unsched (.bankSwap (2 * s + p))) s p
  obtain ⟨pend, bank, last⟩ := Hive.swapNow_outcome (h.unsched (.bankSwap (2 * s + p))) hs hp
  exact ⟨swap.keeps Hive.sched (fun _ => rfl), pend, bank, last, Hive.swapNow_taps (h.unsched _) hs hp, Hive.swapNow_on (h.unsched _),
    swap.regs⟩

/-- Settles O26: the outcome shown in STR.FIR_CTL survives the fault handling that follows it. -/
theorem bankSwaps : Obligations.BankSwaps := by
  unfold Obligations.BankSwaps
  rintro s sl p _ _ rfl rfl
  refine ⟨fun c g adm lead => ⟨?scheduled, exec_bankSwap_refused s sl p g adm lead⟩, ?due, exec_bankSwapAtT_idle s sl p, ?measured,
    fun b => ⟨exec_sieveFillEnd s b, exec_sieveFillEnd_idle s b⟩⟩
  case scheduled =>
    exact fun used ok load room => exec_bankSwap_scheduled s sl p g adm lead (Hive.swapChk_ok s.hive used ok load room)
  case due => exact fun due first => exec_bankSwapAtT s sl p due first (Hive.swapAt_spec s.hive sl.isLt p.isLt)
  case measured =>
    refine fun gd => ⟨fun n used minph => ?_, exec_gdMeasured_idle s sl p gd⟩
    exact exec_gdMeasured s sl p gd used minph (Hive.gdMeasured_spec s.hive sl.isLt p.isLt gd.isLt rfl)

end Sys2Proof.Machine
end
